-- ==== Sys2Proof/Word.lean ====
section
/-! DEFINITION. The word types of the machine (R2, R3): what the manual treats as bits. -/

namespace Sys2Proof

/-- A byte of a memory or a ring (R3). -/
abbrev Byte := BitVec 8
/-- A scalar register, a control register or a word of a structure: 8 bytes (R3). -/
abbrev Word := BitVec 64
/-- An accumulator row of 512 bytes, byte 0 in bits 7..0 (R172). -/
abbrev Row := BitVec 4096
/-- A line of a tile register, 128 bytes (R168). -/
abbrev Line := BitVec 1024
/-- 64 bytes: a granule, a chunk of a row, or a queue entry (R3). -/
abbrev Chunk := BitVec 512
/-- An entry of the mask stack: bit e masks element e (R72). -/
abbrev Mask := BitVec 512

end Sys2Proof
end

