-- ==== Sys2Proof/Syntax.lean ====
section
/-! DEFINITION. The syntax of the machine's operations: `Instr` has one constructor per row of
spec/opcode_table.json, the 155 slot instructions of R328 to R332 first, with the operand fields
of the row (R321, R333) as bit vectors of the row's widths, then the 102 device events, with what
the outside world supplies with them. Scheduling bits S, VER and SC (R314) belong to the slot, not to the
instruction: see `Slot`. -/

namespace Sys2Proof

/-- Where an uncorrectable error is found (R140, R290): a granule of HBM, a ring parcel, a scalar register of the
strand on a core, a tile line, or a slot of a core's instruction store; or, with no site, an error that the ECC corrects (R290). -/
inductive ErrorSite where
  | granule (g : Nat)
  | parcel (tower parcel : Nat)
  | sreg (core : Nat) (d : BitVec 6)
  | tileLine (tower tile line : Nat)
  | slot (core slot : Nat)
  | corrected
  deriving DecidableEq, Repr

/-- A timed transfer as it reaches a port of this device (R252, R258, R265): the header fields, the bytes, their POIS
bits (one for 32 bytes) and the indices of the flits that were lost on the way. -/
structure Arrival where
  port : Nat
  src : Nat
  dst : Nat
  mc : Bool
  relayed : Bool
  inc : BitVec 16
  ctx : Nat
  rid : Nat
  sendTurn : Nat
  units : Nat
  data : List Byte
  pois : List Bool
  lost : List Nat
  deriving DecidableEq, Repr

/-- A member's message for the k-th COLL of a context on a group (R232): the collective word, format and
element count it uses, and its values of one bucket, or an abort. A bucket number at or beyond the command's buckets carries no values:
it announces the command. -/
structure CollRequest where
  dev : Nat
  ctx : Nat
  group : Nat
  seq : Nat
  word : BitVec 64
  fmt : Nat
  count : Nat
  bucket : Nat
  data : List Byte
  pois : List Bool
  abort : Bool
  deriving DecidableEq, Repr

/-- What an untimed request is beside a plain read, write or atomic: the update of one element of a peer page by its near-memory unit
(R134, R422), with its format code, its operation (0 add, 1 max, 2 min, 3 NMSAC) and NMSAC's factor; a collective message (R234); or a
barrier request (R355). -/
inductive ReqBody where
  | plain
  | element (fmt rop alpha : Nat)
  | collective (r : CollRequest)
  | barrier (group count : Nat)
  deriving DecidableEq, Repr

/-- An untimed request (R270 to R274): its stream (source, context, order class), sequence number and incarnation, the window, byte
offset and size it addresses, the data with the bits of them that a write changes and their POIS bits (one for 32 bytes), the operands of
an atomic, and what else it is. -/
structure UntimedRequest where
  src : Nat
  ctx : Nat
  cls : Nat
  sseq : Nat
  inc : BitVec 16
  win : Nat
  off : Nat
  size : Nat
  data : List Byte
  mask : Nat
  pois : List Bool
  op : Nat
  x : BitVec 64
  cmp : BitVec 64
  body : ReqBody
  deriving DecidableEq, Repr

/-- The head of a barrier request (R270, R274, R277, R355): its source, order class, sequence number and incarnation. -/
structure MessageHead where
  src : Nat
  cls : Nat
  sseq : Nat
  inc : BitVec 16
  deriving DecidableEq, Repr

/-- The response to an outstanding request of this device (R272 to R277); `status` 0 is success, and any other value the
UALink completion status of an error. The POIS bits stand for 32 bytes each. -/
structure UntimedReply where
  req : Nat
  inc : BitVec 16
  status : BitVec 8
  poisonedTarget : Bool
  data : List Byte
  pois : List Bool
  deriving DecidableEq, Repr

/-- What a link-control flit acknowledges (R259): the number of the first flit of the link that has not been received; with the incarnation of its
sender (R277). -/
structure LinkAck where
  num : Nat
  inc : BitVec 16
  deriving DecidableEq, Repr

/-- Untimed flits of the stream from `src` to `dst` that go through the intermediate device `via` (R275), in plaintext (R257), with the incarnation
of their sender: the source or, where credit comes back to it, the relay (R277). `credit` is set where the flits
leave the relay's buffer: on the relay they are forwarded, and on the source their credit is back. -/
structure RelayedFlits where
  src : Nat
  dst : Nat
  via : Nat
  inc : BitVec 16
  flits : List (BitVec 1920)
  credit : Bool
  deriving DecidableEq, Repr

/-- A frame at the host port (R17, R299): the secure-association key under which it passes MACsec validation and its VLAN id, 0 where it
is not tagged. -/
structure Frame where
  sak : BitVec 64
  vlan : BitVec 12
  deriving DecidableEq, Repr

/-- What a management request comes with (R299, R303): its frame, its session, whether ML-KEM-1024 has established that session just before
it, and the hash of the Falcon-1024 key under which its signature verifies. -/
structure Mgmt where
  frame : Frame
  session : Nat
  opens : Bool
  signer : BitVec 64
  deriving DecidableEq, Repr

/-- A RoCEv2 request on a queue pair (R300), with its frame and packet sequence number. -/
structure RdmaRequest where
  frame : Frame
  qp : Nat
  psn : Nat
  rkey : BitVec 32
  va : BitVec 64
  len : Nat
  data : List Byte
  x : BitVec 64
  cmp : BitVec 64
  deriving DecidableEq, Repr

/-- What the host hands the keep to create a context (R94, R121, R122, R271, R294, R302, R303): the number, the
64-byte context record, the structure address and number of the export windows, the keys, the AUDITN value and the
initial contents of the tensor table and the block tables, as pieces at physical byte addresses. -/
structure ContextSpec where
  ctx : Nat
  record : BitVec 512
  tables : List (Nat × List Byte)
  exportTable : BitVec 64
  windows : Nat
  keys : BitVec 16
  auditn : BitVec 6
  imageKeys : List (BitVec 64)
  deriving DecidableEq, Repr

/-- One operation of the machine: a row of spec/opcode_table.json. -/
inductive Instr where
  /-- ADD (R349). Sets Sd to Sa plus Sb modulo 2^64. -/
  | add (d : BitVec 6) (a : BitVec 6) (b : BitVec 6)
  /-- SUB (R457). Sets Sd to Sa minus Sb modulo 2^64. -/
  | sub (d : BitVec 6) (a : BitVec 6) (b : BitVec 6)
  /-- MUL (R415). Sets Sd to the low 64 bits of the product of Sa and Sb. -/
  | mul (d : BitVec 6) (a : BitVec 6) (b : BitVec 6)
  /-- MULH (R415). Sets Sd to the high 64 bits of the signed 128-bit product. -/
  | mulh (d : BitVec 6) (a : BitVec 6) (b : BitVec 6)
  /-- MULHU (R415). Sets Sd to the high 64 bits of the unsigned 128-bit product. -/
  | mulhu (d : BitVec 6) (a : BitVec 6) (b : BitVec 6)
  /-- DIV (R373). Signed division truncating towards zero, with defined results for zero divisors and overflow. -/
  | div (d : BitVec 6) (a : BitVec 6) (b : BitVec 6)
  /-- DIVU (R373). Unsigned division; a zero divisor gives all ones. -/
  | divu (d : BitVec 6) (a : BitVec 6) (b : BitVec 6)
  /-- REM (R441). Signed remainder with the sign of the dividend; a zero divisor gives the dividend. -/
  | rem (d : BitVec 6) (a : BitVec 6) (b : BitVec 6)
  /-- REMU (R441). Unsigned remainder; a zero divisor gives the dividend. -/
  | remu (d : BitVec 6) (a : BitVec 6) (b : BitVec 6)
  /-- AND (R349). Sets Sd to the bitwise and of Sa and Sb. -/
  | and (d : BitVec 6) (a : BitVec 6) (b : BitVec 6)
  /-- OR (R425). Sets Sd to the bitwise or of Sa and Sb. -/
  | or (d : BitVec 6) (a : BitVec 6) (b : BitVec 6)
  /-- XOR (R482). Sets Sd to the bitwise exclusive or of Sa and Sb. -/
  | xor (d : BitVec 6) (a : BitVec 6) (b : BitVec 6)
  /-- SHL (R446). Shifts Sa left by the low six bits of Sb. -/
  | shl (d : BitVec 6) (a : BitVec 6) (b : BitVec 6)
  /-- SHR (R446). Shifts Sa right logically by the low six bits of Sb. -/
  | shr (d : BitVec 6) (a : BitVec 6) (b : BitVec 6)
  /-- SAR (R446). Shifts Sa right arithmetically by the low six bits of Sb. -/
  | sar (d : BitVec 6) (a : BitVec 6) (b : BitVec 6)
  /-- MIN (R405). Sets Sd to the signed lesser of Sa and Sb. -/
  | min (d : BitVec 6) (a : BitVec 6) (b : BitVec 6)
  /-- MAX (R405). Sets Sd to the signed greater of Sa and Sb. -/
  | max (d : BitVec 6) (a : BitVec 6) (b : BitVec 6)
  /-- MINU (R405). Sets Sd to the unsigned lesser of Sa and Sb. -/
  | minu (d : BitVec 6) (a : BitVec 6) (b : BitVec 6)
  /-- MAXU (R405). Sets Sd to the unsigned greater of Sa and Sb. -/
  | maxu (d : BitVec 6) (a : BitVec 6) (b : BitVec 6)
  /-- CLZ (R361). Sets Sd to the count of leading zero bits of Sa. -/
  | clz (d : BitVec 6) (a : BitVec 6)
  /-- POPC (R428). Sets Sd to the count of one bits of Sa. -/
  | popc (d : BitVec 6) (a : BitVec 6)
  /-- ADDI (R351). Adds a sign-extended immediate to Sa. -/
  | addi (d : BitVec 6) (a : BitVec 6) (i : BitVec 6)
  /-- ANDI (R351). Ands Sa with a sign-extended immediate. -/
  | andi (d : BitVec 6) (a : BitVec 6) (i : BitVec 6)
  /-- ORI (R425). Ors Sa with a sign-extended immediate. -/
  | ori (d : BitVec 6) (a : BitVec 6) (i : BitVec 6)
  /-- XORI (R482). Exclusive-ors Sa with a sign-extended immediate. -/
  | xori (d : BitVec 6) (a : BitVec 6) (i : BitVec 6)
  /-- SHLI (R446). Shifts Sa left by an immediate count. -/
  | shli (d : BitVec 6) (a : BitVec 6) (k : BitVec 6)
  /-- SHRI (R446). Shifts Sa right logically by an immediate count. -/
  | shri (d : BitVec 6) (a : BitVec 6) (k : BitVec 6)
  /-- SARI (R446). Shifts Sa right arithmetically by an immediate count. -/
  | sari (d : BitVec 6) (a : BitVec 6) (k : BitVec 6)
  /-- MOVI (R413). Sets Sd to a sign-extended immediate. -/
  | movi (d : BitVec 6) (i : BitVec 12)
  /-- MOVHI (R413). Replaces the high 32 bits of Sd with the immediate, keeping the low half. -/
  | movhi (d : BitVec 6) (i : BitVec 12)
  /-- CMP (R363). Sets predicate Pd to the comparison of Sa and Sb under cond. -/
  | cmp (c : BitVec 3) (p : BitVec 3) (a : BitVec 6) (b : BitVec 6)
  /-- CMPI (R363). Sets predicate Pd to the comparison of Sa and a sign-extended immediate. -/
  | cmpi (c : BitVec 3) (p : BitVec 3) (a : BitVec 6) (i : BitVec 6)
  /-- SEL (R449). Sets Sd to Sa if predicate Pn is true, else Sb. -/
  | sel (n : BitVec 3) (d : BitVec 6) (a : BitVec 6) (b : BitVec 6)
  /-- BR (R358). Branches to a slot offset when the guard is true; paced code only. -/
  | br (n : BitVec 1) (p : BitVec 3) (o : BitVec 14)
  /-- JAL (R391). Writes the link and jumps to a slot offset; paced code only. -/
  | jal (d : BitVec 6) (i : BitVec 12)
  /-- JIND (R391). Writes the link and jumps to the stream offset in Sa when its guard holds; paced code only. -/
  | jind (n : BitVec 1) (p : BitVec 3) (d : BitVec 6) (a : BitVec 6)
  /-- LOOP (R403). Opens a hardware loop over the next n bundles with the count in Sa. -/
  | loop (a : BitVec 6) (m : BitVec 12)
  /-- LOOPI (R403). Opens a hardware loop over the next n bundles with an immediate count. -/
  | loopi (i : BitVec 6) (m : BitVec 12)
  /-- TIMED_IMM (R460). Joins the team's TIMED rendezvous at immediate team cycle V and enters timed mode. -/
  | timedImm (i : BitVec 18)
  /-- TIMED_REG (R460). Joins the team's TIMED rendezvous at the team cycle held in Sa and enters timed mode. -/
  | timedReg (a : BitVec 6)
  /-- BARR (R355). Team or cross-device barrier that holds or checks until every matching BARR has issued. -/
  | barr (x : BitVec 1) (g : BitVec 8)
  /-- TWAIT (R464). Waits for, or in timed code checks, up to three tokens being done. -/
  | twait (a : BitVec 6) (b : BitVec 6) (c : BitVec 6)
  /-- HWAIT (R389). Waits for, or checks, a buffer handle being in a named state. -/
  | hwait (e : BitVec 2) (h : BitVec 8)
  /-- WAITC (R479). Waits for, or checks, a completion counter reaching a target. -/
  | waitc (a : BitVec 6) (b : BitVec 6)
  /-- VADD (R469). Element-wise vector add under NUMCTL. -/
  | vadd (d : BitVec 6) (a : BitVec 6) (b : BitVec 6)
  /-- VSUB (R469). Element-wise vector subtract under NUMCTL. -/
  | vsub (d : BitVec 6) (a : BitVec 6) (b : BitVec 6)
  /-- VMUL (R469). Element-wise vector multiply under NUMCTL. -/
  | vmul (d : BitVec 6) (a : BitVec 6) (b : BitVec 6)
  /-- VFMA (R469). Element-wise fused multiply-add into Vd with one rounding. -/
  | vfma (d : BitVec 6) (a : BitVec 6) (b : BitVec 6)
  /-- VMIN (R469). Element-wise minimum. -/
  | vmin (d : BitVec 6) (a : BitVec 6) (b : BitVec 6)
  /-- VMAX (R469). Element-wise maximum. -/
  | vmax (d : BitVec 6) (a : BitVec 6) (b : BitVec 6)
  /-- VABS (R469). Element-wise absolute value. -/
  | vabs (d : BitVec 6) (a : BitVec 6)
  /-- VNEG (R469). Element-wise negation. -/
  | vneg (d : BitVec 6) (a : BitVec 6)
  /-- VAND (R469). Element-wise bitwise and. -/
  | vand (d : BitVec 6) (a : BitVec 6) (b : BitVec 6)
  /-- VOR (R469). Element-wise bitwise or. -/
  | vor (d : BitVec 6) (a : BitVec 6) (b : BitVec 6)
  /-- VXOR (R469). Element-wise bitwise exclusive or. -/
  | vxor (d : BitVec 6) (a : BitVec 6) (b : BitVec 6)
  /-- VSHL (R469). Element-wise left shift by an immediate. -/
  | vshl (d : BitVec 6) (a : BitVec 6) (k : BitVec 6)
  /-- VSHR (R469). Element-wise logical right shift by an immediate. -/
  | vshr (d : BitVec 6) (a : BitVec 6) (k : BitVec 6)
  /-- VSAR (R469). Element-wise arithmetic right shift by an immediate. -/
  | vsar (d : BitVec 6) (a : BitVec 6) (k : BitVec 6)
  /-- VSEL (R470). Selects per element between Va and Vd by the mask row Vm. -/
  | vsel (d : BitVec 6) (m : BitVec 6) (a : BitVec 6)
  /-- VMOV (R470). Copies Va into Vd bit-exactly. -/
  | vmov (d : BitVec 6) (a : BitVec 6)
  /-- VBCAST (R470). Broadcasts the low bits of Sa to every element of Vd. -/
  | vbcast (d : BitVec 6) (a : BitVec 6)
  /-- VEXTR (R470). Extracts element Sb of Va into Sd. -/
  | vextr (d : BitVec 6) (a : BitVec 6) (b : BitVec 6)
  /-- VCLAMP (R469). Clamps Vd element-wise between Va and Vb. -/
  | vclamp (d : BitVec 6) (a : BitVec 6) (b : BitVec 6)
  /-- VCMP_EQ (R471). Element-wise equality compare giving all-ones or all-zero elements. -/
  | vcmpEq (d : BitVec 6) (a : BitVec 6) (b : BitVec 6)
  /-- VCMP_NE (R471). Element-wise inequality compare. -/
  | vcmpNe (d : BitVec 6) (a : BitVec 6) (b : BitVec 6)
  /-- VCMP_LT (R471). Element-wise less-than compare. -/
  | vcmpLt (d : BitVec 6) (a : BitVec 6) (b : BitVec 6)
  /-- VCMP_LE (R471). Element-wise less-or-equal compare. -/
  | vcmpLe (d : BitVec 6) (a : BitVec 6) (b : BitVec 6)
  /-- VPERM (R472). Permutes elements of Va by the indices in Vb. -/
  | vperm (d : BitVec 6) (a : BitVec 6) (b : BitVec 6)
  /-- VREDS_SUM (R473). Reduces a row by sum in a fixed tree into Sd. -/
  | vredsSum (d : BitVec 6) (a : BitVec 6)
  /-- VREDS_MAX (R473). Reduces a row by maximum into Sd. -/
  | vredsMax (d : BitVec 6) (a : BitVec 6)
  /-- VREDS_MIN (R473). Reduces a row by minimum into Sd. -/
  | vredsMin (d : BitVec 6) (a : BitVec 6)
  /-- VCVT (R474). Converts elements of Va to Vd's type under NUMCTL. -/
  | vcvt (d : BitVec 6) (a : BitVec 6)
  /-- VSCALE (R474). Multiplies elements of Va by 2 to the power Sb, rounding once. -/
  | vscale (d : BitVec 6) (a : BitVec 6) (b : BitVec 6)
  /-- MPUSH (R410). Pushes a mask formed from Va and the current top onto the mask stack. -/
  | mpush (a : BitVec 6)
  /-- VSKIP (R476). Nulls or skips the next n bundles when the mask top is all zero. -/
  | vskip (n : BitVec 12)
  /-- VDOT4 (R475). Four-way byte dot products accumulated into i32 elements, wrapping or saturating by opcode. -/
  | vdot4 (t : BitVec 1) (u : BitVec 1) (w : BitVec 1) (d : BitVec 6) (a : BitVec 6) (b : BitVec 6)
  /-- VDOT8 (R475). Eight-way nibble dot products accumulated into i32 elements. -/
  | vdot8 (t : BitVec 1) (u : BitVec 1) (w : BitVec 1) (d : BitVec 6) (a : BitVec 6) (b : BitVec 6)
  /-- SFEXP (R451). Element-wise exponential. -/
  | sfexp (d : BitVec 6) (a : BitVec 6)
  /-- SFLOG (R451). Element-wise natural logarithm. -/
  | sflog (d : BitVec 6) (a : BitVec 6)
  /-- SFRCP (R451). Element-wise reciprocal. -/
  | sfrcp (d : BitVec 6) (a : BitVec 6)
  /-- SFRSQ (R451). Element-wise reciprocal square root. -/
  | sfrsq (d : BitVec 6) (a : BitVec 6)
  /-- SFSQRT (R451). Element-wise square root. -/
  | sfsqrt (d : BitVec 6) (a : BitVec 6)
  /-- SFSIN (R451). Element-wise sine. -/
  | sfsin (d : BitVec 6) (a : BitVec 6)
  /-- SFCOS (R451). Element-wise cosine. -/
  | sfcos (d : BitVec 6) (a : BitVec 6)
  /-- SFTANH (R451). Element-wise hyperbolic tangent. -/
  | sftanh (d : BitVec 6) (a : BitVec 6)
  /-- SFSIGM (R451). Element-wise logistic sigmoid. -/
  | sfsigm (d : BitVec 6) (a : BitVec 6)
  /-- SFERF (R451). Element-wise error function. -/
  | sferf (d : BitVec 6) (a : BitVec 6)
  /-- RNGC (R444). Fills a row with Philox-4x32-10 output for key Sa and counter Sb under the mask. -/
  | rngc (d : BitVec 6) (a : BitVec 6) (b : BitVec 6)
  /-- LDS (R397). Loads 8 ring bytes into Sd. -/
  | lds (d : BitVec 6) (a : BitVec 6) (o : BitVec 6)
  /-- LDS_CHK (R397). Loads 8 ring bytes into Sd after checking parcel tags against TAGX. -/
  | ldsChk (d : BitVec 6) (a : BitVec 6) (o : BitVec 6)
  /-- STS (R455). Stores Sd into 8 ring bytes. -/
  | sts (d : BitVec 6) (a : BitVec 6) (o : BitVec 6)
  /-- LDV (R397). Loads 512 linear-view ring bytes into a vector row. -/
  | ldv (d : BitVec 6) (a : BitVec 6) (o : BitVec 6)
  /-- LDV_CHK (R397). Tag-checked load of 512 ring bytes into a vector row. -/
  | ldvChk (d : BitVec 6) (a : BitVec 6) (o : BitVec 6)
  /-- STV (R455). Stores a vector row to 512 linear-view ring bytes. -/
  | stv (d : BitVec 6) (a : BitVec 6) (o : BitVec 6)
  /-- LDVD (R397). Loads a diagonal-view column into a vector row. -/
  | ldvd (d : BitVec 6) (a : BitVec 6) (o : BitVec 6)
  /-- LDVD_CHK (R397). Tag-checked diagonal-view column load into a vector row. -/
  | ldvdChk (d : BitVec 6) (a : BitVec 6) (o : BitVec 6)
  /-- STVD (R455). Stores a vector row as a diagonal-view column. -/
  | stvd (d : BitVec 6) (a : BitVec 6) (o : BitVec 6)
  /-- LDT (R399). Loads four lines of a tile register from the ring under its TCFG. -/
  | ldt (d : BitVec 6) (a : BitVec 6) (b : BitVec 6)
  /-- LDT_CHK (R399). Tag-checked load of four tile lines. -/
  | ldtChk (d : BitVec 6) (a : BitVec 6) (b : BitVec 6)
  /-- LDTM (R399). Loads a 512-byte chunk of a tile's scale or metadata plane. -/
  | ldtm (d : BitVec 6) (a : BitVec 6) (b : BitVec 6)
  /-- LDTM_CHK (R399). Tag-checked load of a tile plane chunk. -/
  | ldtmChk (d : BitVec 6) (a : BitVec 6) (b : BitVec 6)
  /-- STT (R456). Stores four tile lines to the ring. -/
  | stt (d : BitVec 6) (a : BitVec 6) (b : BitVec 6)
  /-- TAP (R458). Copies the lane value standing at the strand's station into a vector row. -/
  | tap (d : BitVec 6) (r : BitVec 1) (l : BitVec 4)
  /-- PUT (R434). Drives a vector row onto one of the strand's own lanes. -/
  | put (a : BitVec 6) (r : BitVec 1) (l : BitVec 4)
  /-- QPUSH (R436). Queues an address-generator request for a granule of a QV view, optionally speculative. -/
  | qpush (e : BitVec 1) (n : BitVec 1) (m : BitVec 2) (a : BitVec 6)
  /-- QPOP (R439). Delivers the head DQ entry into a 64-byte chunk of a vector row. -/
  | qpop (d : BitVec 6) (m : BitVec 3)
  /-- QSEL (R437). Closes the open speculative group, keeping one bank's entries by a predicate. -/
  | qsel (p : BitVec 3)
  /-- ACCLD (R346). Loads 512 ring bytes into an accumulator row. -/
  | accld (d : BitVec 6) (a : BitVec 6) (o : BitVec 6)
  /-- ACCLD_CHK (R346). Tag-checked load of 512 ring bytes into an accumulator row. -/
  | accldChk (d : BitVec 6) (a : BitVec 6) (o : BitVec 6)
  /-- ACCST (R346). Stores an accumulator row to 512 ring bytes after its checksum check. -/
  | accst (d : BitVec 6) (a : BitVec 6) (o : BitVec 6)
  /-- CUBE (R369). Issues a stream-mode multiply-accumulate command onto a cube track. -/
  | cube (t : BitVec 6) (a : BitVec 6) (b : BitVec 6)
  /-- CUBEH (R369). Issues a hold-mode multiply-accumulate command using the active weight planes. -/
  | cubeh (t : BitVec 6) (a : BitVec 6) (b : BitVec 6)
  /-- WLD (R480). Issues a dense weight load into the band's shadow planes. -/
  | wld (t : BitVec 6) (a : BitVec 6) (b : BitVec 6)
  /-- WLD_SP (R480). Issues a 2:4-sparse weight load into the band's shadow planes. -/
  | wldSp (t : BitVec 6) (a : BitVec 6) (b : BitVec 6)
  /-- WSWAP (R481). Issues an exchange of the active and shadow planes of the band's layers. -/
  | wswap (t : BitVec 6) (a : BitVec 6) (b : BitVec 6)
  /-- LEASE (R401). Requests a band lease, waiting for grant in paced mode. -/
  | lease (t : BitVec 6) (a : BitVec 6)
  /-- UNLEASE (R466). Frees a band lease once earlier commands on its track have finished. -/
  | unlease (t : BitVec 6) (a : BitVec 6)
  /-- COPY (R367). Issues a copy-engine command between endpoints, with optional conversion, reduction and handle counting. -/
  | copy (t : BitVec 6) (a : BitVec 6) (b : BitVec 6)
  /-- CCOPY (R360). Issues a conditional copy that writes a block only if its version word matches. -/
  | ccopy (t : BitVec 6) (a : BitVec 6) (b : BitVec 6)
  /-- LAYOUT (R395). Issues a layout-engine permute, split, merge and convert command. -/
  | layout (t : BitVec 6) (a : BitVec 6) (b : BitVec 6)
  /-- SCAT (R448). Issues a scatter-accumulate of a value stream by an index stream. -/
  | scat (t : BitVec 6) (a : BitVec 6) (b : BitVec 6)
  /-- NMRED (R422). Issues a near-memory add, max or min reduction of ring values into a view. -/
  | nmred (t : BitVec 6) (a : BitVec 6) (b : BitVec 6)
  /-- NMCAS (R418). Issues a near-memory 8-byte compare and exchange. -/
  | nmcas (t : BitVec 6) (a : BitVec 6) (b : BitVec 6)
  /-- NMSAC (R422). Issues a near-memory scale-and-accumulate into a view. -/
  | nmsac (t : BitVec 6) (a : BitVec 6) (b : BitVec 6)
  /-- PROBE (R430). Checks residency of a view's blocks, freezing the team on a miss. -/
  | probe (t : BitVec 6) (a : BitVec 6)
  /-- PROBE_REQ (R430). Checks residency of a view's blocks, logging a residency request on a miss. -/
  | probeReq (t : BitVec 6) (a : BitVec 6)
  /-- FSEND (R385). Issues a timed fabric send departing at CYC value D. -/
  | fsend (t : BitVec 6) (a : BitVec 6) (b : BitVec 6)
  /-- FRECV (R383). Posts a timed receive key for a port, turn and receive id. -/
  | frecv (t : BitVec 6) (a : BitVec 6) (b : BitVec 6)
  /-- FLD (R377). Issues an untimed fabric read through an export window. -/
  | fld (t : BitVec 6) (a : BitVec 6) (b : BitVec 6)
  /-- FST (R377). Issues an untimed fabric write through an export window. -/
  | fst (t : BitVec 6) (a : BitVec 6) (b : BitVec 6)
  /-- FATOM (R377). Issues an untimed fabric 8-byte atomic through an export window. -/
  | fatom (t : BitVec 6) (a : BitVec 6) (b : BitVec 6)
  /-- COLL (R365). Issues a collective over a group on the collective engine. -/
  | coll (t : BitVec 6) (a : BitVec 6) (b : BitVec 6)
  /-- SIG (R453). Issues a release store of a 64-bit value to a word. -/
  | sig (t : BitVec 6) (a : BitVec 6) (b : BitVec 6)
  /-- LAUNCH (R393). Places a launch record in the core's pending-launch queue, or is refused when full. -/
  | launch (t : BitVec 6) (a : BitVec 6)
  /-- HSET (R387). Issues a buffer-handle expectation post or state set. -/
  | hset (t : BitVec 6) (a : BitVec 6)
  /-- DEPS (R371). Prefix naming up to three tokens that the following engine command consumes. -/
  | deps (a : BitVec 6) (b : BitVec 6) (c : BitVec 6)
  /-- PFX (R427). Prefix extending its target's immediate by 18 bits. -/
  | pfx (i : BitVec 18)
  /-- PFX_G (R319). Prefix carrying its target's guard predicate. -/
  | pfxG (n : BitVec 1) (p : BitVec 3)
  /-- MFC (R407). Reads a control register into Sd. -/
  | mfc (d : BitVec 6) (r : BitVec 12)
  /-- MTC (R408). Writes Sa to a control register without a row of its own, applying its checks or ignoring RO targets. -/
  | mtc (a : BitVec 6) (r : BitVec 12)
  /-- MTC_MBXST (R251). Write-one-to-clear of MBXST LOST and ARR bits. -/
  | mtcMbxst (a : BitVec 6)
  /-- MTC_QV (R235). Writes a QVn slot, making the address generator read the new view and descriptor. -/
  | mtcQv (a : BitVec 6) (m : BitVec 2)
  /-- MTC_TCFG (R169). Writes a tile configuration register after its format and column checks. -/
  | mtcTcfg (a : BitVec 6) (n : BitVec 5)
  /-- MTC_ACFG (R172). Writes an accumulator tile type and recomputes every row checksum of the tile. -/
  | mtcAcfg (a : BitVec 6) (n : BitVec 4)
  /-- FENCE (R381). Holds later engine commands until earlier accesses have performed within the scope. -/
  | fence (e : BitVec 2)
  /-- TRAP (R461). Stops and saves the team and writes a TRAP record with the code. -/
  | trap (i : BitVec 18)
  /-- TSHOOT (R462). Drops cached descriptors and translations of a tensor device-wide. -/
  | tshoot (t : BitVec 6) (a : BitVec 6)
  /-- TIMED_RDV_DEADLINE (R63). At team cycle V - 16 each unretired strand that has not issued its TIMED takes SCHEDULE RDV. -/
  | timedRdvDeadline (team : Nat)
  /-- WAIT_RELEASE (R64). A paced strand held by an explicit wait resumes issuing once its condition is met. -/
  | waitRelease (team strand : Nat)
  /-- ENGINE_COMMAND_START (R74). A queued engine command starts once its consumed tokens and queue order allow, running its start checks. -/
  | engineCommandStart (cmd : Nat)
  /-- ENGINE_STEP (R80). An engine runs the next step of an expanding command and advances its XPC. -/
  | engineStep (cmd : Nat)
  /-- ENGINE_COMMAND_COMPLETE (R76). A command completes and its token goes DONE with its status. -/
  | engineCommandComplete (cmd : Nat)
  /-- CUBE_COMMAND_START (R192). A cube command starts on its track when R192 allows, checking tokens, formats and lease. -/
  | cubeCommandStart (cmd : Nat)
  /-- CUBE_STEP_FEED (R185). One step of a cube command is fed through the band's layers. -/
  | cubeStepFeed (cmd : Nat)
  /-- CUBE_STEP_COMMIT (R193). A step's column sums commit into the accumulator tile 159 cycles after feed, with checksum update. -/
  | cubeStepCommit (cmd : Nat)
  /-- WLD_COMPLETE (R189). A weight load completes, replacing the shadow planes. -/
  | wldComplete (cmd : Nat)
  /-- AUDIT_REPLAY_COMPLETE (R297). A replay at an audit site finishes and its signatures are compared. -/
  | auditReplayComplete (tower row : Nat) (flip : BitVec 128)
  /-- AUDIT_SECOND_REPLAY_COMPLETE (R298). The second replay after a mismatch finishes and an EVENT AUDIT record is written. -/
  | auditSecondReplayComplete (tower : Nat) (flip : BitVec 128)
  /-- HSET_TAKE_EFFECT (R223). A posted HSET takes effect on its handle in one CYC cycle. -/
  | hsetTakeEffect (cmd : Nat)
  /-- COLL_BUCKET_START (R233). An armed bucket starts once its flag reads non-zero. -/
  | collBucketStart (cmd bucket : Nat)
  /-- COLL_BUCKET_COMPLETE (R233). A bucket's local results perform and 2^32 is added to its flag. -/
  | collBucketComplete (cmd bucket : Nat)
  /-- COLLECTIVE_REQUEST (R232). A peer's collective request arrives and is served or held until the matching COLL starts. -/
  | collectiveRequest (r : UntimedRequest)
  /-- QV_VIEW_READ (R436). The address generator reads the view and descriptor of a newly written QV slot. -/
  | qvViewRead (team strand slot : Nat)
  /-- DQ_ENTRY_ARRIVE (R236). Data of an outstanding address-generator request arrive in DQ. -/
  | dqEntryArrive (team strand : Nat)
  /-- STRAND_RETIRE (R84). A draining strand retires when its engine queues report empty, freeing its core. -/
  | strandRetire (team strand : Nat)
  /-- NOP_PACKET (R100). The scheduler consumes a NOP packet from a work queue. -/
  | nopPacket (ctx queue : Nat)
  /-- LAUNCH_PACKET (R100). A LAUNCH packet's record is validated and its grid enters the waiting set. -/
  | launchPacket (ctx queue : Nat)
  /-- COPY_PACKET (R100). A COPY packet starts a copy-engine copy and increments its counter on completion. -/
  | copyPacket (ctx queue : Nat)
  /-- LAYOUT_PACKET (R100). A LAYOUT packet starts a layout-engine command and increments its counter on completion. -/
  | layoutPacket (ctx queue : Nat)
  /-- SIGNAL_PACKET (R100). A SIGNAL packet adds to or stores a counter with release semantics. -/
  | signalPacket (ctx queue : Nat)
  /-- WAIT_PACKET (R100). A WAIT packet holds its queue until a counter reaches a target. -/
  | waitPacket (ctx queue : Nat)
  /-- WAIT_PACKET_SATISFIED (R100). The watched counter reaches the target and the held queue proceeds. -/
  | waitPacketSatisfied (ctx queue : Nat)
  /-- PREEMPT_PACKET (R117). Pre-empts and holds the selected grids, counting when all are saved. -/
  | preemptPacket (ctx queue : Nat)
  /-- RESUME_PACKET (R117). Returns held grids selected by scope 0-2 to the waiting set. -/
  | resumePacket (ctx queue : Nat)
  /-- RESUME_FROZEN_TEAM (R292). RESUME scope 3 returns the frozen team of a PROBE or TRAP record to the waiting set. -/
  | resumeFrozenTeam (ctx queue : Nat)
  /-- DISCARD_FROZEN_TEAM (R292). RESUME scope 4 discards the frozen team and its grid. -/
  | discardFrozenTeam (ctx queue : Nat)
  /-- FENCE_PACKET (R100). A FENCE packet holds its queue until earlier packets and their grids complete. -/
  | fencePacket (ctx queue : Nat)
  /-- FENCE_PACKET_COMPLETE (R100). Earlier work completes, the effects perform at scope and the counter increments. -/
  | fencePacketComplete (ctx queue : Nat)
  /-- PENDING_LAUNCH_TAKE (R109). The scheduler takes a pending-launch entry, validates its record and completes its token. -/
  | pendingLaunchTake (core : Nat)
  /-- TEAM_ADMIT (R103). The scheduler admits a team when all its claims are free, placing and starting it. -/
  | teamAdmit (grid : Nat)
  /-- GRID_DUE (R105). A grid waiting 2^22 CYC cy at priority 0 becomes due, blocking other admissions. -/
  | gridDue (grid : Nat)
  /-- QUANTUM_EXPIRY (R106). A team resident for QUANTUM cycles is pre-empted when an eligible grid waits. -/
  | quantumExpiry (team : Nat)
  /-- SWAP_OUT (R111). A strand held in WAITC for SWPTH cycles has its team pre-empted. -/
  | swapOut (team strand : Nat)
  /-- SWAPPED_COUNTER_REACHED (R111). The watched counter reaches the target and the swapped team re-enters the waiting set. -/
  | swappedCounterReached (team : Nat)
  /-- PREEMPT_STOP (R113). The team stops issuing at stop cycle T, capturing results in flight in the replay list. -/
  | preemptStop (team : Nat)
  /-- TEAM_SAVE (R115). When all engines are at rest the team is written to its save area and its resources freed. -/
  | teamSave (team : Nat)
  /-- TEAM_RESUME (R118). A saved team is readmitted, restored, rebased and its replay list re-injected. -/
  | teamResume (team : Nat)
  /-- LEASE_BUDGET_EXPIRY (R108). A lease's budget is spent and the lease becomes EXPIRED. -/
  | leaseBudgetExpiry (team claim : Nat)
  /-- LEASE_GRANT (R197). A waiting lease request is granted by arbitration. -/
  | leaseGrant (team claim : Nat)
  /-- LEASE_REPLAY_COMPLETE (R198). Recorded WLDs are replayed and the lease becomes HELD. -/
  | leaseReplayComplete (team claim : Nat)
  /-- SHORT_PAGE_DEADLINE (R142). A short-lived page passes its deadline D and its granules read as EXPIRED. -/
  | shortPageDeadline (page : Nat)
  /-- HOT_BAND_ENTER (R143). A stack reaches 85 C, refreshing its live short-lived pages and using L_hot. -/
  | hotBandEnter (stack : Nat)
  /-- NORMAL_BAND_RETURN (R143). A stack falls to 80 C and short-lived pages take new deadlines. -/
  | normalBandReturn (stack : Nat)
  /-- UNCORRECTABLE_ERROR (R290). An ECC-uncorrectable error poisons the data read with cause 0. -/
  | uncorrectableError (site : ErrorSite)
  /-- TIMED_ARRIVAL (R265). A timed transfer arrives and is written to its matching posted receive or dropped. -/
  | timedArrival (a : Arrival)
  /-- RELAY_FORWARD (R267). A relay sends held flits in the forward share of the turn that faces their destination. -/
  | relayForward (port : Nat)
  /-- FRECV_KEY_EXPIRY (R265). At the end of the arrival turn's guard an unmatched key ends REJECTED. -/
  | frecvKeyExpiry (cmd : Nat)
  /-- FSEND_TURN_END (R263). At the end of the departure turn the FSEND token goes DONE. -/
  | fsendTurnEnd (cmd : Nat)
  /-- BEACON (R278). A beacon flit is received, with the sender's CYC at its departure and the sender's incarnation: it gives a counter
  offset. -/
  | beacon (dev port sent : Nat) (inc : BitVec 16)
  /-- LINK_CONTROL_FLIT (R259). A link-control flit carries acknowledgements driving go-back-N replay. -/
  | linkControlFlit (port link : Nat) (ack : LinkAck)
  /-- LINK_FAILURE (R259). A failed link is marked down at the next guard and the port's striping rewritten. -/
  | linkFailure (port link : Nat)
  /-- UNTIMED_READ_REQUEST (R272). An untimed read request arrives, is checked against its window and answered. -/
  | untimedReadRequest (r : UntimedRequest)
  /-- UNTIMED_WRITE_REQUEST (R272). An untimed write request arrives, is checked, performs and is acknowledged. -/
  | untimedWriteRequest (r : UntimedRequest)
  /-- UNTIMED_ATOMIC_REQUEST (R273). An untimed atomic request performs one indivisible read-modify-write and replies. -/
  | untimedAtomicRequest (r : UntimedRequest)
  /-- UNTIMED_RESPONSE (R377). A response arrives and the requesting command writes its result and completes. -/
  | untimedResponse (r : UntimedReply)
  /-- BARRIER_REQUEST (R355). A cross-device barrier request arrives from a group member. -/
  | barrierRequest (h : MessageHead) (ctx group count : Nat)
  /-- UNTIMED_TIMEOUT (R276). An untimed request's 8-round timer expires, extending, resending or faulting. -/
  | untimedTimeout (req : Nat) (replaying : Bool)
  /-- PEER_INCARNATION_CHANGE (R277). A beacon shows a peer's new incarnation, ending commands with PEER-RESET. -/
  | peerIncarnationChange (dev : Nat) (inc : BitVec 16)
  /-- GRID_DISCARD (R284). After a fault the team is saved, the grid's other teams freed, records written and 2^32 added. -/
  | gridDiscard (grid : Nat)
  /-- FAULT_QUEUE_ROOM (R285). A change of FRIDX lets a held PROBE or TRAP record be written. -/
  | faultQueueRoom (ctx : Nat)
  /-- THERMAL_TRIP (R311). A sensor at 105 C or more faults the tower's teams and takes it offline. -/
  | thermalTrip (sensor temp : Nat)
  /-- TOWER_ONLINE (R311). After 2^24 cycles below 95 C the tower returns online. -/
  | towerOnline (tower : Nat)
  /-- GOVERNOR_EVALUATE (R309). Every 2^16 cycles the governor computes the desired step and moves GOVSTEP. -/
  | governorEvaluate (tower tmax : Nat) (overPower : Bool)
  /-- GOVSTEP_DEFERRED_RISE (R310). A step increase deferred for a fabric-timed section takes effect at the round boundary. -/
  | govstepDeferredRise (tower : Nat)
  /-- RDMA_WRITE (R300). A RoCEv2 RDMA WRITE is checked against an export window and performed. -/
  | rdmaWrite (r : RdmaRequest)
  /-- RDMA_READ (R300). A RoCEv2 RDMA READ is checked and answered from the export window. -/
  | rdmaRead (r : RdmaRequest)
  /-- ATOMIC_FETCH_ADD (R300). A RoCEv2 FETCH_ADD performs as a FATOM ADD. -/
  | atomicFetchAdd (r : RdmaRequest)
  /-- ATOMIC_CMP_SWAP (R300). A RoCEv2 CMP_SWAP performs as a FATOM CAS. -/
  | atomicCmpSwap (r : RdmaRequest)
  /-- CREATE_CONTEXT (R94). Management request creating a context from its context record. -/
  | createContext (c : ContextSpec)
  /-- DESTROY_CONTEXT (R304). Management request stopping a context's work and teams. -/
  | destroyContext (ctx : Nat)
  /-- CONTEXT_DESTROY_DRAINED (R304). Once every access of the context has performed, keys are zeroised and job records emitted. -/
  | contextDestroyDrained (ctx : Nat)
  /-- CREATE_KEYS (R141). Management request creating memory keys for a context. -/
  | createKeys (ctx : Nat) (keys : BitVec 16)
  /-- BIND_QUEUE_PAIR (R300). Management request binding a RoCEv2 queue pair to a context. -/
  | bindQueuePair (qp ctx : Nat)
  /-- SET_EXPORT_TABLE (R271). Management request replacing a context's export table. -/
  | setExportTable (ctx : Nat) (table : BitVec 64) (windows : Nat)
  /-- NAME_TIMED_OWNER (R261). Management request changing or withdrawing the timed owner. -/
  | nameTimedOwner (owner : Option Nat)
  /-- RESERVE_TIMED_CHANNELS (R144). Management request reserving channel groups as timed channels. -/
  | reserveTimedChannels (ctx stack : Nat) (groups : BitVec 24)
  /-- SET_AUDITN (R294). Management request setting a context's audit sampling. -/
  | setAuditn (ctx : Nat) (value : BitVec 6)
  /-- SET_SAMPLING_INTERVAL (R148). Management request setting the hotness sampling exponent n. -/
  | setSamplingInterval (n : Nat)
  /-- JOIN_DOMAIN (R306). Management request joining a fabric domain, setting DEVID, QLOG and JOINED. -/
  | joinDomain (devid qlog : Nat) (flight : List Nat)
  /-- ACKNOWLEDGE_JOB_RECORDS (R308). Management request acknowledging job records up to an RSEQ. -/
  | acknowledgeJobRecords (rseq : Nat)
  /-- JOB_RECORD_RESEND (R308). Management request asking the keep to resend a stored job record. -/
  | jobRecordResend (rseq : Nat)
  /-- QUOTE (R303). Management request returning a signed attestation quote. -/
  | quote (nonce : BitVec 256)
  /-- JOB_RECORD_EMIT (R308). After a grid's last audit record the keep emits its signed job record. -/
  | jobRecordEmit (grid : Nat)
  /-- STREAMS_LOADED (R83). The last stream of a placed team finishes loading, and its strands leave LOADING and issue at team cycle 0. -/
  | streamsLoaded (team : Nat)
  /-- GRID_PRIORITY_RISE (R104). Each 2^22 CYC cy of waiting lowers a waiting grid's effective priority by one level, which can trigger pre-emption under R106. -/
  | gridPriorityRise (grid : Nat)
  /-- UNTIMED_RELAY_FORWARD (R275). An intermediate device receives untimed flits of another pair's stream into its untimed relay buffer, forwards them, and returns credits to the source. -/
  | untimedRelayForward (r : RelayedFlits)
  /-- FSEND_FLIT_DEPARTURE (R263). The claimed own-share slots of an FSEND are reached, and its flits leave on the port. -/
  | fsendFlitDeparture (cmd : Nat)
  /-- ROCE_INVALID_REQUEST (R300). A RoCEv2 request with an unsupported opcode, or a misaligned atomic, draws a NAK for an invalid request. -/
  | roceInvalidRequest (r : RdmaRequest)
  /-- PACED (R426). Puts the issuing strand's next bundle in paced mode. -/
  | paced
  /-- END (R375). Halts fetch after its bundle and puts the strand in DRAIN. -/
  | endStrand
  /-- YIELD (R484). Renews or yields the team's held leases, suspending a timed team that has a conflicting request. -/
  | yield
  /-- MINV (R410). Inverts the mask stack's top within the entry below. -/
  | minv
  /-- MPOP (R410). Pops the mask stack. -/
  | mpop
  /-- NOP (R424). No effect; pads bundles and carries idle counts. -/
  | nop
  /-- AUDIT (R353). Marks the strand's next cube command for audit sampling. -/
  | audit
  /-- VIEWJ (R477). Joins linear and diagonal ring views for counter order. -/
  | viewj
  /-- SAMPLING_INTERVAL_END (R148). At an interval's end controllers freeze hot lists and the migration engine selects pages. -/
  | samplingIntervalEnd
  /-- MIGRATION_COPY_COMPLETE (R151). A migrating page is fully copied, switched home and its entry rewritten. -/
  | migrationCopyComplete
  /-- MIGRATION_SHOOT_COMPLETE (R151). Cached translations of a migrated block are dropped and the log record written. -/
  | migrationShootComplete
  /-- ROUND_END (R278). At a round end the median offset trims the clock or raises desync. -/
  | roundEnd
  /-- TIMED_OWNER_CUTOVER (R261). At a round boundary the new timed owner takes effect and the old owner's commands end REJECTED. -/
  | timedOwnerCutover
  /-- COOLANT_FLOW_LOW (R313). Coolant flow below limit sets every tower to step 8 until it returns. -/
  | coolantFlowLow
  /-- DEVICE_RESET (R301). The keep verifies firmware and build record and runs bring-up. -/
  | deviceReset
  /-- LEAVE_DOMAIN (R303). Management request leaving the fabric domain. -/
  | leaveDomain
  /-- STATUS_REQUEST (R301). Management status request, answered even after failed verification. -/
  | statusRequest
  /-- COOLANT_FLOW_RESTORED (R313). Coolant flow returns to at least 12 L/min, and the governor releases the forced step 8. -/
  | coolantFlowRestored
  /-- IDENTITY_QUERY (R26). The host asks the keep on the management VLAN for the serial number and the identity key hash. -/
  | identityQuery
  deriving DecidableEq, Repr

/-- A slot of an instruction bundle (R314): the stop bit, the encoding version, the scheduling-control field and the
instruction. -/
structure Slot where
  stop : Bool
  ver : BitVec 2
  sc : BitVec 2
  op : Instr
  deriving DecidableEq, Repr

end Sys2Proof
end

