-- ==== Sys2Proof/WellFormed.lean ====
section
/-! DEFINITION. Well-formed instructions: the operand checks that R322, R325, R328 and R333 put at decode beside the
reserved bits, so that an ill-formed slot raises ILLEGAL OPERAND there (R335); and, for a device event, that its operands name
things the device has (R12, R16, R19, R133, R254). The keep itself answers a management request that names what is not there. -/

namespace Sys2Proof

/-- The control registers of R325 that have no row of their own in the opcode table for MTC. -/
def genericControl (n : Nat) : Bool :=
  n ≤ 0x00C || (0x010 ≤ n && n ≤ 0x013) || (0x018 ≤ n && n ≤ 0x01C) || (0x020 ≤ n && n ≤ 0x02F) ||
  (0x030 ≤ n && n ≤ 0x03F) || n = 0x040 || n = 0x041 || (0x080 ≤ n && n ≤ 0x087) || (0x090 ≤ n && n ≤ 0x096)

/-- The control-register numbers R325 lists. -/
def listedControl (n : Nat) : Bool :=
  genericControl n || n = 0x097 || (0x098 ≤ n && n ≤ 0x09B) || (0x0A0 ≤ n && n ≤ 0x0BF) || (0x0C0 ≤ n && n ≤ 0x0CF)

/-- The well-formedness of an instruction: a cond code is one of the six of R328, a tile register is T0 to T31 (R322), a
control number is listed (R325), HWAIT names a handle and BARR without XD no group (R333). A device event's operands lie in the
ranges of the things they name. -/
def Instr.wellFormed : Instr → Bool
  | .cmp c _ _ _ => c.toNat < 6
  | .cmpi c _ _ _ => c.toNat < 6
  | .ldt d _ _ | .ldtChk d _ _ | .ldtm d _ _ | .ldtmChk d _ _ | .stt d _ _ => d.toNat < 32
  | .mfc _ r => listedControl r.toNat
  | .mtc _ r => genericControl r.toNat
  | .hwait _ h => h ≠ 0#8
  | .barr x g => x = 1#1 || g = 0#8
  | .beacon dev port _ _ => dev < 256 && port < 16
  | .linkControlFlit port link _ | .linkFailure port link => port < 16 && link < 4
  | .relayForward port => port < 16
  | .timedArrival a => a.port < 16 && a.src < 256 && a.rid < 16 && 1 ≤ a.units && a.units ≤ 2 ^ 14 && a.data.length = 64 * a.units
  | .thermalTrip sensor _ => sensor < 1216
  | .towerOnline t | .governorEvaluate t _ _ | .govstepDeferredRise t => t < 4
  | .auditReplayComplete t _ _ | .auditSecondReplayComplete t _ => t < 4
  | .hotBandEnter k | .normalBandReturn k => k < 32
  | .pendingLaunchTake core => core < 16
  | .peerIncarnationChange dev _ => dev < 256
  | _ => true

end Sys2Proof
end

