-- ==== Sys2Proof/Decode.lean ====
section
/-! DEFINITION. Decoding and encoding of slots (R314, R321, R328 to R333, R335). `decodeInstr` is total: an
unassigned opcode and a reserved operand bit that is set are rejected by name. The operand checks that R333, R322 and
R325 put at decode beside these are `Instr.wellFormed`, and the rules of a whole bundle (R315 to R318) are in
Machine/Bundle.lean. `encode` is written from the same tables: the opcode of R328 to R332 and the operand layouts of
R321 and R333. -/

namespace Sys2Proof

/-- Why a slot is no instruction (R335): its OP is not listed in its class (ILLEGAL INSTR), or a reserved bit of OPND is
set (ILLEGAL OPERAND, R4). -/
inductive DecodeReject where
  | unassigned
  | reserved
  deriving DecidableEq, Repr

/-- The instruction, if the operand bits of `mask`, which the format reserves, are all zero (R4). -/
def unreserved (o mask : BitVec 18) (i : Instr) : Except DecodeReject Instr :=
  if o &&& mask = 0#18 then .ok i else .error .reserved

/-- MTC by its control number (R325): four groups of registers have a row of their own in the opcode table. -/
def decodeMtc (a : BitVec 6) (r : BitVec 12) : Except DecodeReject Instr :=
  if r = 0x097#12 then .ok (.mtcMbxst a)
  else if r.extractLsb' 2 10 = 38#10 then .ok (.mtcQv a (r.extractLsb' 0 2))
  else if r.extractLsb' 5 7 = 5#7 then .ok (.mtcTcfg a (r.extractLsb' 0 5))
  else if r.extractLsb' 4 8 = 12#8 then .ok (.mtcAcfg a (r.extractLsb' 0 4))
  else .ok (.mtc a r)

/-- The instruction of an opcode (CLASS in bits 8..6, OP in bits 5..0) and its operand bits, R328 to R333. -/
def decodeInstr (opcode : BitVec 9) (o : BitVec 18) : Except DecodeReject Instr :=
  match opcode.toNat with
  | 1 => .ok (.add (o.extractLsb' 12 6) (o.extractLsb' 6 6) (o.extractLsb' 0 6))
  | 2 => .ok (.sub (o.extractLsb' 12 6) (o.extractLsb' 6 6) (o.extractLsb' 0 6))
  | 3 => .ok (.mul (o.extractLsb' 12 6) (o.extractLsb' 6 6) (o.extractLsb' 0 6))
  | 4 => .ok (.mulh (o.extractLsb' 12 6) (o.extractLsb' 6 6) (o.extractLsb' 0 6))
  | 5 => .ok (.mulhu (o.extractLsb' 12 6) (o.extractLsb' 6 6) (o.extractLsb' 0 6))
  | 6 => .ok (.div (o.extractLsb' 12 6) (o.extractLsb' 6 6) (o.extractLsb' 0 6))
  | 7 => .ok (.divu (o.extractLsb' 12 6) (o.extractLsb' 6 6) (o.extractLsb' 0 6))
  | 8 => .ok (.rem (o.extractLsb' 12 6) (o.extractLsb' 6 6) (o.extractLsb' 0 6))
  | 9 => .ok (.remu (o.extractLsb' 12 6) (o.extractLsb' 6 6) (o.extractLsb' 0 6))
  | 10 => .ok (.and (o.extractLsb' 12 6) (o.extractLsb' 6 6) (o.extractLsb' 0 6))
  | 11 => .ok (.or (o.extractLsb' 12 6) (o.extractLsb' 6 6) (o.extractLsb' 0 6))
  | 12 => .ok (.xor (o.extractLsb' 12 6) (o.extractLsb' 6 6) (o.extractLsb' 0 6))
  | 13 => .ok (.shl (o.extractLsb' 12 6) (o.extractLsb' 6 6) (o.extractLsb' 0 6))
  | 14 => .ok (.shr (o.extractLsb' 12 6) (o.extractLsb' 6 6) (o.extractLsb' 0 6))
  | 15 => .ok (.sar (o.extractLsb' 12 6) (o.extractLsb' 6 6) (o.extractLsb' 0 6))
  | 16 => .ok (.min (o.extractLsb' 12 6) (o.extractLsb' 6 6) (o.extractLsb' 0 6))
  | 17 => .ok (.max (o.extractLsb' 12 6) (o.extractLsb' 6 6) (o.extractLsb' 0 6))
  | 18 => .ok (.minu (o.extractLsb' 12 6) (o.extractLsb' 6 6) (o.extractLsb' 0 6))
  | 19 => .ok (.maxu (o.extractLsb' 12 6) (o.extractLsb' 6 6) (o.extractLsb' 0 6))
  | 20 => unreserved o 0x0003F#18 (.clz (o.extractLsb' 12 6) (o.extractLsb' 6 6))
  | 21 => unreserved o 0x0003F#18 (.popc (o.extractLsb' 12 6) (o.extractLsb' 6 6))
  | 22 => .ok (.addi (o.extractLsb' 12 6) (o.extractLsb' 6 6) (o.extractLsb' 0 6))
  | 23 => .ok (.andi (o.extractLsb' 12 6) (o.extractLsb' 6 6) (o.extractLsb' 0 6))
  | 24 => .ok (.ori (o.extractLsb' 12 6) (o.extractLsb' 6 6) (o.extractLsb' 0 6))
  | 25 => .ok (.xori (o.extractLsb' 12 6) (o.extractLsb' 6 6) (o.extractLsb' 0 6))
  | 26 => .ok (.shli (o.extractLsb' 12 6) (o.extractLsb' 6 6) (o.extractLsb' 0 6))
  | 27 => .ok (.shri (o.extractLsb' 12 6) (o.extractLsb' 6 6) (o.extractLsb' 0 6))
  | 28 => .ok (.sari (o.extractLsb' 12 6) (o.extractLsb' 6 6) (o.extractLsb' 0 6))
  | 29 => .ok (.movi (o.extractLsb' 12 6) (o.extractLsb' 0 12))
  | 30 => .ok (.movhi (o.extractLsb' 12 6) (o.extractLsb' 0 12))
  | 31 => .ok (.cmp (o.extractLsb' 15 3) (o.extractLsb' 12 3) (o.extractLsb' 6 6) (o.extractLsb' 0 6))
  | 32 => .ok (.cmpi (o.extractLsb' 15 3) (o.extractLsb' 12 3) (o.extractLsb' 6 6) (o.extractLsb' 0 6))
  | 40 => .ok (.sel 0#3 (o.extractLsb' 12 6) (o.extractLsb' 6 6) (o.extractLsb' 0 6))
  | 41 => .ok (.sel 1#3 (o.extractLsb' 12 6) (o.extractLsb' 6 6) (o.extractLsb' 0 6))
  | 42 => .ok (.sel 2#3 (o.extractLsb' 12 6) (o.extractLsb' 6 6) (o.extractLsb' 0 6))
  | 43 => .ok (.sel 3#3 (o.extractLsb' 12 6) (o.extractLsb' 6 6) (o.extractLsb' 0 6))
  | 44 => .ok (.sel 4#3 (o.extractLsb' 12 6) (o.extractLsb' 6 6) (o.extractLsb' 0 6))
  | 45 => .ok (.sel 5#3 (o.extractLsb' 12 6) (o.extractLsb' 6 6) (o.extractLsb' 0 6))
  | 46 => .ok (.sel 6#3 (o.extractLsb' 12 6) (o.extractLsb' 6 6) (o.extractLsb' 0 6))
  | 47 => .ok (.sel 7#3 (o.extractLsb' 12 6) (o.extractLsb' 6 6) (o.extractLsb' 0 6))
  | 65 => .ok (.br (o.extractLsb' 17 1) (o.extractLsb' 14 3) (o.extractLsb' 0 14))
  | 66 => .ok (.jal (o.extractLsb' 12 6) (o.extractLsb' 0 12))
  | 67 => unreserved o 0x00003#18 (.jind (o.extractLsb' 17 1) (o.extractLsb' 14 3) (o.extractLsb' 8 6) (o.extractLsb' 2 6))
  | 68 => .ok (.loop (o.extractLsb' 12 6) (o.extractLsb' 0 12))
  | 69 => .ok (.loopi (o.extractLsb' 12 6) (o.extractLsb' 0 12))
  | 70 => .ok (.timedImm (o.extractLsb' 0 18))
  | 71 => unreserved o 0x3F03F#18 (.timedReg (o.extractLsb' 6 6))
  | 72 => unreserved o 0x3FFFF#18 (.paced)
  | 73 => unreserved o 0x3FFFF#18 (.endStrand)
  | 74 => unreserved o 0x3FFFF#18 (.yield)
  | 75 => unreserved o 0x3FE00#18 (.barr (o.extractLsb' 8 1) (o.extractLsb' 0 8))
  | 76 => .ok (.twait (o.extractLsb' 12 6) (o.extractLsb' 6 6) (o.extractLsb' 0 6))
  | 77 => unreserved o 0x3FC00#18 (.hwait (o.extractLsb' 8 2) (o.extractLsb' 0 8))
  | 78 => unreserved o 0x3F000#18 (.waitc (o.extractLsb' 6 6) (o.extractLsb' 0 6))
  | 129 => .ok (.vadd (o.extractLsb' 12 6) (o.extractLsb' 6 6) (o.extractLsb' 0 6))
  | 130 => .ok (.vsub (o.extractLsb' 12 6) (o.extractLsb' 6 6) (o.extractLsb' 0 6))
  | 131 => .ok (.vmul (o.extractLsb' 12 6) (o.extractLsb' 6 6) (o.extractLsb' 0 6))
  | 132 => .ok (.vfma (o.extractLsb' 12 6) (o.extractLsb' 6 6) (o.extractLsb' 0 6))
  | 133 => .ok (.vmin (o.extractLsb' 12 6) (o.extractLsb' 6 6) (o.extractLsb' 0 6))
  | 134 => .ok (.vmax (o.extractLsb' 12 6) (o.extractLsb' 6 6) (o.extractLsb' 0 6))
  | 135 => unreserved o 0x0003F#18 (.vabs (o.extractLsb' 12 6) (o.extractLsb' 6 6))
  | 136 => unreserved o 0x0003F#18 (.vneg (o.extractLsb' 12 6) (o.extractLsb' 6 6))
  | 137 => .ok (.vand (o.extractLsb' 12 6) (o.extractLsb' 6 6) (o.extractLsb' 0 6))
  | 138 => .ok (.vor (o.extractLsb' 12 6) (o.extractLsb' 6 6) (o.extractLsb' 0 6))
  | 139 => .ok (.vxor (o.extractLsb' 12 6) (o.extractLsb' 6 6) (o.extractLsb' 0 6))
  | 140 => .ok (.vshl (o.extractLsb' 12 6) (o.extractLsb' 6 6) (o.extractLsb' 0 6))
  | 141 => .ok (.vshr (o.extractLsb' 12 6) (o.extractLsb' 6 6) (o.extractLsb' 0 6))
  | 142 => .ok (.vsar (o.extractLsb' 12 6) (o.extractLsb' 6 6) (o.extractLsb' 0 6))
  | 143 => .ok (.vsel (o.extractLsb' 12 6) (o.extractLsb' 6 6) (o.extractLsb' 0 6))
  | 144 => unreserved o 0x0003F#18 (.vmov (o.extractLsb' 12 6) (o.extractLsb' 6 6))
  | 145 => unreserved o 0x0003F#18 (.vbcast (o.extractLsb' 12 6) (o.extractLsb' 6 6))
  | 146 => .ok (.vextr (o.extractLsb' 12 6) (o.extractLsb' 6 6) (o.extractLsb' 0 6))
  | 147 => .ok (.vclamp (o.extractLsb' 12 6) (o.extractLsb' 6 6) (o.extractLsb' 0 6))
  | 193 => .ok (.vcmpEq (o.extractLsb' 12 6) (o.extractLsb' 6 6) (o.extractLsb' 0 6))
  | 194 => .ok (.vcmpNe (o.extractLsb' 12 6) (o.extractLsb' 6 6) (o.extractLsb' 0 6))
  | 195 => .ok (.vcmpLt (o.extractLsb' 12 6) (o.extractLsb' 6 6) (o.extractLsb' 0 6))
  | 196 => .ok (.vcmpLe (o.extractLsb' 12 6) (o.extractLsb' 6 6) (o.extractLsb' 0 6))
  | 197 => .ok (.vperm (o.extractLsb' 12 6) (o.extractLsb' 6 6) (o.extractLsb' 0 6))
  | 198 => unreserved o 0x0003F#18 (.vredsSum (o.extractLsb' 12 6) (o.extractLsb' 6 6))
  | 199 => unreserved o 0x0003F#18 (.vredsMax (o.extractLsb' 12 6) (o.extractLsb' 6 6))
  | 200 => unreserved o 0x0003F#18 (.vredsMin (o.extractLsb' 12 6) (o.extractLsb' 6 6))
  | 201 => unreserved o 0x0003F#18 (.vcvt (o.extractLsb' 12 6) (o.extractLsb' 6 6))
  | 202 => .ok (.vscale (o.extractLsb' 12 6) (o.extractLsb' 6 6) (o.extractLsb' 0 6))
  | 203 => unreserved o 0x3F03F#18 (.mpush (o.extractLsb' 6 6))
  | 204 => unreserved o 0x3FFFF#18 (.minv)
  | 205 => unreserved o 0x3FFFF#18 (.mpop)
  | 206 => unreserved o 0x3F000#18 (.vskip (o.extractLsb' 0 12))
  | 208 => .ok (.vdot4 0#1 0#1 0#1 (o.extractLsb' 12 6) (o.extractLsb' 6 6) (o.extractLsb' 0 6))
  | 209 => .ok (.vdot4 0#1 0#1 1#1 (o.extractLsb' 12 6) (o.extractLsb' 6 6) (o.extractLsb' 0 6))
  | 210 => .ok (.vdot4 0#1 1#1 0#1 (o.extractLsb' 12 6) (o.extractLsb' 6 6) (o.extractLsb' 0 6))
  | 211 => .ok (.vdot4 0#1 1#1 1#1 (o.extractLsb' 12 6) (o.extractLsb' 6 6) (o.extractLsb' 0 6))
  | 212 => .ok (.vdot4 1#1 0#1 0#1 (o.extractLsb' 12 6) (o.extractLsb' 6 6) (o.extractLsb' 0 6))
  | 213 => .ok (.vdot4 1#1 0#1 1#1 (o.extractLsb' 12 6) (o.extractLsb' 6 6) (o.extractLsb' 0 6))
  | 214 => .ok (.vdot4 1#1 1#1 0#1 (o.extractLsb' 12 6) (o.extractLsb' 6 6) (o.extractLsb' 0 6))
  | 215 => .ok (.vdot4 1#1 1#1 1#1 (o.extractLsb' 12 6) (o.extractLsb' 6 6) (o.extractLsb' 0 6))
  | 216 => .ok (.vdot8 0#1 0#1 0#1 (o.extractLsb' 12 6) (o.extractLsb' 6 6) (o.extractLsb' 0 6))
  | 217 => .ok (.vdot8 0#1 0#1 1#1 (o.extractLsb' 12 6) (o.extractLsb' 6 6) (o.extractLsb' 0 6))
  | 218 => .ok (.vdot8 0#1 1#1 0#1 (o.extractLsb' 12 6) (o.extractLsb' 6 6) (o.extractLsb' 0 6))
  | 219 => .ok (.vdot8 0#1 1#1 1#1 (o.extractLsb' 12 6) (o.extractLsb' 6 6) (o.extractLsb' 0 6))
  | 220 => .ok (.vdot8 1#1 0#1 0#1 (o.extractLsb' 12 6) (o.extractLsb' 6 6) (o.extractLsb' 0 6))
  | 221 => .ok (.vdot8 1#1 0#1 1#1 (o.extractLsb' 12 6) (o.extractLsb' 6 6) (o.extractLsb' 0 6))
  | 222 => .ok (.vdot8 1#1 1#1 0#1 (o.extractLsb' 12 6) (o.extractLsb' 6 6) (o.extractLsb' 0 6))
  | 223 => .ok (.vdot8 1#1 1#1 1#1 (o.extractLsb' 12 6) (o.extractLsb' 6 6) (o.extractLsb' 0 6))
  | 257 => unreserved o 0x0003F#18 (.sfexp (o.extractLsb' 12 6) (o.extractLsb' 6 6))
  | 258 => unreserved o 0x0003F#18 (.sflog (o.extractLsb' 12 6) (o.extractLsb' 6 6))
  | 259 => unreserved o 0x0003F#18 (.sfrcp (o.extractLsb' 12 6) (o.extractLsb' 6 6))
  | 260 => unreserved o 0x0003F#18 (.sfrsq (o.extractLsb' 12 6) (o.extractLsb' 6 6))
  | 261 => unreserved o 0x0003F#18 (.sfsqrt (o.extractLsb' 12 6) (o.extractLsb' 6 6))
  | 262 => unreserved o 0x0003F#18 (.sfsin (o.extractLsb' 12 6) (o.extractLsb' 6 6))
  | 263 => unreserved o 0x0003F#18 (.sfcos (o.extractLsb' 12 6) (o.extractLsb' 6 6))
  | 264 => unreserved o 0x0003F#18 (.sftanh (o.extractLsb' 12 6) (o.extractLsb' 6 6))
  | 265 => unreserved o 0x0003F#18 (.sfsigm (o.extractLsb' 12 6) (o.extractLsb' 6 6))
  | 266 => unreserved o 0x0003F#18 (.sferf (o.extractLsb' 12 6) (o.extractLsb' 6 6))
  | 267 => .ok (.rngc (o.extractLsb' 12 6) (o.extractLsb' 6 6) (o.extractLsb' 0 6))
  | 321 => .ok (.lds (o.extractLsb' 12 6) (o.extractLsb' 6 6) (o.extractLsb' 0 6))
  | 322 => .ok (.ldsChk (o.extractLsb' 12 6) (o.extractLsb' 6 6) (o.extractLsb' 0 6))
  | 323 => .ok (.sts (o.extractLsb' 12 6) (o.extractLsb' 6 6) (o.extractLsb' 0 6))
  | 324 => .ok (.ldv (o.extractLsb' 12 6) (o.extractLsb' 6 6) (o.extractLsb' 0 6))
  | 325 => .ok (.ldvChk (o.extractLsb' 12 6) (o.extractLsb' 6 6) (o.extractLsb' 0 6))
  | 326 => .ok (.stv (o.extractLsb' 12 6) (o.extractLsb' 6 6) (o.extractLsb' 0 6))
  | 327 => .ok (.ldvd (o.extractLsb' 12 6) (o.extractLsb' 6 6) (o.extractLsb' 0 6))
  | 328 => .ok (.ldvdChk (o.extractLsb' 12 6) (o.extractLsb' 6 6) (o.extractLsb' 0 6))
  | 329 => .ok (.stvd (o.extractLsb' 12 6) (o.extractLsb' 6 6) (o.extractLsb' 0 6))
  | 330 => .ok (.ldt (o.extractLsb' 12 6) (o.extractLsb' 6 6) (o.extractLsb' 0 6))
  | 331 => .ok (.ldtChk (o.extractLsb' 12 6) (o.extractLsb' 6 6) (o.extractLsb' 0 6))
  | 332 => .ok (.ldtm (o.extractLsb' 12 6) (o.extractLsb' 6 6) (o.extractLsb' 0 6))
  | 333 => .ok (.ldtmChk (o.extractLsb' 12 6) (o.extractLsb' 6 6) (o.extractLsb' 0 6))
  | 334 => .ok (.stt (o.extractLsb' 12 6) (o.extractLsb' 6 6) (o.extractLsb' 0 6))
  | 335 => unreserved o 0x00FE0#18 (.tap (o.extractLsb' 12 6) (o.extractLsb' 4 1) (o.extractLsb' 0 4))
  | 336 => unreserved o 0x3F020#18 (.put (o.extractLsb' 6 6) (o.extractLsb' 4 1) (o.extractLsb' 0 4))
  | 337 => unreserved o 0x3003F#18 (.qpush (o.extractLsb' 15 1) (o.extractLsb' 14 1) (o.extractLsb' 12 2) (o.extractLsb' 6 6))
  | 338 => unreserved o 0x00FF8#18 (.qpop (o.extractLsb' 12 6) (o.extractLsb' 0 3))
  | 339 => unreserved o 0x3FFF8#18 (.qsel (o.extractLsb' 0 3))
  | 340 => .ok (.accld (o.extractLsb' 12 6) (o.extractLsb' 6 6) (o.extractLsb' 0 6))
  | 341 => .ok (.accldChk (o.extractLsb' 12 6) (o.extractLsb' 6 6) (o.extractLsb' 0 6))
  | 342 => .ok (.accst (o.extractLsb' 12 6) (o.extractLsb' 6 6) (o.extractLsb' 0 6))
  | 385 => .ok (.cube (o.extractLsb' 12 6) (o.extractLsb' 6 6) (o.extractLsb' 0 6))
  | 386 => .ok (.cubeh (o.extractLsb' 12 6) (o.extractLsb' 6 6) (o.extractLsb' 0 6))
  | 387 => .ok (.wld (o.extractLsb' 12 6) (o.extractLsb' 6 6) (o.extractLsb' 0 6))
  | 388 => .ok (.wldSp (o.extractLsb' 12 6) (o.extractLsb' 6 6) (o.extractLsb' 0 6))
  | 389 => .ok (.wswap (o.extractLsb' 12 6) (o.extractLsb' 6 6) (o.extractLsb' 0 6))
  | 390 => unreserved o 0x0003F#18 (.lease (o.extractLsb' 12 6) (o.extractLsb' 6 6))
  | 391 => unreserved o 0x0003F#18 (.unlease (o.extractLsb' 12 6) (o.extractLsb' 6 6))
  | 392 => .ok (.copy (o.extractLsb' 12 6) (o.extractLsb' 6 6) (o.extractLsb' 0 6))
  | 393 => .ok (.ccopy (o.extractLsb' 12 6) (o.extractLsb' 6 6) (o.extractLsb' 0 6))
  | 394 => .ok (.layout (o.extractLsb' 12 6) (o.extractLsb' 6 6) (o.extractLsb' 0 6))
  | 395 => .ok (.scat (o.extractLsb' 12 6) (o.extractLsb' 6 6) (o.extractLsb' 0 6))
  | 396 => .ok (.nmred (o.extractLsb' 12 6) (o.extractLsb' 6 6) (o.extractLsb' 0 6))
  | 397 => .ok (.nmcas (o.extractLsb' 12 6) (o.extractLsb' 6 6) (o.extractLsb' 0 6))
  | 398 => .ok (.nmsac (o.extractLsb' 12 6) (o.extractLsb' 6 6) (o.extractLsb' 0 6))
  | 399 => unreserved o 0x0003F#18 (.probe (o.extractLsb' 12 6) (o.extractLsb' 6 6))
  | 400 => unreserved o 0x0003F#18 (.probeReq (o.extractLsb' 12 6) (o.extractLsb' 6 6))
  | 401 => .ok (.fsend (o.extractLsb' 12 6) (o.extractLsb' 6 6) (o.extractLsb' 0 6))
  | 402 => .ok (.frecv (o.extractLsb' 12 6) (o.extractLsb' 6 6) (o.extractLsb' 0 6))
  | 403 => .ok (.fld (o.extractLsb' 12 6) (o.extractLsb' 6 6) (o.extractLsb' 0 6))
  | 404 => .ok (.fst (o.extractLsb' 12 6) (o.extractLsb' 6 6) (o.extractLsb' 0 6))
  | 405 => .ok (.fatom (o.extractLsb' 12 6) (o.extractLsb' 6 6) (o.extractLsb' 0 6))
  | 406 => .ok (.coll (o.extractLsb' 12 6) (o.extractLsb' 6 6) (o.extractLsb' 0 6))
  | 407 => .ok (.sig (o.extractLsb' 12 6) (o.extractLsb' 6 6) (o.extractLsb' 0 6))
  | 408 => unreserved o 0x0003F#18 (.launch (o.extractLsb' 12 6) (o.extractLsb' 6 6))
  | 409 => unreserved o 0x0003F#18 (.hset (o.extractLsb' 12 6) (o.extractLsb' 6 6))
  | 448 => unreserved o 0x3FFFF#18 (.nop)
  | 449 => .ok (.deps (o.extractLsb' 12 6) (o.extractLsb' 6 6) (o.extractLsb' 0 6))
  | 450 => .ok (.pfx (o.extractLsb' 0 18))
  | 451 => unreserved o 0x03FFF#18 (.pfxG (o.extractLsb' 17 1) (o.extractLsb' 14 3))
  | 452 => .ok (.mfc (o.extractLsb' 12 6) (o.extractLsb' 0 12))
  | 453 => decodeMtc (o.extractLsb' 12 6) (o.extractLsb' 0 12)
  | 454 => unreserved o 0x3FFFC#18 (.fence (o.extractLsb' 0 2))
  | 455 => .ok (.trap (o.extractLsb' 0 18))
  | 456 => unreserved o 0x0003F#18 (.tshoot (o.extractLsb' 12 6) (o.extractLsb' 6 6))
  | 457 => unreserved o 0x3FFFF#18 (.audit)
  | 458 => unreserved o 0x3FFFF#18 (.viewj)
  | _ => .error .unassigned

/-- A slot from its word (R314). The version is not judged here: a bundle judges it (R317). -/
def decodeSlot (w : BitVec 32) : Except DecodeReject Slot :=
  match decodeInstr (w.extractLsb' 20 9) (w.extractLsb' 0 18) with
  | .ok i => .ok { stop := w.getLsbD 31, ver := w.extractLsb' 29 2, sc := w.extractLsb' 18 2, op := i }
  | .error r => .error r

/-- Four bytes, the lowest address first, as a slot word (R3, R314). -/
def slotWordOfBytes (b0 b1 b2 b3 : Byte) : BitVec 32 := b3 ++ b2 ++ b1 ++ b0

/-- A slot word as it is stored, the lowest address first (R314). -/
def slotWordBytes (w : BitVec 32) : List Byte :=
  [w.extractLsb' 0 8, w.extractLsb' 8 8, w.extractLsb' 16 8, w.extractLsb' 24 8]

/-- The first slot of a run of bytes and the bytes after it; `none` where fewer than four bytes are left. -/
def decodeBytes : List Byte → Option (Except DecodeReject Slot × List Byte)
  | b0 :: b1 :: b2 :: b3 :: rest => some (decodeSlot (slotWordOfBytes b0 b1 b2 b3), rest)
  | _ => none

/-- The opcode and the operand bits of an instruction; `none` for a device event, which has no encoding. -/
def encodeInstr : Instr → Option (BitVec 9 × BitVec 18)
  | .add d a b => some (1#9, d ++ a ++ b)
  | .sub d a b => some (2#9, d ++ a ++ b)
  | .mul d a b => some (3#9, d ++ a ++ b)
  | .mulh d a b => some (4#9, d ++ a ++ b)
  | .mulhu d a b => some (5#9, d ++ a ++ b)
  | .div d a b => some (6#9, d ++ a ++ b)
  | .divu d a b => some (7#9, d ++ a ++ b)
  | .rem d a b => some (8#9, d ++ a ++ b)
  | .remu d a b => some (9#9, d ++ a ++ b)
  | .and d a b => some (10#9, d ++ a ++ b)
  | .or d a b => some (11#9, d ++ a ++ b)
  | .xor d a b => some (12#9, d ++ a ++ b)
  | .shl d a b => some (13#9, d ++ a ++ b)
  | .shr d a b => some (14#9, d ++ a ++ b)
  | .sar d a b => some (15#9, d ++ a ++ b)
  | .min d a b => some (16#9, d ++ a ++ b)
  | .max d a b => some (17#9, d ++ a ++ b)
  | .minu d a b => some (18#9, d ++ a ++ b)
  | .maxu d a b => some (19#9, d ++ a ++ b)
  | .clz d a => some (20#9, d ++ a ++ 0#6)
  | .popc d a => some (21#9, d ++ a ++ 0#6)
  | .addi d a i => some (22#9, d ++ a ++ i)
  | .andi d a i => some (23#9, d ++ a ++ i)
  | .ori d a i => some (24#9, d ++ a ++ i)
  | .xori d a i => some (25#9, d ++ a ++ i)
  | .shli d a k => some (26#9, d ++ a ++ k)
  | .shri d a k => some (27#9, d ++ a ++ k)
  | .sari d a k => some (28#9, d ++ a ++ k)
  | .movi d i => some (29#9, d ++ i)
  | .movhi d i => some (30#9, d ++ i)
  | .cmp c p a b => some (31#9, c ++ p ++ a ++ b)
  | .cmpi c p a i => some (32#9, c ++ p ++ a ++ i)
  | .sel n d a b => some ((5#6 ++ n), d ++ a ++ b)
  | .br n p o => some (65#9, n ++ p ++ o)
  | .jal d i => some (66#9, d ++ i)
  | .jind n p d a => some (67#9, n ++ p ++ d ++ a ++ 0#2)
  | .loop a m => some (68#9, a ++ m)
  | .loopi i m => some (69#9, i ++ m)
  | .timedImm i => some (70#9, i)
  | .timedReg a => some (71#9, 0#6 ++ a ++ 0#6)
  | .paced => some (72#9, 0#18)
  | .endStrand => some (73#9, 0#18)
  | .yield => some (74#9, 0#18)
  | .barr x g => some (75#9, 0#9 ++ x ++ g)
  | .twait a b c => some (76#9, a ++ b ++ c)
  | .hwait e h => some (77#9, 0#8 ++ e ++ h)
  | .waitc a b => some (78#9, 0#6 ++ a ++ b)
  | .vadd d a b => some (129#9, d ++ a ++ b)
  | .vsub d a b => some (130#9, d ++ a ++ b)
  | .vmul d a b => some (131#9, d ++ a ++ b)
  | .vfma d a b => some (132#9, d ++ a ++ b)
  | .vmin d a b => some (133#9, d ++ a ++ b)
  | .vmax d a b => some (134#9, d ++ a ++ b)
  | .vabs d a => some (135#9, d ++ a ++ 0#6)
  | .vneg d a => some (136#9, d ++ a ++ 0#6)
  | .vand d a b => some (137#9, d ++ a ++ b)
  | .vor d a b => some (138#9, d ++ a ++ b)
  | .vxor d a b => some (139#9, d ++ a ++ b)
  | .vshl d a k => some (140#9, d ++ a ++ k)
  | .vshr d a k => some (141#9, d ++ a ++ k)
  | .vsar d a k => some (142#9, d ++ a ++ k)
  | .vsel d m a => some (143#9, d ++ m ++ a)
  | .vmov d a => some (144#9, d ++ a ++ 0#6)
  | .vbcast d a => some (145#9, d ++ a ++ 0#6)
  | .vextr d a b => some (146#9, d ++ a ++ b)
  | .vclamp d a b => some (147#9, d ++ a ++ b)
  | .vcmpEq d a b => some (193#9, d ++ a ++ b)
  | .vcmpNe d a b => some (194#9, d ++ a ++ b)
  | .vcmpLt d a b => some (195#9, d ++ a ++ b)
  | .vcmpLe d a b => some (196#9, d ++ a ++ b)
  | .vperm d a b => some (197#9, d ++ a ++ b)
  | .vredsSum d a => some (198#9, d ++ a ++ 0#6)
  | .vredsMax d a => some (199#9, d ++ a ++ 0#6)
  | .vredsMin d a => some (200#9, d ++ a ++ 0#6)
  | .vcvt d a => some (201#9, d ++ a ++ 0#6)
  | .vscale d a b => some (202#9, d ++ a ++ b)
  | .mpush a => some (203#9, 0#6 ++ a ++ 0#6)
  | .minv => some (204#9, 0#18)
  | .mpop => some (205#9, 0#18)
  | .vskip n => some (206#9, 0#6 ++ n)
  | .vdot4 t u w d a b => some ((26#6 ++ t ++ u ++ w), d ++ a ++ b)
  | .vdot8 t u w d a b => some ((27#6 ++ t ++ u ++ w), d ++ a ++ b)
  | .sfexp d a => some (257#9, d ++ a ++ 0#6)
  | .sflog d a => some (258#9, d ++ a ++ 0#6)
  | .sfrcp d a => some (259#9, d ++ a ++ 0#6)
  | .sfrsq d a => some (260#9, d ++ a ++ 0#6)
  | .sfsqrt d a => some (261#9, d ++ a ++ 0#6)
  | .sfsin d a => some (262#9, d ++ a ++ 0#6)
  | .sfcos d a => some (263#9, d ++ a ++ 0#6)
  | .sftanh d a => some (264#9, d ++ a ++ 0#6)
  | .sfsigm d a => some (265#9, d ++ a ++ 0#6)
  | .sferf d a => some (266#9, d ++ a ++ 0#6)
  | .rngc d a b => some (267#9, d ++ a ++ b)
  | .lds d a o => some (321#9, d ++ a ++ o)
  | .ldsChk d a o => some (322#9, d ++ a ++ o)
  | .sts d a o => some (323#9, d ++ a ++ o)
  | .ldv d a o => some (324#9, d ++ a ++ o)
  | .ldvChk d a o => some (325#9, d ++ a ++ o)
  | .stv d a o => some (326#9, d ++ a ++ o)
  | .ldvd d a o => some (327#9, d ++ a ++ o)
  | .ldvdChk d a o => some (328#9, d ++ a ++ o)
  | .stvd d a o => some (329#9, d ++ a ++ o)
  | .ldt d a b => some (330#9, d ++ a ++ b)
  | .ldtChk d a b => some (331#9, d ++ a ++ b)
  | .ldtm d a b => some (332#9, d ++ a ++ b)
  | .ldtmChk d a b => some (333#9, d ++ a ++ b)
  | .stt d a b => some (334#9, d ++ a ++ b)
  | .tap d r l => some (335#9, d ++ 0#7 ++ r ++ l)
  | .put a r l => some (336#9, 0#6 ++ a ++ 0#1 ++ r ++ l)
  | .qpush e n m a => some (337#9, 0#2 ++ e ++ n ++ m ++ a ++ 0#6)
  | .qpop d m => some (338#9, d ++ 0#9 ++ m)
  | .qsel p => some (339#9, 0#15 ++ p)
  | .accld d a o => some (340#9, d ++ a ++ o)
  | .accldChk d a o => some (341#9, d ++ a ++ o)
  | .accst d a o => some (342#9, d ++ a ++ o)
  | .cube t a b => some (385#9, t ++ a ++ b)
  | .cubeh t a b => some (386#9, t ++ a ++ b)
  | .wld t a b => some (387#9, t ++ a ++ b)
  | .wldSp t a b => some (388#9, t ++ a ++ b)
  | .wswap t a b => some (389#9, t ++ a ++ b)
  | .lease t a => some (390#9, t ++ a ++ 0#6)
  | .unlease t a => some (391#9, t ++ a ++ 0#6)
  | .copy t a b => some (392#9, t ++ a ++ b)
  | .ccopy t a b => some (393#9, t ++ a ++ b)
  | .layout t a b => some (394#9, t ++ a ++ b)
  | .scat t a b => some (395#9, t ++ a ++ b)
  | .nmred t a b => some (396#9, t ++ a ++ b)
  | .nmcas t a b => some (397#9, t ++ a ++ b)
  | .nmsac t a b => some (398#9, t ++ a ++ b)
  | .probe t a => some (399#9, t ++ a ++ 0#6)
  | .probeReq t a => some (400#9, t ++ a ++ 0#6)
  | .fsend t a b => some (401#9, t ++ a ++ b)
  | .frecv t a b => some (402#9, t ++ a ++ b)
  | .fld t a b => some (403#9, t ++ a ++ b)
  | .fst t a b => some (404#9, t ++ a ++ b)
  | .fatom t a b => some (405#9, t ++ a ++ b)
  | .coll t a b => some (406#9, t ++ a ++ b)
  | .sig t a b => some (407#9, t ++ a ++ b)
  | .launch t a => some (408#9, t ++ a ++ 0#6)
  | .hset t a => some (409#9, t ++ a ++ 0#6)
  | .nop => some (448#9, 0#18)
  | .deps a b c => some (449#9, a ++ b ++ c)
  | .pfx i => some (450#9, i)
  | .pfxG n p => some (451#9, n ++ p ++ 0#14)
  | .mfc d r => some (452#9, d ++ r)
  | .mtc a r => some (453#9, a ++ r)
  | .mtcMbxst a => some (453#9, a ++ 151#12)
  | .mtcQv a m => some (453#9, a ++ 38#10 ++ m)
  | .mtcTcfg a n => some (453#9, a ++ 5#7 ++ n)
  | .mtcAcfg a n => some (453#9, a ++ 12#8 ++ n)
  | .fence e => some (454#9, 0#16 ++ e)
  | .trap i => some (455#9, i)
  | .tshoot t a => some (456#9, t ++ a ++ 0#6)
  | .audit => some (457#9, 0#18)
  | .viewj => some (458#9, 0#18)
  | _ => none

/-- The word of a slot (R314); `none` where its operation is a device event. -/
def encodeSlot (s : Slot) : Option (BitVec 32) :=
  match encodeInstr s.op with
  | some (opcode, o) => some (BitVec.ofBool s.stop ++ s.ver ++ opcode ++ s.sc ++ o)
  | none => none

/-- The words of a well-formed instruction: one slot, with S, VER and SC at zero as the reference entries write it
(R344). -/
def encode (i : Instr) : Option (BitVec 32) :=
  encodeSlot { stop := false, ver := 0, sc := 0, op := i }

/-- The instruction the decoder reads from a row's bits as spec/opcode_table.json numbers them: a slot is one word of
32 bits, stored little-endian (R314). -/
def decodeTableWord (nbits w : Nat) : Option Instr :=
  if nbits ≤ 32 then
    match decodeBytes (slotWordBytes (BitVec.ofNat 32 w)) with
    | some (.ok s, _) => some s.op
    | _ => none
  else none

end Sys2Proof
end

