-- ==== Sys2Proof/Config.lean ====
section
/-! DEFINITION. Constants of one X4, and the free values: functions with no body, so that nothing can be proved of a
value they give. -/

namespace Sys2Proof.Config

/-- A value the manual leaves open, for the n-th time one is needed (log 5). -/
opaque freeWord : Nat → Word

/-- A choice the manual leaves to the hardware, a delay or one of several outcomes, for the n-th time one is made (log 4). -/
opaque freeChoice : Nat → Nat

/-- Whether a timed WAITC that may see a counter at its target does, for its cycle, core and slot (R479; log 16). -/
opaque counterSeen : Nat → Nat → Nat → Bool

/-- What a granule written under one context's key reads as under another key (R141): contexts and keys of writer and reader,
the granule address and the bytes (log 10). -/
opaque rekey : Nat → Nat → Nat → Nat → Nat → Chunk → Chunk

/-- SHAKE256 (R301, R302, R342): the number of output bytes and the message (log 11). -/
opaque shake256 : Nat → List Byte → List Byte

/-- The hash of the Falcon-1024 public key under which a signature of a message verifies (R301, R302; log 11). -/
opaque falconKey : List Byte → BitVec 10240 → Word

/-- The Falcon-1024 signature of a message under the private key of a hash (R302, R303, R307; log 11). -/
opaque falconSign : Word → List Byte → List Byte

/-- A 256-byte flit: the ciphertext and tag of AES-256-GCM under the pair key of a number, for a header and payload (R257; log 11). -/
opaque gcmSeal : Nat → BitVec 1920 → BitVec 2048

/-- The payload of flit `i` of an untimed request in the UALink transaction layer, from the request's fields and data (R270; log 88). -/
opaque ualinkPayload : List Nat → List Byte → Nat → BitVec 1792

/-- The intermediate device through which the responses to a peer's stream go back, or the peer itself where none of that number may be one: for
source, context and order class of the stream (R275; log 104). -/
opaque replyPath : Nat → Nat → Nat → Nat

/-- The payload of a link-control flit: for the cycle, the port and the link whose flits it acknowledges (R259; log 88). -/
opaque ackPayload : Nat → Nat → Nat → BitVec 1792

/-- The draw of the auditor's generator, which no software can read or seed (R295; log 12): whether the n-th draw selects a
command under sampling exponent N. -/
opaque auditDraw : Nat → Nat → Bool

/-- The UALink completion status of a request that fails at a check of R272, by its number there (log 17). -/
opaque ualinkStatus : Nat → BitVec 8

/-- RETW.MAX (R127). -/
def retwMax : Nat := 54687

/-- Length of an aging interval of the scheduler in CYC cy (R104, R105). -/
def agingInterval : Nat := 2 ^ 22

/-- Longest time from a stop being asked for to the stop cycle, in tower cy (R113). -/
def stopWithin : Nat := 64

end Sys2Proof.Config
end

