-- ==== Sys2Proof/Machine/State.lean ====
section
/-! DEFINITION. The state of one Thiurjor X4 as plain data, the reasons a step can stop, and the state right after
device reset. Sparse storage is an `SMap`: a list of keys and values, keys strictly rising, no entry equal to the value an
unlisted key reads as (Machine/Ops.lean has its operations). Every field's docstring names the rule that gives it; fields that
are the model's own say so. -/

namespace Sys2Proof.Machine

/-- Sparse storage: keys strictly rising, no entry equal to the default of its kind. -/
abbrev SMap (α : Type) := List (Nat × α)

/-! ### Reasons a step can stop -/

/-- Machine faults. The X4 has none of its own: a fault of a strand stops its team and is a next state (R281 to R284). -/
inductive Fault where
  /-- Raised by createContext: the host hands the keep initial table contents beyond the 4 TiB of HBM (R15, R133), which no address
  reaches. Safe. -/
  | noSuchAddress
  deriving DecidableEq, Repr

/-- Refusals. -/
inductive Refusal where
  /-- Raised only by an arm of the dispatch whose instruction has no meaning yet. Safe. -/
  | notModelled (mnemonic : String)
  deriving DecidableEq, Repr

/-! ### Faults of the architecture -/

/-- The classes and codes of R279, by name. -/
inductive Cause where
  | scheduleTag | scheduleToken | scheduleBank | scheduleLease | scheduleDepart | scheduleUnposted | scheduleWait
  | scheduleRdv
  | poisonConsume | poisonFetch
  | accchkRow
  | illegalInstr | illegalVersion | illegalOperand | illegalType | illegalBundle
  | translationEntry | translationUnmapped | translationChannel
  | probeMiss
  | protectionWrite | protectionRing
  | engDesc | engViewRange | engViewAlias | engRingRange | engCmdRm | engSeq | engBand | engGroup | engCubeFmt
  | engCubePair | engCubeAcc | engCubeOfs | engCubeSp | engCubeWld | engLayoutDmw | engLayoutShape | engLayoutFmt
  | engCopyKind | engCopyShape | engCopyFmt | engCcopyShape | engScatFmt | engScatIndex | engCollShape | engCollFmt
  | engCollMismatch | engQueueRange | engFabDepart | engFabDest | engFabRemote | engFabTimeout
  | thermalTrip
  | trap
  | eventZeroFill | eventResidency | eventUnposted | eventAudit | eventDesync
  deriving DecidableEq, Repr

/-- Where a fault is detected, earliest first (R280). -/
inductive Point where
  | fetch | decode | read | start | access | outside
  deriving DecidableEq, Repr

/-- A fault found: its cause, where, in which slot, the DETAIL word of R287, the context that set a consumed poison and
that poison's cause (R286), and the physical accumulator rows whose check failed (R177). -/
structure Raised where
  cause : Cause
  point : Point
  slot : Nat
  detail : Word
  pctx : Nat
  pcause : Nat
  badRow : Option Nat
  deriving DecidableEq, Repr

/-! ### Views and descriptors -/

/-- A descriptor (R123), its fields as numbers. -/
structure Desc where
  fmt : Nat
  rank : Nat
  lay : Nat
  planes : Nat
  zeroFill : Bool
  short : Bool
  keyid : Nat
  retw : Nat
  bshape : List Nat
  root : Nat
  ext : List Nat
  scaleid : Nat
  deriving DecidableEq, Repr

/-- One dimension of a view (R128): extent, signed stride and the tensor dimension it steps. -/
structure VDim where
  ext : Nat
  str : Int
  td : Nat
  deriving DecidableEq, Repr

/-- A view (R128); `reserved` is set where a reserved bit of it is. -/
structure View where
  tid : Nat
  pln : Nat
  org : List Nat
  dims : List VDim
  reserved : Bool
  deriving DecidableEq, Repr

/-- A view with the descriptor of its tensor, and of its scale tensor for an MX format, as read at a command's start
(R126). -/
structure Bound where
  view : View
  desc : Desc
  scale : Option Desc
  deriving DecidableEq, Repr

/-! ### Strands -/

/-- The issue mode of a strand (R59, R61). -/
inductive Mode where
  | paced | timed
  deriving DecidableEq, Repr

/-- The states of a token (R76). -/
inductive TokState where
  | idle | pending | done
  deriving DecidableEq, Repr

/-- A token: its state and the status of its last completion (R76, R77). -/
structure Token where
  st : TokState
  status : BitVec 4
  deriving DecidableEq, Repr

/-- The states of a strand (R83). -/
inductive StrandState where
  | loading | run | wait | drain | saved | frozen | retired
  deriving DecidableEq, Repr

/-- What a paced strand in state WAIT is held by (R64). A WAITC keeps its SWPTH.CYCLES and its slot, and the CYC in which the near-memory unit
reports that the counter has reached the target (R408, R479). -/
inductive Wait where
  | tokens (a b c : Nat)
  | handle (h state : Nat)
  | counter (addr target : Word) (since : Nat) (cycles : BitVec 40) (slot : Nat) (report : Option Nat)
  | barrier (count : Nat)
  | crossBarrier (group count : Nat) (members : List Nat)
  | lease (claim : Nat)
  | queue
  | tokenless (need : Nat)
  deriving DecidableEq, Repr

/-- An open hardware loop (R70, R71): the LC it uses, the offsets of its body's first bundle and of the bundle after
the body, the count and the index of the current iteration. -/
structure LoopFrame where
  lc : Nat
  first : Nat
  after : Nat
  count : Nat
  index : Nat
  deriving DecidableEq, Repr

/-- Where a ring load's bytes go: a scalar register, an accumulator row (strand row number), four lines of a tile with
the TCFG fields taken at issue (R399), or a plane chunk (R399). -/
inductive LoadDst where
  | sreg (d : BitVec 6)
  | row (rho : Nat)
  | lines (tile line bytes rows : Nat) (oddNibble : Bool)
  | plane (tile chunk : Nat) (isMeta : Bool)
  deriving DecidableEq, Repr

/-- A result on its way to its destination (R65). A ring load holds its address until it performs, in issue + 3, and the bytes
and their poison after. A row result holds the bytes to write and which bytes of the row it writes. -/
inductive Result where
  | sreg (d : BitVec 6) (v : Word) (pois : Bool)
  | preg (d : BitVec 3) (v : Bool)
  | row (rho : Nat) (data : Row) (bytes : Mask) (pois : BitVec 8)
  | load (dst : LoadDst) (ea : BitVec 28) (size : Nat) (diag : Bool) (got : Option (Row × BitVec 8))
  | tap (rho : Nat) (anti : Bool) (lane : Nat)
  deriving DecidableEq, Repr

/-- A result in flight (R65, R67): the team cycle of its issue, the one at whose end it commits and, for a ring load, the one
in which it performs. -/
structure InFlight where
  issued : Nat
  perform : Nat
  commit : Nat
  what : Result
  deriving DecidableEq, Repr

/-- A core's ring store on its way (R156): it performs in team cycle `perform`; `pois` marks the poisoned 64-byte parts. -/
structure RingStore where
  perform : Nat
  ea : BitVec 28
  size : Nat
  diag : Bool
  data : Row
  pois : BitVec 8
  deriving DecidableEq, Repr

/-- A value on a lane (R165): driven in team cycle `p`, it stands at the k-th station on in cycle p + k, for k = 1 to 16. -/
structure LaneValue where
  p : Nat
  twi : Nat
  stn : Nat
  anti : Bool
  lane : Nat
  data : Row
  pois : BitVec 8
  deriving DecidableEq, Repr

/-- What the address generator holds of a QV slot's view (R436). -/
inductive QvState where
  | invalid
  | poisoned
  | valid (b : Bound)
  deriving DecidableEq, Repr

/-- A QV slot (R235, R436): the register, the CYC at which the generator reads a newly written view, and what it
read. -/
structure QvSlot where
  reg : Word
  readAt : Option Nat
  st : QvState
  deriving DecidableEq, Repr

/-- The place of an address-queue entry (R235, R236). -/
inductive AqPlace where
  | queued | outstanding | arrived
  deriving DecidableEq, Repr

/-- An entry of the address queues (R236, R237), oldest pushed first in its list: its identity, the bundle and slot of its push, bank,
whether it belongs to the open group, the view and index it reads, whether it is INVALID, where it stands, the tower times of its push and
from which on its data return, its bytes and poison bit, and the granules of peer pages fetched for it (R134). -/
structure AqEntry where
  id : Nat
  pc : Nat
  slot : Nat
  bank : Nat
  open_ : Bool
  spec : Bool
  src : Option (Bound × Nat)
  invalid : Bool
  place : AqPlace
  pushed : Nat
  ready : Nat
  data : Chunk
  pois : Bool
  fetched : List ((Nat × Nat × Nat) × (Nat × Bool))
  deriving DecidableEq, Repr

/-- A bundle that an explicit wait holds (R64, R113): its offset, the loops and loop counters and the mode it issued under, and the
state its strand goes to when the wait is met. -/
structure Back where
  pc : Nat
  loops : List LoopFrame
  lc : Vector (BitVec 32) 4
  mode : Mode
  nulls : Nat
  next : StrandState
  deriving DecidableEq, Repr

/-- A strand: the state R115 lists. -/
structure Strand where
  team : Nat
  index : Nat
  /-- S0 to S63 (R322) -/
  s : Vector Word 64
  /-- the poison bit of each scalar register (R288) -/
  spois : Vector Bool 64
  /-- P0 to P7 (R322) -/
  p : Vector Bool 8
  pc : Nat
  len : Nat
  mode : Mode
  st : StrandState
  /-- the state a frozen or saved strand was stopped in (R113, R292) -/
  prior : StrandState
  /-- what holds the strand; it goes on once all of them are met -/
  waits : List Wait
  /-- while an explicit wait holds the strand: where its bundle issues again after a pre-emption (R113), and the state the
  strand goes to when the wait is met -/
  back : Option Back
  /-- the team cycle from which the next bundle may issue (R61) -/
  nextIssue : Nat
  /-- a timed region nulled by VSKIP: bundles left (R72) -/
  nulls : Nat
  loops : List LoopFrame
  lc : Vector (BitVec 32) 4
  masks : List Mask
  tokens : Vector Token 64
  tokenless : Nat
  inflight : List InFlight
  /-- RPL0 to RPL15: the first entries of the replay list of the latest stop (R116) -/
  rpl : List Word
  nrpl : Nat
  stores : List RingStore
  lanes : List LaneValue
  numctl : Word
  srkey : Word
  srctr : Word
  vwb : Word
  acktol : Word
  swpth : Word
  cwgt : Word
  mbxst : Word
  /-- engine writes to the mailboxes that commit at the end of this cycle (R250): mailbox, order, value, poison -/
  mbxIn : List (Nat × Nat × Word × Bool)
  qv : Vector QvSlot 4
  tcfg : Vector Word 32
  acfg : Vector Word 16
  arg : Vector Word 8
  auditn : Word
  aq : List AqEntry
  qlossEvents : Nat
  qlossCycles : Nat
  qlossHeld : Bool
  auditMark : Bool
  barrCount : Nat
  /-- cross-device BARR counts by group (R355) -/
  xbarrCount : SMap Nat
  /-- the fence each later held command waits for: the ids of commands it must follow (R248, R381) -/
  fences : List Nat
  /-- the team cycle of the latest bundle whose command has completed: what a read that acquires of this strand may see (R240, R245) -/
  released : Nat
  /-- the view joins that waits and acquires have made (R244, R246): the strand that wrote, the last team cycle of its writes and the first of
  the reads they bind -/
  joins : List (Nat × Nat × Nat)
  /-- what the strand's completed commands have acquired (R246): the strands that wrote, with the last team cycle of their writes -/
  heard : SMap Nat
  /-- physical tiles of T0 on, physical accumulator tiles of A0 on (R103) -/
  tiles : List Nat
  accs : List Nat
  deriving DecidableEq, Repr

/-! ### Leases, teams, grids -/

/-- The states of a band lease (R107); `replaying` is granted with its replay not complete (R198). -/
inductive LeaseState where
  | held | expired | free | waiting | replaying
  deriving DecidableEq, Repr

/-- A lease budget (R108): paced, by cube commands left and the team cycle it ends in, or timed, by the team cycle it ends
in; `none` before the first. -/
inductive Budget where
  | none
  | paced (commands until_ : Nat)
  | timed (until_ : Nat)
  deriving DecidableEq, Repr

/-- A band claim and its lease (R107): mask, track, team tower; state and budget; the CYC and physical core of a
waiting request (R197); and, by layer, the command word, band word and strand of the WLD recorded for its active and for its shadow
plane (R189, R198). -/
structure Claim where
  mask : BitVec 16
  trk : Nat
  btw : Nat
  st : LeaseState
  budget : Budget
  reqCyc : Nat
  reqCore : Nat
  replayEnd : Nat
  recActive : SMap (Option (Word × Word × Nat))
  recShadow : SMap (Option (Word × Word × Nat))
  deriving DecidableEq, Repr

/-- Where a team stands (R83, R103, R113 to R118, R284, R292): `frozen` after a PROBE fault or a TRAP, `gone` once its grid is to be
discarded. -/
inductive Residence where
  | waiting
  | loading
  | resident
  | stopping (at_ : Nat) (freeze : Bool)
  | saved
  | swapped (addr target : Word)
  | frozen
  | gone
  deriving DecidableEq, Repr

/-- A core write of a 64-byte chunk that no VIEWJ has joined to the other view (R244): the chunk's station and offset by
team tower, the view of the write, the team cycle in which it performed, and the chunk as it stood before. -/
structure Unjoined where
  twi : Nat
  stn : Nat
  off : Nat
  diag : Bool
  w : Nat
  old : Chunk
  /-- the strand that wrote -/
  strand : Nat
  /-- the reads in the other view that have found the write or a later one, by team cycle, first byte and length: none after them finds the
  old of these bytes (R241) -/
  gone : List (Nat × Nat × Nat)
  /-- the reads of engine commands that have found it: the strand and issue cycle of the command, first byte and length (R240, R241) -/
  seen : List (Nat × Nat × Nat × Nat)
  deriving DecidableEq, Repr

/-- A team (R57 to R59, R63, R103, R115). `tcyc` is its team cycle; TSTART is the tower time less it (R118). -/
structure Team where
  id : Nat
  grid : Nat
  ctx : Nat
  index : Nat
  width : Nat
  t0 : Nat
  c0 : Nat
  st : Residence
  tcyc : Nat
  belt : Nat
  /-- offset of the belt in every station of each tower the team spans, by team tower (R153) -/
  beltBases : List Nat
  ntile : Nat
  nacc : Nat
  tsec : Bool
  tlen : Nat
  claims : List Claim
  /-- the pending entry value of a TIMED rendezvous (R63), the strands that joined it and whether it is an entering one (R108) -/
  pending : Option Nat
  joined : List Nat
  entering : Bool
  /-- by group, the cross-device barriers of which the other members have been told, and those that have been passed (R355) -/
  xtold : SMap Nat
  xpassed : SMap Nat
  /-- VIEWJ bundles issued, by team tower and team cycle (R244) -/
  viewj : List (Nat × Nat)
  /-- core writes that a read in the other view may still miss (R244) -/
  unjoined : List Unjoined
  nres : Nat
  moved : Bool
  /-- CYC of admission or resume (R106), since when it waits (R104), and the choice that orders it among the saved teams of its grid (R58) -/
  since : Nat
  waitSince : Nat
  turn : Nat
  held : Bool
  /-- a pre-emption asked for, to be taken at the next stop (R112) -/
  stopAsked : Bool
  /-- the counter and target of the WAITC that the team is swapped out for (R111) -/
  swapTo : Option (Word × Word)
  /-- the CYC and physical core of the timed YIELD that suspended the team, whose requests wait from then on (R197, R484) -/
  yieldAt : Option (Nat × Nat)
  /-- a fault has been found: the strands freeze at the stop cycle (R83, R282) -/
  faulted : Bool
  /-- indices of the PROBE and TRAP records of a frozen team (R292) -/
  records : List Nat
  nores : Bool
  deriving DecidableEq, Repr

/-- A launch record (R101), its fields as numbers. -/
structure LaunchRec where
  hash : Word
  image : Word
  teams : Nat
  wm1 : Nat
  tsec : Bool
  tlenm1 : Nat
  gfirst : Nat
  gcount : Nat
  belt : Nat
  ntile : Nat
  nacc : Nat
  bands : List (BitVec 16 × Nat × Nat)
  ccaddr : Word
  saveaddr : Word
  grpaddr : Word
  args : List Word
  deriving DecidableEq, Repr

/-- A grid (R58, R104, R110, R307). -/
structure Grid where
  id : Nat
  ctx : Nat
  queue : Nat
  prio : Nat
  lrec : Word
  launch : LaunchRec
  /-- the indices of the teams that have been admitted, latest first, and the number of those that have finished -/
  placed : List Nat
  finished : Nat
  waitSince : Nat
  zeroSince : Option Nat
  due : Bool
  held : Bool
  live : Bool
  /-- its teams are being discarded, and its counter waits for its records (R284) -/
  closing : Bool
  outcome : Nat
  /-- the keys of the context at END (R307) -/
  keys : BitVec 16
  start : Nat
  started : Bool
  end_ : Nat
  zfill : Nat
  pcons : Nat
  sampled : Nat
  skipped : Nat
  mismatch : Nat
  fqidx : Nat
  deriving DecidableEq, Repr

/-! ### Engine commands -/

/-- The commands of R82. -/
inductive CmdOp where
  | cube | cubeh | wld | wldSp | wswap | lease | unlease | copy | ccopy | layout | scat | nmred | nmcas | nmsac
  | probe | probeReq | fsend | frecv | fld | fst | fatom | coll | sig | launch | hset | tshoot
  deriving DecidableEq, Repr

/-- Where a command stands: queued, running (started), finishing with a status, or stopped by a fault. -/
inductive CmdState where
  | queued | running | finishing (status : BitVec 4) | faulted
  deriving DecidableEq, Repr

/-- An endpoint of a copy (R217). -/
inductive Endpoint where
  | view (b : Bound)
  | ring (addr : BitVec 28) (diag : Bool) (fmt nel : Nat)
  | peer (dev win fmt : Nat) (off : Word) (nel : Nat)
  deriving DecidableEq, Repr

/-- A cube step that has been fed and not committed (R193): the team cycle of its commit, the strand's accumulator tile, the
step, the column sums by row, each row's checksum sum and which rows are poisoned. -/
structure FedStep where
  commit : Nat
  acc : Nat
  step : Nat
  sums : List (List (BitVec 32))
  checks : List (BitVec 32)
  pois : List Bool
  deriving DecidableEq, Repr

/-- A plane of a layer (R188): the B slice of each column (8 bytes), the B format, the sparse flag, the metadata bits and
MX scale of each column, the row sums by logical position, and whether a poisoned line was loaded. -/
structure Plane where
  cols : SMap Word
  fmt : Nat
  sparse : Bool
  metas : SMap (BitVec 64)
  scales : SMap (BitVec 8)
  sums : List (BitVec 32)
  pois : Bool
  deriving DecidableEq, Repr

/-- An engine command (R74 to R82): who issued it, its words, token and consumed tokens, how far it is, and what it
read at its start. -/
structure Cmd where
  id : Nat
  op : CmdOp
  ctx : Nat
  team : Nat
  strand : Nat
  /-- the queue and claimed index of a packet's command (R100) -/
  packet : Option (Nat × Nat)
  tower : Nat
  core : Nat
  w0 : Word
  w1 : Word
  w2 : Word
  token : Nat
  deps : List Nat
  fences : List Nat
  timed : Bool
  pc : Nat
  slot : Nat
  issuedTc : Nat
  issuedCyc : Nat
  srkey : Word
  srctr : Word
  weight : Nat
  st : CmdState
  start : Nat
  startCyc : Nat
  expanding : Bool
  xpc : Nat
  steps : Nat
  notBefore : Nat
  src : Option Endpoint
  dst : Option Endpoint
  fed : List FedStep
  /-- tower time of the latest feed or effect of a cube command (R192); FSEND: the choice of the cycles its ring reads perform in
  (R263); COLL: the bucket whose granules it fetches, plus 1 (R491) -/
  fedAt : Nat
  /-- FSEND: the claimed own-share slots; COLL: buckets started; CUBE: the A and B formats its start checks read (R184) -/
  slots : List Nat
  /-- COLL: buckets done -/
  done_ : List Nat
  /-- the parcels it has begun to write, by number in its team's belt (`Team.parcel`), and whether one has been poisoned since (R161) -/
  parcels : List (Nat × Bool)
  /-- lines of the ring read for its start or its next step, by line key: bytes and poison (R239) -/
  lines : List (Nat × Nat × Bool)
  /-- ZERO-FILL granules already logged (R140) -/
  zeroed : List Nat
  /-- granules fetched from peer pages for the step to run: device, page, granule; bytes and poison (R134). FSEND: the 32-byte units read, by
  number, with a 1 where the read stands and a 0 where a later one may take its place (R263) -/
  fetched : List ((Nat × Nat × Nat) × (Nat × Bool))
  /-- bytes of a peer window fetched for the step to run, with their POIS bits, one for 32 bytes (R218) -/
  arrived : Option (List Byte × List Bool)
  /-- COLL: the members of its group, as read at its start (R88) -/
  members : List Nat
  sent : Option Nat
  audited : Bool
  counter : Word
  increment : Word
  /-- the bundle that issued it issues again to continue it: a PROBE that missed, a paced LEASE before its grant (R76) -/
  again : Bool
  /-- COLL: what the flags it has read acquire (R246), as in `Strand.heard` -/
  heard : SMap Nat
  /-- WLD: the slices it has read, by layer (R189) -/
  planes : SMap Plane
  deriving DecidableEq, Repr

/-- An engine's write of the ring on its way to its bank (R157, R239, R243): the command, its team, the CYC before which it does not perform,
the ring address and whether it is one of the diagonal view, the bytes from it on and which of them are poisoned. An update holds a format and an
operation, and its bytes are the operand for the element that stands there (R218, R228). The bytes of a loose write count in no handle (R218). An
entry with a tag has no bytes: it gives the parcel at its address that SEQ once the
command's writes before it have performed there (R160), and says whether the command writes the whole parcel. -/
structure RingWrite where
  cmd : Nat
  team : Nat
  notBefore : Nat
  addr : BitVec 28
  diag : Bool
  loose : Bool
  data : List Byte
  pois : List Bool
  update : Option (Nat × Nat)
  tag : Option (BitVec 16 × Bool)
  deriving DecidableEq, Repr

/-- An entry of a core's pending-launch queue (R109, R489): the command, and the team cycle of its LAUNCH. -/
structure PendingLaunch where
  cmd : Nat
  addr : Word
  issued : Nat
  deriving DecidableEq, Repr

/-! ### Contexts -/

/-- What holds a work queue (R100). -/
inductive QueueHold where
  | none
  | wait (addr target : Word)
  | fence (scope : Nat) (counter increment : Word)
  deriving DecidableEq, Repr

/-- A queue of a context (R95 to R98). -/
structure Queue where
  slots : Word
  idx : Word
  szlog : Nat
  prio : Nat
  enabled : Bool
  ridx : Nat
  /-- the write index the near-memory unit has reported last, and the one the scheduler knows (R96) -/
  seen : Nat
  known : Nat
  /-- the CYC from which on the scheduler reads the slot at RIDX -/
  next : Nat
  hold : QueueHold
  /-- commands of COPY and LAYOUT packets not yet complete, and grids launched, for FENCE (R100) -/
  open_ : List Nat
  grids : List Nat
  deriving DecidableEq, Repr

/-- A report of a changed write index on its way to the scheduler (R96): its context and queue, and the CYC in which it arrives. -/
structure Report where
  ctx : Nat
  queue : Nat
  arrives : Nat
  deriving DecidableEq, Repr

/-- The states of a buffer handle (R222). -/
inductive HandleState where
  | free | filling | full | draining
  deriving DecidableEq, Repr

/-- A buffer handle (R221). -/
structure Handle where
  st : HandleState
  exp : Nat
  fcnt : Nat
  dcnt : Nat
  deriving DecidableEq, Repr

/-- A record of the fault queue that is still to be written (R285, R286): the team and strand it is of, its 512 bits, whether
it may be written, and whether it is one of the PROBE and TRAP records, which are never dropped. -/
structure PendingRecord where
  team : Option Nat
  /-- the grid the record is attributed to (R307) -/
  grid : Option Nat
  strand : Nat
  words : Chunk
  ready : Bool
  keep : Bool
  deriving DecidableEq, Repr

/-- A PREEMPT packet's counter waiting for its teams to be saved (R117). -/
structure PreemptWatch where
  counter : Word
  teams : List Nat
  deriving DecidableEq, Repr

/-- A context (R94, R95, R121, R122, R221, R232, R271, R285, R294, R302, R304). -/
structure Context where
  num : Nat
  /-- the number of the creation among all creations of contexts, which its memory keys carry (R141, R302) -/
  gen : Nat
  ttab : Nat
  ndesc : Nat
  tblt : Nat
  /-- the key of the table tensor (R122) -/
  tkey : Nat
  gtab : Word
  qtab : Word
  fq : Word
  quantum : Nat
  swpdef : Nat
  mtab : Word
  migBudget : Nat
  peerPull : Bool
  migUsed : Nat
  queues : List Queue
  /-- the scheduler's copy of the group-table entries that include this device (R88) -/
  groups : SMap (BitVec 256)
  handles : SMap Handle
  keys : BitVec 16
  imageKeys : List Word
  /-- hashes of the images whose signature the keep has verified for the context (R302) -/
  verified : List Word
  exportTable : Word
  windows : Nat
  auditn : BitVec 6
  collCount : SMap Nat
  watches : List PreemptWatch
  /-- records in the order their causes were detected, those of a stopping team not ready yet (R285) -/
  records : List PendingRecord
  fwidx : Nat
  destroying : Bool
  deriving DecidableEq, Repr

/-! ### Storage and towers -/

/-- An accumulator row (R172, R175): its bytes and its side word's CK and POIS. -/
structure AccRow where
  data : Row
  ck : BitVec 32
  pois : BitVec 8
  deriving DecidableEq, Repr

/-- A line of a tile register with its poison bit (R168, R288). -/
structure TileLine where
  data : Line
  pois : Bool
  deriving DecidableEq, Repr

/-- What is known of a granule beside its bytes: the poison's context and cause, and the context and the serial number of the key it
was last written with (R140, R141, R288). A key's serial number tells it from every key of an earlier context of the same number. -/
structure Granule where
  pois : Option (Nat × Nat)
  key : Option (Nat × Nat)
  deriving DecidableEq, Repr

/-- A short-lived page that has been written (R142): its deadline (`none` while its stack is in the hot band) and its
window, in CYC cy. -/
structure ShortPage where
  deadline : Option Nat
  window : Nat
  deriving DecidableEq, Repr

/-- What a layout unit caches of a tensor (R126, R135): its descriptor, a span by level-1 index, or the mapping of one table index by a
level-2 entry. -/
inductive CacheKey where
  | desc
  | span (e : Nat)
  | entry (t : Nat)
  deriving DecidableEq, Repr

/-- A cached descriptor, span or level-2 mapping (R126, R135): the layout unit that holds it (R136; 0 for a descriptor, which every unit
and engine may hold) and the words it was read from. -/
structure CachedEntry where
  unit : Nat
  ctx : Nat
  tid : Nat
  key : CacheKey
  words : List Nat
  deriving DecidableEq, Repr

/-- What the auditor logs of a step (R296): the A tiles, line by line with their scale bytes, and by layer the plane of the B tile or the
active plane. -/
structure AuditStep where
  tiles : List (List (Line × Word))
  planes : List (Nat × Plane)
  deriving DecidableEq, Repr

/-- What the auditor logs of an accumulator tile of the strand (R296, R297): its ACFG, its rows before the first commit, whether only the
sampled command has written it since, and the signatures of its final rows. -/
structure AuditTile where
  acc : Nat
  cfg : Word
  before : List Row
  own : Bool
  final : List (BitVec 128)
  deriving DecidableEq, Repr

/-- An auditor's sample in flight (R295 to R298): the command, its words and stream, the fields of a record that name it, what is logged of it,
the row signatures of its column sums, and the sites. -/
structure Sample where
  cmd : Nat
  team : Nat
  strand : Nat
  record : Chunk
  grid : Nat
  ctx : Nat
  op : CmdOp
  w0 : Word
  w1 : Word
  fmt : Nat
  srkey : Word
  srctr : Word
  steps : List AuditStep
  tiles : List AuditTile
  sigs : List (BitVec 128)
  complete : Bool
  site1 : Option Nat
  bad1 : Option (Nat × BitVec 128)
  site2 : Option Nat
  doneCyc : Nat
  deriving DecidableEq, Repr

/-- A tower (R12, R13, R25, R306, R309 to R312). -/
structure Tower where
  time : Nat
  online : Bool
  spare : Nat
  spareOk : Bool
  step : Nat
  /-- the step the tower itself requires, which takes effect at the next aligned run (R60, R309) -/
  want : Nat
  chg : Nat
  tmax : Nat
  /-- a rise deferred to the round boundary (R310) -/
  deferred : Bool
  tripped : Bool
  /-- taken offline at bring-up, for two failed dies or a failed dome (R306) -/
  failed : Bool
  /-- CYC since which every sensor reads below 95 degrees (R311) -/
  coolSince : Option Nat
  /-- active and shadow planes by layer: key 2 * layer + shadow (R188) -/
  planes : SMap Plane
  /-- the team that holds or has last held each layer, plus 1; 0 before the first (R188, R198) -/
  owners : SMap Nat
  /-- rows the cube commits in this cycle (R194) -/
  committed : List Nat
  sample : Option Sample
  deriving DecidableEq, Repr

/-- A core (R19, R86, R109). -/
structure Core where
  resident : Option (Word × Nat × Nat)
  launches : List PendingLaunch
  occupant : Option (Nat × Nat)
  deriving DecidableEq, Repr

/-- A candidate-list entry (R147): page, estimate, accesses by tower, and the last access's tensor, table index and
context. -/
structure HotEntry where
  page : Nat
  est : Nat
  byTower : List Nat
  tid : Nat
  tix : Nat
  ctx : Nat
  deriving DecidableEq, Repr

/-- A memory stack (R15, R143, R144, R147, R148). -/
structure Stack where
  hot : Bool
  /-- the sketch: key 4,096 * row + column -/
  sketch : SMap Nat
  candidates : List HotEntry
  /-- the hot list as R148 lays an entry out -/
  hotList : List (BitVec 128)
  /-- owner of each reserved channel group -/
  owners : SMap Nat
  deriving DecidableEq, Repr

/-- The states of the migration engine (R151). -/
inductive MigState where
  | idle | copy | shoot
  deriving DecidableEq, Repr

/-- A migration (R151): the entry's page, tensor and table index, its context, the old page and the new. -/
structure Migration where
  st : MigState
  ctx : Nat
  tid : Nat
  tix : Nat
  entryAddr : Nat
  oldPage : Nat
  peer : Option Nat
  newPage : Nat
  /-- SHOOT: the first request number that came after the cached translations were dropped (R137, R151) -/
  sent : Option Nat
  todo : List (BitVec 128)
  deriving DecidableEq, Repr

/-- The latest answer to a read of a counter that lies on a peer page (R134, R479): the context and structure address, the granule's bytes and
poison, and the fault where there was no good answer. -/
structure Poll where
  ctx : Nat
  addr : Word
  data : Nat
  pois : Bool
  fault : Option Raised
  deriving DecidableEq, Repr

/-! ### Fabric -/

/-- A posted receive (R264, R265). -/
structure Posted where
  cmd : Nat
  ctx : Nat
  port : Nat
  turn : Nat
  rid : Nat
  matched : Bool
  deriving DecidableEq, Repr

/-- The flits of a transfer that a relay holds for a later turn (R266 to R268): all of the transfer's but those it has lost. -/
structure RelayHeld where
  arrivedTurn : Nat
  arrivedPort : Nat
  turn : Nat
  port : Nat
  a : Arrival
  deriving DecidableEq, Repr

/-- What an untimed request of a command is for: its own transfer (R273), a granule of a peer page (R134), a counter on one that is waited for (R479), a write to one,
a step of a copy's peer endpoint (R218), or a message of a collective or of a barrier (R234, R355). -/
inductive ReqKind where
  | own | page (page gran : Nat) | counter (addr : Word) | pageWrite | copyRead | copyWrite | message
  deriving DecidableEq, Repr

/-- An outstanding untimed request (R273 to R276): its command, its stream and number, the request itself for resending, whether it has
been sent or waits (R254, R274, R275), its flits, and the destination bytes a handle counts once it has performed (R221). -/
structure Outstanding where
  id : Nat
  cmd : Nat
  what : ReqKind
  req : UntimedRequest
  dev : Nat
  ctx : Nat
  cls : Nat
  sseq : Nat
  inc : BitVec 16
  write : Bool
  deadline : Nat
  extended : Bool
  resent : Nat
  sent : Bool
  /-- it has left at least once (R276) -/
  tried : Bool
  flits : Nat
  bytes : Nat
  deriving DecidableEq, Repr

/-- A response to a peer's request that has not left yet (R270, R275): the peer, the context, order class and number of the request, the response and
its flits. -/
structure ReplyHeld where
  dev : Nat
  ctx : Nat
  cls : Nat
  sseq : Nat
  reply : UntimedReply
  flits : Nat
  deriving DecidableEq, Repr

/-- A flit in a link's retry buffer (R259): its number, whether it is timed, the turn it left in, whether it is to be sent again, and the flit. -/
structure RetryFlit where
  num : Nat
  timed : Bool
  turn : Nat
  again : Bool
  flit : BitVec 2048
  deriving DecidableEq, Repr

/-- A stream of untimed requests (R274, R275): next sequence number. -/
structure Stream where
  ctx : Nat
  dev : Nat
  cls : Nat
  next : Nat
  via : Option Nat
  deriving DecidableEq, Repr

/-- A cached response to a non-idempotent request (R276). -/
structure Cached where
  src : Nat
  ctx : Nat
  cls : Nat
  sseq : Nat
  status : BitVec 8
  poisonedTarget : Bool
  data : List Byte
  deriving DecidableEq, Repr

/-- The fabric unit (R254 to R278). -/
structure Fabric where
  joined : Bool
  /-- the device has been in a domain since its reset, and joins none before the next (R278) -/
  spent : Bool
  devid : Nat
  qlog : Nat
  incarn : BitVec 16
  stepping : BitVec 8
  owner : Option Nat
  /-- a change of the timed owner the keep has accepted (R261) -/
  nextOwner : Option (Option Nat)
  posted : List Posted
  /-- claimed own-share slots: port, turn, slot -/
  claimed : List (Nat × Nat × Nat)
  /-- timed flits relayed through (port, turn): key 16 * turn + port (R260) -/
  relayUse : SMap Nat
  relays : List RelayHeld
  /-- untimed flits of other pairs in this device's relay buffer (R275) -/
  untimedRelay : List RelayedFlits
  /-- flits of this device that stand in the untimed buffer of an intermediate device, by device (R275) -/
  credit : SMap Nat
  peers : SMap (BitVec 16)
  flight : List Nat
  offsets : List Int
  trim : Int
  /-- links that are down: key 4 * port + link -/
  down : SMap Bool
  failing : List (Nat × Nat)
  /-- the retry buffer of each link, key 4 * port + link (R259): the number of its next flit, and the flits not acknowledged, oldest first -/
  retry : SMap (Nat × List RetryFlit)
  /-- the first cycle, by port, whose slots no untimed or replayed flit has taken (R256, R259) -/
  slotNext : SMap Nat
  /-- the pair key with each peer, by the number of its agreement (R257, R302); 0 with none -/
  pairKeys : SMap Nat
  streams : List Stream
  outstanding : List Outstanding
  nextReq : Nat
  incoming : List Stream
  /-- the responses that have not left yet, oldest first (R275) -/
  replies : List ReplyHeld
  cache : List Cached
  colls : List CollRequest
  /-- the arrivals of peers at cross-device barriers that no team here has passed yet: device, context, group and count (R355) -/
  barriers : List (Nat × Nat × Nat × Nat)
  deriving DecidableEq, Repr

/-! ### Keep and host port -/

/-- The keep's boot state (R301, R306). -/
inductive Boot where
  | reset | running | halted
  deriving DecidableEq, Repr

/-- The build record (R1, R305): its 64-byte header, the 4 KiB of trim values, and the signature over both. -/
structure BuildRecord where
  header : BitVec 512
  trim : BitVec 32768
  signature : BitVec 10240
  deriving DecidableEq, Repr

/-- The bytes of a build record before its signature (R305). -/
def BuildRecord.signed (b : BuildRecord) : List Byte :=
  (List.range 4160).map fun i => BitVec.ofNat 8 ((b.header.toNat + 2 ^ 512 * b.trim.toNat) / 2 ^ (8 * i))

/-- The flash (R301, R302, R305, R306): what the keep reads at reset, the components each with its Falcon-1024 signature, the wrapped identity key,
and which dies, stacks and links fail the tests of bring-up. -/
structure Flash where
  firmware : List Byte
  firmwareSig : BitVec 10240
  buildRecord : BuildRecord
  coreFirmware : List Byte
  coreSig : BitVec 10240
  wrappedIdentity : Word
  selfTestFail : Vector (BitVec 17) 4
  domeFail : BitVec 4
  stackFail : BitVec 32
  linkFail : List (Nat × Nat)
  incarn : BitVec 16
  deriving DecidableEq, Repr

/-- A stored job record (R307, R308): its sequence number, its 256-byte body and its signature. -/
structure JobRecord where
  rseq : Nat
  body : BitVec 2048
  signature : List Byte
  deriving DecidableEq, Repr

/-- A RoCEv2 queue pair (R300): its context and the sequence number of the next request it performs. -/
structure QueuePair where
  ctx : Nat
  psn : Nat
  deriving DecidableEq, Repr

/-- The keep (R299, R301 to R308). -/
structure Keep where
  boot : Boot
  /-- the hash of the root public key in the boot ROM (R301) -/
  rootHash : Word
  /-- the measurement register M, extended over the firmware, the build record and the control-core firmware (R301) -/
  measure : BitVec 512
  /-- the identity key, unwrapped (R302) -/
  identity : Word
  /-- the connectivity association key and the secure-association key MKA has drawn under it (R299) -/
  cak : Word
  sak : Word
  /-- the operator's session (R303); none before the first -/
  session : Option Nat
  rseq : Nat
  store : List JobRecord
  qps : SMap (Option QueuePair)
  sampling : Nat
  corrected : Nat
  dropped : Nat
  coolantLow : Bool
  /-- the CYC of the last evaluation, and whether the module drew more than its power in the period before (R309) -/
  power : Option (Nat × Bool)
  deriving DecidableEq, Repr

/-- What the device sends out: answers and reports of the keep on the management VLAN (R303), job records (R308), RoCE
replies (R300), and messages to peers (R257, R270). -/
inductive Output where
  | report (what : String) (a b : Nat)
  | jobRecord (rseq : Nat) (body : BitVec 2048) (signature : List Byte)
  | quote (measure : BitVec 512) (record : List Byte) (nonce : BitVec 256) (signature : List Byte)
  | rdmaReply (qp : Nat) (data : List Byte)
  | rdmaNak (qp : Nat) (kind : Nat)
  | timedFlits (port turn : Nat) (slots : List Nat) (a : Arrival) (flits : List (BitVec 2048))
  | untimed (dev : Nat) (via : Option Nat) (r : UntimedRequest) (read : Bool)
  | reply (dev : Nat) (r : UntimedReply) (cls sseq : Nat)
  | relayed (port : Nat) (r : RelayedFlits) (flits : List (BitVec 2048))
  | credit (dev flits : Nat)
  | replay (port link first : Nat) (flits : List (BitVec 2048))
  | beacon (port cyc : Nat) (inc : BitVec 16) (flit : BitVec 2048)
  | linkControl (port link : Nat) (flit : BitVec 2048)
  deriving DecidableEq, Repr

/-! ### Issue -/

/-- What a slot will do if its bundle is not cancelled (R61, R281, R334). -/
inductive Effect where
  | result (latency : Nat) (r : Result)
  | load (latency : Nat) (r : Result)
  | store (st : RingStore)
  | lane (v : LaneValue)
  | control (number : Nat) (v : Word)
  | setMask (stack : List Mask)
  | openLoop (f : LoopFrame)
  | emptyLoop (lc : Nat) (after : Nat) (v : Nat)
  | jump (target : Nat)
  | skip (target : Nat)
  | nulls (n : Nat)
  | timed (v : Nat)
  | paced
  | halt
  | trap (code : Nat)
  | yield
  | barrier
  | crossBarrier (group : Nat)
  | hold (w : Wait)
  | skipped (token : Nat)
  | command (c : Cmd)
  | push (e : AqEntry)
  | pop
  | select (keepFirst : Bool)
  | fence (scope : Nat)
  | audit (slot : Nat)
  | acquire (all : Bool)
  | tagEdge
  | viewj
  | stochastic
  | lateFault (r : Raised)
  deriving DecidableEq, Repr

/-- The bundle being issued, the model's own: snapshots of its strand and team, where it stands, the prefixes met before
the next slot (R318), the guard they give (R319), and what its slots, by number, will do or the faults they raised. -/
structure Issue where
  st : Strand
  tm : Team
  core : Nat
  pc : Nat
  words : List (BitVec 32)
  slot : Nat
  idle : Nat
  guard : Bool
  pfx : List (BitVec 18)
  deps : Option (BitVec 6 × BitVec 6 × BitVec 6)
  effects : List (Nat × Effect)
  raised : List Raised
  deriving DecidableEq, Repr

/-- The place within one CYC cycle: issue of a slot of the bundle on a core, resolution of the bundles issued,
performing, the agenda, and the end of the cycle. -/
inductive Phase where
  | issue (core slot : Nat)
  | resolve
  | agenda
  | commit
  deriving DecidableEq, Repr

/-- The state of the device. -/
structure State where
  /-- the domain counter CYC (R5, R327) -/
  cyc : Nat
  phase : Phase
  iss : Issue
  bundles : List Issue
  towers : Vector Tower 4
  cores : Vector Core 16
  contexts : List Context
  grids : List Grid
  teams : List Team
  strands : List Strand
  cmds : List Cmd
  /-- HBM by physical byte address (R133) -/
  hbm : List Host.Cell
  /-- by physical granule address p * 1,024 + g -/
  granules : SMap Granule
  /-- by device page number -/
  shortPages : SMap (Option ShortPage)
  /-- the granules written in the last 256 CYC cycles, oldest first, each with its cycle and what it held before: what a timed WAITC judges a counter
  by (R479) -/
  recent : List (Nat × Nat × Nat)
  /-- the answers to reads of counters on peer pages -/
  polls : List Poll
  /-- page homes forwarded by a migration in progress: old page to new (R151) -/
  forward : SMap Nat
  /-- ring bytes: key 2^26 * tower + 2^21 * station + offset -/
  ring : List Host.Cell
  /-- parcel tags: key (ring key) / 4,096 (R160) -/
  tags : SMap (BitVec 16)
  /-- tags to set at the end of this tower cycle (R160) -/
  newTags : List (Nat × BitVec 16)
  /-- engine writes of the ring that have not performed, oldest first (R157, R239) -/
  ringQueue : List RingWrite
  /-- the banks that core accesses take in this cycle (R157) -/
  busy : List Nat
  /-- tile lines: key 8,192 * tower + 128 * tile + line (R168) -/
  tiles : SMap TileLine
  /-- scale bytes of a line, 8 (R170) -/
  scales : SMap Word
  /-- metadata bytes of a line, 64 (R170) -/
  metas : SMap Chunk
  /-- accumulator rows: key 2,048 * tower + 128 * tile + row -/
  accs : SMap AccRow
  /-- instruction store: key 2^18 * core + offset -/
  istore : List Host.Cell
  /-- slots with an uncorrectable error: key 65,536 * core + slot (R290) -/
  slotErrors : SMap Bool
  memStacks : Vector Stack 32
  migration : Migration
  cached : List CachedEntry
  fabric : Fabric
  keep : Keep
  flash : Flash
  /-- the latest reading of each sensor, in units of 1/64 degree (R309, R311) -/
  sensors : SMap Nat
  /-- the scheduler's rotation: the context and queue served last (R104) -/
  rotation : Nat × Nat
  /-- reports of changed write indices that the scheduler has not served, in the order of the changes (R96) -/
  reports : List Report
  nextId : Nat
  inbox : List Instr
  /-- the frames of the management requests that wait at the host port, in the order of arrival: the next operation of the keep takes the first
  (R299, R303) -/
  frames : List Mgmt
  agenda : List Instr
  /-- the timing oracle: the choices still to be made, free values when it is empty (log 4) -/
  choices : List Nat
  /-- counter of free values -/
  fresh : Nat
  out : List Output
  deriving DecidableEq, Repr

/-! ### The state after device reset -/

/-- A token right after launch (R76). -/
def Token.launch : Token := { st := .idle, status := 0 }

/-- A QV slot right after launch (R235). -/
def QvSlot.launch : QvSlot := { reg := 0, readAt := none, st := .invalid }

/-- A strand with every register at its value right after launch: those the rules give, and for S0 to S63, P0 to P7 and their poison
the values log 6 names. A launch sets the registers that come from the launch record and the context. -/
def Strand.initial : Strand where
  team := 0
  index := 0
  s := Vector.replicate 64 0
  spois := Vector.replicate 64 false
  p := Vector.replicate 8 false
  pc := 0
  len := 0
  mode := .paced
  st := .loading
  prior := .run
  waits := []
  back := none
  nextIssue := 0
  nulls := 0
  loops := []
  lc := Vector.replicate 4 0
  masks := []
  tokens := Vector.replicate 64 Token.launch
  tokenless := 0
  inflight := []
  rpl := []
  nrpl := 0
  stores := []
  lanes := []
  numctl := 0
  srkey := 0
  srctr := 0
  vwb := 0
  acktol := 0x3A800000#64
  swpth := 0
  cwgt := 8
  mbxst := 0
  mbxIn := []
  qv := Vector.replicate 4 QvSlot.launch
  tcfg := Vector.replicate 32 0
  acfg := Vector.replicate 16 1
  arg := Vector.replicate 8 0
  auditn := 0
  aq := []
  qlossEvents := 0
  qlossCycles := 0
  qlossHeld := false
  auditMark := false
  barrCount := 0
  xbarrCount := []
  fences := []
  released := 0
  joins := []
  heard := []
  tiles := []
  accs := []

/-- A team with nothing in it yet. -/
def Team.initial : Team where
  id := 0
  grid := 0
  ctx := 0
  index := 0
  width := 1
  t0 := 0
  c0 := 0
  st := .gone
  tcyc := 0
  belt := 0
  beltBases := []
  ntile := 0
  nacc := 0
  tsec := false
  tlen := 0
  claims := []
  pending := none
  joined := []
  entering := false
  xtold := []
  xpassed := []
  viewj := []
  unjoined := []
  nres := 0
  moved := false
  since := 0
  waitSince := 0
  turn := 0
  held := false
  stopAsked := false
  swapTo := none
  yieldAt := none
  faulted := false
  records := []
  nores := false

/-- No bundle is being issued (the model's own, log 2). -/
def Issue.blank : Issue where
  st := Strand.initial
  tm := Team.initial
  core := 0
  pc := 0
  words := []
  slot := 0
  idle := 0
  guard := true
  pfx := []
  deps := none
  effects := []
  raised := []

/-- A tower right after reset (R25, R312), with the keep's bring-up still to come. -/
def Tower.cold : Tower where
  time := 0
  online := true
  spare := 16
  spareOk := true
  step := 0
  want := 0
  chg := 0
  tmax := 0
  deferred := false
  tripped := false
  failed := false
  coolSince := none
  planes := []
  owners := []
  committed := []
  sample := none

/-- A core with an empty instruction-store tag and no pending launch (R86, R109). -/
def Core.cold : Core := { resident := none, launches := [], occupant := none }

/-- A stack in the normal band, with an empty sketch and no reserved channel (R143, R144, R147; log 8). -/
def Stack.cold : Stack := { hot := false, sketch := [], candidates := [], hotList := [], owners := [] }

/-- The migration engine at rest (R151). -/
def Migration.idle : Migration where
  st := .idle
  ctx := 0
  tid := 0
  tix := 0
  entryAddr := 0
  oldPage := 0
  peer := none
  newPage := 0
  sent := none
  todo := []

/-- The fabric unit before the device joins a domain (R26, R260). -/
def Fabric.cold : Fabric where
  joined := false
  spent := false
  devid := 0
  qlog := 0
  incarn := 0
  stepping := 1
  owner := none
  nextOwner := none
  posted := []
  claimed := []
  relayUse := []
  relays := []
  untimedRelay := []
  credit := []
  peers := []
  flight := []
  offsets := []
  trim := 0
  down := []
  failing := []
  retry := []
  slotNext := []
  pairKeys := []
  streams := []
  outstanding := []
  nextReq := 1
  incoming := []
  replies := []
  cache := []
  colls := []
  barriers := []

/-- The build record of a sound unit with no failed die (R305; log 9). -/
def BuildRecord.sound : BuildRecord := { header := 0x1010000000000000000, trim := 0, signature := 0 }

/-- The keep before it has verified anything (R301). -/
def Keep.cold : Keep where
  boot := .reset
  rootHash := Config.falconKey BuildRecord.sound.signed 0
  measure := 0
  identity := 0
  cak := 0
  sak := 0
  session := none
  rseq := 0
  store := []
  qps := []
  sampling := 24
  corrected := 0
  dropped := 0
  coolantLow := false
  power := none

/-- The flash of a sound unit with no failed die, whose components verify (R301, R305; log 9). -/
def Flash.sound : Flash where
  firmware := BuildRecord.sound.signed
  firmwareSig := 0
  buildRecord := BuildRecord.sound
  coreFirmware := BuildRecord.sound.signed
  coreSig := 0
  wrappedIdentity := 0
  selfTestFail := Vector.replicate 4 0
  domeFail := 0
  stackFail := 0
  linkFail := []
  incarn := 0

/-- The device right after reset: nothing verified, no context, no team, empty storage, CYC 0 (R301, R327). -/
def State.reset : State where
  cyc := 0
  phase := .issue 0 0
  iss := Issue.blank
  bundles := []
  towers := Vector.replicate 4 Tower.cold
  cores := Vector.replicate 16 Core.cold
  contexts := []
  grids := []
  teams := []
  strands := []
  cmds := []
  hbm := []
  granules := []
  shortPages := []
  recent := []
  polls := []
  forward := []
  ring := []
  tags := []
  newTags := []
  ringQueue := []
  busy := []
  tiles := []
  scales := []
  metas := []
  accs := []
  istore := []
  slotErrors := []
  memStacks := Vector.replicate 32 Stack.cold
  migration := Migration.idle
  cached := []
  fabric := Fabric.cold
  keep := Keep.cold
  flash := Flash.sound
  sensors := []
  rotation := (0, 0)
  reports := []
  nextId := 1
  inbox := []
  frames := []
  agenda := []
  choices := []
  fresh := 0
  out := []

end Sys2Proof.Machine
end

