-- ==== Sys2Proof/Machine/Store.lean ====
section
/-! DEFINITION. Sparse storage and byte order: reading and writing `SMap`s in their one canonical form, byte memories as
`SMap`s of bytes whose unlisted entries read as 0, and the packing of bytes, words and rows (R3). -/

namespace Sys2Proof.Machine

/-- What key `k` holds; an unlisted key reads as `d`. -/
def SMap.get {α : Type} (d : α) : SMap α → Nat → α
  | [], _ => d
  | (k', v) :: m, k => if k' = k then v else SMap.get d m k

/-- `m` with key `k` holding `v`: in place by key, and not listed at all where `v` is the default. -/
def SMap.set {α : Type} [DecidableEq α] (d : α) : SMap α → Nat → α → SMap α
  | [], k, v => if v = d then [] else [(k, v)]
  | (k', v') :: m, k, v =>
    if k < k' then (if v = d then (k', v') :: m else (k, v) :: (k', v') :: m)
    else if k = k' then (if v = d then m else (k, v) :: m)
    else (k', v') :: SMap.set d m k v

/-- Keys strictly rising from `lo` on, and no entry equal to the default. -/
def SMap.wfFrom {α : Type} [DecidableEq α] (d : α) : Nat → SMap α → Bool
  | _, [] => true
  | lo, (k, v) :: m => decide (lo ≤ k) && decide (v ≠ d) && SMap.wfFrom d (k + 1) m

/-- The canonical form of sparse storage. -/
def SMap.wf {α : Type} [DecidableEq α] (d : α) (m : SMap α) : Bool := SMap.wfFrom d 0 m

/-- `m` without its entries at keys `lo` to `hi - 1`. -/
def SMap.erase {α : Type} (m : SMap α) (lo hi : Nat) : SMap α :=
  m.filter fun e => decide (e.1 < lo) || decide (hi ≤ e.1)

/-! ### Byte memories -/

/-- The canonical form of a byte memory: addresses strictly rising and no listed byte 0. -/
def Memory.wf (m : List Host.Cell) : Bool := SMap.wf (0 : Byte) m

/-- One byte. An address nothing has written reads as 0 (log 7). -/
def Memory.read (m : List Host.Cell) (a : Nat) : Byte := SMap.get (0 : Byte) m a

/-- Writes one byte. -/
def Memory.write (m : List Host.Cell) (a : Nat) (b : Byte) : List Host.Cell := SMap.set (0 : Byte) m a b

/-- Writes bytes at consecutive addresses. -/
def Memory.writeBytes : List Host.Cell → Nat → List Byte → List Host.Cell
  | m, _, [] => m
  | m, a, b :: bs => Memory.writeBytes (Memory.write m a b) (a + 1) bs

/-- The `n` bytes from address `a` on. -/
def Memory.readBytes (m : List Host.Cell) (a : Nat) : Nat → List Byte
  | 0 => []
  | n + 1 => Memory.read m a :: Memory.readBytes m (a + 1) n

/-! ### Digits and bytes -/

/-- The `n` lowest digits of `b` bits of `x`, lowest first. -/
def digits (b : Nat) : Nat → Nat → List Nat
  | 0, _ => []
  | n + 1, x => x % 2 ^ b :: digits b n (x / 2 ^ b)

/-- The number whose digits of `b` bits are the list, lowest first. -/
def undigits (b : Nat) : List Nat → Nat
  | [] => 0
  | d :: ds => d % 2 ^ b + 2 ^ b * undigits b ds

/-- The little-endian bytes of a number (R3). -/
def bytesOf (n : Nat) (x : Nat) : List Byte := (digits 8 n x).map (BitVec.ofNat 8)

/-- The number little-endian bytes hold (R3). -/
def natOf (bs : List Byte) : Nat := undigits 8 (bs.map BitVec.toNat)

/-- Bits `lo` to `lo + n - 1` of a number. -/
def bits (x lo n : Nat) : Nat := x / 2 ^ lo % 2 ^ n

/-- Bits `lo` to `lo + n - 1` of a word as a number. -/
def wbits (x : Word) (lo n : Nat) : Nat := bits x.toNat lo n

/-- The two's-complement value of the low `n` bits of a number. -/
def signed (n x : Nat) : Int :=
  let y := x % 2 ^ n
  if y < 2 ^ (n - 1) then y else (y : Int) - 2 ^ n

/-- The number in 0 to 2^n - 1 congruent to `x`. -/
def wrap (n : Nat) (x : Int) : Nat := (x % (2 ^ n : Nat)).toNat

/-- A row from its bytes, byte 0 lowest. -/
def rowOfBytes (bs : List Byte) : Row := BitVec.ofNat 4096 (natOf bs)

/-- The bytes of a row. -/
def rowBytes (r : Row) : List Byte := bytesOf 512 r.toNat

/-- The `i`-th 64-byte chunk of a row. -/
def rowChunk (r : Row) (i : Nat) : Chunk := BitVec.ofNat 512 (bits r.toNat (512 * i) 512)

/-- `old` with the bytes that `m` names taken from `new`. -/
def mergeBytes (old new : Row) (m : Mask) : Row :=
  rowOfBytes ((List.range 512).map fun i =>
    if m.getLsbD i then new.extractLsb' (8 * i) 8 else old.extractLsb' (8 * i) 8)

/-- The mask of the bytes `lo` to `hi - 1` of a row. -/
def byteMask (lo hi : Nat) : Mask := BitVec.ofNat 512 ((2 ^ hi - 2 ^ lo))

/-- Whether the mask names every byte of chunk `k`. -/
def maskWhole (m : Mask) (k : Nat) : Bool := m.extractLsb' (64 * k) 64 == BitVec.allOnes 64

/-- Whether the mask names any byte of chunk `k`. -/
def maskSome (m : Mask) (k : Nat) : Bool := m.extractLsb' (64 * k) 64 != 0#64

/-- The poison bits of a row after a write (R289): a chunk written from poisoned data is poisoned, a chunk written whole with
clean data is clean, and any other keeps its bit. -/
def mergePois (old new : BitVec 8) (m : Mask) : BitVec 8 :=
  BitVec.ofNat 8 (undigits 1 ((List.range 8).map fun k =>
    if new.getLsbD k && maskSome m k then 1
    else if maskWhole m k then 0 else (old.getLsbD k).toNat))

/-- The first element of a list that satisfies `p`, with its index. -/
def findIdx {α : Type} (p : α → Bool) : List α → Nat → Option (Nat × α)
  | [], _ => none
  | a :: l, i => if p a then some (i, a) else findIdx p l (i + 1)

end Sys2Proof.Machine
end

