-- ==== Sys2Proof/Machine/Flags.lean ====
section
/-! DEFINITION. Number formats and arithmetic (R27 to R56), comparisons, Philox (R443) and the row checksums (R176,
R177). A finite value is an exact dyadic number, a result is the exact value rounded once. -/

namespace Sys2Proof.Machine

/-- The element formats (R27, R30). -/
inductive Fmt where
  | f32 | f16 | bf16 | e5m2 | e4m3 | e2m1 | i32 | i16 | i8 | i4 | i2
  deriving DecidableEq, Repr

/-- Width of an element in bits (R27, R30). -/
def Fmt.width : Fmt → Nat
  | .f32 | .i32 => 32
  | .f16 | .bf16 | .i16 => 16
  | .e5m2 | .e4m3 | .i8 => 8
  | .e2m1 | .i4 => 4
  | .i2 => 2

/-- Whether the format is a floating format. -/
def Fmt.isFloat : Fmt → Bool
  | .f32 | .f16 | .bf16 | .e5m2 | .e4m3 | .e2m1 => true
  | _ => false

/-- Bits of the fraction (R27); 0 for integers. -/
def Fmt.frac : Fmt → Nat
  | .f32 => 23
  | .f16 => 10
  | .bf16 => 7
  | .e5m2 => 2
  | .e4m3 => 3
  | .e2m1 => 1
  | _ => 0

/-- Exponent bias (R27). -/
def Fmt.bias : Fmt → Nat
  | .f32 | .bf16 => 127
  | .f16 | .e5m2 => 15
  | .e4m3 => 7
  | .e2m1 => 1
  | _ => 0

/-- Encoding of the largest finite value (R29). -/
def Fmt.maxFinite : Fmt → Nat
  | .f32 => 0x7F7FFFFF
  | .f16 => 0x7BFF
  | .bf16 => 0x7F7F
  | .e5m2 => 0x7B
  | .e4m3 => 0x7E
  | .e2m1 => 7
  | _ => 0

/-- The canonical NaN (R29); e2m1 has none, and a NaN converted to it gives +0 (R38). -/
def Fmt.nan : Fmt → Nat
  | .f32 => 0x7FC00000
  | .f16 => 0x7E00
  | .bf16 => 0x7FC0
  | .e5m2 => 0x7E
  | .e4m3 => 0x7F
  | _ => 0

/-- Whether the format has infinities (R27). -/
def Fmt.hasInf : Fmt → Bool
  | .f32 | .f16 | .bf16 | .e5m2 => true
  | _ => false

/-- Order of the floating formats by largest finite value (R36). -/
def Fmt.reach : Fmt → Nat
  | .e2m1 => 0
  | .e4m3 => 1
  | .e5m2 => 2
  | .f16 => 3
  | .bf16 => 4
  | .f32 => 5
  | _ => 6

/-- The plain format of a code of R124; an MX code gives the format of its elements. -/
def Fmt.ofCode : Nat → Option Fmt
  | 1 => some .f32
  | 2 => some .f16
  | 3 => some .bf16
  | 4 => some .e5m2
  | 5 => some .e4m3
  | 6 => some .e2m1
  | 7 => some .i32
  | 8 => some .i16
  | 9 => some .i8
  | 10 => some .i4
  | 11 => some .i2
  | 12 => some .e4m3
  | 13 => some .e5m2
  | 14 => some .e2m1
  | 15 => some .i8
  | _ => none

/-- Whether a code of R124 is an MX format. -/
def isMx (code : Nat) : Bool := 12 ≤ code && code ≤ 15

/-- Width in bits of the elements of a format code; 0 for a code R124 does not give. -/
def codeWidth (code : Nat) : Nat :=
  match Fmt.ofCode code with
  | some f => f.width
  | none => 0

/-- A value: NaN, an infinity, or (-1)^neg · m · 2^e, zero with its sign. -/
inductive Num where
  | nan
  | inf (neg : Bool)
  | fin (neg : Bool) (m : Nat) (e : Int)
  deriving DecidableEq, Repr

/-- The rounding modes (R35). -/
inductive RMode where
  | rne | rtz | rdn | rup | sr
  deriving DecidableEq, Repr

/-- The mode of a code; `none` for the reserved codes (R35). -/
def RMode.ofCode : Nat → Option RMode
  | 0 => some .rne
  | 1 => some .rtz
  | 2 => some .rdn
  | 3 => some .rup
  | 4 => some .sr
  | _ => none

/-- The signed integer of a finite value's significand. -/
def signedMag (neg : Bool) (m : Nat) : Int := if neg then -(m : Int) else m

/-- The value an encoding has (R27, R28, R30, R33: MXINT8 is handled by `numOfCode`). -/
def Fmt.decode (f : Fmt) (x : Nat) : Num :=
  if f.isFloat then
    let w := f.width
    let neg := bits x (w - 1) 1 == 1
    let mag := x % 2 ^ (w - 1)
    let fr := mag % 2 ^ f.frac
    let ex := mag / 2 ^ f.frac
    if f.hasInf && ex == 2 ^ (w - 1 - f.frac) - 1 then
      if fr == 0 then .inf neg else .nan
    else if f == .e4m3 && mag == 0x7F then .nan
    else if ex == 0 then .fin neg fr (1 - (f.bias : Int) - f.frac)
    else .fin neg (2 ^ f.frac + fr) ((ex : Int) - f.bias - f.frac)
  else
    let v := signed f.width x
    .fin (v < 0) v.natAbs 0

/-- The value of an element of a format code: an MXINT8 element is an i8 times 2^-6 (R33). -/
def numOfCode (code x : Nat) : Num :=
  match Fmt.ofCode code with
  | none => .nan
  | some f =>
    match f.decode x with
    | .fin n m e => .fin n m (if code == 15 then e - 6 else e)
    | v => v

/-- m / 2^k rounded to an integer (R35, R39); `rnd` is the 16-bit draw of SR. -/
def roundShift (mode : RMode) (neg : Bool) (m k rnd : Nat) : Nat :=
  let q := m / 2 ^ k
  let r := m % 2 ^ k
  if r = 0 then q
  else match mode with
    | .rne => if 2 * r > 2 ^ k || (2 * r == 2 ^ k && q % 2 == 1) then q + 1 else q
    | .rtz => q
    | .rdn => if neg then q + 1 else q
    | .rup => if neg then q else q + 1
    | .sr => if r * 65536 / 2 ^ k + rnd ≥ 65536 then q + 1 else q

/-- The sign bit of a format. -/
def Fmt.sign (f : Fmt) (neg : Bool) : Nat := if neg then 2 ^ (f.width - 1) else 0

/-- The encoding of an infinity of a format that has one: the encoding after the largest finite one. -/
def Fmt.infBits (f : Fmt) (neg : Bool) : Nat := f.sign neg + f.maxFinite + 1

/-- The result of an overflow (R36). -/
def overflow (f : Fmt) (mode : RMode) (sat neg : Bool) : Nat :=
  let mx := f.sign neg + f.maxFinite
  let toMax := match mode with
    | .rne | .sr => false
    | .rtz => true
    | .rdn => !neg
    | .rup => neg
  if sat || toMax || f == .e2m1 then mx
  else if f.hasInf then f.infBits neg else f.nan

/-- An infinite result from an infinity that stood in format `src` (R36). -/
def infinityInto (f src : Fmt) (sat neg : Bool) : Nat :=
  if f.hasInf then
    if f.reach < src.reach && sat then f.sign neg + f.maxFinite else f.infBits neg
  else if sat || f == .e2m1 then f.sign neg + f.maxFinite
  else f.nan

/-- (-1)^neg · m · 2^e rounded to a floating format (R36). -/
def roundFinite (f : Fmt) (mode : RMode) (sat : Bool) (rnd : Nat) (neg : Bool) (m : Nat) (e : Int) : Nat :=
  if m = 0 then f.sign neg
  else
    let ex := max ((Nat.log2 m : Int) + e) (1 - (f.bias : Int))
    let ulp := ex - f.frac
    let q := if ulp ≤ e then m * 2 ^ (e - ulp).toNat else roundShift mode neg m (ulp - e).toNat rnd
    let mag := (ex + f.bias - 1).toNat * 2 ^ f.frac + q
    if mag > f.maxFinite then overflow f mode sat neg else f.sign neg + mag

/-- A value rounded to a floating format; `src` is the format in which an infinity stood. -/
def roundFloat (f src : Fmt) (mode : RMode) (sat : Bool) (rnd : Nat) : Num → Nat
  | .nan => f.nan
  | .inf neg => infinityInto f src sat neg
  | .fin neg m e => roundFinite f mode sat rnd neg m e

/-- Whether a finite value rounds beyond the largest finite value of a format (R36). -/
def Fmt.overflows (f : Fmt) (mode : RMode) (rnd : Nat) (neg : Bool) (m : Nat) (e : Int) : Bool :=
  m != 0 &&
    let ex := max ((Nat.log2 m : Int) + e) (1 - (f.bias : Int))
    let ulp := ex - f.frac
    let q := if ulp ≤ e then m * 2 ^ (e - ulp).toNat else roundShift mode neg m (ulp - e).toNat rnd
    decide ((ex + f.bias - 1).toNat * 2 ^ f.frac + q > f.maxFinite)

/-- A value rounded to an integer in a mode (R37). -/
def roundInt (mode : RMode) (rnd : Nat) (neg : Bool) (m : Nat) (e : Int) : Int :=
  if 0 ≤ e then signedMag neg (m * 2 ^ e.toNat) else signedMag neg (roundShift mode neg m (-e).toNat rnd)

/-- Least and greatest value of an integer width (R30). -/
def intMin (w : Nat) : Int := -(2 ^ (w - 1) : Nat)
/-- Greatest value of an integer width. -/
def intMax (w : Nat) : Int := (2 ^ (w - 1) : Nat) - 1

/-- An integer clamped to a width. -/
def clamp (w : Nat) (v : Int) : Int := max (intMin w) (min (intMax w) v)

/-- An exact integer result wrapped, or saturated under SAT (R37, R51). -/
def intResult (w : Nat) (sat : Bool) (v : Int) : Nat := wrap w (if sat then clamp w v else v)

/-- A float value converted to an integer format: rounded and saturated, infinities to their extreme, NaN to 0 (R37). -/
def floatToInt (w : Nat) (mode : RMode) (rnd : Nat) : Num → Nat
  | .nan => 0
  | .inf neg => wrap w (if neg then intMin w else intMax w)
  | .fin neg m e => wrap w (clamp w (roundInt mode rnd neg m e))

/-- An exact value converted to a format (R36, R37): `fromInt` says that it comes from an integer format. -/
def convertNum (dst src : Fmt) (mode : RMode) (sat : Bool) (rnd : Nat) (v : Num) : Nat :=
  if dst.isFloat then roundFloat dst src mode sat rnd v
  else if src.isFloat then floatToInt dst.width mode rnd v
  else match v with
    | .fin neg m e => intResult dst.width sat (roundInt mode rnd neg m e)
    | _ => 0

/-- An element converted from a format to another (R36 to R38); equal formats copy the bits (R45). -/
def convertElem (dst src : Fmt) (mode : RMode) (sat : Bool) (rnd x : Nat) : Nat :=
  if dst = src then x % 2 ^ dst.width else convertNum dst src mode sat rnd (src.decode x)

/-! ### Exact arithmetic -/

/-- The opposite value. -/
def Num.neg : Num → Num
  | .nan => .nan
  | .inf n => .inf (!n)
  | .fin n m e => .fin (!n) m e

/-- The exact product (R44, R46). -/
def Num.mul : Num → Num → Num
  | .nan, _ | _, .nan => .nan
  | .inf a, .inf b => .inf (a != b)
  | .inf a, .fin b m _ | .fin b m _, .inf a => if m = 0 then .nan else .inf (a != b)
  | .fin a m e, .fin b n f => .fin (a != b) (m * n) (e + f)

/-- Whether a value is minus zero. -/
def Num.isNegZero : Num → Bool
  | .fin n m _ => n && m == 0
  | _ => false

/-- The least exponent of the finite values of a list. -/
def minExp : List Num → Int → Int
  | [], e => e
  | .fin _ m e :: l, b => minExp l (if m = 0 then b else min e b)
  | _ :: l, b => minExp l b

/-- The exact sum of the finite values of a list, in units of 2^b. -/
def sumAt (b : Int) : List Num → Int
  | [] => 0
  | .fin n m e :: l => signedMag n (if m = 0 then 0 else m * 2 ^ (e - b).toNat) + sumAt b l
  | _ :: l => sumAt b l

/-- The exact sum of values (R44, R46): NaN if one is NaN or infinities disagree; an exact zero is minus zero if every
addend is, or in RDN. -/
def Num.sum (mode : RMode) (l : List Num) : Num :=
  if l.any (· == .nan) then .nan
  else
    let pos := l.any (· == .inf false)
    let neg := l.any (· == .inf true)
    if pos && neg then .nan
    else if pos then .inf false
    else if neg then .inf true
    else
      let b := minExp l 0
      let s := sumAt b l
      if s = 0 then .fin (l.all Num.isNegZero || mode == .rdn) 0 0 else .fin (s < 0) s.natAbs b

/-- Comparison of two values that are no NaN: whether the first is less; `zeros` orders minus zero below plus zero (R47). -/
def Num.lt (zeros : Bool) : Num → Num → Bool
  | .nan, _ | _, .nan => false
  | .inf a, .inf b => a && !b
  | .inf a, .fin _ _ _ => a
  | .fin _ _ _, .inf b => !b
  | .fin a m e, .fin b n f =>
    let base := min e f
    let x := signedMag a (m * 2 ^ (e - base).toNat)
    let y := signedMag b (n * 2 ^ (f - base).toNat)
    if x = y then zeros && x == 0 && a && !b else x < y

/-- Whether two values are equal as IEEE 754 compares them (R471). -/
def Num.eq (a b : Num) : Bool := a != .nan && b != .nan && !a.lt false b && !b.lt false a

/-- Maximum of two values (R47). -/
def Num.max (a b : Num) : Num := if a == .nan || b == .nan then .nan else if a.lt true b then b else a
/-- Minimum of two values (R47). -/
def Num.min (a b : Num) : Num := if a == .nan || b == .nan then .nan else if b.lt true a then b else a

/-- A float format's maximum or minimum on encodings: NaN gives the canonical NaN (R44, R47). -/
def floatPick (f : Fmt) (pick : Num → Num → Num) (x y : Nat) : Nat :=
  roundFloat f f .rne false 0 (pick (f.decode x) (f.decode y))

/-- The value times 2^k. -/
def Num.scale (k : Int) : Num → Num
  | .fin n m e => .fin n m (e + k)
  | v => v

/-- An f32 sum of two values, rounded to nearest even. -/
def f32Add (x y : Nat) : Nat :=
  roundFloat .f32 .f32 .rne false 0 (Num.sum .rne [Fmt.f32.decode x, Fmt.f32.decode y])

/-! ### Philox and stochastic rounding -/

/-- One round of Philox-4x32 (R443) on key words `k0`, `k1`. -/
def philoxRound (k0 k1 : Nat) (x : Nat × Nat × Nat × Nat) : Nat × Nat × Nat × Nat :=
  let p0 := 0xD2511F53 * x.1
  let p1 := 0xCD9E8D57 * x.2.2.1
  (Nat.xor (Nat.xor (p1 / 2 ^ 32) x.2.1) k0, p1 % 2 ^ 32, Nat.xor (Nat.xor (p0 / 2 ^ 32) x.2.2.2) k1, p0 % 2 ^ 32)

/-- Philox-4x32 with `n` rounds to go. -/
def philox : Nat → Nat → Nat → Nat × Nat × Nat × Nat → Nat × Nat × Nat × Nat
  | 0, _, _, x => x
  | n + 1, k0, k1, x =>
    philox n ((k0 + 0x9E3779B9) % 2 ^ 32) ((k1 + 0xBB67AE85) % 2 ^ 32) (philoxRound k0 k1 x)

/-- The four words of Philox-4x32-10 for a 64-bit key and counter words (R443). -/
def philoxWords (key : Word) (x : Nat × Nat × Nat × Nat) : List Nat :=
  let w := philox 10 (wbits key 0 32) (wbits key 32 32) x
  [w.1, w.2.1, w.2.2.1, w.2.2.2]

/-- The draw of stochastic rounding for element `e` and step `q` (R40). -/
def srDraw (key ctr : Word) (e q : Nat) : Nat :=
  let w := philoxWords key (wbits ctr 0 32, wbits ctr 32 32, e / 8 % 2 ^ 32, q % 2 ^ 32)
  let h := e % 8
  w.getD (h / 2) 0 / 2 ^ (16 * (h % 2)) % 65536

/-! ### Element types of accumulator rows, and checksums -/

/-- The element type of an ACFG value (R172). -/
def acfgType (v : Word) : Fmt :=
  match wbits v 0 8 with
  | 2 => .f16
  | 3 => .bf16
  | 7 => .i32
  | 8 => .i16
  | 9 => .i8
  | _ => .f32

/-- Number of elements in a row of a type (R173). -/
def Fmt.count (f : Fmt) : Nat := 4096 / f.width

/-- The elements of a row. -/
def rowElems (f : Fmt) (r : Row) : List Nat := digits f.width f.count r.toNat

/-- The row of elements. -/
def rowOfElems (f : Fmt) (l : List Nat) : Row := BitVec.ofNat 4096 (undigits f.width l)

/-- The checksum of a row as any write but a cube commit leaves it (R176). -/
def checksum (f : Fmt) (r : Row) : BitVec 32 :=
  if f.isFloat then
    BitVec.ofNat 32 (roundFloat .f32 f .rne false 0 (Num.sum .rne ((rowElems f r).map f.decode)))
  else BitVec.ofNat 32 ((rowElems f r).foldl (fun s x => s + wrap 32 (signed f.width x)) 0)

/-- The magnitude of a value. -/
def Num.abs : Num → Num
  | .fin _ m e => .fin false m e
  | .inf _ => .inf false
  | .nan => .nan

/-- Whether a value is NaN or infinite. -/
def Num.special : Num → Bool
  | .fin _ _ _ => false
  | _ => true

/-- The check of a row as it is read (R177), under the tolerance of ACKTOL. -/
def rowOk (f : Fmt) (r : Row) (ck tol : BitVec 32) : Bool :=
  if f.isFloat then
    let xs := (rowElems f r).map f.decode
    let c := Fmt.f32.decode ck.toNat
    if xs.any Num.special || c.special then true
    else
      let d := (Num.sum .rne (c.neg :: xs)).abs
      let bound := (Fmt.f32.decode (tol.toNat % 2 ^ 31)).mul (Num.sum .rne (xs.map Num.abs))
      !bound.lt false d
  else checksum f r == ck

end Sys2Proof.Machine
end

