-- ==== Sys2Proof/Machine/Tensor.lean ====
section
/-! DEFINITION. Tensor-addressed memory (R121 to R146): descriptors, views, table entries, translation, and the reading and
writing of granules with poison, keys and short-lived pages. -/

namespace Sys2Proof.Machine

/-- A fault with no slot and the given detail. -/
def Raised.of (cause : Cause) (point : Point) (detail : Nat) : Raised :=
  { cause, point, slot := 0, detail := BitVec.ofNat 64 detail, pctx := 0, pcause := 0, badRow := none }

/-- Why an access of an engine goes no further: a fault, or a granule of a page on a peer that must be fetched first
(R134). -/
inductive Stop where
  | raise (r : Raised)
  | peer (dev page gran : Nat)
  deriving DecidableEq, Repr

/-- An access found bad at an engine access (R280). -/
def accessFault {α : Type} (cause : Cause) (detail : Nat) : Except Stop α := .error (.raise (.of cause .access detail))

/-- A command found bad at its start (R280). -/
def startFault {α : Type} (cause : Cause) (detail : Nat) : Except Stop α := .error (.raise (.of cause .start detail))

/-- A context by number. -/
def State.context (s : State) (ctx : Nat) : Option Context := s.contexts.find? (·.num == ctx)

/-- Replaces the context of the same number. -/
def State.setContext (s : State) (c : Context) : State :=
  { s with contexts := s.contexts.map fun x => if x.num == c.num then c else x }

/-! ### Granules -/

/-- What is known of a granule. -/
def State.granule (s : State) (g : Nat) : Granule := SMap.get { pois := none, key := none } s.granules g

/-- Sets what is known of a granule. -/
def State.setGranule (s : State) (g : Nat) (v : Granule) : State :=
  { s with granules := SMap.set { pois := none, key := none } s.granules g v }

/-- The serial number of key `key` of the context that has number `ctx` now: no two keys ever created share one, so that a key that is
destroyed reads nothing again (R141, R302). -/
def State.keySerial (s : State) (ctx key : Nat) : Nat := 16 * (s.context ctx).elim 0 (·.gen) + key

/-- The 64 bytes of granule `g` as a number, read with a context's key (R141). -/
def State.granuleData (s : State) (ctx key g : Nat) : Nat :=
  let raw := natOf (Memory.readBytes s.hbm (64 * g) 64)
  match (s.granule g).key with
  | none => raw
  | some (c, k) =>
    if c = ctx && k = s.keySerial ctx key then raw else (Config.rekey c k ctx (s.keySerial ctx key) g (BitVec.ofNat 512 raw)).toNat

/-- Whether a short-lived page's contents have expired in cycle `cyc` (R142): it has not been written, or its deadline has
come. -/
def State.expired (s : State) (page : Nat) : Bool :=
  match SMap.get none s.shortPages page with
  | none => true
  | some sp => match sp.deadline with
    | none => false
    | some d => d ≤ s.cyc

/-- The poison a read of granule `g` meets: its own, or EXPIRED (R140, R142). -/
def State.poisonAt (s : State) (ctx : Nat) (short : Bool) (g : Nat) : Option (Nat × Nat) :=
  if short && s.expired (g / 1024) then some (ctx, 2) else (s.granule g).pois

/-- The page that is home to accesses of page `p` (R151). -/
def State.home (s : State) (p : Nat) : Nat := SMap.get p s.forward p

/-- A write to the bits of `mask` of granule `g` of a home page, with data already in place; `pois` says that the data are poisoned, which the
granule then is by the context that writes it, with cause 1 (R140 to R142, R288). A granule written whole with clean data is clean. -/
def State.writeGranuleAt (s : State) (ctx key g mask data : Nat) (pois : Option (Nat × Nat)) : State :=
  let old := s.granuleData ctx key g
  let new := Nat.lor (Nat.land data mask) (old - Nat.land old mask)
  let s := { s with hbm := Memory.writeBytes s.hbm (64 * g) (bytesOf 64 new), recent := s.recent ++ [(g, s.cyc, old)] }
  let p := match pois with
    | some _ => some (ctx, 1)
    | none => if mask = 2 ^ 512 - 1 then none else (s.granule g).pois
  s.setGranule g { pois := p, key := some (ctx, s.keySerial ctx key) }

/-- Poisons the granules of a page as EXPIRED (R142): the write that follows clears the poison of the one it covers whole, and a
partial one leaves it (R140). -/
def State.expirePage (s : State) (ctx page : Nat) : State :=
  (List.range 1024).foldl (fun s i =>
    s.setGranule (page * 1024 + i) { s.granule (page * 1024 + i) with pois := some (ctx, 2) }) s

/-- The effect of a write in this cycle on a short-lived page's deadline (R142, R143). -/
def State.renewPage (s : State) (ctx page window : Nat) : State :=
  let hot := (s.memStacks.toList.getD (page / 2 ^ 21) { hot := false, sketch := [], candidates := [], hotList := [], owners := [] }).hot
  let s' := if s.expired page then s.expirePage ctx page else s
  let sp : ShortPage := { deadline := if hot then none else some (s.cyc + window), window }
  { s' with shortPages := SMap.set none s'.shortPages page (some sp) }

/-- A write of a granule of a page (R142). -/
def State.writeGranule (s : State) (ctx key : Nat) (short : Option Nat) (g mask data : Nat) (pois : Option (Nat × Nat)) : State :=
  let s := match short with
    | some w => s.renewPage ctx (g / 1024) w
    | none => s
  s.writeGranuleAt ctx key g mask data pois

/-! ### Descriptors -/

/-- A word of a context's tables, by physical byte address, decrypted with the table tensor's key (R122). -/
def State.tableWord (s : State) (c : Context) (addr : Nat) : Nat :=
  bits (s.granuleData c.num c.tkey (addr / 64)) (8 * (addr % 64)) 64

/-- The cached words of a descriptor, span or level-2 mapping, if any (R126, R135). -/
def State.cachedWords (s : State) (ctx tid : Nat) (key : CacheKey) : Option (List Nat) :=
  (s.cached.find? fun e => e.ctx == ctx && e.tid == tid && e.key == key).map (·.words)

/-- What is cached for a table index: a level-2 mapping of it governs over a span that covers it (R138). -/
def State.cachedMapping (s : State) (ctx tid t : Nat) : Option (List Nat) :=
  (s.cachedWords ctx tid (.entry t)).or (s.cachedWords ctx tid (.span (t / 512)))

/-- Whether a read of a descriptor takes the cached one (R126, R137): `old` is a choice for every access of one event, one bit each. -/
def oldDesc (old tid : Nat) : Bool := old.testBit (2 * tid)

/-- Whether an access to a granule takes the cached translation (R137), chosen for each access. -/
def oldMap (old tid t gran : Nat) : Bool := old.testBit (2 * (tid + 2 ^ 20 * (1024 * t + gran)) + 1)

/-- The 512 bits of the descriptor of a tensor id; 0 where the id names no tensor (R121). `old` may take a cached descriptor where
there is one (R126). -/
def State.descBits (s : State) (c : Context) (old tid : Nat) : Nat :=
  if tid = 0 || c.ndesc ≤ tid then 0
  else
    let now := s.granuleData c.num c.tkey (c.ttab / 64 + tid)
    match s.cachedWords c.num tid .desc with
    | some (w :: _) => if w = now then now else if oldDesc old tid then w else now
    | _ => now

/-- Element bytes of a format whose elements are whole bytes (R124). -/
def codeBytes (code : Nat) : Nat := codeWidth code / 8

/-- Whether a format's elements are stored bit-planar (R31, R124). -/
def isPlanar (code : Nat) : Bool := code == 6 || code == 10 || code == 11 || code == 14

/-- The block exponents of a descriptor. A rank-1 tensor of one-byte elements has blocks of 2^16 elements, which the 4-bit field
holds as 0 (log 13). -/
def blockExps (x rank fmt : Nat) : List Nat :=
  let l := (List.range rank).map fun i => bits x (64 + 4 * i) 4
  if rank = 1 && !isPlanar fmt && codeBytes fmt = 1 && l = [0] then [16] else l

/-- The fields of a descriptor (R123). -/
def descFields (x : Nat) : Desc :=
  let rank := bits x 8 3 + 1
  { fmt := bits x 0 8, rank, lay := bits x 11 2, planes := bits x 13 3, zeroFill := bits x 16 1 == 1,
    short := bits x 17 1 == 1, keyid := bits x 18 4, retw := bits x 24 24,
    bshape := blockExps x rank (bits x 0 8), root := bits x 96 32,
    ext := (List.range rank).map fun i => bits x (128 + 32 * i) 32, scaleid := bits x 384 20 }

/-- Whether a span or level-2 entry maps resident pages of this device (R134). -/
def entryLocal (e : Nat) : Bool := bits e 0 1 == 1 && bits e 2 1 == 1 && bits e 6 1 == 0

/-- Whether the 4 KiB unit `unit` lies in one of the pages that a level-1 entry of the table tensor maps for its first `n` table
indices (R122, R134). -/
def State.entryCovers (s : State) (c : Context) (e n unit : Nat) : Bool :=
  bits e 0 1 == 1 &&
  (if bits e 5 1 == 1 then entryLocal e && bits e 16 26 ≤ unit / 16 && unit / 16 < bits e 16 26 + n
   else (List.range n).any fun i =>
    let f := s.tableWord c (bits e 16 32 * 4096 + 8 * i)
    entryLocal f && bits f 16 26 == unit / 16)

/-- Whether a 4 KiB unit lies in the pages of the context's table tensor (R122, R125, R135): those of the table indices that its extent
reaches. -/
def State.inTables (s : State) (c : Context) (unit : Nat) : Bool :=
  let d := descFields (s.descBits c 0 c.tblt)
  let n := (d.ext.headD 0 + 65535) / 65536
  (List.range ((n + 511) / 512)).any fun i =>
    s.entryCovers c (s.tableWord c (d.root * 4096 + 8 * i)) (min 512 (n - 512 * i)) unit

/-- The malformedness conditions of R125 that a descriptor's own bits decide. -/
def descWellFormed (c : Context) (x : Nat) : Bool :=
  let d := descFields x
  let w := codeWidth d.fmt
  let sum := d.bshape.foldl (· + ·) 0
  bits x 23 1 == 1 && bits x 22 1 == 0 && bits x 48 16 == 0 && bits x 404 108 == 0 && 0 < w && bits x 0 8 < 16 &&
  d.lay < 3 && (isPlanar d.fmt == (d.lay == 1)) && d.planes == (if d.lay == 1 then w else 1) &&
  bits x (64 + 4 * d.rank) (4 * (8 - d.rank)) == 0 && bits x (128 + 32 * d.rank) (32 * (8 - d.rank)) == 0 &&
  d.ext.all (0 < ·) &&
  (if d.lay == 1 then sum == 19 else 2 ^ sum * (w / 8) == 65536) &&
  (d.lay != 2 || (2 ≤ d.rank && 2 ^ d.bshape.headD 0 * (w / 8) == 1024)) &&
  (if d.short then 0 < d.retw && d.retw ≤ Config.retwMax else d.retw == 0) &&
  c.keys.getLsbD d.keyid &&
  (if isMx d.fmt then d.ext.headD 0 % 32 == 0 && 32 ≤ 2 ^ d.bshape.headD 0 else d.scaleid == 0)

/-- The descriptor of a tensor, if it names one and is well formed (R121, R125). -/
def State.plainDesc (s : State) (c : Context) (old tid : Nat) : Option Desc :=
  let x := s.descBits c old tid
  if descWellFormed c x && s.inTables c (descFields x).root then some (descFields x) else none

/-- The descriptor of a tensor, with its scale tensor checked for an MX format (R125), and the scale tensor's. -/
def State.descOf (s : State) (c : Context) (old tid : Nat) : Option (Desc × Option Desc) :=
  match s.plainDesc c old tid with
  | none => none
  | some d =>
    if isMx d.fmt then
      match s.plainDesc c old d.scaleid with
      | none => none
      | some sd =>
        if sd.fmt == 9 && sd.rank == d.rank &&
            sd.ext == (match d.ext with | e :: l => e / 32 :: l | [] => []) then some (d, some sd) else none
    else some (d, none)

/-! ### Views -/

/-- A view from its 1,024 bits (R128). `reserved` is set where a reserved bit is, or a VDIM or TD field beyond the rank is not
0. -/
def viewOf (x : Nat) : View :=
  let r := bits x 20 3 + 1
  { tid := bits x 0 20, pln := bits x 23 4, org := (List.range 8).map fun i => bits x (64 + 32 * i) 32,
    dims := (List.range r).map fun v =>
      { ext := bits x (320 + 64 * v) 32, str := signed 32 (bits x (352 + 64 * v) 32), td := bits x (832 + 3 * v) 3 },
    reserved := bits x 27 37 != 0 || bits x 856 168 != 0 || bits x (320 + 64 * r) (64 * (8 - r)) != 0 ||
      bits x (832 + 3 * r) (3 * (8 - r)) != 0 }

/-- Number of elements of a view. -/
def View.count (v : View) : Nat := v.dims.foldl (fun n d => n * d.ext) 1

/-- Least value of coordinate `i` over the corners of the view. -/
def View.low (v : View) (i : Nat) : Int :=
  v.dims.foldl (fun a d => if d.td = i then a + min 0 (((d.ext : Int) - 1) * d.str) else a) (v.org.getD i 0)

/-- Greatest value of coordinate `i` over the corners of the view. -/
def View.high (v : View) (i : Nat) : Int :=
  v.dims.foldl (fun a d => if d.td = i then a + max 0 (((d.ext : Int) - 1) * d.str) else a) (v.org.getD i 0)

/-- The range check of R129, malformed views included, and the plane count of R32. -/
def View.inRange (v : View) (d : Desc) : Bool :=
  !v.reserved && v.dims.all (fun x => 0 < x.ext && x.td < d.rank) &&
  (v.org.drop d.rank).all (· == 0) && v.pln ≤ d.planes &&
  (List.range d.rank).all fun i => 0 ≤ v.low i && v.high i < d.ext.getD i 0

/-- Insertion of a view dimension by the magnitude of its stride. -/
def insertDim (x : VDim) : List VDim → List VDim
  | [] => [x]
  | y :: l => if x.str.natAbs ≤ y.str.natAbs then x :: y :: l else y :: insertDim x l

/-- The steps of R130 over dimensions in order of stride, with the reach of the earlier ones. -/
def stridesClear : List VDim → Nat → Bool
  | [], _ => true
  | d :: l, reach => 1 + reach ≤ d.str.natAbs && stridesClear l (reach + d.str.natAbs * (d.ext - 1))

/-- Whether a view is injective by the check of R130. -/
def View.injective (v : View) (d : Desc) : Bool :=
  (List.range d.rank).all fun i =>
    stridesClear ((v.dims.filter fun x => x.td = i && 1 < x.ext).foldr insertDim []) 0

/-- The index of traversal position `n`, view dimension 0 innermost (R129). -/
def indexOf : List VDim → Nat → List Nat
  | [], _ => []
  | d :: l, n => n % d.ext :: indexOf l (n / d.ext)

/-- The coordinate of the view element at an index (R129). -/
def View.coord (v : View) (d : Desc) (x : List Nat) : List Nat :=
  (List.range d.rank).map fun i =>
    ((v.dims.zip x).foldl (fun (a : Int) e => if e.1.td = i then a + e.2 * e.1.str else a) (v.org.getD i 0)).toNat

/-! ### Blocks -/

/-- Block number and in-block element number of a coordinate (R131): the list holds coordinate, block exponent and extent of
each dimension. -/
def blockOf : List (Nat × Nat × Nat) → Nat → Nat → Nat → Nat → Nat × Nat
  | [], bn, n, _, _ => (bn, n)
  | (c, b, e) :: l, bn, n, mb, me =>
    blockOf l (bn + c / 2 ^ b * mb) (n + c % 2 ^ b * me) (mb * ((e + 2 ^ b - 1) / 2 ^ b)) (me * 2 ^ b)

/-- Block number and in-block element number of a coordinate of a tensor. -/
def Desc.block (d : Desc) (coord : List Nat) : Nat × Nat :=
  blockOf ((coord.zip (d.bshape.zip d.ext))) 0 0 1 1

/-- Number of table indices of a tensor (R131, R134). -/
def Desc.indices (d : Desc) : Nat :=
  (d.bshape.zip d.ext).foldl (fun n e => n * ((e.2 + 2 ^ e.1 - 1) / 2 ^ e.1)) d.planes

/-- Byte offset in its page of in-block element `n` of a format of whole bytes (R132). -/
def Desc.offset (d : Desc) (n : Nat) : Nat :=
  let sz := codeBytes d.fmt
  if d.lay = 2 then
    let o := n * sz
    1024 * (o / 1024) + 64 * ((o / 64 % 16 + o / 1024) % 16) + o % 64
  else n * sz

/-! ### Translation -/

/-- Where a table index is mapped: a local page, or a page of a peer's window (R134). -/
inductive Mapped where
  | page (p : Nat)
  | peer (dev page : Nat)
  deriving DecidableEq, Repr

/-- The level-1 entry of a table index and, where it is a pointer, the level-2 entry, as the tables hold them (R134). -/
def State.tableEntry (s : State) (c : Context) (d : Desc) (t : Nat) : List Nat :=
  let l1 := s.tableWord c (d.root * 4096 + 8 * (t / 512))
  if bits l1 0 1 == 1 && bits l1 5 1 == 0 then [l1, s.tableWord c (bits l1 16 32 * 4096 + 8 * (t % 512))] else [l1]

/-- The entries an access to a granule of a table index goes by: those of the tables, or cached ones (R137, R138). -/
def State.entriesFor (s : State) (c : Context) (old tid : Nat) (d : Desc) (t gran : Nat) : List Nat :=
  let now := s.tableEntry c d t
  match s.cachedMapping c.num tid t with
  | some l => if l = now then now else if oldMap old tid t gran then l else now
  | none => now

/-- The detail of a translation or protection fault (R287). -/
def entryDetail (tid t gran : Nat) : Nat := tid + 2 ^ 20 * (t % 2 ^ 32) + 2 ^ 52 * (gran % 1024)

/-- What is wrong with a pointer entry (orders 1 and 2 of R135). Its other bits are 0, so that order 3 does not ask it for
residency (log 14). -/
def State.pointerFault (s : State) (c : Context) (e : Nat) : Option Cause :=
  if bits e 0 1 == 0 then some .translationUnmapped
  else if bits e 1 4 != 0 || bits e 6 10 != 0 || bits e 48 16 != 0 || !s.inTables c (bits e 16 32) then some .translationEntry
  else none

/-- What is wrong with a mapping entry, span or level 2, up to residency (orders 1 to 3 of R135). -/
def mappingFault (d : Desc) (span : Bool) (e : Nat) : Option Cause :=
  if bits e 0 1 == 0 then some .translationUnmapped
  else if (bits e 3 1 == 1) != d.short || bits e 7 1 == 1 || bits e 42 6 != 0 || bits e 48 16 != 0 ||
      (!span && bits e 5 1 == 1) || (bits e 6 1 == 0 && bits e 8 8 != 0) || (span && bits e 16 26 % 512 != 0) then
    some .translationEntry
  else if bits e 2 1 == 0 then some .translationUnmapped
  else none

/-- Orders 1 to 3 of R135 for an access to a granule of a table index: what is wrong, else the mapping entry and whether it is a
span. -/
def State.mapping (s : State) (c : Context) (old tid : Nat) (d : Desc) (t gran : Nat) : Except Cause (Nat × Bool) :=
  match s.entriesFor c old tid d t gran with
  | [e, f] =>
    match s.pointerFault c e with
    | some x => .error x
    | none => match mappingFault d false f with
      | some x => .error x
      | none => .ok (f, false)
  | e :: _ => match mappingFault d true e with
      | some x => .error x
      | none => .ok (e, true)
  | [] => .error .translationUnmapped

/-- The local pseudo-channel of granule `g` of the page `pn` within its stack (R133). -/
def localChannel (pn g : Nat) : Nat := 16 * (pn % 24) + g % 16

/-- The device-wide number of the pseudo-channel that holds granule `g` of device page `p` (R15, R133). -/
def pseudoChannel (p g : Nat) : Nat := 384 * (p / 2 ^ 21) + localChannel (p % 2 ^ 21) g

/-- The owner of a page's channel group, if it is reserved (R133, R144). -/
def State.channelOwner (s : State) (p : Nat) : Option Nat :=
  match s.memStacks.toList[p / 2 ^ 21]? with
  | none => none
  | some k => match SMap.get 0 k.owners (localChannel (p % 2 ^ 21) 0 / 16) with
    | 0 => none
    | n + 1 => some n

/-- Translation of a table index for an access to granule `gran` of its page (R135). -/
def State.translate (s : State) (c : Context) (old tid : Nat) (d : Desc) (t gran : Nat) (write : Bool) :
    Except Stop Mapped :=
  match s.mapping c old tid d t gran with
  | .error x => accessFault x (entryDetail tid t gran)
  | .ok (e, span) =>
    let page := bits e 16 26 + (if span then t % 512 else 0)
    let peer := bits e 6 1 == 1
    if !peer && (match s.channelOwner page with | some o => o != c.num | none => false) then
      accessFault .translationChannel (entryDetail tid t gran)
    else if write && bits e 1 1 == 0 then accessFault .protectionWrite (entryDetail tid t gran)
    else if peer then .ok (.peer (bits e 8 8) page)
    else .ok (.page (s.home page))

/-! ### Reading elements -/

/-- The granules an access touched, for the sketch, the caches and the zero-fill events: table index, granule within the page, the
local granule address, and whether zeros replaced poisoned bytes. -/
structure Touch where
  tid : Nat
  t : Nat
  gran : Nat
  addr : Option Nat
  zeroed : Bool
  deriving DecidableEq, Repr

/-- What a read finds: the bits, whose poison came with them, and the granules touched. -/
structure Got where
  val : Nat
  pois : Option (Nat × Nat)
  touched : List Touch
  deriving DecidableEq, Repr

/-- A granule fetched from a peer: device, page, granule, bytes, poison (R273). -/
abbrev Fetched := List ((Nat × Nat × Nat) × (Nat × Bool))

/-- Reads granule `gran` of table index `t`, poison handled by the tensor's policy (R140). `fetched` holds granules that
came from peers. -/
def State.readGranule (s : State) (c : Context) (old : Nat) (fetched : Fetched) (tid : Nat) (d : Desc) (t gran : Nat) :
    Except Stop Got :=
  match s.translate c old tid d t gran false with
  | .error e => .error e
  | .ok (.peer dev page) =>
    match fetched.find? (·.1 == (dev, page, gran)) with
    | none => .error (.peer dev page gran)
    | some (_, data, bad) =>
      if bad && d.zeroFill then .ok ⟨0, none, [⟨tid, t, gran, none, true⟩]⟩
      else .ok ⟨data, if bad then some (c.num, 1) else none, [⟨tid, t, gran, none, false⟩]⟩
  | .ok (.page p) =>
    let g := p * 1024 + gran
    match s.poisonAt c.num d.short g with
    | some x =>
      if d.zeroFill then .ok ⟨0, none, [⟨tid, t, gran, some g, true⟩]⟩
      else .ok ⟨s.granuleData c.num d.keyid g, some x, [⟨tid, t, gran, some g, false⟩]⟩
    | none => .ok ⟨s.granuleData c.num d.keyid g, none, [⟨tid, t, gran, some g, false⟩]⟩

/-- The planes of a bit-planar element from plane `q` on (R31, R32): plane q holds bit b - 1 - q. -/
def State.readPlanes (s : State) (c : Context) (old : Nat) (fetched : Fetched) (tid : Nat) (d : Desc) (bn n : Nat) :
    Nat → Nat → Got → Except Stop Got
  | 0, _, acc => .ok acc
  | k + 1, q, acc =>
    match s.readGranule c old fetched tid d (bn * d.planes + q) (n / 512) with
    | .error e => .error e
    | .ok g =>
      s.readPlanes c old fetched tid d bn n k (q + 1)
        ⟨acc.val + bits g.val (n % 512) 1 * 2 ^ (d.planes - 1 - q), acc.pois.or g.pois, acc.touched ++ g.touched⟩

/-- The element of a tensor at a coordinate; of a bit-planar one, its top `pln` planes, 0 for all (R32). -/
def State.readElem (s : State) (c : Context) (old : Nat) (fetched : Fetched) (tid : Nat) (d : Desc) (pln : Nat)
    (coord : List Nat) : Except Stop Got :=
  let (bn, n) := d.block coord
  if d.lay = 1 then s.readPlanes c old fetched tid d bn n (if pln = 0 then d.planes else pln) 0 ⟨0, none, []⟩
  else
    let o := d.offset n
    match s.readGranule c old fetched tid d bn (o / 64) with
    | .error e => .error e
    | .ok g => .ok { g with val := bits g.val (8 * (o % 64)) (codeWidth d.fmt) }

/-! ### Writing elements -/

/-- The bits a command writes into one granule of a table index. -/
structure GranuleWrite where
  tid : Nat
  t : Nat
  gran : Nat
  mask : Nat
  data : Nat
  pois : Option (Nat × Nat)
  deriving DecidableEq, Repr

/-- Adds bits to the write of their granule, or starts one. -/
def mergeWrite (w : GranuleWrite) : List GranuleWrite → List GranuleWrite
  | [] => [w]
  | x :: l =>
    if x.tid = w.tid && x.t = w.t && x.gran = w.gran then
      { x with mask := Nat.lor x.mask w.mask, data := Nat.lor (x.data - Nat.land x.data w.mask) (Nat.land w.data w.mask),
               pois := w.pois.or x.pois } :: l
    else x :: mergeWrite w l

/-- The granule writes of one element (R31, R131, R132). -/
def elemWrites (tid : Nat) (d : Desc) (coord : List Nat) (val : Nat) (pois : Option (Nat × Nat)) : List GranuleWrite :=
  let (bn, n) := d.block coord
  if d.lay = 1 then
    (List.range d.planes).map fun q =>
      { tid, t := bn * d.planes + q, gran := n / 512, mask := 2 ^ (n % 512),
        data := bits val (d.planes - 1 - q) 1 * 2 ^ (n % 512), pois }
  else
    let o := d.offset n
    let w := codeWidth d.fmt
    [{ tid, t := bn, gran := o / 64, mask := (2 ^ w - 1) * 2 ^ (8 * (o % 64)), data := val % 2 ^ w * 2 ^ (8 * (o % 64)), pois }]

/-- A free value of `n` bytes, from the k-th free word on (log 5). -/
def freeNat (k n : Nat) : Nat :=
  undigits 64 ((List.range ((n + 7) / 8)).map fun i => (Config.freeWord (k + i)).toNat) % 2 ^ (8 * n)

/-- Whether a context maps a page of this device through one of its tensors. -/
def State.mapsPage (s : State) (x : Context) (page : Nat) : Bool :=
  (List.range x.ndesc).any fun tid => match s.plainDesc x 0 tid with
    | none => false
    | some d => (List.range d.indices).any fun t => match s.mapping x 0 tid d t 0 with
      | .ok (e, span) => bits e 6 1 == 0 && bits e 16 26 + (if span then t % 512 else 0) == page
      | .error _ => false

/-- Whether a granule is another context's by R122: that context wrote it last, and its page is in that context's tables, or in the tables of the
context that writes and in a tensor of the other (log 74). -/
def State.othersTable (s : State) (c : Context) (g : Nat) : Bool :=
  match (s.granule g).key with
  | none => false
  | some (x, k) => x != c.num && (s.context x).any fun x => x.gen == k / 16 &&
      ((s.inTables x (g / 1024 * 16) && x.tkey == k % 16) || (s.inTables c (g / 1024 * 16) && s.mapsPage x (g / 1024)))

/-- A write of a context through tensor `tid` of granule `g` of this device. Pages of table tensors belong to those tensors alone (R122), and
R7 confines a breach: what is another context's is not altered, and what is written into the context's own tables through another tensor is
any value (log 74). -/
def State.putGranule (s : State) (c : Context) (tid key : Nat) (short : Option Nat) (g mask data : Nat) (pois : Option (Nat × Nat)) : State :=
  if s.othersTable c g then s
  else if tid != c.tblt && s.inTables c (g / 1024 * 16) then
    { s.writeGranule c.num key short g mask (freeNat s.fresh 64) pois with fresh := s.fresh + 8 }
  else s.writeGranule c.num key short g mask data pois

/-- Writes the bytes of a list of elements, granule by granule in the order given (R249). Answers the fault of the first granule that
does not translate, with the writes before it performed; a granule on a peer goes to the list of writes to send. -/
def State.writeGranules (s : State) (c : Context) (old : Nat) (d : Desc) :
    List GranuleWrite → List (Nat × Nat × GranuleWrite) → List Touch →
      State × List (Nat × Nat × GranuleWrite) × List Touch × Option Raised
  | [], out, tch => (s, out, tch, none)
  | w :: l, out, tch =>
    match s.translate c old w.tid d w.t w.gran true with
    | .error (.raise r) => (s, out, tch, some r)
    | .error (.peer _ _ _) => (s, out, tch, none)
    | .ok (.peer dev page) =>
      State.writeGranules s c old d l (out ++ [(dev, page, w)]) (tch ++ [⟨w.tid, w.t, w.gran, none, false⟩])
    | .ok (.page p) =>
      let g := p * 1024 + w.gran
      State.writeGranules (s.putGranule c w.tid d.keyid (if d.short then some (d.retw * 1024) else none) g w.mask w.data w.pois)
        c old d l out (tch ++ [⟨w.tid, w.t, w.gran, some g, false⟩])

/-! ### Structure addresses -/

/-- The tensor and byte offset of a structure address (R93), with its descriptor: rank 1, i8, and the `n` bytes within the
extent, aligned to `align`. -/
def State.structAt (s : State) (c : Context) (old : Nat) (addr : Word) (n align : Nat) : Except Stop (Nat × Nat × Desc) :=
  let tid := wbits addr 0 20
  let off := wbits addr 20 44
  match s.plainDesc c old tid with
  | none => startFault .engDesc 0
  | some d =>
    if d.rank ≠ 1 || d.fmt ≠ 9 then startFault .engDesc 0
    else if d.ext.headD 0 < off + n || off % align ≠ 0 then startFault .engViewRange 0
    else .ok (tid, off, d)

/-- Reads `n` granules of a structure, from the one that holds offset `off`. -/
def State.structGranules (s : State) (c : Context) (old tid : Nat) (d : Desc) : Nat → Nat → Except Stop Got
  | _, 0 => .ok ⟨0, none, []⟩
  | off, n + 1 =>
    let (bn, o) := d.block [off]
    match s.readGranule c old [] tid d bn (o / 64) with
    | .error e => .error e
    | .ok g =>
      match s.structGranules c old tid d (off / 64 * 64 + 64) n with
      | .error e => .error e
      | .ok r => .ok ⟨g.val + 2 ^ 512 * r.val, g.pois.or r.pois, g.touched ++ r.touched⟩

/-- The `n` bytes at a structure address, as a number, and the poison of their granules (R93). -/
def State.readStruct (s : State) (c : Context) (old : Nat) (addr : Word) (n align : Nat) : Except Stop Got :=
  match s.structAt c old addr n align with
  | .error e => .error e
  | .ok (tid, off, d) =>
    match s.structGranules c old tid d off ((off % 64 + n + 63) / 64) with
    | .error e => .error e
    | .ok g => .ok { g with val := bits g.val (8 * (off % 64)) (8 * n) }

/-- The granule writes of `n` bytes at an offset of a rank-1 tensor. -/
def structWrites (tid : Nat) (d : Desc) (off : Nat) (bs : List Byte) (pois : Option (Nat × Nat)) : List GranuleWrite :=
  (bs.zipIdx).foldl (fun l e =>
    (elemWrites tid d [off + e.2] e.1.toNat pois).foldl (fun l w => mergeWrite w l) l) []

/-- Writes bytes at a structure address; answers the fault, if the access meets one. -/
def State.writeStruct (s : State) (c : Context) (old : Nat) (addr : Word) (align : Nat) (bs : List Byte) (pois : Option (Nat × Nat)) :
    Except Stop (State × List (Nat × Nat × GranuleWrite) × List Touch) :=
  match s.structAt c old addr bs.length align with
  | .error e => .error e
  | .ok (tid, off, d) =>
    match s.writeGranules c old d (structWrites tid d off bs pois) [] [] with
    | (s', out, tch, none) => .ok (s', out, tch)
    | (_, _, _, some r) => .error (.raise r)

/-! ### Accesses leave traces: caches and the sketch -/

/-- Hash of row `r` of the sketch (R147), of a page number within its stack. -/
def sketchHash (r pn : Nat) : Nat :=
  pn * [0x9E3779B1, 0x85EBCA77, 0xC2B2AE3D, 0x27D4EB2F].getD r 0 % 2 ^ 32 / 2 ^ 20

/-- The entry with the smallest estimate, the lowest-numbered of equal ones. -/
def leastEntry : List HotEntry → Nat → Option (Nat × Nat)
  | [], _ => none
  | e :: l, i => match leastEntry l (i + 1) with
    | some (j, v) => if v < e.est then some (j, v) else some (i, e.est)
    | none => some (i, e.est)

/-- One access to a granule of device page `page` at its stack (R147). -/
def Stack.touch (k : Stack) (page tower tid t ctx : Nat) : Stack :=
  let pn := page % 2 ^ 21
  let sk := (List.range 4).foldl (fun m r =>
    let key := 4096 * r + sketchHash r pn
    SMap.set 0 m key (min 65535 (SMap.get 0 m key + 1))) k.sketch
  let est := (List.range 4).foldl (fun a r => min a (SMap.get 0 sk (4096 * r + sketchHash r pn))) 65535
  let fresh : HotEntry := { page, est, byTower := (List.range 4).map fun i => if i = tower then 1 else 0, tid, tix := t, ctx }
  let old := k.candidates
  let new :=
    if old.any (·.page == page) then
      old.map fun e => if e.page == page then
        { e with est, byTower := e.byTower.zipIdx.map fun b => if b.2 = tower then b.1 + 1 else b.1, tid, tix := t, ctx } else e
    else if old.length < 64 then old ++ [fresh]
    else match leastEntry old 0 with
      | some (i, v) => if v < est then old.set i fresh else old
      | none => old
  { k with sketch := sk, candidates := new }

/-- One access to a granule of a device page, by the tower it is counted for, the tensor and table index it names and its context. -/
def State.touchPage (s : State) (page tower tid t ctx : Nat) : State :=
  let k := (s.memStacks.toList.getD (page / 2 ^ 21) Stack.cold).touch page tower tid t ctx
  { s with memStacks := s.memStacks.setIfInBounds (page / 2 ^ 21) k }

/-- A read of a context's tables at a physical byte address, counted at its stack (R147) for the table tensor, index 0 (log 75). -/
def State.touchTable (s : State) (c : Context) (tower addr : Nat) : State := s.touchPage (addr / 65536) tower c.tblt 0 c.num

/-- The layout unit that is home to a table index of a tensor (R136). -/
def homeUnit (tid t : Nat) : Nat := (tid + t / 512) % 32

/-- The most entries of a kind that a layout unit caches (R135); none is given for descriptors. -/
def CacheKey.limit : CacheKey → Option Nat
  | .desc => none
  | .span _ => some 256
  | .entry _ => some 4096

/-- Whether two cache keys are of one kind. -/
def CacheKey.sameKind : CacheKey → CacheKey → Bool
  | .desc, .desc | .span _, .span _ | .entry _, .entry _ => true
  | _, _ => false

/-- A list without the first element that satisfies `p`. -/
def dropFirst {α : Type} (p : α → Bool) : List α → List α
  | [] => []
  | a :: l => if p a then l else a :: dropFirst p l

/-- A descriptor, span or level-2 mapping goes into the cache of its unit (R126, R135, R136). A full cache gives up the entry it has held
longest (log 76). -/
def State.cache (s : State) (unit ctx tid : Nat) (key : CacheKey) (words : List Nat) : State :=
  if s.cached.any fun e => e.ctx == ctx && e.tid == tid && e.key == key then s
  else
    let mine (e : CachedEntry) : Bool := e.unit == unit && e.key.sameKind key
    let full := match key.limit with
      | some n => decide (n ≤ (s.cached.filter mine).length)
      | none => false
    { s with cached := (if full then dropFirst mine s.cached else s.cached) ++ [{ unit, ctx, tid, key, words }] }

/-- A descriptor that is read goes into the cache; a read that misses it is an access to its granule (R126, R147). -/
def State.cacheDesc (s : State) (c : Context) (tower tid : Nat) : State :=
  if tid = 0 || c.ndesc ≤ tid then s
  else
    let s := if (s.cachedWords c.num tid .desc).isSome then s else s.touchTable c tower (c.ttab + 64 * tid)
    s.cache 0 c.num tid .desc [s.descBits c 0 tid]

/-- The table reads of a translation count (R147). -/
def State.touchEntry (s : State) (c : Context) (tower : Nat) (d : Desc) (t : Nat) : State :=
  let s := s.touchTable c tower (d.root * 4096 + 8 * (t / 512))
  match s.tableEntry c d t with
  | [e, _] => s.touchTable c tower (bits e 16 32 * 4096 + 8 * (t % 512))
  | _ => s

/-- A translation that is used goes into the cache of its home unit; one that misses reads the tables (R135, R136, R147). -/
def State.cacheEntry (s : State) (c : Context) (tower tid : Nat) (d : Desc) (t : Nat) : State :=
  if (s.cachedMapping c.num tid t).isSome then s
  else
    let l := s.tableEntry c d t
    (s.touchEntry c tower d t).cache (homeUnit tid t) c.num tid (if l.length = 2 then .entry t else .span (t / 512)) l

/-- What a granule access leaves behind: a cached translation (R135) and sketch counts (R147). -/
def State.noteTouch (s : State) (c : Context) (tower : Nat) (x : Touch) : State :=
  let s := match s.plainDesc c 0 x.tid with
    | some d => s.cacheEntry c tower x.tid d x.t
    | none => s
  match x.addr with
  | some g => s.touchPage (g / 1024) tower x.tid x.t c.num
  | none => s

/-- The granule accesses of a list, counted for a tower. -/
def State.noteList (s : State) (c : Context) (tower : Nat) (l : List Touch) : State := l.foldl (fun s x => s.noteTouch c tower x) s

end Sys2Proof.Machine
end

