-- ==== Sys2Proof/Machine/Ops.lean ====
section
/-! DEFINITION. The named operations over the state: strands, teams, commands and their placement, the ring, tiles and
accumulator rows, the choices and free values of the model, what a slot of the bundle being issued does, and taking a
fault (R279 to R287) with the writing of its record. -/

namespace Sys2Proof.Machine

/-! ### Lookup and update -/

/-- A team by its identity. -/
def State.team (s : State) (id : Nat) : Option Team := s.teams.find? (·.id == id)

/-- Replaces the team of the same identity. -/
def State.setTeam (s : State) (t : Team) : State :=
  { s with teams := s.teams.map fun x => if x.id == t.id then t else x }

/-- A strand by team and index. -/
def State.strand (s : State) (team index : Nat) : Option Strand :=
  s.strands.find? fun x => x.team == team && x.index == index

/-- Replaces the strand of the same team and index. -/
def State.setStrand (s : State) (st : Strand) : State :=
  { s with strands := s.strands.map fun x => if x.team == st.team && x.index == st.index then st else x }

/-- The strands of a team, in order of index. -/
def State.teamStrands (s : State) (team : Nat) : List Strand := s.strands.filter (·.team == team)

/-- Changes every strand of a team. -/
def State.mapStrands (s : State) (team : Nat) (f : Strand → Strand) : State :=
  { s with strands := s.strands.map fun x => if x.team == team then f x else x }

/-- A grid by its identity. -/
def State.grid (s : State) (id : Nat) : Option Grid := s.grids.find? (·.id == id)

/-- Replaces the grid of the same identity. -/
def State.setGrid (s : State) (g : Grid) : State :=
  { s with grids := s.grids.map fun x => if x.id == g.id then g else x }

/-- An engine command by its identity. -/
def State.cmd (s : State) (id : Nat) : Option Cmd := s.cmds.find? (·.id == id)

/-- Replaces the command of the same identity. -/
def State.setCmd (s : State) (c : Cmd) : State :=
  { s with cmds := s.cmds.map fun x => if x.id == c.id then c else x }

/-- Removes a command. -/
def State.dropCmd (s : State) (id : Nat) : State := { s with cmds := s.cmds.filter (·.id != id) }

/-- Replaces a tower. -/
def State.setTower (s : State) (i : Nat) (t : Tower) : State := { s with towers := s.towers.setIfInBounds i t }

/-- A tower; numbers are taken modulo 4 (R20). -/
def State.tower (s : State) (i : Nat) : Tower := s.towers.get (Fin.ofNat 4 i)

/-- A control core by physical number 4t + c (R19), modulo 16. -/
def State.core (s : State) (i : Nat) : Core := s.cores.get (Fin.ofNat 16 i)

/-- Replaces a core. -/
def State.setCore (s : State) (i : Nat) (c : Core) : State := { s with cores := s.cores.setIfInBounds i c }

/-! ### Choices and free values -/

/-- The next choice of the timing oracle: the first it holds, and a free value where it holds none (log 4). -/
def State.choice (s : State) : Nat := match s.choices with
  | n :: _ => n
  | [] => Config.freeChoice s.fresh

/-- The state once that choice is made. -/
def State.chosen (s : State) : State := { s with choices := s.choices.tail, fresh := s.fresh + 1 }

/-- A free value, by the state's counter (log 5). -/
def State.free (s : State) : Word := Config.freeWord s.fresh

/-- The state once a free value is taken. -/
def State.freed (s : State) : State := { s with fresh := s.fresh + 1 }

/-! ### Placement (R19, R20, R24, R153, R154) -/

/-- Number of tower indices a team spans: max(1, W / 4). -/
def Team.spans (t : Team) : Nat := max 1 (t.width / 4)

/-- Physical tower of team tower index `x` (R20). -/
def Team.tower (t : Team) (x : Nat) : Nat := (t.t0 + x) % 4

/-- Physical tower of strand `i` (R20). -/
def Team.strandTower (t : Team) (i : Nat) : Nat := t.tower (i / 4)

/-- Local core number of strand `i` (R20). -/
def Team.strandCore (t : Team) (i : Nat) : Nat := (t.c0 + i) % 4

/-- Physical core number of strand `i` (R19). -/
def Team.physCore (t : Team) (i : Nat) : Nat := 4 * t.strandTower i + t.strandCore i

/-- Key of a ring byte: tower, station and byte offset. -/
def ringKey (tower station off : Nat) : Nat := 2 ^ 26 * tower + 2 ^ 21 * station + off

/-- Fields of a ring address (R154). -/
def eaOff (ea : BitVec 28) : Nat := ea.toNat % 2 ^ 21
/-- Station, counted from strand 0's core. -/
def eaStn (ea : BitVec 28) : Nat := ea.toNat / 2 ^ 21 % 32
/-- Tower index within the team. -/
def eaTwi (ea : BitVec 28) : Nat := ea.toNat / 2 ^ 26

/-- Linear offset of a diagonal one (R158). -/
def diagOffset (o : Nat) : Nat :=
  16384 * (o / 16384) + 1024 * (o / 1024 % 16) + 64 * ((o / 64 % 16 + o / 1024 % 16) % 16) + o % 64

/-- Key of byte `off` of a belt at a station and tower of a team (R154). -/
def Team.beltKey (t : Team) (twi stn off : Nat) : Nat :=
  ringKey (t.tower twi) ((8 * t.c0 + stn) % 32) (t.beltBases.getD twi 0 + off)

/-- Offset in the belt of byte `i` of a core access: consecutive bytes, or a column of eight chunks in the diagonal view
(R158, R159). -/
def accessOffset (off : Nat) (diag : Bool) (i : Nat) : Nat :=
  if diag then diagOffset (off + 1024 * (i / 64) + i % 64) else off + i

/-- The ring keys of the `size` bytes of a core access. -/
def Team.accessKeys (t : Team) (ea : BitVec 28) (size : Nat) (diag : Bool) : List Nat :=
  (List.range size).map fun i => t.beltKey (eaTwi ea) (eaStn ea) (accessOffset (eaOff ea) diag i)

/-- The tag of the parcel that holds a ring key (R160). -/
def State.tag (s : State) (key : Nat) : BitVec 16 := SMap.get 0 s.tags (key / 4096)

/-- A command releases (R240, R245): it has completed, has given a tag, has moved a handle or has advanced a flag, and what its strand wrote up to
its bundle, with what it has itself acquired, is what an acquire may join (log 93). -/
def State.releaseCmd (s : State) (c : Cmd) : State :=
  match c.packet, s.strand c.team c.strand with
  | none, some st => s.setStrand { st with
      released := max st.released c.issuedTc
      heard := c.heard.foldl (fun m e => SMap.set 0 m e.1 (max (SMap.get 0 m e.1) e.2)) st.heard }
  | _, _ => s

/-- Number of the parcel of a linear ring address within its team's belt: team tower, station and parcel of the station's range (R160). -/
def eaParcel (ea : BitVec 28) : Nat := ea.toNat / 4096

/-- Key of the tag of a parcel of a team's belt. -/
def Team.parcelKey (t : Team) (p : Nat) : Nat := t.beltKey (p / 2 ^ 14) (p / 2 ^ 9 % 32) (4096 * (p % 2 ^ 9)) / 4096

/-- A command that is writing a parcel when it is poisoned no longer clears the mark (R161). -/
def State.spoil (s : State) (l : List Nat) (c : Cmd) : Cmd :=
  match s.team c.team with
  | some t => { c with parcels := c.parcels.map fun p => (p.1, p.2 || l.contains (t.parcelKey p.1)) }
  | none => c

/-- Parcels are poisoned, by the keys of their tags (R161): tags that were to be set are lost. -/
def State.poisonTags (s : State) (l : List Nat) : State :=
  { s with
    tags := l.foldl (fun m k => SMap.set 0 m k 0xFFFF#16) s.tags
    newTags := s.newTags.filter fun e => !l.contains e.1
    cmds := s.cmds.map fun c => if c.parcels.isEmpty then c else s.spoil l c }

/-- The poison bits of bytes at ring keys, one for each 64 of them (R161, R289). -/
def State.ringPois (s : State) (keys : List Nat) : BitVec 8 :=
  BitVec.ofNat 8 (undigits 1 ((List.range 8).map fun m =>
    if ((keys.drop (64 * m)).take 64).any fun k => s.tag k == 0xFFFF#16 then 1 else 0))

/-- The bytes at ring keys as a row, byte 0 first. -/
def State.ringBytes (s : State) (keys : List Nat) : Row := rowOfBytes (keys.map (Memory.read s.ring))

/-- Writes bytes at ring keys. -/
def writeKeys : List Host.Cell → List Nat → List Byte → List Host.Cell
  | m, k :: ks, b :: bs => writeKeys (Memory.write m k b) ks bs
  | m, _, _ => m

/-- A core store performs (R156): its bytes, and tag 0xFFFF on each parcel that takes poisoned bytes (R161). -/
def State.performStore (s : State) (t : Team) (w : RingStore) : State :=
  let keys := t.accessKeys w.ea w.size w.diag
  let bad := (keys.zipIdx).filter fun e => w.pois.getLsbD (e.2 / 64)
  { s.poisonTags (bad.map fun e => e.1 / 4096) with ring := writeKeys s.ring keys (bytesOf w.size w.data.toNat) }

/-- The bank of a ring key: tower, station and bank (R152). -/
def bankOf (key : Nat) : Nat := 16 * (key / 2 ^ 21) + key / 64 % 16

/-- The banks of a core access, one for each 64 bytes (R157). -/
def Team.accessBanks (t : Team) (ea : BitVec 28) (size : Nat) (diag : Bool) : List Nat :=
  (List.range ((size + 63) / 64)).map fun m => bankOf (t.beltKey (eaTwi ea) (eaStn ea) (accessOffset (eaOff ea) diag (64 * m)))

/-! ### Tiles and accumulator rows -/

/-- Key of line `l` of physical tile `p` of a tower (R168). -/
def tileKey (tower p l : Nat) : Nat := 8192 * tower + 128 * p + l

/-- A line of a tile with its poison. -/
def State.line (s : State) (k : Nat) : TileLine := SMap.get { data := 0, pois := false } s.tiles k

/-- Writes a line of a tile. -/
def State.setLine (s : State) (k : Nat) (v : TileLine) : State :=
  { s with tiles := SMap.set { data := 0, pois := false } s.tiles k v }

/-- Physical tile of a strand's tile register. -/
def Strand.tile (st : Strand) (n : Nat) : Nat := st.tiles.getD n 0

/-- Key of physical accumulator tile `p`, row `r`, of a tower (R172). -/
def accKey (tower p r : Nat) : Nat := 2048 * tower + 128 * p + r

/-- The zero row with its side word. -/
def AccRow.zero : AccRow := { data := 0, ck := 0, pois := 0 }

/-- An accumulator row with its side word. -/
def State.accRow (s : State) (k : Nat) : AccRow := SMap.get AccRow.zero s.accs k

/-- Writes an accumulator row and its side word. -/
def State.setAccRow (s : State) (k : Nat) (v : AccRow) : State := { s with accs := SMap.set AccRow.zero s.accs k v }

/-- Key of the strand's accumulator row `rho` (R172). -/
def rowKey (t : Team) (st : Strand) (rho : Nat) : Nat :=
  accKey (t.strandTower st.index) (st.accs.getD (rho / 128) 0) (rho % 128)

/-- Element type of the strand's accumulator row `rho` (R172). -/
def Strand.rowType (st : Strand) (rho : Nat) : Fmt := acfgType (st.acfg.toList.getD (rho / 128) 1#64)

/-- The row that register V`n` names (R173). -/
def Strand.vrow (st : Strand) (n : BitVec 6) : Nat := wbits st.vwb 0 11 + n.toNat

/-- A row after a write of the bytes that `m` names, with the checksum of its type (R176, R289). -/
def AccRow.write (old : AccRow) (ty : Fmt) (data : Row) (m : Mask) (pois : BitVec 8) : AccRow :=
  let d := mergeBytes old.data data m
  { data := d, ck := checksum ty d, pois := mergePois old.pois pois m }

/-! ### Scalar registers, predicates (R322) -/

/-- A scalar register; S0 reads zero. -/
def Strand.sreg (st : Strand) (d : BitVec 6) : Word := if d = 0 then 0 else st.s.get (Fin.ofNat 64 d.toNat)

/-- The poison bit of a scalar register; S0 has none. -/
def Strand.spoisoned (st : Strand) (d : BitVec 6) : Bool := d != 0 && st.spois.get (Fin.ofNat 64 d.toNat)

/-- A predicate; P0 reads true. -/
def Strand.preg (st : Strand) (p : BitVec 3) : Bool := p == 0 || st.p.get (Fin.ofNat 8 p.toNat)

/-- Writes a scalar register and its poison; a write to S0 is discarded (R65). -/
def Strand.setSreg (st : Strand) (d : BitVec 6) (v : Word) (pois : Bool) : Strand :=
  if d = 0 then st
  else { st with s := st.s.set (Fin.ofNat 64 d.toNat) v, spois := st.spois.set (Fin.ofNat 64 d.toNat) pois }

/-- Writes a predicate; a write to P0 is discarded (R65). -/
def Strand.setPreg (st : Strand) (p : BitVec 3) (v : Bool) : Strand :=
  if p = 0 then st else { st with p := st.p.set (Fin.ofNat 8 p.toNat) v }

/-- A token; token 0 names none (R73). -/
def Strand.token (st : Strand) (n : Nat) : Token := st.tokens.get (Fin.ofNat 64 n)

/-- Sets a token; token 0 names none. -/
def Strand.setToken (st : Strand) (n : Nat) (t : Token) : Strand :=
  if n = 0 then st else { st with tokens := st.tokens.set (Fin.ofNat 64 n) t }

/-- Whether a token is pending. -/
def Strand.isPending (st : Strand) (n : Nat) : Bool := n != 0 && (st.token n).st == .pending

/-! ### Engines and their expansion counters (R80 to R82) -/

/-- The engine code of a command (R82); `track` is the track of a cube command. -/
def CmdOp.engine (op : CmdOp) (track : Nat) : Nat :=
  match op with
  | .cube | .cubeh | .wld | .wldSp | .wswap => track + 1
  | .layout => 5
  | .copy | .ccopy => 6
  | .scat => 7
  | .coll => 8
  | .fsend | .frecv | .fld | .fst | .fatom => 9
  | .nmred | .nmcas | .nmsac | .sig => 10
  | .probe | .probeReq | .tshoot => 11
  | .launch | .lease | .unlease | .hset => 12

/-- Track field of a band word (R181). -/
def bandTrk (w : Word) : Nat := wbits w 16 2

/-- Engine code of a command. -/
def Cmd.engine (c : Cmd) : Nat := c.op.engine (bandTrk c.w1)

/-- The XPC entry of a command (R81). -/
def Cmd.xpcEntry (c : Cmd) : Word :=
  BitVec.ofNat 64 (c.token + 2 ^ 6 * c.engine + 2 ^ 10 + 2 ^ 16 * (c.xpc % 2 ^ 32))

/-- Insertion of a command by the cycle of its start, oldest first. -/
def insertByStart (c : Cmd) : List Cmd → List Cmd
  | [] => [c]
  | d :: l => if d.startCyc ≤ c.startCyc then d :: insertByStart c l else c :: d :: l

/-- The commands of a strand that are expanding, oldest started first (R80, R81). -/
def State.expandingOf (s : State) (team strand : Nat) : List Cmd :=
  (s.cmds.filter fun c => c.team == team && c.strand == strand && c.packet.isNone && c.expanding).foldl
    (fun l c => insertByStart c l) []

/-! ### The bundle being issued -/

/-- A fault of the slot being issued, found in the read stage (R280). -/
def State.fault (s : State) (cause : Cause) (detail : Nat) : Raised :=
  { cause, point := .read, slot := s.iss.slot, detail := BitVec.ofNat 64 detail, pctx := 0, pcause := 0, badRow := none }

/-- The word of the slot being issued, which DETAIL gives for ILLEGAL faults (R287). -/
def State.slotWord (s : State) : Nat := (s.iss.words.getD s.iss.slot 0).toNat

/-- ILLEGAL OPERAND of the slot being issued. -/
def State.badOperand (s : State) : Raised := s.fault .illegalOperand s.slotWord

/-- POISON CONSUME of a register of the slot being issued (R287). -/
def State.poisonUse (s : State) (n : Nat) : Raised := s.fault .poisonConsume (4 * n)

/-- The slot is done: its read-stage checks, those it makes only where its guard is true (R69), and what it does where its
guard is true. The prefixes that stood before it are spent (R318). Nothing else changes until the bundle is resolved. -/
def State.slotDone (s : State) (checks live : List Raised) (effects : List Effect) : State :=
  { s with iss := { s.iss with
      raised := s.iss.raised ++ checks ++ (if s.iss.guard then live else [])
      effects := s.iss.effects ++ (if s.iss.guard then effects.map fun e => (s.iss.slot, e) else [])
      pfx := [], guard := true, deps := none } }

/-- The faults of a list of checks that fail. -/
def failed (l : List (Bool × Raised)) : List Raised := (l.filter (·.1)).map (·.2)

/-- POISON CONSUME for each poisoned register of a list (R289). -/
def State.poisonChecks (s : State) (l : List (BitVec 6)) : List Raised :=
  (l.filter s.iss.st.spoisoned).map fun d => s.poisonUse d.toNat

/-! ### Faults and their records -/

/-- Class and code of a cause (R279). -/
def Cause.code : Cause → Nat × Nat
  | .scheduleTag => (1, 1) | .scheduleToken => (1, 2) | .scheduleBank => (1, 3) | .scheduleLease => (1, 4)
  | .scheduleDepart => (1, 5) | .scheduleUnposted => (1, 6) | .scheduleWait => (1, 7) | .scheduleRdv => (1, 8)
  | .poisonConsume => (2, 1) | .poisonFetch => (2, 2)
  | .accchkRow => (3, 1)
  | .illegalInstr => (4, 1) | .illegalVersion => (4, 2) | .illegalOperand => (4, 3) | .illegalType => (4, 4)
  | .illegalBundle => (4, 5)
  | .translationEntry => (5, 1) | .translationUnmapped => (5, 2) | .translationChannel => (5, 3)
  | .probeMiss => (6, 1)
  | .protectionWrite => (7, 1) | .protectionRing => (7, 2)
  | .engDesc => (8, 1) | .engViewRange => (8, 2) | .engViewAlias => (8, 3) | .engRingRange => (8, 4)
  | .engCmdRm => (8, 5) | .engSeq => (8, 6) | .engBand => (8, 7) | .engGroup => (8, 8) | .engCubeFmt => (8, 9)
  | .engCubePair => (8, 10) | .engCubeAcc => (8, 11) | .engCubeOfs => (8, 12) | .engCubeSp => (8, 13)
  | .engCubeWld => (8, 14) | .engLayoutDmw => (8, 15) | .engLayoutShape => (8, 16) | .engLayoutFmt => (8, 17)
  | .engCopyKind => (8, 18) | .engCopyShape => (8, 19) | .engCopyFmt => (8, 20) | .engCcopyShape => (8, 21)
  | .engScatFmt => (8, 22) | .engScatIndex => (8, 23) | .engCollShape => (8, 24) | .engCollFmt => (8, 25)
  | .engCollMismatch => (8, 26) | .engQueueRange => (8, 27) | .engFabDepart => (8, 28) | .engFabDest => (8, 29)
  | .engFabRemote => (8, 30) | .engFabTimeout => (8, 31)
  | .thermalTrip => (9, 1)
  | .trap => (10, 1)
  | .eventZeroFill => (11, 1) | .eventResidency => (11, 2) | .eventUnposted => (11, 3) | .eventAudit => (11, 4)
  | .eventDesync => (11, 5)

/-- Whether a cause leaves its team frozen for the host: a PROBE fault or a TRAP (R284, R291). -/
def Cause.freezes (c : Cause) : Bool := c == .probeMiss || c == .trap

/-- Place of a cause within its detection point (R280), lower first. -/
def Cause.rank : Cause → Nat
  | .illegalVersion => 0 | .illegalInstr => 1 | .illegalBundle => 2 | .illegalOperand => 3 | .illegalType => 4
  | .protectionRing => 5 | .accchkRow => 6 | .poisonFetch => 7 | .poisonConsume => 7
  | .scheduleTag => 8 | .scheduleBank => 9 | .scheduleWait => 10 | .scheduleRdv => 11 | .scheduleDepart => 12
  | .engGroup => 13 | .engQueueRange => 14
  | _ => 15

/-- Order of the detection points (R280). -/
def Point.rank : Point → Nat
  | .fetch => 0 | .decode => 1 | .read => 2 | .start => 3 | .access => 4 | .outside => 5

/-- Whether one fault of a bundle is reported before another: the earlier point, then the place in its order, then the lower
slot (R280). -/
def Raised.before (a b : Raised) : Bool :=
  let x := (a.point.rank, a.cause.rank, a.slot)
  let y := (b.point.rank, b.cause.rank, b.slot)
  x.1 < y.1 || (x.1 == y.1 && (x.2.1 < y.2.1 || (x.2.1 == y.2.1 && x.2.2 ≤ y.2.2)))

/-- The fault that is reported of a bundle (R280). -/
def firstFault : List Raised → Option Raised
  | [] => none
  | r :: l => match firstFault l with
    | none => some r
    | some q => some (if r.before q then r else q)

/-- The bits of a record (R286): fields and their places, from the lowest. -/
def packFields : List (Nat × Nat) → Nat
  | [] => 0
  | (w, v) :: l => v % 2 ^ w + 2 ^ w * packFields l

/-- Whether the team is in a fabric-timed section: one of its FSEND or FRECV tokens is pending (R269); that of a
faulted one stays so (R76, R282). -/
def State.inFabricSection (s : State) (team : Nat) : Bool :=
  s.cmds.any fun c => c.team == team && c.packet.isNone && (c.op == .fsend || c.op == .frecv)

/-- The record of a fault of a strand, as its detection leaves it: SAVED, NORES, NRPL and NXPC are filled in at the save
(R286). -/
def State.strandRecord (s : State) (t : Team) (strand pc : Nat) (r : Raised) (xpce : Word) : Chunk :=
  let g := s.grid t.grid
  let st := s.strand t.id strand
  let (cls, code) := r.cause.code
  BitVec.ofNat 512 (packFields
    [(4, cls), (8, code), (1, 0), (1, 0), (1, 0), (1, 0), (8, t.ctx), (4, strand), (16, t.index),
     (2, t.strandTower strand), (2, t.strandCore strand), (16, 0),
     (18, pc), (3, r.slot), (1, match st with | some x => if x.mode == .timed then 1 else 0 | none => 0),
     (1, if s.inFabricSection t.id then 1 else 0), (1, 0), (40, t.tcyc), (64, s.cyc),
     (64, match g with | some x => x.launch.hash.toNat | none => 0),
     (64, match g with | some x => x.lrec.toNat | none => 0),
     (64, xpce.toNat), (64, r.detail.toNat), (8, 0), (8, 0), (8, r.pctx), (2, r.pcause), (38, 0)])

/-- The record of a packet's fault (R98, R100, R286): SRCPKT is set, and LREC gives queue and claimed index. The tower is the one whose
engine runs a packet's command; what the scheduler itself raises, and CORE, read 0 (log 79). -/
def State.packetRecord (s : State) (ctx queue index tower : Nat) (r : Raised) (xpce : Word) : Chunk :=
  let (cls, code) := r.cause.code
  BitVec.ofNat 512 (packFields
    [(4, cls), (8, code), (1, 0), (1, 1), (1, 0), (1, 0), (8, ctx), (4, 0), (16, 0), (2, tower), (2, 0), (16, 0),
     (18, 0), (3, 0), (1, 0), (1, 0), (1, 0), (40, 0), (64, s.cyc), (64, 0),
     (64, queue + 2 ^ 6 * index), (64, xpce.toNat), (64, r.detail.toNat), (8, 0), (8, 0), (8, r.pctx), (2, r.pcause), (38, 0)])

/-- Counts a record for the grid it is attributed to (R307): ZERO-FILL events and faults of class POISON, saturating. -/
def State.countRecord (s : State) (p : PendingRecord) : State :=
  match p.grid.bind s.grid with
  | none => s
  | some g =>
    let w := p.words.toNat
    let top := 2 ^ 32 - 1
    if bits w 12 1 = 1 then
      if bits w 0 4 = 11 && bits w 4 8 = 1 then s.setGrid { g with zfill := min top (g.zfill + 1) } else s
    else if bits w 0 4 = 2 then s.setGrid { g with pcons := min top (g.pcons + 1) } else s

/-- The CYC a record's cause was detected in (R286). -/
def PendingRecord.cyc (p : PendingRecord) : Nat := bits p.words.toNat 128 64

/-- Whether a record comes before another (R285): the earlier cause first and, within one CYC cy, faults before events, then lower towers,
then lower strands. -/
def PendingRecord.before (p q : PendingRecord) : Bool :=
  let place (r : PendingRecord) : Nat := (bits r.words.toNat 12 1 * 4 + bits r.words.toNat 44 2) * 16 + bits r.words.toNat 24 4
  p.cyc < q.cyc || (p.cyc == q.cyc && place p < place q)

/-- Insertion of a record, after those it does not come before. -/
def insertRecord (p : PendingRecord) : List PendingRecord → List PendingRecord
  | [] => [p]
  | q :: l => if p.before q then p :: q :: l else q :: insertRecord p l

/-- Whether a context is being destroyed (R304). -/
def State.ending (s : State) (ctx : Nat) : Bool := (s.context ctx).any (·.destroying)

/-- Adds a record to those a context has still to write, in the order of R285; a context that is being destroyed writes none (R304). -/
def State.addRecord (s : State) (ctx : Nat) (p : PendingRecord) : State :=
  match s.context ctx with
  | none => s
  | some c => if c.destroying then s else (s.setContext { c with records := insertRecord p c.records }).countRecord p

/-- The context's FWIDX after a record of a grid (R307). -/
def State.noteIndex (s : State) (p : PendingRecord) (fwidx : Nat) : State :=
  match p.grid.bind s.grid with
  | none => s
  | some g => s.setGrid { g with fqidx := fwidx }

/-- A structure address `n` bytes on (R93). -/
def structPlus (a : Word) (n : Nat) : Word := a + BitVec.ofNat 64 (n * 2 ^ 20)

/-- A write of the device itself to a structure; one that does not translate is lost (log 15), and a context that is being destroyed takes
none (R304). Its accesses count at their stacks as tower 0's (R147; log 80). -/
def State.deviceWrite (s : State) (c : Context) (addr : Word) (bs : List Byte) : State :=
  if (s.context c.num).any (·.destroying) then s
  else match s.writeStruct c s.choice addr 1 bs none with
  | .ok (s', _, tch) => s'.noteList c 0 tch
  | .error _ => s

/-- A read of the device itself of a structure, under cached or present tables by choice (R137); one that does not translate reads a free value
(log 15). -/
def State.deviceRead (s : State) (c : Context) (addr : Word) (n : Nat) : Nat :=
  match s.readStruct c s.choice addr n 1 with
  | .ok g => g.val
  | .error _ => freeNat s.fresh n

/-- What that read leaves behind: its accesses count at their stacks as tower 0's (R147; log 80). -/
def State.deviceNote (s : State) (c : Context) (addr : Word) (n : Nat) : State :=
  match s.readStruct c s.choice addr n 1 with
  | .ok g => s.noteList c 0 g.touched
  | .error _ => s

/-- The caches and the sketch as another state has them. -/
def State.tracesOf (s u : State) : State := { s with memStacks := u.memStacks, cached := u.cached }

/-- What reads of the device itself of structures leave behind: address and bytes of each. -/
def State.deviceNotes (s : State) (c : Context) (l : List (Word × Nat)) : State :=
  s.tracesOf (l.foldl (fun u e => u.deviceNote c e.1 e.2) s)

/-- An addition to an 8-byte counter with release semantics, by the near-memory unit (R100, R110); a counter address of 0
names none. -/
def State.counterAdd (s : State) (ctx : Nat) (addr : Word) (inc : Nat) : State :=
  match s.context ctx with
  | none => s
  | some c =>
    if addr = 0 then s
    else s.deviceWrite c addr (bytesOf 8 ((s.deviceRead c addr 8 + inc) % 2 ^ 64))

/-- Writes one record to the fault queue or, where the queue is full, counts it as dropped; a record that is never dropped stays. Answers
whether the record is done with (R285). -/
def State.writeRecord (s : State) (c : Context) (p : PendingRecord) : State × Bool :=
  let h := s.deviceRead c c.fq 64
  let s := s.deviceNote c c.fq 64
  let size := 2 ^ bits h 64 5
  if (c.fwidx + (2 ^ 64 - bits h 192 64)) % 2 ^ 64 < size then
    let s := s.deviceWrite c (structPlus (BitVec.ofNat 64 (bits h 0 64)) (64 * (c.fwidx % size))) (bytesOf 64 p.words.toNat)
    let s := s.deviceWrite c (structPlus c.fq 16) (bytesOf 8 (c.fwidx + 1))
    let s := match s.context c.num with
      | some c' => (s.setContext { c' with fwidx := c.fwidx + 1 }).noteIndex p (c.fwidx + 1)
      | none => s
    match p.keep, p.team with
    | true, some id => match s.team id with
      | some t => (s.setTeam { t with records := t.records ++ [c.fwidx] }, true)
      | none => (s, true)
    | _, _ => (s, true)
  else if p.keep then (s, false)
  else ((s.deviceWrite c (structPlus c.fq 32) (bytesOf 4 (min (bits h 256 32 + 1) (2 ^ 32 - 1)))).noteIndex p c.fwidx, true)

/-- Writes the records that are ready, in order; a record that is not ready holds every later one, and those of the current cycle wait for its
end, so that all of them stand in their order (R285). -/
def State.writeRecords (s : State) (ctx : Nat) : List PendingRecord → List PendingRecord → State
  | [], kept => match s.context ctx with
    | some c => s.setContext { c with records := kept }
    | none => s
  | p :: l, kept =>
    match s.context ctx with
    | none => s
    | some c =>
      if p.ready && p.cyc < s.cyc then
        let (s', fin) := s.writeRecord c p
        State.writeRecords s' ctx l (if fin then kept else kept ++ [p])
      else s.setContext { c with records := kept ++ p :: l }

/-- Writes what can be written of a context's records. -/
def State.flushRecords (s : State) (ctx : Nat) : State :=
  match s.context ctx with
  | none => s
  | some c => s.writeRecords ctx c.records []

/-- An event of a strand or command (R286, EVENT = 1): recorded, and nothing freezes. -/
def State.logEvent (s : State) (ctx : Nat) (grid : Option Nat) (words : Chunk) : State :=
  s.addRecord ctx { team := none, grid, strand := 0, words := words ||| 0x1000#512, ready := true, keep := false }

/-- A stop cycle for a team: a choice among the 64 cycles from `from_` on (R113, R282). -/
def stopCycle (from_ choice : Nat) : Nat := from_ + choice % Config.stopWithin

/-- The strands of a team that have not retired are frozen (R83). -/
def State.freezeStrands (s : State) (team : Nat) : State :=
  s.mapStrands team fun x => if x.st == .retired || x.st == .frozen then x else { x with st := .frozen, prior := x.st }

/-- Takes faults of a team (R281 to R284, R291): a record for each, and the team stops at cycle T, or at the stop cycle it
already has where that is earlier. Its strands issue up to the stop cycle and freeze in it; a fault of the bundles of this cycle freezes
them now. The entry lists strand, bundle offset, fault and XPC entry. -/
def State.takeFault (s : State) (team stopAt : Nat) (l : List (Nat × Nat × Raised × Word)) : State :=
  match s.team team with
  | none => s
  | some t =>
    let s := l.foldl (fun s e =>
      s.addRecord t.ctx { team := some team, grid := some t.grid, strand := e.1, words := s.strandRecord t e.1 e.2.1 e.2.2.1 e.2.2.2, ready := false,
                          keep := e.2.2.1.cause.freezes }) s
    let hard := l.any fun e => !e.2.2.1.cause.freezes
    let t := { t with
      st := match t.st with
        | .stopping a f => .stopping (min a stopAt) (f || hard)
        | .resident => .stopping stopAt hard
        | x => x
      faulted := true
      nores := t.nores || s.inFabricSection team }
    if stopAt ≤ t.tcyc then (s.setTeam t).freezeStrands team else s.setTeam t

/-- A fault of an engine command (R282): the command stops, its token stays pending, and its team stops within 64 cycles; the fault of a
packet's command is recorded, and its counter does not advance (R100). -/
def State.commandFault (s : State) (c : Cmd) (r : Raised) : State :=
  let r := if r.cause.code.1 == 8 && r.cause != .engBand then
      { r with detail := BitVec.ofNat 64 (r.detail.toNat / 16 * 16 + c.engine) } else r
  let r := { r with slot := c.slot }
  match c.packet with
  | some (q, n) =>
    let s := s.setCmd { c with st := .faulted, expanding := false }
    (s.addRecord c.ctx { team := none, grid := none, strand := 0, words := s.packetRecord c.ctx q n c.tower r c.xpcEntry, ready := true,
                         keep := false }).dropCmd c.id
  | none =>
    match s.team c.team with
    | none => s
    | some t =>
      ((s.setCmd { c with st := .faulted }).chosen).takeFault c.team (stopCycle (t.tcyc + 1) s.choice)
        [(c.strand, c.pc, r, c.xpcEntry)]

end Sys2Proof.Machine
end

