-- ==== Sys2Proof/Machine/Special.lean ====
section
/-! DEFINITION. The special functions on stepping 0x01 (R55, R450, R451): the exact value of the function, found to
far more bits than f32 keeps, then rounded once to f32 to nearest even. Fixed-point numbers are integers in units of
2^-448. -/

namespace Sys2Proof.Machine

/-- The ten special functions of R450, in the order of their OP. -/
inductive SpecialFn where
  | exp | log | rcp | rsq | sqrt | sin | cos | tanh | sigm | erf
  deriving DecidableEq, Repr

/-- One, in units of 2^-448. -/
def fxOne : Int := 2 ^ 448
/-- The circle constant in units of 2^-448. -/
def fxPi : Int := 0x3243f6a8885a308d313198a2e03707344a4093822299f31d0082efa98ec4e6c89452821e638d01377be5466cf34e90c6cc0ac29b7c97c50dd
/-- The natural logarithm of 2 in units of 2^-448. -/
def fxLn2 : Int := 0xb17217f7d1cf79abc9e3b39803f2f6af40f343267298b62d8a0d175b8baafa2be7b876206debac98559552fb4afa1b10ed2eae35c1382144
/-- 2 divided by the square root of the circle constant, in units of 2^-448. -/
def fxTwoSqrtPi : Int := 0x120dd750429b6d11ae3a914fed7fd8688281341d7587cea2e7342b06199cc416180eb39f0b24e1e2281806c12d98f35d77a3e9ddc91c394f0

/-- Product of fixed-point numbers. -/
def fxMul (a b : Int) : Int := a * b / 2 ^ 448
/-- Quotient of fixed-point numbers. -/
def fxDiv (a b : Int) : Int := a * 2 ^ 448 / b

/-- The fixed-point number of (-1)^neg · m · 2^e; exact for an f32 value. -/
def fxOf (neg : Bool) (m : Nat) (e : Int) : Int :=
  signedMag neg (if -448 ≤ e then m * 2 ^ (e + 448).toNat else m / 2 ^ (-448 - e).toNat)

/-- The value a fixed-point number times 2^k stands for. -/
def fxNum (x k : Int) : Num := .fin (x < 0) x.natAbs (k - 448)

/-- e^r = 1 + r/1 (1 + r/2 (1 + …)), from the n-th factor inwards. -/
def fxExpSeries (r : Int) : Nat → Int → Int
  | 0, acc => acc
  | n + 1, acc => fxExpSeries r n (fxOne + fxMul r acc / (n + 1 : Nat))

/-- e^x as a fixed-point number and a power of 2. -/
def fxExp (x : Int) : Int × Int :=
  let n := (x + fxLn2 / 2) / fxLn2
  (fxExpSeries (x - n * fxLn2) 120 fxOne, n)

/-- The inverse hyperbolic tangent of t over t: 1 + t²/3 + t⁴/5 + …, with t2 = t², from the n-th term inwards. -/
def fxAtanhSeries (t2 : Int) : Nat → Int → Int
  | 0, acc => acc
  | n + 1, acc => fxAtanhSeries t2 n (fxOne / (2 * n + 1 : Nat) + fxMul t2 acc)

/-- ln (m · 2^e) for m > 0. -/
def fxLog (m : Nat) (e : Int) : Int :=
  let k := Nat.log2 m
  let y : Int := m * 2 ^ 448 / 2 ^ k
  let big := decide (y > 3 * 2 ^ 447)
  let y := if big then y / 2 else y
  let k : Int := if big then k + 1 else k
  let t := fxDiv (y - fxOne) (y + fxOne)
  2 * fxMul t (fxAtanhSeries (fxMul t t) 130 0) + (k + e) * fxLn2

/-- The alternating series 1 - r2/(b(b+1)) (1 - r2/((b+2)(b+3)) (…)), from the n-th factor inwards; b = 2 gives sin r / r
and b = 1 gives cos r. -/
def fxTrigSeries (r2 : Int) (b : Nat) : Nat → Int → Int
  | 0, acc => acc
  | n + 1, acc =>
    fxTrigSeries r2 b n (fxOne - fxMul r2 acc / ((2 * n + b) * (2 * n + b + 1) : Nat))

/-- sin x, or cos x where `shift` is 1. -/
def fxSin (x : Int) (shift : Int) : Int :=
  let h := fxPi / 2
  let n := (x + h / 2) / h
  let r := x - n * fxPi / 2
  let r2 := fxMul r r
  match ((n + shift) % 4).toNat with
  | 0 => fxMul r (fxTrigSeries r2 2 60 fxOne)
  | 1 => fxTrigSeries r2 1 60 fxOne
  | 2 => -fxMul r (fxTrigSeries r2 2 60 fxOne)
  | _ => -fxTrigSeries r2 1 60 fxOne

/-- 1 + 2x²/3 (1 + 2x²/5 (…)), with u = 2x², from the n-th factor inwards. -/
def fxErfSeries (u : Int) : Nat → Int → Int
  | 0, acc => acc
  | n + 1, acc => fxErfSeries u n (fxOne + fxMul u acc / (2 * n + 3 : Nat))

/-- erf x for |x| < 6. -/
def fxErf (x : Int) : Int :=
  let x2 := fxMul x x
  let s := fxMul x (fxErfSeries (2 * x2) 340 fxOne)
  let (f, n) := fxExp (-x2)
  fxMul fxTwoSqrtPi (fxMul s (f / 2 ^ (-n).toNat))

/-- The integer square root, by halving the step: `bit` is the next bit to try. -/
def isqrtAux (n : Nat) : Nat → Nat → Nat
  | 0, acc => acc
  | b + 1, acc =>
    let t := acc + 2 ^ b
    isqrtAux n b (if t * t ≤ n then t else acc)

/-- The integer square root of a number below 2^1024. -/
def isqrt (n : Nat) : Nat := isqrtAux n 512 0

/-- 2^k times a root or quotient with a last bit that is set where it is not exact, so that it never looks like a
tie. -/
def sticky (q : Nat) (exact_ : Bool) : Nat := 2 * q + (if exact_ then 0 else 1)

/-- The square root of m · 2^e, with a sticky last bit. -/
def sqrtNum (m : Nat) (e : Int) : Num :=
  let m' := if e % 2 = 0 then m else 2 * m
  let e' := if e % 2 = 0 then e else e - 1
  let x := m' * 2 ^ 200
  let q := isqrt x
  .fin false (sticky q (q * q == x)) (e' / 2 - 101)

/-- 1 / (m · 2^e), with a sticky last bit. -/
def rcpNum (neg : Bool) (m : Nat) (e : Int) : Num :=
  let q := 2 ^ 200 / m
  .fin neg (sticky q (q * m == 2 ^ 200)) (-e - 201)

/-- 1 / √(m · 2^e), with a sticky last bit. -/
def rsqNum (m : Nat) (e : Int) : Num :=
  let m' := if e % 2 = 0 then m else 2 * m
  let e' := if e % 2 = 0 then e else e - 1
  let q := isqrt (2 ^ 400 / m')
  .fin false (sticky q (q * q * m' == 2 ^ 400)) (-(e' / 2) - 201)

/-- A value just below 1 in magnitude. -/
def almostOne (neg : Bool) : Num := .fin neg (2 ^ 200 - 1) (-200)

/-- The exact value of a special function (R450). -/
def SpecialFn.value (f : SpecialFn) (x : Num) : Num :=
  match x with
  | .nan => .nan
  | .inf neg =>
    match f with
    | .exp => if neg then .fin false 0 0 else .inf false
    | .log => if neg then .nan else .inf false
    | .rcp => .fin neg 0 0
    | .rsq => if neg then .nan else .fin false 0 0
    | .sqrt => if neg then .nan else .inf false
    | .sin | .cos => .nan
    | .tanh | .erf => .fin neg 1 0
    | .sigm => if neg then .fin false 0 0 else .fin false 1 0
  | .fin neg m e =>
    if m = 0 then
      match f with
      | .exp | .cos => .fin false 1 0
      | .log => .inf true
      | .rcp | .rsq => .inf neg
      | .sqrt | .sin | .tanh | .erf => x
      | .sigm => .fin false 1 (-1)
    else
      let v := fxOf neg m e
      let big := decide (v.natAbs ≥ 200 * 2 ^ 448)
      match f with
      | .exp =>
        if big then .fin false 1 (if neg then -400 else 400)
        else
          let (y, n) := fxExp v
          fxNum y n
      | .log =>
        if neg then .nan
        else
          let y := fxLog m e
          if x.eq (.fin false 1 0) then .fin false 0 0 else fxNum y 0
      | .rcp => rcpNum neg m e
      | .rsq => if neg then .nan else rsqNum m e
      | .sqrt => if neg then .nan else sqrtNum m e
      | .sin => fxNum (fxSin v 0) 0
      | .cos => fxNum (fxSin v 1) 0
      | .tanh =>
        if big then almostOne neg
        else
          let (y, n) := fxExp (2 * (v.natAbs : Int))
          let y := y * 2 ^ n.toNat
          let q := fxDiv (y - fxOne) (y + fxOne)
          fxNum (if neg then -q else q) 0
      | .sigm =>
        if big then (if neg then .fin false 1 (-400) else almostOne false)
        else
          let (y, n) := fxExp (-(v.natAbs : Int))
          let y := y / 2 ^ (-n).toNat
          fxNum (if neg then fxDiv y (fxOne + y) else fxDiv fxOne (fxOne + y)) 0
      | .erf => if v.natAbs ≥ 6 * 2 ^ 448 then almostOne neg else fxNum (fxErf v) 0

/-- A special function of an element of a row type, as bits of that type (R451). -/
def SpecialFn.elem (f : SpecialFn) (ty : Fmt) (sat : Bool) (x : Nat) : Nat :=
  match f.value (ty.decode x) with
  | .inf neg => ty.infBits neg
  | v => roundFloat ty .f32 .rne sat 0 (Fmt.f32.decode (roundFloat .f32 .f32 .rne sat 0 v))

end Sys2Proof.Machine
end

