-- ==== Sys2Proof/Machine/Operands.lean ====
section
/-! DEFINITION. Operand forms: immediates with their prefixes (R320), effective addresses of ring accesses and their checks (R155,
R159, R323), the rows of vector instructions with their checks (R173, R174, R177, R289), and the mask (R72). -/

namespace Sys2Proof.Machine

/-! ### Immediates -/

/-- The bits of an immediate: the last prefix lies just above the own field (R320). -/
def immBits (own w : Nat) (pfx : List (BitVec 18)) : Nat :=
  pfx.foldl (fun v p => v * 2 ^ 18 + p.toNat) 0 * 2 ^ w + own

/-- The immediate of the slot being issued (R320): `own` of `w` bits, signed without prefixes if `plain`, signed with them if
`wide`. -/
def State.imm (s : State) (own w : Nat) (plain wide : Bool) : Word :=
  let k := s.iss.pfx.length
  let v := immBits own w s.iss.pfx
  let width := w + 18 * k
  if (if k = 0 then plain else wide) then BitVec.ofInt 64 (signed width v) else BitVec.ofNat 64 v

/-- A signed immediate of a 6-bit own field. -/
def State.imm6 (s : State) (i : BitVec 6) : Word := s.imm i.toNat 6 true true

/-! ### Ring operands -/

/-- The effective address of a format-M slot (R323): S[base] + off × size. -/
def State.formatM (s : State) (a o : BitVec 6) (size : Nat) : Word :=
  s.iss.st.sreg a + s.imm o.toNat 6 false true * BitVec.ofNat 64 size

/-- The ring address of an effective address. -/
def eaRing (ea : Word) : BitVec 28 := ea.extractLsb' 0 28

/-- The expected parcel tag of an effective address. -/
def eaTag (ea : Word) : BitVec 16 := ea.extractLsb' 48 16

/-- Whether an access of bytes up to offset `last` lies in the team's belt (R155). -/
def Team.inBelt (t : Team) (ea : Word) (last : Nat) : Bool :=
  wbits ea 28 20 == 0 && eaTwi (eaRing ea) < t.spans && eaOff (eaRing ea) + last < t.belt * 1024

/-- The read-stage checks of a core access, in the order of R155: the belt, then the alignment. -/
def State.ringChecks (s : State) (ea : Word) (size : Nat) : List Raised :=
  if !s.iss.tm.inBelt ea (size - 1) then [s.fault .protectionRing ea.toNat]
  else if ea.toNat % min size 64 != 0 then [s.badOperand] else []

/-- The read-stage checks of a column access in the diagonal view (R155, R159). -/
def State.diagChecks (s : State) (ea : Word) : List Raised :=
  if !s.iss.tm.inBelt ea (7 * 1024 + 63) then [s.fault .protectionRing ea.toNat]
  else if ea.toNat % 64 != 0 || eaOff (eaRing ea) / 1024 % 8 != 0 then [s.badOperand] else []

/-- The parcel tags a `.chk` load compares, and the faults it raises (R162): first the reserved expected tag, then the first parcel
whose tag differs. -/
def State.tagCheck (s : State) (ea : Word) (keys : List Nat) : List Raised :=
  match keys.find? fun k => s.tag k != eaTag ea with
  | some k => [s.fault .scheduleTag ((eaTag ea).toNat + 2 ^ 16 * (s.tag k).toNat + 2 ^ 32 * (eaRing ea).toNat)]
  | none => []

/-- A `.chk` load with the reserved tag 0xFFFF (R162). -/
def State.tagOperand (s : State) (ea : Word) : List Raised := if eaTag ea == 0xFFFF#16 then [s.badOperand] else []

/-- Distance of two places around a ring of `n`. -/
def ringDistance (n a b : Nat) : Nat :=
  let d := (a + n - b) % n
  min d (n - d)

/-- Latency of a ring load (R156): 6 + h + 20 b. -/
def State.loadLatency (s : State) (ea : Word) : Nat :=
  let own := s.iss.st.index
  let e := if eaTwi (eaRing ea) ≤ own / 4 then own / 4 - eaTwi (eaRing ea) else eaTwi (eaRing ea) - own / 4
  6 + ringDistance 32 (eaStn (eaRing ea)) (8 * (own % 4)) + 20 * min e (4 - e)

/-! ### Rows -/

/-- Whether a strand accumulator row lies in the strand's claim (R173). -/
def State.rowInClaim (s : State) (rho : Nat) : Bool := rho < 128 * s.iss.tm.nacc

/-- The row that V`n` names in the bundle being issued. -/
def State.vrow (s : State) (n : BitVec 6) : Nat := s.iss.st.vrow n

/-- Key of a strand accumulator row of the strand being issued. -/
def State.rowKeyOf (s : State) (rho : Nat) : Nat := rowKey s.iss.tm s.iss.st rho

/-- Contents of a strand accumulator row of the strand being issued. -/
def State.rowOf (s : State) (rho : Nat) : AccRow := s.accRow (s.rowKeyOf rho)

/-- Contents of V`n`. -/
def State.vget (s : State) (n : BitVec 6) : AccRow := s.rowOf (s.vrow n)

/-- Element type of V`n` (R173). -/
def State.vtype (s : State) (n : BitVec 6) : Fmt := s.iss.st.rowType (s.vrow n)

/-- The elements of V`n` in a type. -/
def State.velems (s : State) (ty : Fmt) (n : BitVec 6) : List Nat := rowElems ty (s.vget n).data

/-- The operand check of a row register: its row lies in the claim (R173). -/
def State.vrowCheck (s : State) (n : BitVec 6) : List Raised := if s.rowInClaim (s.vrow n) then [] else [s.badOperand]

/-- ILLEGAL TYPE where a source is not of the type wanted (R174). -/
def State.typeCheck (s : State) (ty : Fmt) (n : BitVec 6) : List Raised :=
  if s.vtype n = ty then [] else [s.fault .illegalType s.slotWord]

/-- The checksum check of a row that is read (R177); it is a check of state, made where the guard is true. A row beyond the claim is none that
the slot may read (R281). -/
def State.rowCheck (s : State) (rho : Nat) : List Raised :=
  let r := s.rowOf rho
  if !s.rowInClaim rho then []
  else if rowOk (s.iss.st.rowType rho) r.data r.ck (s.iss.st.acktol.extractLsb' 0 32) then []
  else [{ s.fault .accchkRow rho with badRow := some (s.rowKeyOf rho) }]

/-- POISON CONSUME where a row that is consumed has a POIS bit set (R289). -/
def State.rowPoison (s : State) (n : BitVec 6) : List Raised := if (s.vget n).pois = 0 then [] else [s.poisonUse n.toNat]

/-- The checks of a source row that carries no poison on: operand and poison (R467). Its type is state, and is asked where the guard is true
(R69). -/
def State.srcChecks (s : State) (n : BitVec 6) : List Raised := s.vrowCheck n ++ s.rowPoison n

/-! ### The mask -/

/-- The top of the mask stack; an empty stack acts as all ones (R72). -/
def Strand.maskTop (st : Strand) : Mask := st.masks.headD (BitVec.allOnes 512)

/-- The bytes of the elements that a mask leaves on. -/
def maskBytes (m : Mask) (ty : Fmt) : Mask :=
  BitVec.ofNat 512 (undigits (ty.width / 8) ((List.range ty.count).map fun e =>
    if m.getLsbD e then 2 ^ (ty.width / 8) - 1 else 0))

/-- The elements below `n` of a mask. -/
def maskBelow (m : Mask) (n : Nat) : Mask := m &&& BitVec.ofNat 512 (2 ^ n - 1)

end Sys2Proof.Machine
end

