-- ==== Sys2Proof/Machine/Bundle.lean ====
section
/-! DEFINITION. Bundles: fetching the slots of one, the checks of its framing, quotas and prefixes at decode (R315 to R318,
R335), its idle count (R317), and what the strand does after it (R61, R70, R71). -/

namespace Sys2Proof.Machine

/-- The slot at a stream offset of a core's instruction store (R57, R314). -/
def State.slotAt (s : State) (core off : Nat) : BitVec 32 :=
  BitVec.ofNat 32 (natOf (Memory.readBytes s.istore (2 ^ 18 * core + off) 4))

/-- The slots from an offset on, up to the first with S = 1, at most `n` and none at or beyond `len`; and whether a stop was
met (R315). -/
def State.fetchWords (s : State) (core len : Nat) : Nat → Nat → List (BitVec 32) × Bool
  | _, 0 => ([], false)
  | off, n + 1 =>
    if len < off + 4 then ([], false)
    else
      let w := s.slotAt core off
      if w.getLsbD 31 then ([w], true)
      else
        let (l, stop) := s.fetchWords core len (off + 4) n
        (w :: l, stop)

/-- The offset after the bundle at `off`, by its S bits alone; `none` where the stream ends before it does. -/
def State.bundleEnd (s : State) (core len : Nat) : Nat → Nat → Option Nat
  | _, 0 => none
  | off, n + 1 =>
    if len < off + 4 then none
    else if (s.slotAt core off).getLsbD 31 then some (off + 4)
    else s.bundleEnd core len (off + 4) n

/-- The offset after the next `n` bundles from `off`. -/
def State.afterBundles (s : State) (core len : Nat) : Nat → Nat → Option Nat
  | off, 0 => some off
  | off, n + 1 => match s.bundleEnd core len off (len / 4) with
    | some e => s.afterBundles core len e n
    | none => none

/-! ### Fields of a slot word -/

/-- CLASS and OP of a slot word (R314). -/
def wordOpcode (w : BitVec 32) : BitVec 9 := w.extractLsb' 20 9
/-- CLASS of a slot word. -/
def wordClass (w : BitVec 32) : Nat := (w.extractLsb' 26 3).toNat
/-- OP of a slot word. -/
def wordOp (w : BitVec 32) : Nat := (w.extractLsb' 20 6).toNat
/-- VER of a slot word. -/
def wordVer (w : BitVec 32) : Nat := (w.extractLsb' 29 2).toNat
/-- OPND of a slot word. -/
def wordOpnd (w : BitVec 32) : BitVec 18 := w.extractLsb' 0 18

/-- Place of a prefix slot in a run (R318): PFX.g, PFX, DEPS; `none` for any other slot. -/
def prefixRank (w : BitVec 32) : Option Nat :=
  if wordClass w = 7 then
    match wordOp w with
    | 3 => some 0
    | 2 => some 1
    | 1 => some 2
    | _ => none
  else none

/-- How many prefixes of a rank a run may hold (R318). -/
def prefixMax (r : Nat) : Nat := if r = 1 then 2 else 1

/-- Whether a slot's instruction has an extensible immediate (R320). -/
def extensible (w : BitVec 32) : Bool :=
  match wordClass w, wordOp w with
  | 0, op => (22 ≤ op && op ≤ 25) || op == 29 || op == 30 || op == 32
  | 1, op => op == 1 || op == 2 || op == 5 || op == 6
  | 5, op => (1 ≤ op && op ≤ 9) || (20 ≤ op && op ≤ 22)
  | _, _ => false

/-- Whether a slot takes no PFX.g: format G or GR, NOP or VIEWJ (R318). -/
def unguardable (w : BitVec 32) : Bool :=
  match wordClass w, wordOp w with
  | 1, op => op == 1 || op == 3
  | 7, op => op == 0 || op == 10
  | _, _ => false

/-- The quota group a slot counts in (R316); `none` where it is not counted. -/
def quotaGroup (w : BitVec 32) : Option Nat :=
  match wordClass w with
  | 0 | 1 => some 0
  | 2 | 3 => some 1
  | 4 => some 2
  | 5 | 6 => some 3
  | _ => if wordOp w ≤ 3 || wordOp w = 10 then none else some 0

/-- The most slots of a quota group (R316). -/
def quotaMax (g : Nat) : Nat := if g = 1 then 3 else if g = 2 then 1 else 2

/-- Whether a slot is one of those of which a bundle holds at most one (R315). -/
def singleton (w : BitVec 32) : Bool :=
  match wordClass w, wordOp w with
  | 1, op => 1 ≤ op && op ≤ 10
  | 3, op => op == 14
  | 7, op => op == 7
  | _, _ => false

/-- The destination register a slot names (R66): its kind (0 scalar, 1 predicate, 2 row, 3 tile, 4 control register) and number; S0
and P0 do not count. -/
def destOf (w : BitVec 32) : Option (Nat × Nat) :=
  let o := wordOpnd w
  let d := (o.extractLsb' 12 6).toNat
  let sreg (n : Nat) : Option (Nat × Nat) := if n = 0 then none else some (0, n)
  match wordClass w, wordOp w with
  | 0, op => if op = 31 || op = 32 then
      let p := (o.extractLsb' 12 3).toNat
      if p = 0 then none else some (1, p)
    else sreg d
  | 1, 2 => sreg d
  | 1, 3 => sreg (o.extractLsb' 8 6).toNat
  | 1, _ => none
  | 2, op => if op = 18 then sreg d else some (2, d)
  | 3, op => if 6 ≤ op && op ≤ 8 then sreg d else if 11 ≤ op && op ≤ 14 then none else some (2, d)
  | 4, _ => some (2, d)
  | 5, op =>
    if op = 1 || op = 2 then sreg d
    else if op = 4 || op = 5 || op = 7 || op = 8 || op = 15 || op = 18 then some (2, d)
    else if 10 ≤ op && op ≤ 13 then some (3, d)
    else none
  | 6, _ => none
  | _, op => if op = 4 then sreg d else if op = 5 then some (4, (o.extractLsb' 0 12).toNat) else none

/-- The produced token a slot names (R76, R315). -/
def tokenOf (w : BitVec 32) : Option Nat :=
  let t := ((wordOpnd w).extractLsb' 12 6).toNat
  if (wordClass w = 6 || (wordClass w = 7 && wordOp w = 8)) && t ≠ 0 then some t else none

/-! ### Decode faults (R335) -/

/-- A fault of a slot at decode; DETAIL is the slot (R287). -/
def decodeFault (cause : Cause) (i : Nat) (w : BitVec 32) : Raised :=
  { cause, point := .decode, slot := i, detail := BitVec.ofNat 64 w.toNat, pctx := 0, pcause := 0, badRow := none }

/-- What decoding of one slot by itself rejects (R335). -/
def slotFaults (i : Nat) (w : BitVec 32) : List Raised :=
  match decodeInstr (wordOpcode w) (wordOpnd w) with
  | .error .unassigned => [decodeFault .illegalInstr i w]
  | .error .reserved => if wordClass w = 6 || wordOp w = 8 && wordClass w = 7 then [] else [decodeFault .illegalOperand i w]
  | .ok x => if x.wellFormed then [] else [decodeFault .illegalOperand i w]

/-- The version faults of a bundle (R280, R317). -/
def versionFaults (ws : List (BitVec 32)) : List Raised :=
  match findIdx (fun w => 2 ≤ wordVer w) ws 0 with
  | some (i, w) => [decodeFault .illegalVersion i w]
  | none => match findIdx (fun w => wordVer w != wordVer (ws.headD 0)) ws 0 with
    | some (i, w) => [decodeFault .illegalVersion i w]
    | none => []

/-- The faults of the prefix slots of a bundle (R318): the run met so far, rank, place and word, newest first. -/
def prefixFaults : List (BitVec 32) → Nat → List (Nat × Nat × BitVec 32) → List Raised
  | [], _, [] => []
  | [], _, (_, i, w) :: _ => [decodeFault .illegalBundle i w]
  | w :: ws, i, run =>
    match prefixRank w with
    | some r =>
      (if run.any (fun e => r < e.1) || prefixMax r ≤ (run.filter fun e => e.1 == r).length then
        [decodeFault .illegalBundle i w] else []) ++ prefixFaults ws (i + 1) ((r, i, w) :: run)
    | none =>
      ((run.filter fun e =>
        (e.1 == 0 && unguardable w) || (e.1 == 1 && !extensible w) || (e.1 == 2 && wordClass w != 6)).map fun e =>
          decodeFault .illegalOperand e.2.1 e.2.2) ++ prefixFaults ws (i + 1) []

/-- The faults of quotas, singletons, destinations and tokens (R315, R316), each at the slot that breaks the rule; `before` holds the
slots before. -/
def quotaFaults : List (BitVec 32) → Nat → List (BitVec 32) → List Raised
  | [], _, _ => []
  | w :: ws, i, before =>
    let full := match quotaGroup w with
      | some g => quotaMax g ≤ (before.filter fun x => quotaGroup x == some g).length
      | none => false
    let twice := singleton w && before.any singleton
    let dest := (destOf w).isSome && before.any fun x => destOf x == destOf w
    let tok := (tokenOf w).isSome && before.any fun x => tokenOf x == tokenOf w
    (if full || twice || dest || tok then [decodeFault .illegalBundle i w] else []) ++ quotaFaults ws (i + 1) (w :: before)

/-- The framing fault of a bundle (R315): fewer than 4 slots, more than 8, or no stop before the end of the stream. -/
def framingFaults (ws : List (BitVec 32)) (stop : Bool) : List Raised :=
  if stop && 4 ≤ ws.length then [] else [decodeFault .illegalBundle (ws.length - 1) (ws.getLastD 0)]

/-- Every fault of a bundle at decode. -/
def decodeFaults (ws : List (BitVec 32)) (stop : Bool) : List Raised :=
  versionFaults ws ++ (ws.zipIdx.flatMap fun e => slotFaults e.2 e.1) ++ framingFaults ws stop ++ prefixFaults ws 0 [] ++
    quotaFaults ws 0 []

/-- The idle count of a bundle (R317). -/
def idleCount (ws : List (BitVec 32)) : Nat :=
  let x := ws.foldl (fun x w => x * 4 + (w.extractLsb' 18 2).toNat) 0
  if wordVer (ws.headD 0) = 0 then x else 16 * x

/-! ### After a bundle -/

/-- Where the strand goes on after a bundle or a skip that ends at offset `e`: the innermost loop whose body ends there takes its next
iteration or ends, and an ended loop lets the next one out do the same (R70, R71). Answers the offset, the open loops, and the LC
values. -/
def loopEnd : List LoopFrame → Nat → Vector (BitVec 32) 4 → Nat × List LoopFrame × Vector (BitVec 32) 4
  | [], e, lc => (e, [], lc)
  | f :: fs, e, lc =>
    if f.after ≠ e then (e, f :: fs, lc)
    else if f.index + 1 < f.count then
      (f.first, { f with index := f.index + 1 } :: fs, lc.setIfInBounds f.lc (BitVec.ofNat 32 (f.index + 1)))
    else loopEnd fs e (lc.setIfInBounds f.lc (BitVec.ofNat 32 f.count))

/-- The loops that stay open after a taken branch: those whose body contains the target (R71). -/
def loopsAt (fs : List LoopFrame) (target : Nat) : List LoopFrame :=
  fs.filter fun f => f.first ≤ target && target < f.after

end Sys2Proof.Machine
end

