-- ==== Sys2Proof/Machine/Control.lean ====
section
/-! DEFINITION. Class CTL (R329) and VSKIP: branches, loops, the two issue modes, END, YIELD, and the explicit waits (R63, R64, R68
to R72). A paced wait lets its bundle issue and then holds the strand; a timed one is a check. -/

namespace Sys2Proof.Machine

/-- Whether the strand issues in timed mode. -/
def State.isTimed (s : State) : Bool := s.iss.st.mode == .timed

/-- ILLEGAL INSTR in the read stage (R68, R108). -/
def State.badInstr (s : State) : Raised := s.fault .illegalInstr s.slotWord

/-- SCHEDULE WAIT with its cause (R287). -/
def State.waitFault (s : State) (cause : Nat) : Raised := s.fault .scheduleWait cause

/-- The stream offset of the bundle after the one being issued. -/
def State.nextPc (s : State) : Nat := s.iss.pc + 4 * s.iss.words.length

/-- The target of a relative branch (R358): slots from the first slot of the bundle. -/
def State.branchTarget (s : State) (off : Word) : Int := s.iss.pc + 4 * off.toInt

/-- A target below 0 or at or beyond the stream's length (R358). -/
def State.targetChecks (s : State) (t : Int) : List Raised :=
  failed [(t < 0 || (s.iss.st.len : Int) ≤ t, s.badOperand)]

/-- ILLEGAL INSTR of an instruction that is legal in paced mode alone (R68): a check of state, which a slot guarded off by a prefix does not
make (R69). -/
def State.pacedOnly (s : State) : List Raised := failed [(s.isTimed, s.badInstr)]

/-- BR (R358). -/
def execBr (n : BitVec 1) (p : BitVec 3) (o : BitVec 14) (s : State) : Host.Outcome State Fault Refusal :=
  let t := s.branchTarget (s.imm o.toNat 14 true true)
  .next (s.slotDone (s.targetChecks t) s.pacedOnly
    (if s.iss.st.preg p != (n == 1#1) then [.jump t.toNat] else []))

/-- JAL (R391). -/
def execJal (d : BitVec 6) (i : BitVec 12) (s : State) : Host.Outcome State Fault Refusal :=
  let t := s.branchTarget (s.imm i.toNat 12 true true)
  .next (s.slotDone (s.targetChecks t) s.pacedOnly
    [.result 1 (.sreg d (BitVec.ofNat 64 s.nextPc) false), .jump t.toNat])

/-- JIND (R391): the guard stands in the slot, and the target is checked only where it is true. -/
def execJind (n : BitVec 1) (p : BitVec 3) (d a : BitVec 6) (s : State) : Host.Outcome State Fault Refusal :=
  let t := (s.iss.st.sreg a).toNat
  let taken := s.iss.st.preg p != (n == 1#1)
  .next (s.slotDone
    (failed [(taken && (s.iss.st.len ≤ t || t % 4 != 0), s.badOperand)] ++ s.poisonChecks [a]) s.pacedOnly
    (if taken then [.result 1 (.sreg d (BitVec.ofNat 64 s.nextPc) false), .jump t] else []))

/-- A loop instruction with its count read (R70, R71, R403). -/
def State.loopOp (s : State) (count : Nat) (m : BitVec 12) (poison : List Raised) : Host.Outcome State Fault Refusal :=
  let depth := s.iss.st.loops.length
  let body := s.afterBundles s.iss.core s.iss.st.len s.nextPc (m.toNat + 1)
  let after := body.getD 0
  let inside := match s.iss.st.loops with
    | f :: _ => after ≤ f.after
    | [] => true
  .next (s.slotDone (failed [(2 ^ 32 ≤ count || body.isNone, s.badOperand)] ++ poison)
    (failed [(4 ≤ depth || !inside, s.badOperand)])
    (if count = 0 then [.emptyLoop depth after 0]
     else [.openLoop { lc := depth, first := s.nextPc, after, count, index := 0 }]))

/-- LOOP (R403): the count is the whole of S`a`. -/
def execLoop (a : BitVec 6) (m : BitVec 12) (s : State) : Host.Outcome State Fault Refusal :=
  s.loopOp (s.iss.st.sreg a).toNat m (s.poisonChecks [a])

/-- LOOPI (R403): the count is an immediate. -/
def execLoopi (i : BitVec 6) (m : BitVec 12) (s : State) : Host.Outcome State Fault Refusal :=
  s.loopOp (s.imm i.toNat 6 false false).toNat m []

/-- TIMED with its V read (R63, R460): a grid without timed sections has no TIMED (R108). The rendezvous is judged when the
team's bundles of the cycle are resolved. -/
def State.timedOp (s : State) (v : Nat) (poison : List Raised) : Host.Outcome State Fault Refusal :=
  .next (s.slotDone poison (failed [(!s.iss.tm.tsec, s.badInstr)]) [.timed v])

/-- TIMED V (R460). -/
def execTimedImm (i : BitVec 18) (s : State) : Host.Outcome State Fault Refusal :=
  s.timedOp (s.imm i.toNat 18 false false).toNat []

/-- TIMED Sa (R460). -/
def execTimedReg (a : BitVec 6) (s : State) : Host.Outcome State Fault Refusal :=
  s.timedOp (s.iss.st.sreg a).toNat (s.poisonChecks [a])

/-- PACED (R426). -/
def execPaced (s : State) : Host.Outcome State Fault Refusal := .next (s.slotDone [] [] [.paced])

/-- END (R375). -/
def execEndStrand (s : State) : Host.Outcome State Fault Refusal := .next (s.slotDone [] [] [.halt])

/-- YIELD (R484). -/
def execYield (s : State) : Host.Outcome State Fault Refusal := .next (s.slotDone [] [] [.yield])

/-- An entry of a context's group table as it was last checked (R88). A relay forwards the copies of a multicast by it (R268; log 78). -/
def State.groupEntry (s : State) (ctx g : Nat) : BitVec 256 :=
  match s.context ctx with
  | some c => SMap.get 0 c.groups g
  | none => 0

/-- The entry of the scheduler's copy for a group (R88, R89): one that includes this device, else none, which is 0. -/
def State.groupOf (s : State) (ctx g : Nat) : BitVec 256 :=
  if (s.groupEntry ctx g).getLsbD s.fabric.devid then s.groupEntry ctx g else 0

/-- BARR (R355, R356). -/
def execBarr (x : BitVec 1) (g : BitVec 8) (s : State) : Host.Outcome State Fault Refusal :=
  if x = 1#1 then
    .next (s.slotDone [] (failed [(s.isTimed, s.badOperand), (s.groupOf s.iss.tm.ctx g.toNat == 0, s.fault .engGroup 0)])
      [.crossBarrier g.toNat])
  else .next (s.slotDone [] [] [.barrier])

/-- TWAIT (R464). -/
def execTwait (a b c : BitVec 6) (s : State) : Host.Outcome State Fault Refusal :=
  let pending := s.iss.st.isPending a.toNat || s.iss.st.isPending b.toNat || s.iss.st.isPending c.toNat
  .next (s.slotDone [] (failed [(s.isTimed && pending, s.waitFault 0)])
    (if pending then [.hold (.tokens a.toNat b.toNat c.toNat)] else [.acquire false]))

/-- The code of a handle state (R333). -/
def HandleState.code : HandleState → Nat
  | .free => 0 | .filling => 1 | .full => 2 | .draining => 3

/-- A handle that nothing has set yet (R221). -/
def Handle.fresh : Handle := { st := .free, exp := 0, fcnt := 0, dcnt := 0 }

/-- The state of a context's handle. -/
def State.handle (s : State) (ctx h : Nat) : Handle :=
  match s.context ctx with
  | some c => SMap.get Handle.fresh c.handles h
  | none => Handle.fresh

/-- HWAIT (R389): the handle's state stands as the previous CYC cycle left it. -/
def execHwait (e : BitVec 2) (h : BitVec 8) (s : State) : Host.Outcome State Fault Refusal :=
  let unmet := (s.handle s.iss.tm.ctx h.toNat).st.code != e.toNat
  .next (s.slotDone [] (failed [(s.isTimed && unmet, s.waitFault 1)])
    (if unmet then [.hold (.handle h.toNat e.toNat)] else [.acquire true]))

/-- Where a counter stands (R93, R134). -/
inductive CounterPlace where
  | none
  | page (gran val : Nat)
  | peer (dev page gran : Nat)
  deriving DecidableEq, Repr

/-- What an access of the word at an offset of a tensor finds: where it stands and its granule, or the fault. A poisoned counter is consumed under
either policy (R365, R479). -/
def State.wordPlace (s : State) (c : Context) (tid off : Nat) (d : Desc) : Except Raised CounterPlace :=
  match s.structGranules c s.choice tid { d with zeroFill := false } off 1 with
  | .error (.raise r) => .error r
  | .error (.peer dev page gran) => .ok (.peer dev page gran)
  | .ok g => match g.pois with
    | some (x, k) => .error { Raised.of .poisonConsume .access 2 with pctx := x, pcause := k }
    | none => .ok (.page ((g.touched.head?.bind (·.addr)).getD 0) g.val)

/-- What an access of a counter finds. -/
def State.counterPlace (s : State) (ctx : Nat) (addr : Word) : Except Raised CounterPlace :=
  match s.context ctx with
  | none => .ok .none
  | some c =>
    match s.structAt c s.choice addr 8 8 with
    | .error (.raise r) => .error { r with point := .access }
    | .error _ => .ok .none
    | .ok (tid, off, d) => s.wordPlace c tid off d

/-- The counter's word in its granule. -/
def counterWord (addr : Word) (granule : Nat) : Nat := bits granule (8 * (wbits addr 20 44 % 64)) 64

/-- What is known of a counter on a peer page: nothing before the first answer. -/
def State.polled (s : State) (ctx : Nat) (addr : Word) : Except Raised (Option Nat) :=
  match s.polls.find? fun p => p.ctx == ctx && p.addr == addr with
  | none => .ok none
  | some p => match p.fault with
    | some r => .error r
    | none => if p.pois then .error { Raised.of .poisonConsume .access 2 with pctx := ctx, pcause := 1 } else .ok (some (counterWord addr p.data))

/-- What a read of a counter finds (R479): whether it has reached its target, or the fault of the access. -/
def State.counterReached (s : State) (ctx : Nat) (addr target : Word) : Except Raised Bool :=
  match s.counterPlace ctx addr with
  | .error r => .error r
  | .ok .none => .ok false
  | .ok (.page _ v) => .ok (target.toNat ≤ counterWord addr v)
  | .ok (.peer _ _ _) => match s.polled ctx addr with
    | .error r => .error r
    | .ok v => .ok (v.any (target.toNat ≤ ·))

/-- A timed WAITC (R479): it passes where the counter had reached its target 256 cycles ago, and does not where it has not reached it; where it has
since, either may be. DESIGN CHOICE (log 16): a counter that has been lowered again more than 256 cycles ago counts as it stands, and of one on a
peer page nothing is known. -/
def State.counterPasses (s : State) (ctx : Nat) (addr target : Word) : Except Raised Bool :=
  match s.counterPlace ctx addr with
  | .error r => .error r
  | .ok .none => .ok false
  | .ok (.page g v) =>
    let past := ((s.recent.filter fun e => e.1 == g && s.cyc < e.2.1 + 256).map (·.2.2)) ++ [v]
    let met (x : Nat) : Bool := target.toNat ≤ counterWord addr x
    .ok (met (past.headD v) || (past.any met && Config.counterSeen s.cyc s.iss.core s.iss.slot))
  | .ok (.peer _ _ _) => .ok (Config.counterSeen s.cyc s.iss.core s.iss.slot)

/-- WAITC (R479). A paced strand always waits for the report. -/
def execWaitc (a b : BitVec 6) (s : State) : Host.Outcome State Fault Refusal :=
  let addr := s.iss.st.sreg a
  let target := s.iss.st.sreg b
  let checks := failed [(wbits addr 20 44 % 8 != 0, s.badOperand)] ++ s.poisonChecks [a, b]
  if s.isTimed then
    match s.counterPasses s.iss.tm.ctx addr target with
    | .error r => .next (s.slotDone checks [] [.lateFault { r with slot := s.iss.slot }])
    | .ok met => .next (s.slotDone checks (failed [(!met, s.waitFault 2)]) [.acquire true])
  else .next (s.slotDone checks [] [.hold (.counter addr target s.cyc (s.iss.st.swpth.extractLsb' 0 40) s.iss.slot none)])

/-- Whether a bundle of the region from `off` on holds a loop instruction whose body ends past `stop` (R476). -/
def State.loopPast (s : State) (core len stop : Nat) : Nat → Nat → Bool
  | _, 0 => false
  | off, n + 1 =>
    match s.bundleEnd core len off (len / 4) with
    | none => false
    | some e =>
      ((List.range ((e - off) / 4)).any fun i =>
        let w := s.slotAt core (off + 4 * i)
        wordClass w == 1 && (wordOp w == 4 || wordOp w == 5) &&
          match s.afterBundles core len e ((wordOpnd w).extractLsb' 0 12).toNat.succ with
          | some f => stop < f
          | none => true) ||
      s.loopPast core len stop e n

/-- VSKIP (R72, R476). -/
def execVskip (n : BitVec 12) (s : State) : Host.Outcome State Fault Refusal :=
  let region := s.afterBundles s.iss.core s.iss.st.len s.nextPc (n.toNat + 1)
  let stop := region.getD 0
  let inside := match s.iss.st.loops with
    | f :: _ => stop ≤ f.after
    | [] => true
  let ty := s.vtype 0
  let off := maskBelow s.iss.st.maskTop ty.count == 0
  .next (s.slotDone
    (failed [(region.isNone || !s.rowInClaim (s.vrow 0) ||
      s.loopPast s.iss.core s.iss.st.len stop s.nextPc (n.toNat + 1), s.badOperand)])
    (failed [(!inside, s.badOperand)])
    (if off then (if s.isTimed then [.nulls (n.toNat + 1)] else [.skip stop]) else []))

end Sys2Proof.Machine
end

