-- ==== Sys2Proof/Machine/Mem.lean ====
section
/-! DEFINITION. Class MEM (R331): core loads and stores of the ring and the accumulators (R345 to R347, R396, R397, R454, R455), tile
loads and stores (R398, R399, R456), lanes (R164 to R166, R433, R434, R458) and the address queues (R235 to R237, R435 to
R439). A load or store performs in issue + 3 (R156). -/

namespace Sys2Proof.Machine

/-! ### Loads -/

/-- A ring load: its operand checks with those of R155 or R159, the tags where it is `.chk` (R162), the read in issue + 3 and the
commit after the latency of R156; one that passes its tags acquires (R240). `live` are checks of state, made where the guard is true (R69). -/
def State.loadOp (s : State) (ea : Word) (size : Nat) (diag chk : Bool) (dst : LoadDst) (extra : List Raised) (live : List Raised := []) :
    Host.Outcome State Fault Refusal :=
  let bad := if diag then s.diagChecks ea else s.ringChecks ea size
  .next (s.slotDone (extra ++ bad ++ (if chk then s.tagOperand ea else []))
    (live ++ if chk && bad.isEmpty then s.tagCheck ea (s.iss.tm.accessKeys (eaRing ea) size diag) else [])
    (.load (s.loadLatency ea) (.load dst (eaRing ea) size diag none) :: if chk then [.tagEdge] else []))

/-- LDS (R397). -/
def execLds (d a o : BitVec 6) (s : State) : Host.Outcome State Fault Refusal :=
  s.loadOp (s.formatM a o 8) 8 false false (.sreg d) (s.poisonChecks [a])

/-- LDS.chk (R397). -/
def execLdsChk (d a o : BitVec 6) (s : State) : Host.Outcome State Fault Refusal :=
  s.loadOp (s.formatM a o 8) 8 false true (.sreg d) (s.poisonChecks [a])

/-- LDV (R397). -/
def execLdv (d a o : BitVec 6) (s : State) : Host.Outcome State Fault Refusal :=
  s.loadOp (s.formatM a o 512) 512 false false (.row (s.vrow d)) (s.vrowCheck d ++ s.poisonChecks [a])

/-- LDV.chk (R397). -/
def execLdvChk (d a o : BitVec 6) (s : State) : Host.Outcome State Fault Refusal :=
  s.loadOp (s.formatM a o 512) 512 false true (.row (s.vrow d)) (s.vrowCheck d ++ s.poisonChecks [a])

/-- LDVD (R397): the column of R159. -/
def execLdvd (d a o : BitVec 6) (s : State) : Host.Outcome State Fault Refusal :=
  s.loadOp (s.formatM a o 512) 512 true false (.row (s.vrow d)) (s.vrowCheck d ++ s.poisonChecks [a])

/-- LDVD.chk (R397). -/
def execLdvdChk (d a o : BitVec 6) (s : State) : Host.Outcome State Fault Refusal :=
  s.loadOp (s.formatM a o 512) 512 true true (.row (s.vrow d)) (s.vrowCheck d ++ s.poisonChecks [a])

/-- The strand accumulator row an ACCLD or ACCST names by S`d` (R346). -/
def State.accOperand (s : State) (d : BitVec 6) : Nat := (s.iss.st.sreg d).toNat

/-- ILLEGAL OPERAND where that row lies beyond the claim (R347). -/
def State.accCheck (s : State) (d : BitVec 6) : List Raised := if s.rowInClaim (s.accOperand d) then [] else [s.badOperand]

/-- ACCLD (R346). -/
def execAccld (d a o : BitVec 6) (s : State) : Host.Outcome State Fault Refusal :=
  s.loadOp (s.formatM a o 512) 512 false false (.row (s.accOperand d)) (s.accCheck d ++ s.poisonChecks [d, a])

/-- ACCLD.chk (R346). -/
def execAccldChk (d a o : BitVec 6) (s : State) : Host.Outcome State Fault Refusal :=
  s.loadOp (s.formatM a o 512) 512 false true (.row (s.accOperand d)) (s.accCheck d ++ s.poisonChecks [d, a])

/-- A tile configuration register of the strand (R169). -/
def Strand.tileCfg (st : Strand) (n : Nat) : Word := st.tcfg.toList.getD n 0

/-- FMT of a tile configuration (R169). -/
def cfgFmt (w : Word) : Nat := wbits w 0 8
/-- ROWSM1 of a tile configuration. -/
def cfgRowsm1 (w : Word) : Nat := wbits w 8 7
/-- COLS of a tile configuration. -/
def cfgCols (w : Word) : Nat := wbits w 16 9

/-- LDT or LDT.chk (R399). -/
def State.loadTile (s : State) (chk : Bool) (d a b : BitVec 6) : Host.Outcome State Fault Refusal :=
  let cfg := s.iss.st.tileCfg d.toNat
  let l0 := (s.iss.st.sreg b).toNat
  let width := codeWidth (cfgFmt cfg)
  s.loadOp (s.iss.st.sreg a) 512 false chk
    (.lines d.toNat l0 ((cfgCols cfg * width + 7) / 8) (cfgRowsm1 cfg + 1) (width == 4 && cfgCols cfg % 2 == 1))
    (failed [(s.iss.tm.ntile ≤ d.toNat || l0 % 4 != 0 || 124 < l0, s.badOperand)] ++ s.poisonChecks [a, b])
    (failed [(cfgFmt cfg == 0, s.badOperand)])

/-- LDT (R399). -/
def execLdt (d a b : BitVec 6) (s : State) : Host.Outcome State Fault Refusal := s.loadTile false d a b

/-- LDT.chk (R399). -/
def execLdtChk (d a b : BitVec 6) (s : State) : Host.Outcome State Fault Refusal := s.loadTile true d a b

/-- LDTM or LDTM.chk (R399). -/
def State.loadPlane (s : State) (chk : Bool) (d a b : BitVec 6) : Host.Outcome State Fault Refusal :=
  let w := s.iss.st.sreg b
  let isMeta := wbits w 8 1 == 1
  let ch := wbits w 0 8
  s.loadOp (s.iss.st.sreg a) 512 false chk (.plane d.toNat ch isMeta)
    (failed [(s.iss.tm.ntile ≤ d.toNat || wbits w 9 55 != 0 ||
      (if isMeta then 15 < ch || Nat.min s.iss.tm.ntile 8 ≤ d.toNat else 1 < ch), s.badOperand)] ++ s.poisonChecks [a, b])

/-- LDTM (R399). -/
def execLdtm (d a b : BitVec 6) (s : State) : Host.Outcome State Fault Refusal := s.loadPlane false d a b

/-- LDTM.chk (R399). -/
def execLdtmChk (d a b : BitVec 6) (s : State) : Host.Outcome State Fault Refusal := s.loadPlane true d a b

/-! ### Stores -/

/-- A ring store (R157, R455): bank conflicts are judged when the team's bundles of the cycle are resolved. -/
def State.storeOp (s : State) (ea : Word) (size : Nat) (diag : Bool) (data : Row) (pois : BitVec 8) (extra live : List Raised) :
    Host.Outcome State Fault Refusal :=
  .next (s.slotDone (extra ++ (if diag then s.diagChecks ea else s.ringChecks ea size)) live
    [.store { perform := s.iss.tm.tcyc + 3, ea := eaRing ea, size, diag, data, pois }])

/-- STS (R455): the poison of S`d` travels. -/
def execSts (d a o : BitVec 6) (s : State) : Host.Outcome State Fault Refusal :=
  s.storeOp (s.formatM a o 8) 8 false (BitVec.ofNat 4096 (s.iss.st.sreg d).toNat) (if s.iss.st.spoisoned d then 1 else 0)
    (s.poisonChecks [a]) []

/-- STV (R455). -/
def execStv (d a o : BitVec 6) (s : State) : Host.Outcome State Fault Refusal :=
  s.storeOp (s.formatM a o 512) 512 false (s.vget d).data (s.vget d).pois (s.vrowCheck d ++ s.poisonChecks [a])
    (s.rowCheck (s.vrow d))

/-- STVD (R455): the column of R159. -/
def execStvd (d a o : BitVec 6) (s : State) : Host.Outcome State Fault Refusal :=
  s.storeOp (s.formatM a o 512) 512 true (s.vget d).data (s.vget d).pois (s.vrowCheck d ++ s.poisonChecks [a])
    (s.rowCheck (s.vrow d))

/-- ACCST (R346): a poisoned row poisons every parcel it goes to. -/
def execAccst (d a o : BitVec 6) (s : State) : Host.Outcome State Fault Refusal :=
  let r := s.rowOf (s.accOperand d)
  s.storeOp (s.formatM a o 512) 512 false r.data (if r.pois = 0 then 0 else BitVec.allOnes 8) (s.accCheck d ++ s.poisonChecks [d, a]) (s.rowCheck (s.accOperand d))

/-- Key of line `l` of the strand's tile register `n`. -/
def State.lineKeyOf (s : State) (n l : Nat) : Nat := tileKey (s.iss.tm.strandTower s.iss.st.index) (s.iss.st.tile n) l

/-- STT (R456). -/
def execStt (d a b : BitVec 6) (s : State) : Host.Outcome State Fault Refusal :=
  let l0 := (s.iss.st.sreg b).toNat
  let lines := (List.range 4).map fun m => s.line (s.lineKeyOf d.toNat (l0 + m))
  s.storeOp (s.iss.st.sreg a) 512 false (BitVec.ofNat 4096 (undigits 1024 (lines.map fun l => l.data.toNat)))
    (BitVec.ofNat 8 (undigits 2 (lines.map fun l => if l.pois then 3 else 0)))
    (failed [(s.iss.tm.ntile ≤ d.toNat || l0 % 4 != 0 || 124 < l0, s.badOperand)] ++ s.poisonChecks [a, b]) []

/-! ### Lanes -/

/-- TAP (R166, R458): the value that stands at the strand's station in issue + 3. -/
def execTap (d : BitVec 6) (r : BitVec 1) (l : BitVec 4) (s : State) : Host.Outcome State Fault Refusal :=
  .next (s.slotDone (s.vrowCheck d) [] [.result 4 (.tap (s.vrow d) (r == 1#1) l.toNat)])

/-- Whether a lower slot of the bundle is a PUT that names the same lane (R165). -/
def State.putBefore (s : State) (lane : Nat) : Bool :=
  (s.iss.words.take s.iss.slot).any fun w => wordClass w == 5 && wordOp w == 16 && (wordOpnd w).toNat % 32 == lane

/-- PUT (R165, R434). -/
def execPut (a : BitVec 6) (r : BitVec 1) (l : BitVec 4) (s : State) : Host.Outcome State Fault Refusal :=
  .next (s.slotDone
    (failed [(l.toNat / 4 != s.iss.st.index % 4 || s.putBefore (16 * r.toNat + l.toNat), s.badOperand)] ++ s.vrowCheck a)
    (s.rowCheck (s.vrow a))
    [.lane { p := s.iss.tm.tcyc + 3, twi := s.iss.st.index / 4, stn := 8 * (s.iss.st.index % 4), anti := r == 1#1,
             lane := l.toNat, data := (s.vget a).data, pois := (s.vget a).pois }])

/-! ### Address queues -/

/-- Elements of one 64-byte entry of a view (R436). -/
def Bound.perEntry (b : Bound) : Nat := 64 / codeBytes b.desc.fmt

/-- Tower time of the strand being issued. -/
def State.ownTime (s : State) : Nat := (s.tower (s.iss.tm.strandTower s.iss.st.index)).time

/-- Number of effects of a kind that lower slots of the bundle have. -/
def State.earlier (s : State) (p : Effect → Bool) : Nat := (s.iss.effects.filter fun e => p e.2).length

/-- Whether an effect is a push. -/
def Effect.isPush : Effect → Bool
  | .push _ => true
  | _ => false

/-- Whether an effect is a pop. -/
def Effect.isPop : Effect → Bool
  | .pop => true
  | _ => false

/-- QPUSH (R436). -/
def execQpush (e n : BitVec 1) (m : BitVec 2) (a : BitVec 6) (s : State) : Host.Outcome State Fault Refusal :=
  let spec := e == 1#1
  let x := (s.iss.st.sreg a).toNat
  let slot := s.iss.st.qv.get (Fin.ofNat 4 m.toNat)
  let entry (src : Option (Bound × Nat)) (invalid : Bool) : Effect :=
    .push { id := 0, pc := s.iss.pc, slot := s.iss.slot, bank := n.toNat, open_ := spec, spec, src, invalid, place := .queued,
            pushed := s.ownTime, ready := 0, data := 0, pois := false, fetched := [] }
  let full := failed [(2048 ≤ s.iss.st.aq.length + s.earlier Effect.isPush, s.badOperand)]
  match slot.st with
  | .poisoned => .next (s.slotDone (s.poisonChecks [a]) (s.fault .poisonConsume 1 :: full) [])
  | .invalid =>
    .next (s.slotDone (s.poisonChecks [a]) ((if spec then [] else [s.badOperand]) ++ full) [entry none true])
  | .valid b =>
    if x + b.perEntry ≤ b.view.count then .next (s.slotDone (s.poisonChecks [a]) full [entry (some (b, x)) false])
    else .next (s.slotDone ((if spec then [] else [s.badOperand]) ++ s.poisonChecks [a]) full [entry none true])

/-- Whether the `k`-th entry of DQ can be delivered (R237): it has arrived and belongs to no open group. -/
def Strand.deliverable (st : Strand) (k : Nat) : Bool :=
  match st.aq[k]? with
  | some e => e.place == .arrived && !e.open_
  | none => false

/-- QPOP (R439). A paced strand is held before its bundle issues where the entry cannot be delivered (R64). -/
def execQpop (d : BitVec 6) (m : BitVec 3) (s : State) : Host.Outcome State Fault Refusal :=
  let k := s.earlier Effect.isPop
  if s.iss.st.deliverable k then
    match s.iss.st.aq[k]? with
    | some e =>
      if e.invalid then .next (s.slotDone (s.vrowCheck d) [s.fault .engQueueRange 0] [])
      else .next (s.slotDone (s.vrowCheck d) []
        [.result 2 (.row (s.vrow d) (BitVec.ofNat 4096 (e.data.toNat * 2 ^ (512 * m.toNat)))
          (byteMask (64 * m.toNat) (64 * m.toNat + 64)) (if e.pois then BitVec.ofNat 8 (2 ^ m.toNat) else 0)), .pop])
    | none => .next (s.slotDone (s.vrowCheck d) [] [])
  else if s.isTimed then .next (s.slotDone (s.vrowCheck d) [s.waitFault 4] [])
  else .next (s.slotDone (s.vrowCheck d) [] [.hold .queue])

/-- QSEL (R437). -/
def execQsel (p : BitVec 3) (s : State) : Host.Outcome State Fault Refusal :=
  .next (s.slotDone [] [] [.select (s.iss.st.preg p)])

end Sys2Proof.Machine
end

