-- ==== Sys2Proof/Machine/Vector.lean ====
section
/-! DEFINITION. Classes VEC, VMX and SFN (R330, R467 to R475, R409 to R411, R442 to R451) but for VSKIP: each instruction is one
definition over the common rules of R467. -/

namespace Sys2Proof.Machine

/-! ### The common rules -/

/-- Rounding mode of vector instructions (R41). -/
def Strand.roundMode (st : Strand) : RMode := (RMode.ofCode (wbits st.numctl 0 3)).getD .rne

/-- Saturation of vector instructions (R41). -/
def Strand.satBit (st : Strand) : Bool := wbits st.numctl 3 1 == 1

/-- The draw of stochastic rounding for element `e` (R40). -/
def State.draw (s : State) (e : Nat) : Nat := srDraw s.iss.st.srkey s.iss.st.srctr e 0

/-- The draws of the elements of a row; none is needed unless the mode is SR. -/
def State.draws (s : State) (n : Nat) : List Nat :=
  if s.iss.st.roundMode == .sr then (List.range n).map s.draw else List.replicate n 0

/-- What an instruction that takes its mode from NUMCTL does to SRCTR (R40). -/
def State.srEffect (s : State) : List Effect := if s.iss.st.roundMode == .sr then [.stochastic] else []

/-- A row result of V`d` for the elements that mask bytes `m` leave on. -/
def State.rowEffect (s : State) (latency : Nat) (d : BitVec 6) (data : Row) (m : Mask) (pois : BitVec 8) : Effect :=
  .result latency (.row (s.vrow d) data m pois)

/-- The common form (R467): sources of V`d`'s type that are consumed, the result elements under the mask. -/
def State.vecOp (s : State) (latency : Nat) (d : BitVec 6) (srcs : List (BitVec 6)) (extra : List Raised) (elems : List Nat)
    (more : List Effect) (live : List Raised := []) : Host.Outcome State Fault Refusal :=
  let ty := s.vtype d
  .next (s.slotDone (s.vrowCheck d ++ srcs.flatMap s.srcChecks ++ extra) (live ++ srcs.flatMap fun v => s.typeCheck ty v ++ s.rowCheck (s.vrow v))
    (s.rowEffect latency d (rowOfElems ty elems) (maskBytes s.iss.st.maskTop ty) 0 :: more))

/-- A row's elements in V`d`'s type, `n` of them, element by element. -/
def State.map1 (s : State) (d a : BitVec 6) (f : Nat → Nat) : List Nat := (s.velems (s.vtype d) a).map f

/-- Two rows' elements in V`d`'s type, element by element. -/
def State.map2 (s : State) (d a b : BitVec 6) (f : Nat → Nat → Nat) : List Nat :=
  List.zipWith f (s.velems (s.vtype d) a) (s.velems (s.vtype d) b)

/-- Two rows' elements with the draw of each element. -/
def State.map2r (s : State) (d a b : BitVec 6) (f : Nat → Nat → Nat → Nat) : List Nat :=
  let ty := s.vtype d
  ((s.draws ty.count).zip ((s.velems ty a).zip (s.velems ty b))).map fun e => f e.1 e.2.1 e.2.2

/-- One result of arithmetic: floats rounded once, integers wrapped or saturated (R51). -/
def arith (ty : Fmt) (mode : RMode) (sat : Bool) (rnd : Nat) (v : Num) : Nat :=
  if ty.isFloat then roundFloat ty ty mode sat rnd v
  else match v with
    | .fin neg m e => intResult ty.width sat (roundInt mode rnd neg m e)
    | _ => 0

/-- The arithmetic of the bundle being issued on V`d`'s type. -/
def State.arith (s : State) (d : BitVec 6) (rnd : Nat) (v : Num) : Nat :=
  Machine.arith (s.vtype d) s.iss.st.roundMode s.iss.st.satBit rnd v

/-! ### VEC -/

/-- VADD (R469). -/
def execVadd (d a b : BitVec 6) (s : State) : Host.Outcome State Fault Refusal :=
  let ty := s.vtype d
  s.vecOp 4 d [a, b] []
    (s.map2r d a b fun r x y => s.arith d r (Num.sum s.iss.st.roundMode [ty.decode x, ty.decode y])) s.srEffect

/-- VSUB (R469). -/
def execVsub (d a b : BitVec 6) (s : State) : Host.Outcome State Fault Refusal :=
  let ty := s.vtype d
  s.vecOp 4 d [a, b] []
    (s.map2r d a b fun r x y => s.arith d r (Num.sum s.iss.st.roundMode [ty.decode x, (ty.decode y).neg])) s.srEffect

/-- VMUL (R469). -/
def execVmul (d a b : BitVec 6) (s : State) : Host.Outcome State Fault Refusal :=
  let ty := s.vtype d
  s.vecOp 4 d [a, b] [] (s.map2r d a b fun r x y => s.arith d r ((ty.decode x).mul (ty.decode y))) s.srEffect

/-- VFMA (R469): the old V`d` is the addend. -/
def execVfma (d a b : BitVec 6) (s : State) : Host.Outcome State Fault Refusal :=
  let ty := s.vtype d
  s.vecOp 5 d [a, b, d] []
    (((s.velems ty d).zip (s.map2 d a b fun x y => x + 2 ^ 32 * y)).zip (s.draws ty.count) |>.map fun e =>
      s.arith d e.2 (Num.sum s.iss.st.roundMode
        [(ty.decode (e.1.2 % 2 ^ 32)).mul (ty.decode (e.1.2 / 2 ^ 32)), ty.decode e.1.1])) s.srEffect

/-- The maximum or minimum of two elements of a type (R47, R469). -/
def elemPick (ty : Fmt) (pick : Num → Num → Num) (x y : Nat) : Nat :=
  if ty.isFloat then floatPick ty pick x y
  else match pick (ty.decode x) (ty.decode y) with
    | .fin neg m _ => wrap ty.width (signedMag neg m)
    | _ => 0

/-- VMIN (R469). -/
def execVmin (d a b : BitVec 6) (s : State) : Host.Outcome State Fault Refusal :=
  s.vecOp 4 d [a, b] [] (s.map2 d a b (elemPick (s.vtype d) Num.min)) []

/-- VMAX (R469). -/
def execVmax (d a b : BitVec 6) (s : State) : Host.Outcome State Fault Refusal :=
  s.vecOp 4 d [a, b] [] (s.map2 d a b (elemPick (s.vtype d) Num.max)) []

/-- VABS (R469): the sign bit cleared, or the magnitude wrapped or saturated. -/
def execVabs (d a : BitVec 6) (s : State) : Host.Outcome State Fault Refusal :=
  let ty := s.vtype d
  s.vecOp 2 d [a] [] (s.map1 d a fun x =>
    if ty.isFloat then x % 2 ^ (ty.width - 1)
    else intResult ty.width s.iss.st.satBit (signed ty.width x).natAbs) []

/-- VNEG (R469). -/
def execVneg (d a : BitVec 6) (s : State) : Host.Outcome State Fault Refusal :=
  let ty := s.vtype d
  s.vecOp 2 d [a] [] (s.map1 d a fun x =>
    if ty.isFloat then Nat.xor x (2 ^ (ty.width - 1))
    else intResult ty.width s.iss.st.satBit (-(signed ty.width x))) []

/-- VAND (R469). -/
def execVand (d a b : BitVec 6) (s : State) : Host.Outcome State Fault Refusal :=
  s.vecOp 2 d [a, b] [] (s.map2 d a b Nat.land) []

/-- VOR (R469). -/
def execVor (d a b : BitVec 6) (s : State) : Host.Outcome State Fault Refusal :=
  s.vecOp 2 d [a, b] [] (s.map2 d a b Nat.lor) []

/-- VXOR (R469). -/
def execVxor (d a b : BitVec 6) (s : State) : Host.Outcome State Fault Refusal :=
  s.vecOp 2 d [a, b] [] (s.map2 d a b Nat.xor) []

/-- VSHL (R469). -/
def execVshl (d a k : BitVec 6) (s : State) : Host.Outcome State Fault Refusal :=
  let w := (s.vtype d).width
  s.vecOp 4 d [a] [] (s.map1 d a fun x => x * 2 ^ k.toNat % 2 ^ w) []

/-- VSHR (R469). -/
def execVshr (d a k : BitVec 6) (s : State) : Host.Outcome State Fault Refusal :=
  s.vecOp 4 d [a] [] (s.map1 d a fun x => x / 2 ^ k.toNat) []

/-- VSAR (R469). -/
def execVsar (d a k : BitVec 6) (s : State) : Host.Outcome State Fault Refusal :=
  let w := (s.vtype d).width
  s.vecOp 4 d [a] [] (s.map1 d a fun x => wrap w (signed w x / 2 ^ k.toNat)) []

/-- VCLAMP (R469): min(max(d, a), b). -/
def execVclamp (d a b : BitVec 6) (s : State) : Host.Outcome State Fault Refusal :=
  let ty := s.vtype d
  s.vecOp 4 d [a, b, d] []
    (List.zipWith (elemPick ty Num.min) (List.zipWith (elemPick ty Num.max) (s.velems ty d) (s.velems ty a)) (s.velems ty b)) []

/-! ### Data movement: poison travels (R289, R470) -/

/-- Poison of a result of which element e takes element `from_ e` of a row with poison bits `pois` (R289). -/
def takenPois (ty : Fmt) (m : Mask) (pois : BitVec 8) (from_ : List (Option Nat)) : BitVec 8 :=
  let per := ty.count / 8
  BitVec.ofNat 8 (undigits 1 ((List.range 8).map fun k =>
    if (List.range per).any fun i =>
        m.getLsbD (per * k + i) &&
          match from_.getD (per * k + i) none with
          | some j => pois.getLsbD (j / per)
          | none => false
    then 1 else 0))

/-- VMOV (R470). -/
def execVmov (d a : BitVec 6) (s : State) : Host.Outcome State Fault Refusal :=
  let ty := s.vtype d
  .next (s.slotDone (s.vrowCheck d ++ s.vrowCheck a) (s.typeCheck ty a ++ s.rowCheck (s.vrow a))
    [s.rowEffect 2 d (s.vget a).data (maskBytes s.iss.st.maskTop ty)
      (takenPois ty s.iss.st.maskTop (s.vget a).pois ((List.range ty.count).map some))])

/-- VBCAST (R470): the low bits of S`a` in every element, with its poison. -/
def execVbcast (d a : BitVec 6) (s : State) : Host.Outcome State Fault Refusal :=
  let ty := s.vtype d
  .next (s.slotDone (s.vrowCheck d) []
    [s.rowEffect 2 d (rowOfElems ty (List.replicate ty.count (s.iss.st.sreg a).toNat)) (maskBytes s.iss.st.maskTop ty)
      (if s.iss.st.spoisoned a then BitVec.allOnes 8 else 0)])

/-- VSEL (R470): Va where the bytes of Vm at the element's place hold a set bit, else the old V`d`. -/
def execVsel (d m a : BitVec 6) (s : State) : Host.Outcome State Fault Refusal :=
  let ty := s.vtype d
  let sel := s.velems ty m
  let top := s.iss.st.maskTop
  let elems := List.zipWith (fun k (e : Nat × Nat) => if k = 0 then e.1 else e.2) sel ((s.velems ty d).zip (s.velems ty a))
  let fromA := (sel.zipIdx).map fun e => if e.1 = 0 then none else some e.2
  let fromD := (sel.zipIdx).map fun e => if e.1 = 0 then some e.2 else none
  .next (s.slotDone (s.vrowCheck d ++ s.vrowCheck m ++ s.vrowCheck a ++ s.rowPoison m)
    (s.typeCheck ty a ++ [d, m, a].flatMap fun v => s.rowCheck (s.vrow v))
    [s.rowEffect 2 d (rowOfElems ty elems) (maskBytes top ty)
      (takenPois ty top (s.vget a).pois fromA ||| takenPois ty top (s.vget d).pois fromD)])

/-- VEXTR (R470): element S`b` of Va, sign-extended for integers; a poisoned chunk poisons S`d`. -/
def execVextr (d a b : BitVec 6) (s : State) : Host.Outcome State Fault Refusal :=
  let ty := s.vtype a
  let i := (s.iss.st.sreg b).toNat
  let x := bits (s.vget a).data.toNat (ty.width * (i % ty.count)) ty.width
  .next (s.slotDone (failed [(ty.count ≤ i, s.badOperand)] ++ s.vrowCheck a ++ s.poisonChecks [b]) (s.rowCheck (s.vrow a))
    [.result 3 (.sreg d (if ty.isFloat then BitVec.ofNat 64 x else BitVec.ofInt 64 (signed ty.width x))
      ((s.vget a).pois.getLsbD (i % ty.count / (ty.count / 8))))])

/-! ### VMX -/

/-- The form of the comparisons (R471): all ones where the relation holds. -/
def State.vcmpOp (s : State) (d a b : BitVec 6) (rel : Num → Num → Bool) : Host.Outcome State Fault Refusal :=
  let ty := s.vtype d
  s.vecOp 3 d [a, b] [] (s.map2 d a b fun x y => if rel (ty.decode x) (ty.decode y) then 2 ^ ty.width - 1 else 0) []

/-- VCMP.eq (R471). -/
def execVcmpEq (d a b : BitVec 6) (s : State) : Host.Outcome State Fault Refusal := s.vcmpOp d a b Num.eq
/-- VCMP.ne (R471). -/
def execVcmpNe (d a b : BitVec 6) (s : State) : Host.Outcome State Fault Refusal := s.vcmpOp d a b fun x y => !x.eq y
/-- VCMP.lt (R471). -/
def execVcmpLt (d a b : BitVec 6) (s : State) : Host.Outcome State Fault Refusal := s.vcmpOp d a b (Num.lt false)
/-- VCMP.le (R471). -/
def execVcmpLe (d a b : BitVec 6) (s : State) : Host.Outcome State Fault Refusal :=
  s.vcmpOp d a b fun x y => x.lt false y || x.eq y

/-- VPERM (R472). -/
def execVperm (d a b : BitVec 6) (s : State) : Host.Outcome State Fault Refusal :=
  let ty := s.vtype d
  let idx := (s.velems ty b).map (· % ty.count)
  let src := s.velems ty a
  .next (s.slotDone (s.vrowCheck d ++ s.vrowCheck a ++ s.srcChecks b)
    (s.typeCheck ty a ++ s.typeCheck ty b ++ s.rowCheck (s.vrow a) ++ s.rowCheck (s.vrow b))
    [s.rowEffect 3 d (rowOfElems ty (idx.map fun i => src.getD i 0)) (maskBytes s.iss.st.maskTop ty)
      (takenPois ty s.iss.st.maskTop (s.vget a).pois (idx.map some))])

/-- One level of a reduction tree: neighbours combined. -/
def pairUp {α : Type} (f : α → α → α) : List α → List α
  | x :: y :: l => f x y :: pairUp f l
  | l => l

/-- A reduction of a list in a fixed tree (R52), `n` levels deep. -/
def treeReduce {α : Type} (f : α → α → α) : Nat → List α → List α
  | 0, l => l
  | n + 1, l => treeReduce f n (pairUp f l)

/-- The elements of a row as values, those that the mask turns off replaced by an identity (R473). -/
def maskedElems {α : Type} (m : Mask) (id : α) (l : List α) : List α := (l.zipIdx).map fun e => if m.getLsbD e.2 then e.1 else id

/-- The form of the reductions (R473): a scalar result after 8 cycles; the row is consumed. -/
def State.redOp (s : State) (d a : BitVec 6) (v : Word) : Host.Outcome State Fault Refusal :=
  .next (s.slotDone (s.vrowCheck a ++ s.rowPoison a) (s.rowCheck (s.vrow a)) [.result 8 (.sreg d v false)])

/-- VREDS.sum (R52, R473). -/
def execVredsSum (d a : BitVec 6) (s : State) : Host.Outcome State Fault Refusal :=
  let ty := s.vtype a
  let xs := s.velems ty a
  s.redOp d a
    (if ty.isFloat then
      BitVec.ofNat 64 ((treeReduce f32Add 9
        (maskedElems s.iss.st.maskTop 0x80000000 (xs.map fun x => roundFloat .f32 ty .rne false 0 (ty.decode x)))).headD 0)
    else BitVec.ofInt 64 ((maskedElems s.iss.st.maskTop 0 (xs.map (signed ty.width))).foldl (· + ·) 0))

/-- The maximum or minimum of a row (R47, R473), from the identity of its type. -/
def State.extreme (s : State) (a : BitVec 6) (pick : Num → Num → Num) (low : Bool) : Word :=
  let ty := s.vtype a
  let xs := (s.velems ty a).map ty.decode
  if ty.isFloat then
    BitVec.ofNat 64 (roundFloat .f32 .f32 .rne false 0 ((maskedElems s.iss.st.maskTop (.inf low) xs).foldl pick (.inf low)))
  else
    let id := if low then ty.decode (2 ^ (ty.width - 1)) else ty.decode (2 ^ (ty.width - 1) - 1)
    match (maskedElems s.iss.st.maskTop id xs).foldl pick id with
    | .fin neg m _ => BitVec.ofInt 64 (signedMag neg m)
    | _ => 0

/-- VREDS.max (R473). -/
def execVredsMax (d a : BitVec 6) (s : State) : Host.Outcome State Fault Refusal := s.redOp d a (s.extreme a Num.max true)
/-- VREDS.min (R473). -/
def execVredsMin (d a : BitVec 6) (s : State) : Host.Outcome State Fault Refusal := s.redOp d a (s.extreme a Num.min false)

/-- VCVT (R474): elements below the smaller count, from Va's type to V`d`'s. -/
def execVcvt (d a : BitVec 6) (s : State) : Host.Outcome State Fault Refusal :=
  let ty := s.vtype d
  let src := s.vtype a
  let n := min ty.count src.count
  let elems := List.zipWith (fun r x => convertElem ty src s.iss.st.roundMode s.iss.st.satBit r x) (s.draws n) (s.velems src a)
  .next (s.slotDone (s.vrowCheck d ++ s.vrowCheck a ++ s.rowPoison a) (s.rowCheck (s.vrow a))
    (s.rowEffect 4 d (rowOfElems ty elems) (maskBytes (maskBelow s.iss.st.maskTop n) ty) 0 :: s.srEffect))

/-- A power of 2 of VSCALE; beyond ±4096 every element is as far out of its type's range as at the bound. -/
def scalePower (w : Word) : Int := max (-4096) (min 4096 w.toInt)

/-- VSCALE (R474). -/
def execVscale (d a b : BitVec 6) (s : State) : Host.Outcome State Fault Refusal :=
  let ty := s.vtype d
  let k := scalePower (s.iss.st.sreg b)
  s.vecOp 3 d [a] (s.poisonChecks [b])
    (List.zipWith (fun r x => s.arith d r ((ty.decode x).scale k)) (s.draws ty.count) (s.velems ty a)) s.srEffect

/-- Whether an earlier slot of the bundle is one of MPUSH, MINV and MPOP (R411). -/
def State.maskTwice (s : State) : Bool :=
  (s.iss.words.take s.iss.slot).any fun w => wordClass w == 3 && 11 ≤ wordOp w && wordOp w ≤ 13

/-- The checks of the mask-stack instructions (R411): one of them in a bundle, and room or an entry on the stack. -/
def State.maskOp (s : State) (checks : List Raised) (live : List Raised) (bad : Bool) (stack : List Mask) :
    Host.Outcome State Fault Refusal :=
  .next (s.slotDone (failed [(s.maskTwice, s.badOperand)] ++ checks) (failed [(bad, s.badOperand)] ++ live) [.setMask stack])

/-- MPUSH (R410). -/
def execMpush (a : BitVec 6) (s : State) : Host.Outcome State Fault Refusal :=
  let ty := s.vtype a
  let m := BitVec.ofNat 512 (undigits 1 ((s.velems ty a).map fun x => if x = 0 then 0 else 1)) &&& s.iss.st.maskTop
  s.maskOp (s.vrowCheck a ++ s.rowPoison a) (s.rowCheck (s.vrow a)) (8 ≤ s.iss.st.masks.length) (m :: s.iss.st.masks)

/-- MINV (R410). -/
def execMinv (s : State) : Host.Outcome State Fault Refusal :=
  match s.iss.st.masks with
  | [] => s.maskOp [] [] true []
  | [m] => s.maskOp [] [] false [~~~m]
  | m :: b :: l => s.maskOp [] [] false ((~~~m &&& b) :: b :: l)

/-- MPOP (R410). -/
def execMpop (s : State) : Host.Outcome State Fault Refusal :=
  s.maskOp [] [] s.iss.st.masks.isEmpty s.iss.st.masks.tail

/-- One element of a dot product (R475): the addend and the products of `t` pairs of fields of `w` bits. -/
def dotElem (w : Nat) (sat ua ub : Bool) (c : Nat) (x y : List Nat) : Nat :=
  let v (u : Bool) (n : Nat) : Int := if u then n else signed w n
  intResult 32 sat ((List.zipWith (fun p q => v ua p * v ub q) x y).foldl (· + ·) (signed 32 c))

/-- The form of the dot products (R475): V`d` is i32, a source and the destination; Va and Vb may have any type. -/
def State.dotOp (s : State) (w t : Nat) (sat ua ub : BitVec 1) (d a b : BitVec 6) : Host.Outcome State Fault Refusal :=
  let fields (v : BitVec 6) : List Nat := digits w (128 * t) (s.vget v).data.toNat
  let elems := ((rowElems .i32 (s.vget d).data).zipIdx).map fun e =>
    dotElem w (sat == 1#1) (ua == 1#1) (ub == 1#1) e.1 (((fields a).drop (t * e.2)).take t) (((fields b).drop (t * e.2)).take t)
  .next (s.slotDone (s.vrowCheck d ++ s.rowPoison d ++ [a, b].flatMap fun v => s.vrowCheck v ++ s.rowPoison v)
    (s.typeCheck .i32 d ++ [d, a, b].flatMap fun v => s.rowCheck (s.vrow v))
    [s.rowEffect 5 d (rowOfElems .i32 elems) (maskBytes s.iss.st.maskTop .i32) 0])

/-- VDOT4 (R475). -/
def execVdot4 (t u w : BitVec 1) (d a b : BitVec 6) (s : State) : Host.Outcome State Fault Refusal := s.dotOp 8 4 t u w d a b
/-- VDOT8 (R475). -/
def execVdot8 (t u w : BitVec 1) (d a b : BitVec 6) (s : State) : Host.Outcome State Fault Refusal := s.dotOp 4 8 t u w d a b

/-! ### SFN -/

/-- The form of the special functions (R450, R451): a float row, RNE whatever NUMCTL.RM says. -/
def State.sfnOp (s : State) (f : SpecialFn) (d a : BitVec 6) : Host.Outcome State Fault Refusal :=
  let ty := s.vtype d
  s.vecOp 12 d [a] [] (s.map1 d a (f.elem ty s.iss.st.satBit)) [] (failed [(!ty.isFloat, s.badOperand)])

/-- SFEXP (R450). -/
def execSfexp (d a : BitVec 6) (s : State) : Host.Outcome State Fault Refusal := s.sfnOp .exp d a
/-- SFLOG (R450). -/
def execSflog (d a : BitVec 6) (s : State) : Host.Outcome State Fault Refusal := s.sfnOp .log d a
/-- SFRCP (R450). -/
def execSfrcp (d a : BitVec 6) (s : State) : Host.Outcome State Fault Refusal := s.sfnOp .rcp d a
/-- SFRSQ (R450). -/
def execSfrsq (d a : BitVec 6) (s : State) : Host.Outcome State Fault Refusal := s.sfnOp .rsq d a
/-- SFSQRT (R450). -/
def execSfsqrt (d a : BitVec 6) (s : State) : Host.Outcome State Fault Refusal := s.sfnOp .sqrt d a
/-- SFSIN (R450). -/
def execSfsin (d a : BitVec 6) (s : State) : Host.Outcome State Fault Refusal := s.sfnOp .sin d a
/-- SFCOS (R450). -/
def execSfcos (d a : BitVec 6) (s : State) : Host.Outcome State Fault Refusal := s.sfnOp .cos d a
/-- SFTANH (R450). -/
def execSftanh (d a : BitVec 6) (s : State) : Host.Outcome State Fault Refusal := s.sfnOp .tanh d a
/-- SFSIGM (R450). -/
def execSfsigm (d a : BitVec 6) (s : State) : Host.Outcome State Fault Refusal := s.sfnOp .sigm d a
/-- SFERF (R450). -/
def execSferf (d a : BitVec 6) (s : State) : Host.Outcome State Fault Refusal := s.sfnOp .erf d a

/-- RNGC (R444): Philox output for 32 blocks, raw. -/
def execRngc (d a b : BitVec 6) (s : State) : Host.Outcome State Fault Refusal :=
  let ctr := s.iss.st.sreg b
  let words := (List.range 32).flatMap fun blk =>
    philoxWords (s.iss.st.sreg a) (wbits ctr 0 32, wbits ctr 32 32, blk, 0)
  .next (s.slotDone (s.vrowCheck d ++ s.poisonChecks [a, b]) []
    [s.rowEffect 10 d (BitVec.ofNat 4096 (undigits 32 words)) (maskBytes s.iss.st.maskTop (s.vtype d)) 0])

end Sys2Proof.Machine
end

