-- ==== Sys2Proof/Machine/System.lean ====
section
/-! DEFINITION. Class SYS (R332) : the prefixes (R318 to R320, R371), the control registers with MFC and MTC (R325 to
R327, R406 to R408), FENCE, TRAP, AUDIT, VIEWJ and TSHOOT; what a committed MTC does; and the issue of an engine command (R73 to R76). -/

namespace Sys2Proof.Machine

/-! ### NOP and the prefixes -/

/-- NOP (R424). -/
def execNop (s : State) : Host.Outcome State Fault Refusal := .next (s.slotDone [] [] [])

/-- DEPS (R370): the next slot consumes the tokens it names; its own checks are made with that slot. -/
def execDeps (a b c : BitVec 6) (s : State) : Host.Outcome State Fault Refusal :=
  .next { s with iss := { s.iss with deps := some (a, b, c) } }

/-- PFX (R320, R427). -/
def execPfx (i : BitVec 18) (s : State) : Host.Outcome State Fault Refusal :=
  .next { s with iss := { s.iss with pfx := s.iss.pfx ++ [i] } }

/-- PFX.g (R319): the guard of the slot the run ends at. -/
def execPfxG (n : BitVec 1) (p : BitVec 3) (s : State) : Host.Outcome State Fault Refusal :=
  .next { s with iss := { s.iss with guard := s.iss.st.preg p != (n == 1#1) } }

/-! ### Reading the control registers -/

/-- Number of tower of the strand being issued. -/
def State.ownTower (s : State) : Nat := s.iss.tm.strandTower s.iss.st.index

/-- VCN (R23). -/
def State.vcn (s : State) : Nat := packFields [(4, s.iss.st.index), (4, s.iss.tm.width - 1), (16, s.iss.tm.index)]

/-- LMAP of a tower (R25). -/
def Tower.lmap (t : Tower) : Nat := packFields [(5, t.spare), (1, if t.spareOk then 1 else 0)]

/-- DEVINFO (R26). -/
def State.devinfo (s : State) : Nat :=
  packFields [(8, if s.fabric.joined then s.fabric.devid else 0), (3, if s.fabric.joined then s.fabric.qlog else 0), (4, 0), (1, if s.fabric.joined then 1 else 0), (16, s.fabric.incarn.toNat),
    (8, s.fabric.stepping.toNat), (4, undigits 1 (s.towers.toList.map fun t => if t.online then 1 else 0))]

/-- Relay budget of a port and turn (R260). -/
def Fabric.rbud (f : Fabric) : Nat := if f.joined then 6144 / (2 ^ f.qlog + 1) else 0

/-- FABCFG (R260). -/
def State.fabcfg (s : State) : Nat :=
  packFields [(8, s.fabric.owner.getD 0), (1, if s.fabric.owner.isSome then 1 else 0), (7, 0), (12, s.fabric.rbud)]

/-- STATUS (R119). -/
def State.statusReg (s : State) : Nat :=
  packFields [(1, if s.isTimed then 1 else 0), (1, if s.iss.tm.moved then 1 else 0),
    (1, if s.inFabricSection s.iss.tm.id then 1 else 0), (13, 0), (16, s.iss.tm.nres)]

/-- GOVSTEP (R312). -/
def Tower.govstep (t : Tower) : Nat := packFields [(4, t.step), (12, 0), (16, t.chg), (16, t.tmax)]

/-- TOKST (R78). -/
def Strand.tokst (st : Strand) : Nat := undigits 1 ((List.range 64).map fun n => if st.isPending n then 1 else 0)

/-- TKSn (R79). -/
def Strand.tks (st : Strand) (n : Nat) : Nat :=
  undigits 4 ((List.range 16).map fun m => if n = 0 && m = 0 then 0 else (st.token (16 * n + m)).status.toNat)

/-- QSTAT (R238). -/
def Strand.qstat (st : Strand) : Nat :=
  let n (p : AqEntry → Bool) : Nat := (st.aq.filter p).length
  packFields [(12, n fun e => e.place == .queued && e.bank == 0), (12, n fun e => e.place == .queued && e.bank == 1),
    (12, n fun e => e.place == .arrived), (1, if st.aq.any (·.open_) then 1 else 0)]

/-- A control register of the strand being issued, as its bundle reads it (R325, R407). -/
def State.controlReg (s : State) (r : Nat) : Word :=
  let st := s.iss.st
  let w (n : Nat) : Word := BitVec.ofNat 64 n
  if r = 0x000 then w s.cyc
  else if r = 0x001 then w s.iss.tm.tcyc
  else if r = 0x002 then w s.ownTime - w s.iss.tm.tcyc
  else if r = 0x003 then w s.vcn
  else if r = 0x004 then w (packFields [(2, s.iss.tm.strandCore st.index), (2, s.ownTower)])
  else if r = 0x005 then w (s.tower s.ownTower).lmap
  else if r = 0x006 then w s.devinfo
  else if r = 0x007 then w s.iss.tm.ctx
  else if r = 0x008 then w s.statusReg
  else if r = 0x009 then w (s.tower s.ownTower).govstep
  else if r = 0x00A then w s.fabcfg
  else if r = 0x00B then w Config.retwMax
  else if r = 0x00C then st.auditn
  else if r < 0x014 then (st.lc.get (Fin.ofNat 4 (r - 0x010))).zeroExtend 64
  else if r = 0x018 then w st.tokst
  else if r < 0x01D then w (st.tks (r - 0x019))
  else if r < 0x030 then ((s.expandingOf st.team st.index)[r - 0x020]?.map Cmd.xpcEntry).getD 0
  else if r < 0x040 then st.rpl.getD (r - 0x030) 0
  else if r = 0x040 then w st.qstat
  else if r = 0x041 then w (packFields [(32, st.qlossEvents), (32, st.qlossCycles)])
  else if r < 0x088 then st.arg.get (Fin.ofNat 8 (r - 0x080))
  else if r = 0x090 then st.numctl
  else if r = 0x091 then st.srkey
  else if r = 0x092 then st.srctr
  else if r = 0x093 then st.vwb
  else if r = 0x094 then st.acktol
  else if r = 0x095 then st.swpth
  else if r = 0x096 then st.cwgt
  else if r = 0x097 then st.mbxst
  else if r < 0x09C then (st.qv.get (Fin.ofNat 4 (r - 0x098))).reg
  else if r < 0x0C0 then st.tileCfg (r - 0x0A0)
  else st.acfg.get (Fin.ofNat 16 (r - 0x0C0))

/-- MFC (R407). -/
def execMfc (d : BitVec 6) (r : BitVec 12) (s : State) : Host.Outcome State Fault Refusal :=
  .next (s.slotDone [] [] (.result 1 (.sreg d (s.controlReg r.toNat) false) :: if r = 0x018#12 then [.acquire false] else []))

/-! ### Writing the control registers -/

/-- The bits of a control register that an MTC writes (R41 to R43, R111, R173, R178, R234); 0 for a read-only one (R4). -/
def controlMask (r : Nat) : Nat :=
  if r = 0x090 then 0xF else if r = 0x091 || r = 0x092 then 2 ^ 64 - 1 else if r = 0x093 then 0x7FF
  else if r = 0x094 then 0xFFFFFFFF else if r = 0x095 then 2 ^ 40 - 1 else if r = 0x096 then 0xF else 0

/-- Whether a value breaks the checks of its register (R35, R178). -/
def controlBad (r : Nat) (v : Word) : Bool :=
  (r == 0x090 && 5 ≤ wbits v 0 3) ||
  (r == 0x094 && (wbits v 23 8 == 255 || (wbits v 31 1 == 1 && wbits v 0 31 != 0)))

/-- MTC to a register with no row of its own (R408): a write of a read-only register is ignored. -/
def execMtc (a : BitVec 6) (r : BitVec 12) (s : State) : Host.Outcome State Fault Refusal :=
  let v := s.iss.st.sreg a
  .next (s.slotDone (failed [(controlBad r.toNat v, s.badOperand)] ++ s.poisonChecks [a]) []
    (if controlMask r.toNat = 0 then [] else [.control r.toNat (v &&& BitVec.ofNat 64 (controlMask r.toNat))]))

/-- MTC MBXST (R251): a 1 clears. -/
def execMtcMbxst (a : BitVec 6) (s : State) : Host.Outcome State Fault Refusal :=
  .next (s.slotDone (s.poisonChecks [a]) [] [.control 0x097 (s.iss.st.sreg a)])

/-- MTC QVn (R235). -/
def execMtcQv (a : BitVec 6) (m : BitVec 2) (s : State) : Host.Outcome State Fault Refusal :=
  .next (s.slotDone (s.poisonChecks [a]) [] [.control (0x098 + m.toNat) (s.iss.st.sreg a &&& 0xFFFFFFF#64)])

/-- Whether a tile configuration is not allowed (R169). -/
def tcfgBad (v : Word) : Bool :=
  let f := cfgFmt v
  f == 11 || (f != 0 && (codeWidth f == 0 || cfgCols v == 0 || 256 < cfgCols v || 1024 < cfgCols v * codeWidth f))

/-- MTC TCFGn (R169). -/
def execMtcTcfg (a : BitVec 6) (n : BitVec 5) (s : State) : Host.Outcome State Fault Refusal :=
  let v := s.iss.st.sreg a
  .next (s.slotDone (failed [(tcfgBad v || s.iss.tm.ntile ≤ n.toNat, s.badOperand)] ++ s.poisonChecks [a]) []
    [.control (0x0A0 + n.toNat) (v &&& 0x1FF7FFF#64)])

/-- Whether a code is a type of accumulator rows (R172). -/
def acfgOk (f : Nat) : Bool := (1 ≤ f && f ≤ 3) || (7 ≤ f && f ≤ 9)

/-- MTC ACFGn (R172). -/
def execMtcAcfg (a : BitVec 6) (n : BitVec 4) (s : State) : Host.Outcome State Fault Refusal :=
  let v := s.iss.st.sreg a
  .next (s.slotDone (failed [(!acfgOk (wbits v 0 8) || s.iss.tm.nacc ≤ n.toNat, s.badOperand)] ++ s.poisonChecks [a]) []
    [.control (0x0C0 + n.toNat) (v &&& 0xFF#64)])

/-- A control register written in the commit cycle (R326): MBXST clears where 1 is written, and a written QV slot waits for the
generator to read its view (R436). -/
def Strand.setControl (st : Strand) (time r : Nat) (v : Word) : Strand :=
  if r = 0x090 then { st with numctl := v }
  else if r = 0x091 then { st with srkey := v }
  else if r = 0x092 then { st with srctr := v }
  else if r = 0x093 then { st with vwb := v }
  else if r = 0x094 then { st with acktol := v }
  else if r = 0x095 then { st with swpth := v }
  else if r = 0x096 then { st with cwgt := v }
  else if r = 0x097 then { st with mbxst := st.mbxst &&& ~~~ v }
  else if 0x098 ≤ r && r < 0x09C then
    { st with qv := st.qv.set (Fin.ofNat 4 (r - 0x098)) { reg := v, readAt := some time, st := .invalid } }
  else if 0x0A0 ≤ r && r < 0x0C0 then { st with tcfg := st.tcfg.set (Fin.ofNat 32 (r - 0x0A0)) v }
  else if 0x0C0 ≤ r && r < 0x0D0 then { st with acfg := st.acfg.set (Fin.ofNat 16 (r - 0x0C0)) v }
  else st

/-- Recomputes the checksums of the 128 rows of a strand's accumulator tile under its type (R172, R176). -/
def State.retype (s : State) (t : Team) (st : Strand) (tile : Nat) : State :=
  (List.range 128).foldl (fun s r =>
    let k := rowKey t st (128 * tile + r)
    let row := s.accRow k
    s.setAccRow k { row with ck := checksum (st.rowType (128 * tile)) row.data }) s

/-! ### FENCE, TRAP, AUDIT, VIEWJ -/

/-- FENCE (R248, R381). -/
def execFence (e : BitVec 2) (s : State) : Host.Outcome State Fault Refusal := .next (s.slotDone [] [] [.fence e.toNat])

/-- TRAP (R291, R461). -/
def execTrap (i : BitVec 18) (s : State) : Host.Outcome State Fault Refusal := .next (s.slotDone [] [] [.trap i.toNat])

/-- AUDIT (R353). -/
def execAudit (s : State) : Host.Outcome State Fault Refusal := .next (s.slotDone [] [] [.audit s.iss.slot])

/-- VIEWJ (R244, R477). -/
def execViewj (s : State) : Host.Outcome State Fault Refusal := .next (s.slotDone [] [] [.viewj])

/-! ### Issue of an engine command -/

/-- A command as its slot issues it: identity, tower and start are filled in when the bundle is resolved (R75, R76). -/
def State.newCmd (s : State) (op : CmdOp) (token : Nat) (w0 w1 w2 : Word) : Cmd where
  id := 0
  op := op
  ctx := s.iss.tm.ctx
  team := s.iss.tm.id
  strand := s.iss.st.index
  packet := none
  tower := s.ownTower
  core := s.iss.core
  w0 := w0
  w1 := w1
  w2 := w2
  token := token
  deps := match s.iss.deps with
    | some (a, b, c) => [a.toNat, b.toNat, c.toNat].filter (· != 0)
    | none => []
  fences := s.iss.st.fences
  timed := s.isTimed
  pc := s.iss.pc
  slot := s.iss.slot
  issuedTc := s.iss.tm.tcyc
  issuedCyc := s.cyc
  srkey := s.iss.st.srkey
  srctr := s.iss.st.srctr
  weight := wbits s.iss.st.cwgt 0 4
  st := .queued
  start := 0
  startCyc := 0
  expanding := false
  xpc := 0
  steps := 0
  notBefore := 0
  src := none
  dst := none
  fed := []
  fedAt := 0
  slots := []
  done_ := []
  parcels := []
  lines := []
  zeroed := []
  fetched := []
  arrived := none
  members := []
  sent := none
  audited := false
  counter := 0
  increment := 0
  again := false
  heard := []
  planes := []

/-- The command that this slot continues, if its bundle issues again to continue one (R76). -/
def State.continued (s : State) (op : CmdOp) (token : Nat) : Option Cmd :=
  s.cmds.find? fun c => c.team == s.iss.tm.id && c.strand == s.iss.st.index && c.packet.isNone && c.again && c.op == op &&
    c.token == token && c.pc == s.iss.pc && c.slot == s.iss.slot

/-- Whether an effect takes a tokenless entry (R75). -/
def Effect.isTokenless : Effect → Bool
  | .command c => c.token == 0
  | _ => false

/-- Commands of the paced strand's bundle that need a tokenless entry. -/
def State.tokenlessNeed (s : State) : Nat := s.earlier Effect.isTokenless + 1

/-- Issue of an engine command (R73 to R76): its own checks, a produced token that is pending, DEPS naming that token (R371), the
tokenless entries; a slot guarded off leaves its token DONE and SKIPPED. -/
def State.engineIssue (s : State) (op : CmdOp) (token : BitVec 6) (w0 w1 w2 : Word) (checks live : List Raised)
    (more : List Effect) : Host.Outcome State Fault Refusal :=
  let n := token.toNat
  let cont := s.continued op n
  let c := s.newCmd op n w0 w1 w2
  let busy := s.iss.st.isPending n && cont.isNone
  let own := n != 0 && c.deps.contains n
  let short := n == 0 && cont.isNone && 64 < s.iss.st.tokenless + s.tokenlessNeed
  let checks := checks ++ failed [(busy, s.badOperand)]
  if s.iss.guard then
    if short && !s.isTimed then .next (s.slotDone checks live [.hold (.tokenless s.tokenlessNeed)])
    else .next (s.slotDone checks (live ++ failed [(own, s.badOperand), (short && s.isTimed, s.waitFault 6)]) (.command c :: more))
  else
    let s' := s.slotDone checks [] []
    .next { s' with iss := { s'.iss with effects := s'.iss.effects ++ (if n = 0 then [] else [(s.iss.slot, .skipped n)]) } }

/-- TSHOOT (R462). -/
def execTshoot (t a : BitVec 6) (s : State) : Host.Outcome State Fault Refusal :=
  let v := s.iss.st.sreg a
  s.engineIssue .tshoot t v 0 0 (failed [(wbits v 20 44 != 0, s.badOperand)] ++ s.poisonChecks [a]) [] []

end Sys2Proof.Machine
end

