-- ==== Sys2Proof/Machine/Cube.lean ====
section
/-! DEFINITION. The cube (R179 to R201, R368, R369, R480, R481): command and band words, start checks, steps, weight planes, commits
into the accumulators with their checksums, and the auditor's choice of a sample (R295, R296). Cycles are team cycles. -/

namespace Sys2Proof.Machine

/-! ### Words -/

/-- ACC of a command word (R180). -/
def cwAcc (w : Word) : Nat := wbits w 0 4
/-- ATB of a command word. -/
def cwAtb (w : Word) : Nat := wbits w 4 5
/-- BTB of a command word. -/
def cwBtb (w : Word) : Nat := wbits w 9 5
/-- mt of a command word. -/
def cwMt (w : Word) : Nat := wbits w 14 4 + 1
/-- nt of a command word. -/
def cwNt (w : Word) : Nat := wbits w 18 4 + 1
/-- kt of a command word. -/
def cwKt (w : Word) : Nat := wbits w 22 5 + 1
/-- OFS of a command word. -/
def cwOfs (w : Word) : Nat := wbits w 31 2
/-- SP of a command word. -/
def cwSp (w : Word) : Bool := wbits w 33 1 == 1
/-- MASK of a band word (R181). -/
def bandMask (w : Word) : BitVec 16 := w.extractLsb' 0 16

/-- The logical layers of a band, in increasing order. -/
def bandLayers (w : Word) : List Nat := (List.range 16).filter fun k => (bandMask w).getLsbD k

/-- Whether a band word is wrong by itself (R182). -/
def bandBad (w : Word) : Bool := wbits w 18 46 != 0 || bandMask w == 0

/-- Reserved bits of a command word, by command (R180). -/
def cwReserved (op : CmdOp) (w : Word) : Bool :=
  match op with
  | .cube => wbits w 33 31 != 0
  | .cubeh => wbits w 9 5 != 0 || wbits w 18 9 != 0 || wbits w 34 30 != 0
  | .wld | .wldSp => wbits w 0 9 != 0 || wbits w 14 19 != 0 || wbits w 34 30 != 0
  | _ => w != 0

/-- Number of A tiles a command reads (R184). -/
def cubeAtiles (op : CmdOp) (w : Word) : Nat :=
  match op with
  | .cube => cwMt w * cwKt w
  | .cubeh => if cwSp w then 2 * cwMt w else cwMt w
  | _ => 0

/-- Number of B tiles a command reads (R184). -/
def cubeBtiles (op : CmdOp) (w : Word) : Nat :=
  match op with
  | .cube => cwNt w * cwKt w
  | .wld | .wldSp => 1
  | _ => 0

/-- Number of output tiles (R184). -/
def cubeOut (op : CmdOp) (w : Word) : Nat :=
  match op with
  | .cube => cwMt w * cwNt w
  | .cubeh => cwMt w
  | _ => 0

/-- Number of steps (R184). -/
def cubeSteps (op : CmdOp) (w : Word) : Nat :=
  match op with
  | .cube => cwMt w * cwNt w * cwKt w
  | .cubeh => cwMt w
  | _ => 1

/-- The read-stage checks of a cube command (R182, R332). -/
def State.cubeChecks (s : State) (op : CmdOp) (cw bw : Word) : List Raised :=
  let t := s.iss.tm
  let high := t.nacc < cwAcc cw + cubeOut op cw
  failed [(cwReserved op cw || bandBad bw || (cubeOut op cw != 0 && high) ||
    (cubeAtiles op cw != 0 && t.ntile < cwAtb cw + cubeAtiles op cw) ||
    (cubeBtiles op cw != 0 && t.ntile < cwBtb cw + cubeBtiles op cw) ||
    (op == .wld && cwSp cw) || (op == .wldSp && !cwSp cw), s.badOperand)]

/-- Issue of a cube command. -/
def State.cubeOp (s : State) (op : CmdOp) (t a b : BitVec 6) : Host.Outcome State Fault Refusal :=
  let cw := s.iss.st.sreg a
  let bw := s.iss.st.sreg b
  s.engineIssue op t cw bw 0 (s.cubeChecks op cw bw ++ s.poisonChecks [a, b]) []
    (if (op == .cube || op == .cubeh) && wbits cw 27 3 == 4 then [.stochastic] else [])

/-- CUBE (R369). -/
def execCube (t a b : BitVec 6) (s : State) : Host.Outcome State Fault Refusal := s.cubeOp .cube t a b

/-- CUBEH (R369). -/
def execCubeh (t a b : BitVec 6) (s : State) : Host.Outcome State Fault Refusal := s.cubeOp .cubeh t a b

/-- WLD (R480). -/
def execWld (t a b : BitVec 6) (s : State) : Host.Outcome State Fault Refusal := s.cubeOp .wld t a b

/-- WLD.sp (R480). -/
def execWldSp (t a b : BitVec 6) (s : State) : Host.Outcome State Fault Refusal := s.cubeOp .wldSp t a b

/-- WSWAP (R481). -/
def execWswap (t a b : BitVec 6) (s : State) : Host.Outcome State Fault Refusal := s.cubeOp .wswap t a b

/-! ### Operands -/

/-- The value of an E8M0 scale (R33). -/
def scaleNum (x : Nat) : Num := if x = 255 then .nan else .fin false 1 ((x : Int) - 127)

/-- The elements of an 8-byte slice in a format, times their scale (R179). -/
def sliceNums (fmt slice scale : Nat) : List Num :=
  (digits (codeWidth fmt) (64 / codeWidth fmt) slice).map fun x =>
    if isMx fmt then (numOfCode fmt x).mul (scaleNum scale) else numOfCode fmt x

/-- The slice of a line for a layer (R168). -/
def lineSlice (l : TileLine) (k : Nat) : Nat := bits l.data.toNat (64 * k) 64

/-- The scale byte of a line for a layer (R179). -/
def layerScale (scale : Word) (fmt k : Nat) : Nat := wbits scale (8 * (64 / codeWidth fmt * k / 32)) 8

/-- The elements of line `l` of a physical tile for a layer. -/
def State.lineNums (s : State) (tower tile l fmt k : Nat) : List Num :=
  let key := tileKey tower tile l
  sliceNums fmt (lineSlice (s.line key) k) (layerScale (SMap.get 0 s.scales key) fmt k)

/-- The kept positions of a metadata nibble: first, second (R170). -/
def keptPositions (nib : Nat) : Nat × Nat := (nib % 4, nib / 4 % 4)

/-- The 2:4 metadata of a layer in a line, `d / 2` nibbles from the group of the layer's first element on (R190). -/
def State.layerMeta (s : State) (key d k : Nat) : BitVec 64 :=
  BitVec.ofNat 64 (bits (SMap.get (0 : Chunk) s.metas key).toNat (2 * d * k) (2 * d))

/-- A plane with nothing in it (R188). -/
def Plane.blank : Plane := { cols := [], fmt := 0, sparse := false, metas := [], scales := [], sums := [], pois := false }

/-- The local logical position of compressed element `e` of a layer (R190); in a dense plane its own. -/
def planePosition (sparse : Bool) (m : BitVec 64) (e : Nat) : Nat :=
  if sparse then
    let p := keptPositions (bits m.toNat (4 * (e / 2)) 4)
    4 * (e / 2) + (if e % 2 = 0 then p.1 else p.2)
  else e

/-- Column `j` of a plane: local positions and values. -/
def Plane.column (p : Plane) (j : Nat) : List (Nat × Num) :=
  (sliceNums p.fmt (SMap.get (0 : Word) p.cols j).toNat (SMap.get (0 : BitVec 8) p.scales j).toNat).zipIdx.map fun e =>
    (planePosition p.sparse (SMap.get 0 p.metas j) e.2, e.1)

/-- Whether a format's products are integers (R48). -/
def isIntFmt (fmt : Nat) : Bool := fmt == 9 || fmt == 10

/-- The integer a value is; 0 for one that is none. -/
def Num.int : Num → Int
  | .fin n m e => signedMag n (m * 2 ^ e.toNat)
  | _ => 0

/-- A PE (R49): the sum it receives and its terms, floats rounded once to f32, integers modulo 2^32. -/
def peSum (isInt : Bool) (sin : Nat) (terms : List Num) : Nat :=
  if isInt then wrap 32 (terms.foldl (fun a t => a + t.int) (sin : Int))
  else roundFloat .f32 .f32 .rne false 0 (Num.sum .rne (Fmt.f32.decode sin :: terms))

/-- The sum the lowest layer of a band receives (R185): minus zero, or 0 for integers. -/
def peZero (isInt : Bool) : Nat := if isInt then 0 else 0x80000000

/-- The row sums of columns at `n` local positions (R176): one exact sum over the columns each, a pruned position counting 0. -/
def rowSums (isInt : Bool) (n : Nat) (cols : List (List (Nat × Num))) : List (BitVec 32) :=
  (List.range n).map fun p =>
    let terms := cols.map fun c => ((c.find? fun e => e.1 == p).map (·.2)).getD (.fin false 0 0)
    BitVec.ofNat 32 (if isInt then wrap 32 (terms.foldl (fun a t => a + t.int) (0 : Int))
      else roundFloat .f32 .f32 .rne false 0 (Num.sum .rne terms))

/-- The plane a weight load reads of a B tile for a layer (R189). -/
def State.planeOf (s : State) (tower tile fmt : Nat) (sparse : Bool) (k : Nat) : Plane :=
  let d := 64 / codeWidth fmt
  let put {α : Type} [DecidableEq α] (z : α) (f : Nat → α) : SMap α :=
    (List.range 128).foldl (fun m j => SMap.set z m j (f j)) []
  let p : Plane :=
    { cols := put 0 fun j => BitVec.ofNat 64 (lineSlice (s.line (tileKey tower tile j)) k)
      fmt, sparse
      metas := if sparse then put 0 fun j => s.layerMeta (tileKey tower tile j) d k else []
      scales := put 0 fun j => BitVec.ofNat 8 (layerScale (SMap.get 0 s.scales (tileKey tower tile j)) fmt k)
      sums := []
      pois := (List.range 128).any fun j => (s.line (tileKey tower tile j)).pois }
  { p with sums := rowSums (isIntFmt fmt) (if sparse then 2 * d else d) ((List.range 128).map p.column) }

/-! ### One step -/

/-- The A elements of a layer by local position (R179, R190). -/
def State.aNums (s : State) (tower fmt : Nat) (tiles : List Nat) (i k : Nat) : List Num :=
  tiles.flatMap fun tile => s.lineNums tower tile i fmt k

/-- The products of A elements with a column. -/
def products (a : List Num) (col : List (Nat × Num)) : List Num := col.map fun e => (a.getD e.1 (.fin false 0 0)).mul e.2

/-- One step of a band (R176, R185): the A elements by row and layer, and by layer the planes or B tile. -/
def bandStep (isInt : Bool) (a : Nat → Nat → List Num) (planes : List (Nat × Plane)) :
    List (List (BitVec 32)) × List (BitVec 32) :=
  let cols := planes.map fun p => (p.1, (List.range 128).map p.2.column, p.2.sums)
  let rows := (List.range 128).map fun i => cols.map fun c => (a i c.1, c.2.1, c.2.2)
  (rows.map fun row => (List.range 128).map fun j =>
      BitVec.ofNat 32 (row.foldl (fun sin l => peSum isInt sin (products l.1 (l.2.1.getD j []))) (peZero isInt)),
   rows.map fun row =>
      BitVec.ofNat 32 (row.foldl (fun sin l =>
        peSum isInt sin (List.zipWith (fun x (r : BitVec 32) =>
          x.mul (if isInt then .fin false r.toNat 0 else Fmt.f32.decode r.toNat)) l.1 l.2.2)) (peZero isInt)))

/-- One step of a band on the A tiles of a tower. -/
def State.cubeStep (s : State) (tower fmt : Nat) (tiles : List Nat) (planes : List (Nat × Plane)) :
    List (List (BitVec 32)) × List (BitVec 32) :=
  bandStep (isIntFmt fmt) (s.aNums tower fmt tiles) planes

/-- The tiles of step `q` (R184): A tiles, B tile, output tile, index of the output tile, K-step. -/
def stepTiles (op : CmdOp) (w : Word) (q : Nat) : List Nat × Nat × Nat × Nat :=
  match op with
  | .cube =>
    let kt := cwKt w
    let nt := cwNt w
    let m := q / (nt * kt)
    let n := q / kt % nt
    ([cwAtb w + m * kt + q % kt], cwBtb w + n * kt + q % kt, m * nt + n, q % kt)
  | _ => (if cwSp w then [cwAtb w + 2 * q, cwAtb w + 2 * q + 1] else [cwAtb w + q], 0, q, 0)

/-! ### Commits -/

/-- The dome's addition of a column sum (R50): the new element and, where it was clamped, saturated or wrapped to a narrower width, how far
it lies from the exact sum (R176). DESIGN CHOICE (log 81): where R36 needs the format of an infinity among the inputs and both are infinite, the
accumulator's own type is taken. -/
def domeAdd (ty : Fmt) (mode : RMode) (sat : Bool) (rnd old v : Nat) : Nat × Option Num :=
  if ty.isFloat then
    let x := ty.decode old
    let sum := Num.sum mode [x, Fmt.f32.decode v]
    let r := roundFloat ty (match x with | .inf _ => ty | _ => .f32) mode sat rnd sum
    let clamped := sat && (match sum with
      | .fin n m e => ty.overflows mode rnd n m e
      | .inf _ => !(ty.decode r).special
      | .nan => false)
    (r, if clamped then some (Num.sum .rne [ty.decode r, sum.neg]) else none)
  else
    let sum := signed ty.width old + signed 32 v
    let r := intResult ty.width sat sum
    let d := signed ty.width r - sum
    (r, if d = 0 then none else some (.fin (d < 0) d.natAbs 0))

/-- A row's checksum after a cube commit (R176). -/
def domeCheck (ty : Fmt) (ck s : BitVec 32) (delta : List Num) : BitVec 32 :=
  if ty.isFloat then
    let l := [Fmt.f32.decode ck.toNat, Fmt.f32.decode s.toNat]
    BitVec.ofNat 32 (roundFloat .f32 .f32 .rne false 0 (Num.sum .rne (if delta.isEmpty then l else l ++ delta)))
  else BitVec.ofNat 32 (wrap 32 (delta.foldl (fun a d => a + d.int) ((ck.toNat : Int) + s.toNat)))

/-- A row with a step's column sums added at an element offset. -/
def AccRow.addSums (r : AccRow) (ty : Fmt) (mode : RMode) (sat : Bool) (base : Nat) (draw : Nat → Nat) (v : List (BitVec 32))
    (ck : BitVec 32) (pois : Bool) : AccRow :=
  let old := rowElems ty r.data
  let res := (List.range 128).map fun j => domeAdd ty mode sat (draw j) (old.getD (base + j) 0) (v.getD j 0).toNat
  { data := rowOfElems ty (old.take base ++ res.map (·.1) ++ old.drop (base + 128))
    ck := domeCheck ty r.ck ck (res.filterMap (·.2))
    pois := if pois then 0xFF else r.pois }

/-! ### Running commands -/

/-- Whether a tower's clock runs in this cycle (R6, R201): which cycles a step gates is the model's pattern (log 3). -/
def State.ticks (s : State) (tower : Nat) : Bool := s.cyc % 16 < 16 - (s.tower tower).step

/-- Whether a team is on its cores. -/
def Team.onCores (t : Team) : Bool :=
  match t.st with
  | .resident | .stopping _ _ => true
  | _ => false

/-- Whether a team's engines may go on: it is resident, and its stop cycle has not come. -/
def Team.before (t : Team) : Bool :=
  match t.st with
  | .resident => true
  | .stopping a _ => t.tcyc < a
  | _ => false

/-- Whether a team is frozen by a fault, so that its commands are cancelled (R284). -/
def Team.freezing (t : Team) : Bool :=
  match t.st with
  | .stopping _ f => f
  | _ => false

/-- Whether a command goes to a track. -/
def CmdOp.onTrack : CmdOp → Bool
  | .cube | .cubeh | .wld | .wldSp | .wswap => true
  | _ => false

/-- Whether a command is an FLD, FST or FATOM. -/
def CmdOp.asks : CmdOp → Bool
  | .fld | .fst | .fatom => true
  | _ => false

/-- Whether a command loads weights. -/
def CmdOp.loads : CmdOp → Bool
  | .wld | .wldSp => true
  | _ => false

/-- Whether a strand's tokens of a list are all not pending. -/
def State.tokensDone (s : State) (team strand : Nat) (l : List Nat) : Bool :=
  match s.strand team strand with
  | some st => l.all fun n => !st.isPending n
  | none => true

/-- Whether a strand's tokens of a list were all not pending at the end of the cycle before (R192): a token that a bundle of this cycle has
given to a new command was not. -/
def State.tokensWereDone (s : State) (team strand : Nat) (l : List Nat) : Bool :=
  l.all fun n => !(s.cmds.any fun e => e.team == team && e.strand == strand && e.packet.isNone && e.token == n &&
    !(e.issuedCyc == s.cyc && e.startCyc == 0))

/-- Whether every command that a fence before it names is done (R248). -/
def State.fencesDone (s : State) (c : Cmd) : Bool := c.fences.all fun f => s.cmds.all fun e => e.id != f

/-- Earlier commands of the same track that still stand in the way (R192): `weights` also asks earlier loads to be complete,
`holds` earlier CUBEHs to be fed. -/
def State.trackBlocked (s : State) (c : Cmd) (weights holds : Bool) : Bool :=
  let now := (s.tower c.tower).time
  s.cmds.any fun e => e.id < c.id && e.op.onTrack && e.tower == c.tower && bandTrk e.w1 == bandTrk c.w1 && e.st != .faulted &&
    (match s.team e.team with | some t => t.onCores | none => false) &&
    (if e.op.loads then weights else (e.op != .cubeh || holds) && !(e.xpc == e.steps && e.steps != 0 && e.fedAt < now))

/-- Whether a cube command may start in this cycle (R192). The `start` of a timed one that is still queued is the team cycle in which it would
have started had its team not been stopped (R199). -/
def State.cubeReady (s : State) (t : Team) (c : Cmd) : Bool :=
  c.st == .queued && t.before && s.ticks c.tower && c.issuedTc + 2 ≤ t.tcyc &&
  (c.timed || s.tokensWereDone c.team c.strand c.deps) && (!c.timed || c.start ≤ t.tcyc) &&
  !(match c.op with
    | .cubeh => s.trackBlocked c false true
    | .wld | .wldSp => s.trackBlocked c true false
    | _ => s.trackBlocked c true true)

/-- A fault of a command's start. -/
def startRaised (cause : Cause) (detail : Nat) : Raised := .of cause .start detail

/-- SCHEDULE TOKEN of a timed command whose consumed token is pending at its start (R74). -/
def State.tokenFault (s : State) (c : Cmd) : Option Raised :=
  if c.timed then
    match s.strand c.team c.strand with
    | some st => (c.deps.find? fun n => st.isPending n).map fun n => startRaised .scheduleToken n
    | none => none
  else none

/-- Whether a lease is held in a team cycle (R108). -/
def Claim.heldAt (c : Claim) (tc : Nat) : Bool :=
  c.st == .held && (match c.budget with
    | .none => true
    | .paced n u => n != 0 && tc < u
    | .timed u => tc < u)

/-- Whether a claim is the lease a cube command needs (R196). -/
def Claim.covers (k : Claim) (btw : Nat) (w : Word) (tc : Nat) : Bool :=
  k.btw == btw && k.trk == bandTrk w && (bandMask w &&& ~~~ k.mask) == 0 && k.heldAt tc

/-- A cube pairing (R48): whether its sums are integers. -/
def cubePair (a b : Nat) : Option Bool :=
  if (a == 2 || a == 3 || a == 6 || a == 14 || a == 15) && a == b then some false
  else if (a == 4 || a == 5) && (b == 4 || b == 5) then some false
  else if (a == 12 || a == 13) && (b == 12 || b == 13) then some false
  else if (a == 9 || a == 10) && a == b then some true
  else none

/-- Formats of the strand's tiles `lo` to `lo + n - 1`. -/
def Strand.tileFmts (st : Strand) (lo n : Nat) : List Nat := (List.range n).map fun i => cfgFmt (st.tileCfg (lo + i))

/-- Whether formats of tiles are wrong (R183): one is 0, or they differ. -/
def fmtsBad (l : List Nat) : Bool := l.any fun f => f == 0 || f != l.headD 0

/-- The active plane of a layer. -/
def Tower.active (t : Tower) (k : Nat) : Plane := SMap.get Plane.blank t.planes (2 * k)

/-- The start checks of R183 for CUBE and CUBEH, first failed first. -/
def State.cubeStartFault (s : State) (st : Strand) (c : Cmd) : Option Cause :=
  let w := c.w0
  let fa := st.tileFmts (cwAtb w) (cubeAtiles c.op w)
  let fb := st.tileFmts (cwBtb w) (cubeBtiles c.op w)
  let planes := (bandLayers c.w1).map (s.tower c.tower).active
  let bs := if c.op == .cube then [fb.headD 0] else planes.map (·.fmt)
  let types := (List.range (cubeOut c.op w)).map fun x => st.rowType (128 * (cwAcc w + x))
  if (RMode.ofCode (wbits w 27 3)).isNone then some .engCmdRm
  else if fmtsBad fa || fmtsBad fb then some .engCubeFmt
  else if bs.any fun b => (cubePair (fa.headD 0) b).isNone then some .engCubePair
  else if types.any fun ty => ty.isFloat == isIntFmt (fa.headD 0) then some .engCubeAcc
  else if types.any fun ty => 32 / ty.width ≤ cwOfs w then some .engCubeOfs
  else if c.op == .cubeh && planes.any fun p => p.sparse != cwSp w then some .engCubeSp
  else none

/-- Whether a weight load breaks CUBE-WLD (R170, R183). DESIGN CHOICE (log 82): the metadata that a WLD.sp meets are those of the layers in its
MASK. -/
def State.wldBad (s : State) (t : Team) (st : Strand) (c : Cmd) (fmt : Nat) : Bool :=
  (cubePair fmt fmt).isNone ||
  (c.op == .wldSp && (7 < cwBtb c.w0 || isMx fmt ||
    (List.range 128).any fun l =>
      let m := (SMap.get (0 : Chunk) s.metas (tileKey (t.strandTower c.strand) (st.tile (cwBtb c.w0)) l)).toNat
      let d := 64 / codeWidth fmt
      (bandLayers c.w1).any fun k => (List.range (d / 2)).any fun g =>
        let p := keptPositions (bits m (4 * (d * k / 2 + g)) 4)
        p.2 ≤ p.1))

/-- The start faults of a cube command in the order of R280: token, lease, ENGINE, poison. DESIGN CHOICE (log 83): the POISON CONSUME of a WLD.sp
names a register as its source, number 0, with PCTX and PCAUSE 0. -/
def State.cubeFault (s : State) (t : Team) (st : Strand) (c : Cmd) : Option Raised :=
  match s.tokenFault c with
  | some r => some r
  | none =>
    if !(t.claims.any fun k => k.covers (c.strand / 4) c.w1 t.tcyc) then some (startRaised .scheduleLease (wbits c.w1 0 18))
    else match c.op with
      | .cube | .cubeh => (s.cubeStartFault st c).map fun x => startRaised x 0
      | .wld | .wldSp =>
        let fmt := cfgFmt (st.tileCfg (cwBtb c.w0))
        if fmt = 0 then some (startRaised .engCubeFmt 0)
        else if s.wldBad t st c fmt then some (startRaised .engCubeWld 0)
        else if c.op == .wldSp &&
            (List.range 128).any fun l => (s.line (tileKey c.tower (st.tile (cwBtb c.w0)) l)).pois then
          some (startRaised .poisonConsume 0)
        else none
      | _ => none

/-! ### The auditor's choice (R295, R296) -/

/-- The site of a replay: the first of the towers `l` whose spare die is sound. -/
def State.auditSite (s : State) (l : List Nat) : Option Nat := l.find? fun x => (s.tower x).spareOk

/-- The fields of an EVENT AUDIT record that name a command (R298): all but the cycles and DETAIL; XPCE is 0. -/
def State.eventRecordBase (s : State) (t : Team) (c : Cmd) : Chunk :=
  s.strandRecord t c.strand c.pc { Raised.of .eventAudit .outside 0 with slot := c.slot } 0 &&&
    BitVec.ofNat 512 (2 ^ 512 - 1 - (2 ^ 192 - 2 ^ 88))

/-- A sample of a command that starts. -/
def State.newSample (s : State) (t : Team) (c : Cmd) (grid : Nat) (site : Option Nat) : Sample :=
  { cmd := c.id, team := c.team, strand := c.strand, record := s.eventRecordBase t c, grid, ctx := c.ctx, op := c.op, w0 := c.w0, w1 := c.w1
    fmt := c.slots.headD 0, srkey := c.srkey, srctr := c.srctr, steps := [], tiles := [], sigs := List.replicate 128 0, complete := false
    site1 := site, bad1 := none, site2 := none, doneCyc := 0 }

/-- A command's start as the auditor sees it: a marked command, one whose context samples all (N = 0), or one the generator draws, is sampled
unless the tower's auditor is busy or no site is sound. -/
def State.auditStart (s : State) (c : Cmd) : State :=
  match s.team c.team, s.context c.ctx with
  | some t, some x =>
    let en := x.auditn.getLsbD 5
    let n := x.auditn.toNat % 32
    let drawn := en && (n == 0 || Config.auditDraw s.fresh n)
    let s' := if en then s.freed else s
    if c.audited || drawn then
      let tw := s.tower c.tower
      let site := s.auditSite ((List.range 4).map fun i => (c.tower + i) % 4)
      match s'.grid t.grid with
      | none => s'
      | some g =>
        if tw.sample.isSome || site.isNone then s'.setGrid { g with skipped := g.skipped + 1 }
        else
          (s'.setGrid { g with sampled := g.sampled + 1 }).setTower c.tower { tw with sample := some (s.newSample t c g.id site) }
    else s'
  | _, _ => s

/-- Changes the samples in flight; that of a command stays with the tower it started on, wherever its team resumes (R296). -/
def State.mapSamples (s : State) (f : Sample → Sample) : State :=
  { s with towers := s.towers.map fun t => { t with sample := t.sample.map f } }

/-- The signature of a row after one more step (R297). -/
def rowSig (g : BitVec 128) (v : List (BitVec 32)) : BitVec 128 :=
  v.foldl (fun g x => (g.rotateLeft 7) ^^^ x.zeroExtend 128) g

/-- The signature of a final row, over its 512 bytes as u32 words (R297). -/
def finalSig (r : Row) : BitVec 128 := rowSig 0 ((digits 32 128 r.toNat).map (BitVec.ofNat 32))

/-- A fed step is logged, and its column sums go into the row signatures (R296, R297). -/
def Sample.feed (x : Sample) (cmd : Nat) (log : AuditStep) (v : List (List (BitVec 32))) : Sample :=
  if x.cmd = cmd then { x with steps := x.steps ++ [log], sigs := List.zipWith rowSig x.sigs v } else x

/-- The rows of an accumulator tile before the sampled command's first commit to it (R296). -/
def Sample.before (x : Sample) (acc : Nat) (cfg : Word) (rows : List Row) : Sample :=
  if x.tiles.any (·.acc == acc) then x else { x with tiles := x.tiles ++ [{ acc, cfg, before := rows, own := true, final := [] }] }

/-- The signatures of an accumulator tile's rows after the sampled command's last commit to it. -/
def Sample.after (x : Sample) (acc : Nat) (rows : List Row) : Sample :=
  { x with tiles := x.tiles.map fun t => if t.acc = acc then { t with final := rows.map finalSig } else t }

/-- Another write to an accumulator tile of the sample's strand, between the sample's first and last commit to it (R297). -/
def Sample.disturb (x : Sample) (team strand acc : Nat) : Sample :=
  if x.team = team && x.strand = strand then
    { x with tiles := x.tiles.map fun t => if t.acc = acc && t.final.isEmpty then { t with own := false } else t }
  else x

/-! ### Events of the cube -/

/-- Exchanges the active and shadow planes of a layer (R191). -/
def swapPlane (m : SMap Plane) (k : Nat) : SMap Plane :=
  let a := SMap.get Plane.blank m (2 * k)
  let b := SMap.get Plane.blank m (2 * k + 1)
  SMap.set Plane.blank (SMap.set Plane.blank m (2 * k) b) (2 * k + 1) a

/-- Changes the claims of a team that a band word names. -/
def Team.mapClaim (t : Team) (btw : Nat) (w : Word) (f : Claim → Claim) : Team :=
  { t with claims := t.claims.map fun k => if k.btw == btw && k.trk == bandTrk w then f k else k }

/-- One unit of a paced budget spent (R108, R196). DESIGN CHOICE (log 105): a lease whose last unit is spent in S has lapsed within S. -/
def Claim.spend (k : Claim) : Claim :=
  match k.budget with
  | .paced n u => if n ≤ 1 then { k with st := .expired, budget := .paced 0 u } else { k with budget := .paced (n - 1) u }
  | _ => k

/-- The layers' records of the claim's two planes exchanged (R191). -/
def Claim.swapRecs (k : Claim) (l : List Nat) : Claim :=
  let put (m o : SMap (Option (Word × Word × Nat))) := l.foldl (fun m i => SMap.set none m i (SMap.get none o i)) m
  { k with recActive := put k.recActive k.recShadow, recShadow := put k.recShadow k.recActive }

/-- A completed weight load is recorded for the layers it loads (R189). -/
def Claim.record (k : Claim) (w0 w1 : Word) (strand : Nat) : Claim :=
  { k with recShadow := (bandLayers w1).foldl (fun m i => SMap.set none m i (some (w0, w1, strand))) k.recShadow }

/-- Whether the planes of a layer of a tower belong to another team (R188, R198): it has been granted a lease there since. -/
def State.layerTaken (s : State) (team tower k : Nat) : Bool :=
  let o := SMap.get 0 (s.tower tower).owners k
  o != 0 && o != team + 1

/-- The planes of a claim's layers belong to its team from its grant on (R188, R198). -/
def State.ownPlanes (s : State) (t : Team) (k : Claim) : State :=
  let tw := s.tower (t.tower k.btw)
  s.setTower (t.tower k.btw)
    { tw with owners := ((List.range 16).filter k.mask.getLsbD).foldl (fun m i => SMap.set 0 m i (t.id + 1)) tw.owners }

/-- What the start of a cube command does (R189, R191, R196). -/
def State.cubeBegin (s : State) (t : Team) (st : Strand) (c : Cmd) : State :=
  let now := (s.tower c.tower).time
  let c := { c with st := .running, start := t.tcyc, startCyc := s.cyc, expanding := true, steps := cubeSteps c.op c.w0 }
  match c.op with
  | .cube | .cubeh =>
    let fa := (st.tileFmts (cwAtb c.w0) 1).headD 0
    let fb := (st.tileFmts (cwBtb c.w0) 1).headD 0
    ((s.setCmd { c with slots := [fa, fb] }).setTeam (t.mapClaim (c.strand / 4) c.w1 Claim.spend)).auditStart { c with slots := [fa, fb] }
  | .wld | .wldSp =>
    let fmt := cfgFmt (st.tileCfg (cwBtb c.w0))
    let planes := (bandLayers c.w1).foldl (fun m k =>
      SMap.set Plane.blank m k (s.planeOf c.tower (st.tile (cwBtb c.w0)) fmt (c.op == .wldSp) k)) ([] : SMap Plane)
    s.setCmd { c with xpc := 1, fedAt := now, expanding := false, planes }
  | _ =>
    let tw := s.tower c.tower
    ((s.setCmd { c with xpc := 1, fedAt := now, expanding := false, st := .finishing 0 }).setTower c.tower
      { tw with planes := (bandLayers c.w1).foldl swapPlane tw.planes }).setTeam
        (t.mapClaim (c.strand / 4) c.w1 fun k => k.swapRecs (bandLayers c.w1))

/-- CUBE_COMMAND_START (R192, R369): a cube command that may start makes its start checks and starts. -/
def execCubeCommandStart (cmd : Nat) (s : State) : Host.Outcome State Fault Refusal :=
  match s.cmd cmd with
  | none => .next s
  | some c =>
    match s.team c.team, s.strand c.team c.strand with
    | some t, some st =>
      if c.op.onTrack && s.cubeReady t c && !s.ending c.ctx then
        match s.cubeFault t st c with
        | some r => .next (s.commandFault c r)
        | none => .next (s.cubeBegin t st c)
      else .next s
    | _, _ => .next s

/-- A plane that holds no weights of the command's team any more: a lapsed lease's layer that another team has been granted since. What a command that
goes on there reads is free (log 84). -/
def freePlane (base fmt : Nat) (sparse : Bool) : Plane :=
  let cols := (List.range 128).foldl (fun m j => SMap.set 0 m j (Config.freeWord (base + j))) ([] : SMap Word)
  let p : Plane := { Plane.blank with cols, fmt, sparse }
  { p with sums := rowSums (isIntFmt fmt) (if sparse then 128 / codeWidth fmt else 64 / codeWidth fmt) ((List.range 128).map p.column) }

/-- The planes that the next step of a running command reads, by layer: of the B tile, or the active planes. -/
def State.feedPlanes (s : State) (st : Strand) (c : Cmd) : List (Nat × Plane) :=
  let (_, b, _, _) := stepTiles c.op c.w0 c.xpc
  (bandLayers c.w1).map fun k =>
    (k, if c.op == .cube then s.planeOf c.tower (st.tile b) (c.slots.getD 1 0) false k
        else if s.layerTaken c.team c.tower k then freePlane (s.fresh + 128 * k) (c.slots.headD 0) (cwSp c.w0)
        else (s.tower c.tower).active k)

/-- The tiles that the next step of a running command reads. -/
def Cmd.feedTiles (c : Cmd) (st : Strand) : List Nat := (stepTiles c.op c.w0 c.xpc).1.map st.tile

/-- What the auditor logs of that step (R296). -/
def State.auditLog (s : State) (st : Strand) (c : Cmd) : AuditStep :=
  { tiles := (c.feedTiles st).map fun p => (List.range 128).map fun i =>
      ((s.line (tileKey c.tower p i)).data, SMap.get 0 s.scales (tileKey c.tower p i))
    planes := s.feedPlanes st c }

/-- What a step of a running command feeds (R184, R185, R189). -/
def State.feedStep (s : State) (st : Strand) (c : Cmd) : FedStep :=
  let (_, b, out, _) := stepTiles c.op c.w0 c.xpc
  let tiles := c.feedTiles st
  let planes := s.feedPlanes st c
  let (sums, checks) := s.cubeStep c.tower (c.slots.headD 0) tiles planes
  let bad := if c.op == .cube then (List.range 128).any fun j => (s.line (tileKey c.tower (st.tile b) j)).pois
    else planes.any fun p => p.2.pois
  { commit := c.start + c.xpc + 159, acc := cwAcc c.w0 + out, step := c.xpc, sums, checks
    pois := (List.range 128).map fun i => bad || tiles.any fun p => (s.line (tileKey c.tower p i)).pois }

/-- CUBE_STEP_FEED (R185, R199): the step of this team cycle is fed. -/
def execCubeStepFeed (cmd : Nat) (s : State) : Host.Outcome State Fault Refusal :=
  match s.cmd cmd with
  | none => .next s
  | some c =>
    match s.team c.team, s.strand c.team c.strand with
    | some t, some st =>
      if (c.op == .cube || c.op == .cubeh) && c.st == .running && !s.ending c.ctx && t.before && s.ticks c.tower && c.xpc < c.steps &&
          c.start + c.xpc == t.tcyc then
        let f := s.feedStep st c
        let log := s.auditLog st c
        let s' := s.setCmd { c with fed := c.fed ++ [f], xpc := c.xpc + 1, fedAt := (s.tower c.tower).time, expanding := c.xpc + 1 < c.steps }
        .next { s'.mapSamples fun x => x.feed c.id log f.sums with fresh := s.fresh + 2048 }
      else .next s
    | _, _ => .next s

/-- The rows of a strand's accumulator tile. -/
def State.tileRows (s : State) (t : Team) (st : Strand) (acc : Nat) : List Row :=
  (List.range 128).map fun i => (s.accRow (rowKey t st (128 * acc + i))).data

/-- A step's column sums added to the rows of its output tile (R50, R176). -/
def State.addStep (s : State) (t : Team) (st : Strand) (c : Cmd) (f : FedStep) : State :=
  let (_, _, out, kk) := stepTiles c.op c.w0 f.step
  let ty := st.rowType (128 * f.acc)
  let mode := (RMode.ofCode (wbits c.w0 27 3)).getD .rne
  let sat := wbits c.w0 30 1 == 1
  (List.range 128).foldl (fun s i =>
    let k := rowKey t st (128 * f.acc + i)
    s.setAccRow k ((s.accRow k).addSums ty mode sat (128 * cwOfs c.w0)
      (fun j => if mode == .sr then srDraw c.srkey c.srctr (16384 * out + 128 * i + j) kk else 0)
      (f.sums.getD i []) (f.checks.getD i 0) (f.pois.getD i false))) s

/-- Commits the rows of a step into the accumulator (R50, R176, R186); the auditor keeps the rows before a tile's first commit and the signatures
after its last. -/
def State.commitStep (s : State) (t : Team) (st : Strand) (c : Cmd) (f : FedStep) : State :=
  let last := (stepTiles c.op c.w0 f.step).2.2.2 + 1 = (if c.op == .cube then cwKt c.w0 else 1)
  let old := s.tileRows t st f.acc
  let s' := s.addStep t st c f
  let new := s'.tileRows t st f.acc
  let note (x : Sample) : Sample :=
    if x.cmd = c.id then
      let y := x.before f.acc (st.acfg.toList.getD f.acc 1#64) old
      if last then y.after f.acc new else y
    else x.disturb c.team c.strand f.acc
  let s' := s'.mapSamples note
  let tw := s'.tower c.tower
  s'.setTower c.tower { tw with committed := tw.committed ++ (List.range 128).map fun i => rowKey t st (128 * f.acc + i) }

/-- CUBE_STEP_COMMIT (R193): the step whose cycle has come commits; with the last the command completes. -/
def execCubeStepCommit (cmd : Nat) (s : State) : Host.Outcome State Fault Refusal :=
  match s.cmd cmd with
  | none => .next s
  | some c =>
    match s.team c.team, s.strand c.team c.strand with
    | some t, some st =>
      match c.fed with
      | f :: rest =>
        if t.onCores && s.ticks c.tower && f.commit == t.tcyc then
          let done := rest.isEmpty && c.xpc == c.steps
          let s' := (s.commitStep t st c f).setCmd { c with fed := rest, st := if done && c.st == .running then .finishing 0 else c.st }
          .next (s'.mapSamples fun x => if done && x.cmd = c.id then { x with complete := true, doneCyc := s.cyc } else x)
        else .next s
      | [] => .next s
    | _, _ => .next s

/-- A load that completes while its team drains (R199): the timed commands behind it start in the cycle in which they would have. -/
def State.keepStarts (s : State) (t : Team) (c : Cmd) : State :=
  if t.before then s
  else { s with cmds := s.cmds.map fun e =>
    if e.team == c.team && e.packet.isNone && e.st == .queued && e.timed && e.op.onTrack && e.op != .cubeh && c.id < e.id &&
        e.tower == c.tower && bandTrk e.w1 == bandTrk c.w1 then { e with start := max e.start (c.start + 130) } else e }

/-- WLD_COMPLETE (R189): the shadow planes of the band are replaced at the end of S + 129, but for the layers granted to another team since
(R198), and the load is recorded. -/
def execWldComplete (cmd : Nat) (s : State) : Host.Outcome State Fault Refusal :=
  match s.cmd cmd with
  | none => .next s
  | some c =>
    match s.team c.team with
    | none => .next s
    | some t =>
      if c.op.loads && c.st == .running && t.onCores && s.ticks c.tower && c.start + 129 == t.tcyc then
        let tw := s.tower c.tower
        let load (m : SMap Plane) (k : Nat) : SMap Plane := SMap.set Plane.blank m (2 * k + 1) (SMap.get Plane.blank c.planes k)
        let layers := (bandLayers c.w1).filter fun k => !s.layerTaken c.team c.tower k
        .next ((((s.setCmd { c with st := .finishing 0 }).setTower c.tower { tw with planes := layers.foldl load tw.planes }).setTeam
          (t.mapClaim (c.strand / 4) c.w1 fun k => k.record c.w0 c.w1 c.strand)).keepStarts t c)
      else .next s

end Sys2Proof.Machine
end

