-- ==== Sys2Proof/Machine/Links.lean ====
section
/-! DEFINITION. The calendar of the fabric, its flits and its links (R254 to R259): which device a port faces, the slots of a turn, the header
of a flit, the striping of a port over its live links, and go-back-N replay. -/

namespace Sys2Proof.Machine

/-! ### The calendar -/

/-- Number of devices of the domain (R16). -/
def Fabric.devices (f : Fabric) : Nat := 16 * 2 ^ f.qlog

/-- Length of a round in CYC cy (R254). -/
def Fabric.round (f : Fabric) : Nat := 4096 * 2 ^ f.qlog

/-- Q of the domain (R254). -/
def Fabric.turns (f : Fabric) : Nat := 2 ^ f.qlog

/-- The device that port `p` faces in turn `g` (R254). -/
def Fabric.facing (f : Fabric) (g p : Nat) : Nat := f.devid ^^^ (16 * (g % f.turns) + p)

/-- Whether a port-turn is a loopback turn (R255). -/
def Fabric.loopback (f : Fabric) (g p : Nat) : Bool := g % f.turns = 0 && p = 0

/-- The port on which this device meets device `d` (R254). -/
def Fabric.portTo (f : Fabric) (d : Nat) : Nat := (f.devid ^^^ d) % 16

/-- Whether this device meets device `d` in the data interval that cycle `cyc` lies in (R254, R256). -/
def Fabric.meets (f : Fabric) (cyc d : Nat) : Bool := 96 ≤ cyc % 4096 && cyc / 4096 % f.turns == (f.devid ^^^ d) / 16

/-- Offset in its turn in which timed slot `t` leaves (R256). -/
def slotOffset (t : Nat) : Nat := 96 + (t + t / 3) / 2

/-! ### Flits -/

/-- Plaintext of a flit (R257, R258): its header fields from KIND on, with POIS last, and its payload. -/
def flitText (kind src dst : Nat) (mc rly : Bool) (inc : BitVec 16) (ctx rid fix lenm1 sseq pois payload : Nat) : BitVec 1920 :=
  BitVec.ofNat 1920 (packFields
    [(2, kind), (8, src), (8, dst), (1, mc.toNat), (1, rly.toNat), (16, inc.toNat), (8, ctx), (4, rid), (14, fix), (14, lenm1), (32, sseq), (7, pois),
     (13, 0), (1792, payload)])

/-- The key this device shares with a peer (R257, R302); 0 with none. -/
def Fabric.pairKey (f : Fabric) (d : Nat) : Nat := SMap.get 0 f.pairKeys d

/-- Number of flits of a transfer of `u` units of 64 bytes (R258). -/
def flitCount (u : Nat) : Nat := (64 * u + 223) / 224

/-- The 224 bytes of payload `i` of a list of bytes, as a number. -/
def payloadOf (data : List Byte) (i : Nat) : Nat := natOf ((data.drop (224 * i)).take 224)

/-- POIS of payload `i`, from poison bits for 32 bytes each. -/
def payloadPois (pois : List Bool) (i : Nat) : Nat := undigits 1 (((pois.drop (7 * i)).take 7).map Bool.toNat)

/-- Flit `i` of a timed transfer, encrypted under the key shared with device `d` (R257, R258). -/
def arrivalFlit (a : Arrival) (key i : Nat) : BitVec 2048 :=
  Config.gcmSeal key (flitText 0 a.src a.dst a.mc a.relayed a.inc a.ctx a.rid i (a.units - 1) (a.sendTurn % 2 ^ 32) (payloadPois a.pois i)
    (payloadOf a.data i))

/-- Flits of a request (R258, R270): a header flit, and one for each 224 bytes of its data (log 77). -/
def requestFlits (r : UntimedRequest) : Nat := 1 + (r.data.length + 223) / 224

/-- The flits of an untimed request to device `d` (R258). The UALink transaction layer, which is outside the spec, gives the payloads (R270;
log 88). -/
def untimedText (r : UntimedRequest) (d : Nat) : List (BitVec 1920) :=
  (List.range (requestFlits r)).map fun i =>
    let body := Config.ualinkPayload [r.win, r.off, r.size, r.mask, r.op, r.x.toNat, r.cmp.toNat] r.data i
    flitText 1 r.src d false false r.inc r.ctx r.cls i 0 r.sseq (if i = 0 then 0 else payloadPois r.pois (i - 1)) body.toNat

/-- The flits of a response (R258, R270), as those of a request (log 77). -/
def replyFlitCount (r : UntimedReply) : Nat := 1 + (r.data.length + 223) / 224

/-- The flits of a response of device `src` to device `d` (R257, R258, R270; log 88). -/
def ReplyHeld.text (r : ReplyHeld) (src : Nat) : List (BitVec 1920) :=
  (List.range r.flits).map fun i =>
    let body := Config.ualinkPayload [r.reply.status.toNat, r.reply.poisonedTarget.toNat] r.reply.data i
    flitText 1 src r.dev false false r.reply.inc r.ctx r.cls i 0 r.sseq (if i = 0 then 0 else payloadPois r.reply.pois (i - 1)) body.toNat

/-- A flit as a relay forwards it to a device (R257, R258): with RLY, under the key it shares with that device. -/
def relayFlit (key : Nat) (x : BitVec 1920) : BitVec 2048 := Config.gcmSeal key (x ||| BitVec.ofNat 1920 (2 ^ 19))

/-! ### Links -/

/-- The live links of a port, in order (R259). -/
def Fabric.live (f : Fabric) (port : Nat) : List Nat := (List.range 4).filter fun l => !SMap.get false f.down (4 * port + l)

/-- Number of live links of a port (R259). -/
def Fabric.liveLinks (f : Fabric) (port : Nat) : Nat := (f.live port).length

/-- Whether timed slot `t` of a port is carried with its live links (R259). -/
def Fabric.carries (f : Fabric) (port t : Nat) : Bool :=
  let n := f.liveLinks port
  3 ≤ n || t < 2000 * n

/-- The link that carries timed slot `t` of a port (R256, R259). -/
def Fabric.linkOf (f : Fabric) (port t : Nat) : Nat :=
  let l := f.live port
  if l.length = 4 then (t + t / 3) % 4 else l.getD (t % l.length) 0

/-- The retry buffer of a link: the number of its next flit, and the flits not acknowledged, oldest first (R259). -/
def Fabric.retryOf (f : Fabric) (port link : Nat) : Nat × List RetryFlit := SMap.get (0, []) f.retry (4 * port + link)

/-- Replaces a retry buffer. -/
def Fabric.setRetry (f : Fabric) (port link : Nat) (b : Nat × List RetryFlit) : Fabric :=
  { f with retry := SMap.set (0, []) f.retry (4 * port + link) b }

/-- A flit is on a link in a turn: its retry buffer holds the last 2,048 (R259). DESIGN CHOICE (log 104): one more drops the oldest. -/
def Fabric.keepFlit (f : Fabric) (port link : Nat) (timed : Bool) (turn : Nat) (again : Bool) (x : BitVec 2048) : Fabric :=
  let (n, l) := f.retryOf port link
  let y : RetryFlit := { num := n, timed, turn, again, flit := x }
  f.setRetry port link (n + 1, (l ++ [y]).drop (l.length + 1 - 2048))

/-- Timed flits leave in slots of a port. -/
def Fabric.keepTimed (f : Fabric) (port turn : Nat) (l : List (Nat × BitVec 2048)) : Fabric :=
  l.foldl (fun f e => f.keepFlit port (f.linkOf port e.1) true turn false e.2) f

/-- Untimed flits leave on a port: the first of its live links, none where all are down. -/
def Fabric.keepUntimed (f : Fabric) (port turn : Nat) (l : List (BitVec 2048)) : Fabric :=
  match f.live port with
  | k :: _ => l.foldl (fun f x => f.keepFlit port k false turn false x) f
  | [] => f

/-- At a turn's end, the timed flits that have not been replayed are lost (R259). -/
def Fabric.endTurn (f : Fabric) : Fabric :=
  { f with retry := f.retry.foldl (fun m e => SMap.set (0, []) m e.1 (e.2.1, e.2.2.filter fun x => !x.timed)) f.retry }

/-! ### Slots of untimed flits (R256, R259) -/

/-- The offsets of the slots of this turn, from a cycle on, that untimed and replayed flits may still take on a port: with four live links the
slots with k mod 4 = 3, with fewer the timed slots of the own share that carry no timed flit (log 104). -/
def Fabric.untimedSlots (f : Fabric) (port cyc : Nat) : List Nat :=
  let g := cyc / 4096
  let a := max (cyc % 4096) (SMap.get 0 f.slotNext port - 4096 * g)
  let all := if f.liveLinks port = 4 then (List.range 2000).map fun j => 97 + 2 * j
    else ((List.range (min 6000 (2000 * f.liveLinks port))).filter fun t => 1500 ≤ t && !f.claimed.contains (port, g, t)).map slotOffset
  if cyc % 4096 < 96 then [] else all.filter (a ≤ ·)

/-- Whether `n` untimed flits may leave on a port in this turn. DESIGN CHOICE (log 104): more than 500 may go on in later turns. -/
def Fabric.roomFor (f : Fabric) (port cyc n : Nat) : Bool := min n 500 ≤ (f.untimedSlots port cyc).length

/-- `n` flits take the next of those slots. -/
def Fabric.takeSlots (f : Fabric) (port cyc n : Nat) : Fabric :=
  let l := f.untimedSlots port cyc
  if n = 0 then f else { f with slotNext := SMap.set 0 f.slotNext port (4096 * (cyc / 4096) + l.getD (min n l.length - 1) 0 + 1) }

/-! ### Replay -/

/-- Whether a flit that is to be sent again may be in a turn (R259): a timed one in its own, an untimed one in each in which the port faces the same
device. -/
def RetryFlit.open_ (x : RetryFlit) (f : Fabric) (turn : Nat) : Bool :=
  x.again && (if x.timed then x.turn == turn else x.turn % f.turns == turn % f.turns)

/-- The flits of a link that are to be sent again are, as far as this turn has untimed slots for them. -/
def State.replayLink (s : State) (port link : Nat) : State :=
  let f := s.fabric
  let (n, l) := f.retryOf port link
  let now := (l.filter (·.open_ f (s.cyc / 4096))).take (f.untimedSlots port s.cyc).length
  match now with
  | [] => s
  | x :: _ =>
    let sent (y : RetryFlit) : RetryFlit := if now.contains y then { y with again := false } else y
    { s with fabric := (f.setRetry port link (n, l.map sent)).takeSlots port s.cyc now.length
             out := s.out ++ [.replay port link x.num (now.map (·.flit))] }

/-- Replays of this cycle (R254, R256, R259): none outside a domain. -/
def State.replays (s : State) : State :=
  if s.fabric.joined then
    (s.fabric.retry.filter fun e => e.2.2.any (·.again)).foldl (fun s e => s.replayLink (e.1 / 4) (e.1 % 4)) s
  else s

/-- The links that fail are down once a guard interval has begun; what their retry buffers hold is to be resent on the port's first surviving link
(R259). -/
def State.markDown (s : State) : State :=
  let f := { s.fabric with failing := [], down := s.fabric.failing.foldl (fun m l => SMap.set false m (4 * l.1 + l.2) true) s.fabric.down }
  { s with fabric := s.fabric.failing.foldl (fun f l =>
      let (n, b) := f.retryOf l.1 l.2
      let f := f.setRetry l.1 l.2 (n, [])
      match f.live l.1 with
      | k :: _ => b.foldl (fun f x => f.keepFlit l.1 k x.timed x.turn true x.flit) f
      | [] => f) f }

/-- An acknowledgement of a link: `ack` is the number of the first flit that is not acknowledged. One that brings nothing new has every flit the
buffer holds sent again (R259; log 88). -/
def State.acknowledge (s : State) (port link ack : Nat) : State :=
  let (n, l) := s.fabric.retryOf port link
  let l' := l.filter fun x => ack ≤ x.num
  let b := if l'.length < l.length then l' else l.map fun x => { x with again := true }
  { s with fabric := s.fabric.setRetry port link (n, b) }

/-- What the device sends in the middle of a guard interval (R256 to R259, R278): a beacon on each port, and a link-control flit with an
acknowledgement on each live link. -/
def State.guardFlits (s : State) : List Output :=
  let f := s.fabric
  let g := s.cyc / 4096
  (List.range 16).flatMap fun p =>
    let d := f.facing g p
    let sealed (kind : Nat) (payload : BitVec 1792) : BitVec 2048 :=
      Config.gcmSeal (f.pairKey d) (flitText kind f.devid d false false f.incarn 0 0 0 0 0 0 payload.toNat)
    .beacon p s.cyc f.incarn (sealed 2 (BitVec.ofNat 1792 s.cyc)) ::
      (f.live p).map fun l => .linkControl p l (sealed 3 (Config.ackPayload s.cyc p l))

end Sys2Proof.Machine
end

