-- ==== Sys2Proof/Machine/Engine.lean ====
section
/-! DEFINITION. What the engines share: reading and writing the ring with parcel tags (R155, R160, R161), elements of views
and their conversion (R34, R210, R218), near-memory arithmetic (R53, R54), the caches, the sketch and the zero-fill events an access
leaves (R126, R140, R147), export windows (R271, R272), requests to peers (R134, R273, R274), and a command's completion (R76). -/

namespace Sys2Proof.Machine

/-! ### Ring ranges -/

/-- Whether `n` bytes from a ring address on lie in a team's belt (R155). -/
def Team.rangeOk (t : Team) (addr : BitVec 28) (n : Nat) : Bool := eaTwi addr < t.spans && eaOff addr + n ≤ t.belt * 1024

/-- Ring key of byte `i` from a ring address on, in either view (R158). -/
def Team.byteKey (t : Team) (addr : BitVec 28) (diag : Bool) (i : Nat) : Nat :=
  t.beltKey (eaTwi addr) (eaStn addr) (if diag then diagOffset (eaOff addr + i) else eaOff addr + i)

/-- Bytes `i` to `i + n - 1` from a ring address on, as a number, and whether one comes from a poisoned parcel. -/
def State.ringGet (s : State) (t : Team) (addr : BitVec 28) (diag : Bool) (i n : Nat) : Nat × Bool :=
  let keys := (List.range n).map fun j => t.byteKey addr diag (i + j)
  (natOf (keys.map (Memory.read s.ring)), keys.any fun k => s.tag k == 0xFFFF#16)

/-- Drops what R244 holds of core writes to a chunk that another agent writes. -/
def Team.joinChunk (t : Team) (twi stn off : Nat) : Team :=
  { t with unjoined := t.unjoined.filter fun u => !(u.twi == twi && u.stn == stn && u.off == off) }

/-- The parts of `n` bytes from an offset on that lie in one 64-byte line each: first byte and length. -/
def lineParts (o n : Nat) : List (Nat × Nat) :=
  if n = 0 then []
  else (List.range ((o % 64 + n + 63) / 64)).map fun j => (64 * j - o % 64, min n (64 * (j + 1) - o % 64) - (64 * j - o % 64))

/-- The linear ring address of byte `i` from a ring address on, in either view (R158). -/
def ringAddr (addr : BitVec 28) (diag : Bool) (i : Nat) : BitVec 28 :=
  BitVec.ofNat 28 (addr.toNat / 2 ^ 21 * 2 ^ 21 + if diag then diagOffset (eaOff addr + i) else eaOff addr + i)

/-- An engine command's bytes go on their way to their banks, from byte `b0` of a ring address on, a line at a time (R157, R239). Each waits for the
cycles that a digit of the choice `k` gives it (log 4), and then for its bank. -/
def State.queueWrites (s : State) (cid : Nat) (t : Team) (addr : BitVec 28) (diag : Bool) (b0 : Nat) (bs : List Byte) (pois : List Bool)
    (k : Nat) : State :=
  { s with ringQueue := s.ringQueue ++ (lineParts (eaOff addr + b0) bs.length).zipIdx.map fun (e : (Nat × Nat) × Nat) =>
      { cmd := cid, team := t.id, notBefore := s.cyc + bits k (16 * e.2) 16, addr := ringAddr addr diag (b0 + e.1.1), diag := false
        loose := false, data := (bs.drop e.1.1).take e.1.2, pois := (pois.drop e.1.1).take e.1.2, update := none, tag := none } }

/-- The parcels of a station range that bytes `b0` to `b1 - 1` from an address on touch, by offset. -/
def parcelsOf (addr : BitVec 28) (b0 b1 : Nat) : List Nat :=
  if b1 ≤ b0 then []
  else (List.range ((eaOff addr + b1 - 1) / 4096 - (eaOff addr + b0) / 4096 + 1)).map fun j => (eaOff addr + b0) / 4096 + j

/-- A parcel of the station range of a ring address is to take a tag once a command's writes so far have performed there (R160). -/
def State.queueTag (s : State) (cid : Nat) (t : Team) (addr : BitVec 28) (p : Nat) (seq : BitVec 16) (whole : Bool) : State :=
  { s with ringQueue := s.ringQueue ++ [{ cmd := cid, team := t.id, notBefore := 0, addr := BitVec.ofNat 28 (addr.toNat / 2 ^ 21 * 2 ^ 21 + 4096 * p)
                                          diag := false, loose := false, data := [], pois := [], update := none, tag := some (seq, whole) }] }

/-- The tags of the parcels that bytes `b0` to `b1 - 1` of the `total` a command writes at a ring address finish (R160, R161). -/
def State.queueTags (s : State) (cid : Nat) (t : Team) (addr : BitVec 28) (total b0 b1 : Nat) (seq : BitVec 16) : State :=
  let o := eaOff addr
  ((parcelsOf addr b0 b1).filter fun p => min (o + total) (4096 * (p + 1)) ≤ o + b1).foldl (fun s p =>
    s.queueTag cid t addr p seq (o ≤ 4096 * p && 4096 * (p + 1) ≤ o + total)) s

/-- An engine command delivers bytes `b0` on of the `total` it writes at a ring address, in order (R160, R161): `pois` marks the poisoned bytes. -/
def State.deliver (s : State) (cid : Nat) (t : Team) (addr : BitVec 28) (diag : Bool) (total b0 : Nat) (bs : List Byte)
    (pois : List Bool) (seq : BitVec 16) : State :=
  (s.queueWrites cid t addr diag b0 bs pois s.choice).chosen.queueTags cid t addr total b0 (b0 + bs.length) seq

/-- An engine command's update of the element at byte `i` of a ring address by an operation of its format (R218, R228). -/
def State.queueUpdate (s : State) (cid : Nat) (t : Team) (addr : BitVec 28) (diag : Bool) (i fmt op : Nat) (bs : List Byte) (bad : Bool) : State :=
  { s with ringQueue := s.ringQueue ++ [{ cmd := cid, team := t.id, notBefore := 0, addr := addr + BitVec.ofNat 28 i, diag
                                          loose := false, data := bs, pois := [bad], update := some (fmt, op), tag := none }] }

/-- The lines of the ring, by key, in which bytes `i` to `i + n - 1` from a ring address on lie. -/
def Team.linesOf (t : Team) (addr : BitVec 28) (diag : Bool) (i n : Nat) : List Nat :=
  (lineParts (eaOff addr + i) n).map fun e => t.byteKey addr diag (i + e.1) / 64

/-- The core writes of the other view that the lines a command has newly read hold have been found by it (R241, R244). -/
def Team.engineRead (t : Team) (c : Cmd) (l : List (BitVec 28 × Bool × Nat × Nat)) (new : List Nat) : Team :=
  { t with unjoined := t.unjoined.map fun u =>
      let k := t.beltKey u.twi u.stn u.off
      if new.contains (k / 64) then
        let hit := (List.range 64).filter fun b => l.any fun r => (List.range r.2.2.2).any fun i => t.byteKey r.1 r.2.1 (r.2.2.1 + i) == k + b
        match hit.head?, hit.getLast? with
        | some lo, some hi => { u with seen := u.seen ++ [(c.strand, c.issuedTc, lo, hi + 1 - lo)] }
        | _, _ => u
      else u }

/-- What a command's reads of lines of ranges of the ring leave behind. -/
def State.noteRead (s : State) (c : Cmd) (l : List (BitVec 28 × Bool × Nat × Nat)) (new : List Nat) : State :=
  match s.team c.team with
  | some t => if new.isEmpty || t.unjoined.isEmpty then s else s.setTeam (t.engineRead c l new)
  | none => s

/-- Whether an engine's access of a ring line may perform in this cycle: its tower's clock runs, and no core access takes its bank (R157). -/
def State.lineFree (s : State) (line : Nat) : Bool := s.ticks (64 * line / 2 ^ 26) && !s.busy.contains (bankOf (64 * line))

/-! ### Accesses leave traces -/

/-- The record of an event of a command (R286). -/
def State.eventRecord (s : State) (c : Cmd) (r : Raised) : Chunk :=
  match c.packet, s.team c.team with
  | some (q, n), _ => s.packetRecord c.ctx q n c.tower r c.xpcEntry
  | none, some t => s.strandRecord t c.strand c.pc { r with slot := c.slot } c.xpcEntry
  | none, none => s.packetRecord c.ctx 0 0 c.tower r c.xpcEntry

/-- The grid of the team a command is of (R307); a packet's command has none. -/
def State.cmdGrid (s : State) (c : Cmd) : Option Nat := if c.packet.isSome then none else (s.team c.team).map (·.grid)

/-- The touches of a command's access: the traces, and one ZERO-FILL event for each granule and command (R140). -/
def State.noteTouches (s : State) (c : Context) (cid : Nat) : List Touch → State
  | [] => s
  | x :: l =>
    let key := entryDetail x.tid x.t x.gran
    let s := match s.cmd cid with
      | some m =>
        let s := s.noteTouch c m.tower x
        if x.zeroed && !m.zeroed.contains key then
          (s.setCmd { m with zeroed := key :: m.zeroed }).logEvent c.num (s.cmdGrid m)
            (s.eventRecord m (.of .eventZeroFill .access key))
        else s
      | none => s.noteTouch c 0 x
    State.noteTouches s c cid l

/-! ### Views and their elements -/

/-- An element of a stream: its code, its block's scale for an MX format, and its poison. -/
structure Elem where
  val : Nat
  scale : Nat
  pois : Option (Nat × Nat)
  deriving DecidableEq, Repr

/-- A view's binding at a command's start: its descriptors, and the checks DESC and VIEW-RANGE (R125, R129). -/
def State.bindView (s : State) (c : Context) (old : Nat) (v : View) : Except Cause Bound :=
  match s.descOf c old v.tid with
  | none => .error .engDesc
  | some (d, sc) => if v.inRange d then .ok { view := v, desc := d, scale := sc } else .error .engViewRange

/-- The coordinate of the block scale of an element (R125). -/
def scaleCoord : List Nat → List Nat
  | [] => []
  | x :: l => x / 32 :: l

/-- The tensor coordinate of traversal index `n` of a view. -/
def Bound.at_ (b : Bound) (n : Nat) : List Nat := b.view.coord b.desc (indexOf b.view.dims n)

/-- Element `n` of a view in traversal order (R129), with its scale. -/
def State.viewElem (s : State) (c : Context) (old : Nat) (fetched : Fetched) (b : Bound) (n : Nat) :
    Except Stop (Elem × List Touch) :=
  match s.readElem c old fetched b.view.tid b.desc b.view.pln (b.at_ n) with
  | .error e => .error e
  | .ok g =>
    match b.scale with
    | none => .ok ({ val := g.val, scale := 127, pois := g.pois }, g.touched)
    | some sd =>
      match s.readElem c old fetched b.desc.scaleid sd 0 (scaleCoord (b.at_ n)) with
      | .error e => .error e
      | .ok h => .ok ({ val := g.val, scale := h.val, pois := g.pois.or h.pois }, g.touched ++ h.touched)

/-- A list of accesses, in order, up to the first that stops; a granule counts once. -/
def mapStop {α β : Type} (f : α → Except Stop (β × List Touch)) : List α → Except Stop (List β × List Touch)
  | [] => .ok ([], [])
  | a :: l =>
    match f a with
    | .error e => .error e
    | .ok (b, t) =>
      match mapStop f l with
      | .error e => .error e
      | .ok (bs, ts) => .ok (b :: bs, (t.filter fun x => !ts.contains x) ++ ts)

/-- The exact value of an element (R33). -/
def Elem.num (e : Elem) (fmt : Nat) : Num := if isMx fmt then (numOfCode fmt e.val).mul (scaleNum e.scale) else numOfCode fmt e.val

/-- The format as which a converted value rounds: an MX element is a real value (R210). -/
def sourceFmt (fmt : Nat) : Fmt :=
  match Fmt.ofCode fmt with
  | some f => if isMx fmt && !f.isFloat then .f32 else f
  | none => .f32

/-- The exponent of a value: floor(log2 |v|). -/
def Num.log2 : Num → Int
  | .fin _ m e => (Nat.log2 m : Int) + e
  | _ => 1000

/-- The scale of a block of values quantised to an MX format (R34). -/
def mxScale (fmt : Nat) (l : List Num) : Nat :=
  if l.any (· == .nan) then 255
  else
    let big := l.foldl (fun a x => if (Num.abs a).lt false x.abs then x else a) (.fin false 0 0)
    match big with
    | .fin _ 0 _ => 0
    | _ =>
      let emax : Int := if fmt = 12 then 8 else if fmt = 13 then 15 else if fmt = 14 then 2 else 0
      (max 0 (min 254 (big.log2 - emax + 127))).toNat

/-- A value quantised under a block scale, always saturating (R34). -/
def mxCode (fmt scale : Nat) (mode : RMode) (rnd : Nat) (v : Num) : Nat :=
  let x := v.scale (127 - (scale : Int))
  match Fmt.ofCode fmt with
  | some .i8 => floatToInt 8 mode rnd (x.scale 6)
  | some f => roundFloat f .f32 mode true rnd x
  | none => 0

/-- The conversion of whole elements (R210): equal formats that are not MX are copied; the first element of the list has traversal index
`n0`, and MX blocks are 32 elements each. -/
def convertElems (src dst : Nat) (mode : RMode) (sat : Bool) (draw : Nat → Nat) (n0 : Nat) (l : List Elem) : List Elem :=
  if src = dst && !isMx src then l
  else
    let nums := l.map fun e => e.num src
    let rnd (i : Nat) : Nat := if mode == .sr then draw (n0 + i) else 0
    if isMx dst then
      (l.zip nums).zipIdx.map fun e =>
        let sc := mxScale dst ((nums.drop (e.2 / 32 * 32)).take 32)
        { val := mxCode dst sc mode (rnd e.2) e.1.2, scale := sc, pois := e.1.1.pois }
    else
      match Fmt.ofCode dst with
      | some f => (l.zip nums).zipIdx.map fun e =>
          { e.1.1 with val := convertNum f (sourceFmt src) mode sat (rnd e.2) e.1.2 }
      | none => l

/-- Whether the formats of a conversion are allowed (R210). -/
def convOk (conv src dst : Nat) : Bool :=
  if conv = 0 then src = dst && !isMx src else conv = dst && codeWidth conv != 0

/-- Whether a view can be an MX target (R210). -/
def mxTargetOk (v : View) : Bool :=
  match v.dims with
  | d :: l => d.td = 0 && d.str == 1 && v.org.headD 0 % 32 == 0 && d.ext % 32 == 0 && l.all fun x => x.td != 0
  | [] => false

/-- The draw of an engine command for a destination traversal index (R40, R210). -/
def Cmd.draw (c : Cmd) (n : Nat) : Nat := srDraw c.srkey c.srctr (n % 2 ^ 35) 0

/-- The writes that elements make into a view from traversal index `n0` on (R212), MX scales included. -/
def viewWrites (b : Bound) (n0 : Nat) (l : List Elem) : List GranuleWrite × List GranuleWrite :=
  l.zipIdx.foldl (fun w e =>
    let co := b.at_ (n0 + e.2)
    let w1 := (elemWrites b.view.tid b.desc co e.1.val e.1.pois).foldl (fun a x => mergeWrite x a) w.1
    match b.scale with
    | some sd => (w1, (elemWrites b.desc.scaleid sd (scaleCoord co) e.1.scale e.1.pois).foldl (fun a x => mergeWrite x a) w.2)
    | none => (w1, w.2)) ([], [])

/-! ### Near-memory arithmetic (R53, R54) -/

/-- One addition, maximum or minimum of R53 and R54: 0 add, 1 max, 2 min. -/
def combine (f : Fmt) (op y x : Nat) : Nat :=
  if f.isFloat then
    if op = 0 then roundFloat f f .rne false 0 (Num.sum .rne [f.decode y, f.decode x])
    else floatPick f (if op = 1 then Num.max else Num.min) y x
  else
    let a := signed f.width y
    let b := signed f.width x
    wrap f.width (if op = 0 then a + b else if op = 1 then max a b else min a b)

/-- NMSAC (R54): one rounding of a·y + x. -/
def scaleAdd (f : Fmt) (alpha y x : Nat) : Nat :=
  roundFloat f f .rne false 0 (Num.sum .rne [(Fmt.f32.decode alpha).mul (f.decode y), f.decode x])

/-- An operation of the near-memory units on elements (R53, R54, R422): format code, operation (0 add, 1 max, 2 min, 3 NMSAC) and NMSAC's
factor. -/
structure NmOp where
  fmt : Nat
  rop : Nat
  alpha : Nat
  deriving DecidableEq, Repr

/-- The new value of an element `y` under an operand `v`. -/
def NmOp.apply (o : NmOp) (y v : Nat) : Nat :=
  match Fmt.ofCode o.fmt with
  | some f => if o.rop < 3 then combine f o.rop y v else scaleAdd f o.alpha y v
  | none => 0

/-- One element of a page of this device: an indivisible read-modify-write in its granule (R146, R422). A poisoned granule is updated from its
stored bytes and stays poisoned (R140). -/
def State.updateElem (s : State) (x : Context) (tid : Nat) (d : Desc) (page off : Nat) (o : NmOp) (v : Nat) (pois : Bool) : State :=
  let g := page * 1024 + off / 64
  let sh := 8 * (off % 64)
  let w := codeWidth o.fmt
  let y := bits (s.granuleData x.num d.keyid g) sh w
  s.putGranule x tid d.keyid (if d.short then some (d.retw * 1024) else none) g ((2 ^ w - 1) * 2 ^ sh) (o.apply y v % 2 ^ w * 2 ^ sh)
    (if pois then some (x.num, 1) else none)

/-- An atomic of R273 on an 8-byte word: the new word. -/
def atomicOp (op : Nat) (w x cmp : Word) : Word :=
  match op with
  | 0 => w + x
  | 1 => x
  | 2 => if w = cmp then x else w
  | 3 => w &&& x
  | 4 => w ||| x
  | 5 => w ^^^ x
  | 6 => if w.toInt < x.toInt then x else w
  | 7 => if x.toInt < w.toInt then x else w
  | 8 => if w.toNat < x.toNat then x else w
  | _ => if x.toNat < w.toNat then x else w

/-! ### Requests to peers -/

/-- The sequence number a stream gives its next request, of 32 bits (R258), and the streams after it (R274). -/
def nextSeq (ctx dev cls : Nat) (via : Option Nat) : List Stream → Nat × Option Nat × List Stream
  | [] => (0, via, [{ ctx, dev, cls, next := 1, via }])
  | x :: l =>
    if x.ctx = ctx && x.dev = dev && x.cls = cls then (x.next, x.via, { x with next := (x.next + 1) % 2 ^ 32 } :: l)
    else
      let r := nextSeq ctx dev cls via l
      (r.1, r.2.1, x :: r.2.2)

/-- Whether two requests are of one stream (R274). -/
def Outstanding.sameStream (o q : Outstanding) : Bool := q.ctx == o.ctx && q.dev == o.dev && q.cls == o.cls

/-- The path a stream takes (R275): it is chosen anew only where the stream has no request in flight. -/
def State.choosePath (s : State) (ctx dev cls : Nat) : State :=
  if s.fabric.outstanding.any fun o => o.ctx == ctx && o.dev == dev && o.cls == cls then s
  else
    let k := s.choice % (s.fabric.devices + 1)
    let via := if k = 0 || k - 1 = dev || k - 1 = s.fabric.devid then none else some (k - 1)
    let s := s.chosen
    let same (x : Stream) : Bool := x.ctx = ctx && x.dev = dev && x.cls = cls
    let l := s.fabric.streams
    let l := if l.any same then l.map fun x => if same x then { x with via } else x
      else l ++ [{ ctx, dev, cls, next := 0, via }]
    { s with fabric := { s.fabric with streams := l } }

/-- The path of an outstanding request. -/
def Fabric.via (f : Fabric) (o : Outstanding) : Option Nat :=
  ((f.streams.find? fun x => x.ctx == o.ctx && x.dev == o.dev && x.cls == o.cls).map (·.via)).getD none

/-- Flits that a source may have in the untimed part of one relay's buffer: an even share of its 8 MiB (R275; log 77). -/
def Fabric.share (f : Fabric) : Nat := 2 ^ 15 / f.devices

/-- Whether an intermediate device has room for a source's flits (R275): within the share, or nothing of the source stands there. -/
def Fabric.credited (f : Fabric) (via : Option Nat) (n : Nat) : Bool :=
  match via with
  | none => true
  | some d => SMap.get 0 f.credit d = 0 || SMap.get 0 f.credit d + n ≤ f.share

/-- The device to which a request goes first: its destination, or the intermediate device of its path (R275). -/
def Fabric.nextHop (f : Fabric) (o : Outstanding) : Nat := (f.via o).getD o.dev

/-- Whether `n` untimed flits may leave for a device (R254, R256, R275), a relay if `via` says so: the device is in a domain and meets the first
device of the path, which has credit, and the turn has slots. -/
def State.openTo (s : State) (via : Option Nat) (dev n : Nat) : Bool :=
  let f := s.fabric
  f.joined && f.meets s.cyc (via.getD dev) && f.credited via n && f.roomFor (f.portTo (via.getD dev)) s.cyc n

/-- Untimed flits leave for a device: they take their slots, enter the retry buffer of their link and use credit (R256, R259, R275). -/
def State.sendUntimed (s : State) (via : Option Nat) (dev : Nat) (l : List (BitVec 1920)) : State :=
  let hop := via.getD dev
  let f := s.fabric
  let p := f.portTo hop
  let g := (f.takeSlots p s.cyc l.length).keepUntimed p (s.cyc / 4096) (l.map (Config.gcmSeal (f.pairKey hop)))
  { s with fabric := { g with credit := match via with
      | some d => SMap.set 0 g.credit d (SMap.get 0 g.credit d + l.length)
      | none => g.credit } }

/-- Whether a request may leave (R254, R274, R275): its path is open, the requests of its stream before it have left, and at most 256 writes and
atomics of its context to its destination are outstanding. -/
def State.maySend (s : State) (o : Outstanding) : Bool :=
  let l := s.fabric.outstanding
  s.openTo (s.fabric.via o) o.dev o.flits && !((l.takeWhile (·.id != o.id)).any fun q => o.sameStream q && !q.sent) &&
  (!o.write || (l.filter fun q => q.ctx == o.ctx && q.dev == o.dev && q.write && q.sent).length < 256)

/-- After a step of a command. -/
def State.stepped (s : State) (cid : Nat) : State :=
  match s.cmd cid with
  | some c => s.setCmd { c with xpc := c.xpc + 1, fetched := [], arrived := none, lines := [], expanding := c.xpc + 1 < c.steps }
  | none => s

/-- The request of FLD, FST, FATOM or NMCAS that leaves is the one step of its command (R273, R418). -/
def State.leftFor (s : State) (o : Outstanding) : State :=
  if o.what == .own && (s.cmd o.cmd).any fun c => c.st == .running && c.xpc < c.steps then s.stepped o.cmd else s

/-- A request leaves, and its timer starts (R276). -/
def State.sendNow (s : State) (o : Outstanding) : State :=
  let via := s.fabric.via o
  let s := (s.leftFor o).sendUntimed via o.dev (untimedText o.req o.dev)
  { s with
    fabric := { s.fabric with
      outstanding := s.fabric.outstanding.map fun q =>
        if q.id == o.id then { q with sent := true, tried := true, deadline := s.cyc + 8 * s.fabric.round } else q }
    out := s.out ++ [.untimed o.dev via o.req (!o.write)] }

/-- The path of a response (R275; log 104): one for every response of a stream. -/
def State.replyVia (s : State) (r : ReplyHeld) : Option Nat :=
  let k := Config.replyPath r.dev r.ctx r.cls
  if k < s.fabric.devices && k != r.dev && k != s.fabric.devid then some k else none

/-- Whether two responses are of one stream. -/
def ReplyHeld.sameStream (r q : ReplyHeld) : Bool := q.dev == r.dev && q.ctx == r.ctx && q.cls == r.cls

/-- Responses leave where their paths are open, the oldest of a stream first (R252, R275). -/
def State.pumpReplies : List ReplyHeld → State → List ReplyHeld → State
  | [], s, kept => { s with fabric := { s.fabric with replies := kept } }
  | r :: l, s, kept =>
    if s.openTo (s.replyVia r) r.dev r.flits && !kept.any r.sameStream then
      let t := s.sendUntimed (s.replyVia r) r.dev (r.text s.fabric.devid)
      State.pumpReplies l { t with out := t.out ++ [.reply r.dev r.reply r.cls r.sseq] } kept
    else State.pumpReplies l s (kept ++ [r])

/-- Every request that may leave does, the oldest first. -/
def State.pump (s : State) : State := s.fabric.outstanding.foldl (fun s o => if !o.sent && s.maySend o then s.sendNow o else s) s

/-- Every request and response that may leave does (R270, R275). -/
def State.pumpAll (s : State) : State :=
  let s := s.pump
  if s.fabric.replies.isEmpty then s else State.pumpReplies s.fabric.replies s []

/-- An untimed request of a command (R273 to R276): it takes its stream's next number, and leaves as soon as it may. `bytes` counts in the
command's handle once it has performed (R221). -/
def State.sendRequest (s : State) (cid ctx dev cls : Nat) (what : ReqKind) (write : Bool) (bytes : Nat) (r : UntimedRequest) : State :=
  let s := s.choosePath ctx dev cls
  let (seq, _, streams) := nextSeq ctx dev cls none s.fabric.streams
  let req := { r with src := s.fabric.devid, ctx, cls, sseq := seq, inc := s.fabric.incarn }
  let o : Outstanding :=
    { id := s.fabric.nextReq, cmd := cid, what, req, dev, ctx, cls, sseq := seq, inc := SMap.get 0 s.fabric.peers dev, write
      deadline := s.cyc + 8 * s.fabric.round, extended := false, resent := 0, sent := false, tried := false, flits := requestFlits req, bytes }
  let s : State := { s with fabric := { s.fabric with
      streams, outstanding := s.fabric.outstanding ++ [o], nextReq := s.fabric.nextReq + 1 } }
  s.pump

/-- A request with nothing in it. -/
def UntimedRequest.blank : UntimedRequest :=
  { src := 0, ctx := 0, cls := 0, sseq := 0, inc := 0, win := 0, off := 0, size := 0, data := [], mask := 0, pois := [], op := 0, x := 0, cmp := 0
    body := .plain }

/-- The mask of a write of `n` whole bytes. -/
def wholeMask (n : Nat) : Nat := 2 ^ (8 * n) - 1

/-- Byte offset of a granule of a peer page in window 0 (R134, R271). -/
def peerOffset (page gran : Nat) : Nat := 65536 * page + 64 * gran

/-- `n` free bytes, from the free word `base` on (log 5). -/
def freeBytes (base n : Nat) : List Byte := (List.range (n / 8)).flatMap fun i => bytesOf 8 (Config.freeWord (base + i)).toNat

/-- Asks a peer for a granule of one of its pages (R134). -/
def State.fetchGranule (s : State) (cid ctx dev page gran : Nat) : State :=
  s.sendRequest cid ctx dev 0 (.page page gran) false 0 { UntimedRequest.blank with off := peerOffset page gran, size := 64 }

/-- Asks for a counter on a peer page that is waited for, unless a request for it is outstanding (R134, R479). -/
def State.pollCounter (s : State) (ctx : Nat) (addr : Word) : State :=
  match s.counterPlace ctx addr with
  | .ok (.peer dev page gran) =>
    if s.fabric.outstanding.any fun o => o.ctx == ctx && o.what == .counter addr then s
    else s.sendRequest 0 ctx dev 0 (.counter addr) false 0 { UntimedRequest.blank with off := peerOffset page gran, size := 64 }
  | _ => s

/-- What was known of a counter on a peer page is forgotten. -/
def State.forgetPoll (s : State) (ctx : Nat) (addr : Word) : State :=
  { s with polls := s.polls.filter fun p => !(p.ctx == ctx && p.addr == addr) }

/-- An answer to a read of a counter on a peer page. -/
def State.heardPoll (s : State) (ctx : Nat) (addr : Word) (data : Nat) (pois : Bool) (fault : Option Raised) : State :=
  { s.forgetPoll ctx addr with polls := (s.forgetPoll ctx addr).polls ++ [{ ctx, addr, data, pois, fault }] }

/-- Whether requests of a command that bring data for its next step are outstanding. -/
def State.awaiting (s : State) (cid : Nat) : Bool := s.fabric.outstanding.any fun o => o.cmd == cid && !o.write

/-- Whether any request of a command is outstanding. -/
def State.unanswered (s : State) (cid : Nat) : Bool := s.fabric.outstanding.any fun o => o.cmd == cid

/-- Number of the bits set in a granule's mask. -/
def popBits (m : Nat) : Nat := ((List.range 512).filter m.testBit).length

/-- The whole bytes that each of a list of granule writes adds to those before it, which wrote `k` bits. -/
def byteShares (k : Nat) : List Nat → List Nat
  | [] => []
  | m :: l => ((k + popBits m + 7) / 8 - (k + 7) / 8) :: byteShares (k + popBits m) l

/-- Sends the writes of a step to peer pages, a request for each granule (R134, R249), each with the bytes that count once it has performed
(R221). -/
def State.sendWrites (s : State) (cid ctx : Nat) (l : List ((Nat × Nat × GranuleWrite) × Nat)) : State :=
  l.foldl (fun s e =>
    let w := e.1.2.2
    s.sendRequest cid ctx e.1.1 0 .pageWrite true e.2 { UntimedRequest.blank with
      off := peerOffset e.1.2.1 w.gran, size := 64, data := bytesOf 64 w.data, mask := w.mask, pois := List.replicate 2 w.pois.isSome }) s

/-- Asks a peer's near-memory unit for the update of one element of a page of its (R134, R146, R422; log 27). -/
def State.sendElem (s : State) (cid ctx dev page off : Nat) (o : NmOp) (v : Nat) (pois : Bool) : State :=
  let n := codeBytes o.fmt
  s.sendRequest cid ctx dev 0 .pageWrite true n { UntimedRequest.blank with
    off := peerOffset page 0 + off, size := n, data := bytesOf n v, mask := wholeMask n, pois := [pois], body := .element o.fmt o.rop o.alpha }

/-! ### Start and completion -/

/-- Whether another command of the same strand and engine stands before a command: on the copy, layout and scatter engines an earlier
one must have completed (R214, R240), on the others none may be expanding and none be queued before it (R80). -/
def State.engineBusy (s : State) (c : Cmd) : Bool :=
  s.cmds.any fun e => e.id != c.id && e.team == c.team && e.strand == c.strand && e.packet.isNone && e.engine == c.engine &&
    e.st != .faulted &&
    (if 5 ≤ c.engine && c.engine ≤ 7 then e.id < c.id else e.expanding || (c.engine != 12 && e.id < c.id && e.st == .queued))

/-- Whether a strand's command may start (R74, R80, R114, R240, R248): its team goes on, the core accesses of its bundle have
performed, what its fences name is done, its engine is free for it and, in paced code, its consumed tokens are done. -/
def State.startReady (s : State) (c : Cmd) : Bool :=
  c.st == .queued && c.notBefore ≤ s.cyc && !s.engineBusy c &&
  (match s.team c.team with
    | some t => t.before && c.issuedTc + 3 ≤ t.tcyc
    | none => false) &&
  s.fencesDone c && (c.timed || s.tokensDone c.team c.strand c.deps)

/-- Whether an untimed fabric command has still to make its request, and nothing that it waits for keeps it from doing so. -/
def State.toRequest (s : State) (c : Cmd) : Bool :=
  c.op.asks && c.packet.isNone && (s.team c.team).any Team.before &&
  ((c.st == .queued && s.fencesDone c && (c.timed || s.tokensDone c.team c.strand c.deps)) ||
   (c.st == .running && c.xpc < c.steps && !s.unanswered c.id))

/-- Whether an earlier command of the stream of an FLD, FST or FATOM has still to make its request (R252, R274, R378, R379; log 109). -/
def State.streamBlocked (s : State) (c : Cmd) : Bool :=
  c.op.asks && s.cmds.any fun e => e.id < c.id && e.ctx == c.ctx && wbits e.w0 36 2 == wbits c.w0 36 2 &&
    wbits e.w0 62 1 == wbits c.w0 62 1 && (wbits c.w0 62 1 == 1 || wbits e.w0 38 8 == wbits c.w0 38 8) && s.toRequest e

/-- Whether a step of a command may run (R114, R213): it is running, its team goes on, and no data it needs are outstanding. A window of a SCAT
takes effect once those before it have performed (R53, R228, R229). -/
def State.stepReady (s : State) (c : Cmd) : Bool :=
  c.st == .running && c.xpc < c.steps && !s.awaiting c.id && !s.ending c.ctx &&
  (c.op != .scat || (!s.unanswered c.id && !s.ringQueue.any (·.cmd == c.id))) && !s.streamBlocked c &&
  (c.packet.isSome || match s.team c.team with
    | some t => t.before || ((c.engine == 9 || c.engine == 10 || c.engine == 11 || c.op == .ccopy) && t.onCores && !t.freezing)
    | none => false)

/-- A command starts, with its number of steps. -/
def State.begin (s : State) (c : Cmd) (steps : Nat) : State :=
  s.setCmd { c with st := .running, steps, xpc := c.xpc, expanding := c.xpc < steps, startCyc := s.cyc, lines := [],
                    start := (s.team c.team).elim 0 (·.tcyc) }

/-- A command is done with a status (R76, R77): its token is set at the end of the cycle. -/
def State.finish (s : State) (cid : Nat) (status : BitVec 4) : State :=
  match s.cmd cid with
  | some c => s.setCmd { c with st := .finishing status, expanding := false }
  | none => s

/-- A fault of a command in an engine access; one that has faulted already has ended (R282). -/
def State.accessRaise (s : State) (cid : Nat) (r : Raised) : State :=
  match s.cmd cid with
  | some c => if c.st == .faulted then s else s.commandFault c r
  | none => s

/-- A write of an engine to a mailbox register of a strand (R250), to be settled with the others at the end of the cycle. -/
def State.mailbox (s : State) (team strand m : Nat) (v : Word) (pois : Bool) (key : Nat) : State :=
  match s.strand team strand with
  | some st => s.setStrand { st with mbxIn := st.mbxIn ++ [(m, key, v, pois)] }
  | none => s

/-! ### Export windows (R271, R272) -/

/-- An export window. -/
structure Window where
  tid : Nat
  valid : Bool
  rd : Bool
  wr : Bool
  at_ : Bool
  grp : Nat
  base : Nat
  npg : Nat
  deriving DecidableEq, Repr

/-- Structure address of the entry of export window `w`. -/
def Context.windowAt (c : Context) (w : Nat) : Word := structPlus c.exportTable (32 * w)

/-- Export window `w` of a context; an entry with a reserved bit set is malformed, and is no window (R4). -/
def State.window (s : State) (c : Context) (w : Nat) : Option Window :=
  if c.windows ≤ w then none
  else
    let x := s.deviceRead c (c.windowAt w) 32
    if bits x 96 160 != 0 then none
    else some { tid := bits x 0 20, valid := bits x 20 1 == 1, rd := bits x 21 1 == 1, wr := bits x 22 1 == 1, at_ := bits x 23 1 == 1,
                grp := bits x 24 8, base := bits x 32 32, npg := bits x 64 32 }

/-- The accesses that reading a window's entry makes (R147). -/
def State.windowTouches (s : State) (c : Context) (w : Nat) : List Touch :=
  match s.readStruct c s.choice (c.windowAt w) 32 1 with
  | .ok g => g.touched.map fun t => { t with zeroed := false }
  | .error _ => []

/-- Whether a device is a member of a group of a context (R88). -/
def State.inGroup (s : State) (ctx g dev : Nat) : Bool := (s.groupOf ctx g).getLsbD dev

/-- A record that no strand and no packet raised. -/
def State.plainRecord (s : State) (ctx : Nat) (r : Raised) : Chunk :=
  let (cls, code) := r.cause.code
  BitVec.ofNat 512 (packFields
    [(4, cls), (8, code), (4, 0), (8, ctx), (104, 0), (64, s.cyc), (192, 0), (64, r.detail.toNat), (64, 0)])

/-- The traces of an access that no command of this device made, with its ZERO-FILL events (R140, R378). It counts at its stack as tower 0's
(R147; log 80). -/
def State.noteForeign (s : State) (x : Context) : List Touch → State
  | [] => s
  | t :: l =>
    let s := s.noteTouch x 0 t
    let s := if t.zeroed then
        s.logEvent x.num none (s.plainRecord x.num (.of .eventZeroFill .access (entryDetail t.tid t.t t.gran)))
      else s
    State.noteForeign s x l

/-- The checks 1 to 4 of R272 for `n` bytes at offset `o`: `kind` 0 reads, 1 writes, 2 atomics; `peer` is the requester, none for a
local one. Answers the window, or the number of the check that fails. A context that is being destroyed has no window (R304). -/
def State.windowCheck (s : State) (c : Context) (w o n kind : Nat) (peer : Option Nat) : Except Nat Window :=
  match s.window c w with
  | none => .error 1
  | some x =>
    if !x.valid || c.destroying then .error 1
    else if (match peer with | some d => !s.inGroup c.num x.grp d | none => false) then .error 2
    else if !(if kind = 0 then x.rd else if kind = 1 then x.wr else x.at_) then .error 3
    else if x.npg * 65536 < o + n then .error 4
    else .ok x

/-- The status of a failed check: never 0, which is success (log 17). -/
def failStatus (k : Nat) : BitVec 8 := if Config.ualinkStatus k = 0 then 1 else Config.ualinkStatus k

/-- What a read of a window finds: the bits, the poison of each granule from the one of its first byte on, and the granules touched. -/
structure WinGot where
  val : Nat
  pois : List Bool
  touched : List Touch
  deriving DecidableEq, Repr

/-- Whether one of bytes `i` to `i + n - 1` of a window read from offset `o` on comes from a poisoned granule. -/
def WinGot.bad (g : WinGot) (o i n : Nat) : Bool := (List.range n).any fun j => g.pois.getD ((o % 64 + i + j) / 64) false

/-- The POIS bits of a response that carries `n` bytes of a window from offset `o` on, one for 32 bytes (R258). -/
def WinGot.poisBits (g : WinGot) (o n : Nat) : List Bool := (List.range ((n + 31) / 32)).map fun u => g.bad o (32 * u) (min 32 (n - 32 * u))

/-- Reads the granules of a window from offset `o` on, `n` of them. -/
def State.windowGranules (s : State) (c : Context) (x : Window) (d : Desc) : Nat → Nat → Except Stop WinGot
  | _, 0 => .ok ⟨0, [], []⟩
  | o, n + 1 =>
    match s.readGranule c s.choice [] x.tid d (x.base + o / 65536) (o % 65536 / 64) with
    | .error e => .error e
    | .ok g =>
      match s.windowGranules c x d (o / 64 * 64 + 64) n with
      | .error e => .error e
      | .ok r => .ok ⟨g.val + 2 ^ 512 * r.val, g.pois.isSome :: r.pois, g.touched ++ r.touched⟩

/-- The `n` bytes at an offset of a window, checked as R272 says; a failure answers the number of its check. -/
def State.windowRead (s : State) (c : Context) (w o n kind : Nat) (peer : Option Nat) : Except Nat WinGot :=
  match s.windowCheck c w o n kind peer with
  | .error k => .error k
  | .ok x =>
    match s.plainDesc c s.choice x.tid with
    | none => .error 5
    | some d =>
      match s.windowGranules c x d o ((o % 64 + n + 63) / 64) with
      | .error _ => .error 5
      | .ok g => .ok { g with val := bits g.val (8 * (o % 64)) (8 * n), touched := s.windowTouches c w ++ g.touched }

/-- Whether a byte of a request or response is poisoned by its POIS bits, one for 32 bytes (R258). -/
def poisAt (l : List Bool) (i : Nat) : Bool := l.getD (i / 32) false

/-- The POIS bits of bytes, one for 32 of them. -/
def poisUnits (l : List Bool) : List Bool := (List.range ((l.length + 31) / 32)).map fun u => ((l.drop (32 * u)).take 32).any id

/-- The granule writes of bytes at an offset of a window: the bits of `mask`, and the bytes that `pois` names poisoned. -/
def windowWrites (x : Window) (o : Nat) (bs : List Byte) (mask : Nat) (pois : Nat → Bool) (ctx : Nat) : List GranuleWrite :=
  bs.zipIdx.foldl (fun l e =>
    let p := o + e.2
    let m := bits mask (8 * e.2) 8
    if m = 0 then l
    else mergeWrite { tid := x.tid, t := x.base + p / 65536, gran := p % 65536 / 64, mask := m * 2 ^ (8 * (p % 64)),
                      data := Nat.land e.1.toNat m * 2 ^ (8 * (p % 64)), pois := if pois e.2 then some (ctx, 1) else none } l) []

/-- Writes bits of bytes at an offset of a window, checked as R272 says; a write on a page of a further peer is not made (check 5). -/
def State.windowWrite (s : State) (c : Context) (w o kind : Nat) (peer : Option Nat) (bs : List Byte) (mask : Nat) (pois : Nat → Bool) :
    Except Nat State :=
  match s.windowCheck c w o bs.length kind peer with
  | .error k => .error k
  | .ok x =>
    match s.plainDesc c s.choice x.tid with
    | none => .error 5
    | some d =>
      match s.writeGranules c s.choice d (windowWrites x o bs mask pois c.num) [] [] with
      | (s', [], tch, none) => .ok (s'.noteForeign c (s.windowTouches c w ++ tch))
      | _ => .error 5

/-- One element at an offset of a window updated by the near-memory unit of its stack, checked as an atomic (R146, R272, R422; log 27). A poisoned
target of a ZERO-FILL tensor is logged (R140, R422). -/
def State.windowElement (s : State) (c : Context) (w o : Nat) (peer : Option Nat) (op : NmOp) (v : Nat) (pois : Bool) : Except Nat State :=
  match s.windowCheck c w o (codeBytes op.fmt) 2 peer with
  | .error k => .error k
  | .ok x =>
    match s.plainDesc c s.choice x.tid with
    | none => .error 5
    | some d =>
      let t := x.base + o / 65536
      let off := o % 65536
      match s.translate c s.choice x.tid d t (off / 64) true with
      | .ok (.page p) =>
        let zeroed := d.zeroFill && (s.poisonAt c.num d.short (p * 1024 + off / 64)).isSome
        if op.fmt != d.fmt || off % codeBytes op.fmt != 0 then .error 5
        else .ok ((s.updateElem c x.tid d p off op v pois).noteForeign c
          (s.windowTouches c w ++ [⟨x.tid, t, off / 64, some (p * 1024 + off / 64), zeroed⟩]))
      | _ => .error 5

end Sys2Proof.Machine
end

