-- ==== Sys2Proof/Machine/Copy.lean ====
section
/-! DEFINITION. The copy engine (R216 to R220, R225, R226, R359, R360, R366, R367), buffer handles with HSET (R221 to R224, R386,
R387), and the near-memory commands NMRED, NMSAC, NMCAS and SIG (R416 to R423, R452, R453). -/

namespace Sys2Proof.Machine

/-! ### Issue -/

/-- EADR of a copy control word (R216). -/
def cpwEadr (w : Word) : BitVec 28 := w.extractLsb' 0 28
/-- CONV of a copy control word. -/
def cpwConv (w : Word) : Nat := wbits w 32 8
/-- RM of a copy control word. -/
def cpwRm (w : Word) : Nat := wbits w 40 3
/-- ROP of a copy control word. -/
def cpwRop (w : Word) : Nat := wbits w 44 2
/-- SEQ of a copy control word. -/
def cpwSeq (w : Word) : BitVec 16 := w.extractLsb' 46 16

/-- Whether a copy control word is wrong by itself (R216). -/
def cpwBad (w : Word) : Bool := wbits w 62 2 != 0 || wbits w 0 8 != 0

/-- COPY (R366). -/
def execCopy (t a b : BitVec 6) (s : State) : Host.Outcome State Fault Refusal :=
  let w := s.iss.st.sreg a
  let h := s.iss.st.sreg b
  s.engineIssue .copy t w h 0 (failed [(cpwBad w || wbits h 9 55 != 0, s.badOperand)] ++ s.poisonChecks [a, b]) [] []

/-- CCOPY (R359). -/
def execCcopy (t a b : BitVec 6) (s : State) : Host.Outcome State Fault Refusal :=
  let w := s.iss.st.sreg a
  s.engineIssue .ccopy t w (s.iss.st.sreg b) 0 (failed [(cpwBad w, s.badOperand)] ++ s.poisonChecks [a, b]) [] []

/-- HSET (R224). -/
def execHset (t a : BitVec 6) (s : State) : Host.Outcome State Fault Refusal :=
  let w := s.iss.st.sreg a
  let bad := wbits w 0 8 == 0 || 2 ≤ wbits w 8 2 || wbits w 12 20 != 0 || (wbits w 8 2 == 0 && wbits w 32 32 == 0)
  s.engineIssue .hset t w 0 0 (failed [(bad, s.badOperand)] ++ s.poisonChecks [a]) [] []

/-- NMRED (R420, R421). -/
def execNmred (t a b : BitVec 6) (s : State) : Host.Outcome State Fault Refusal :=
  let w := s.iss.st.sreg a
  let v := s.iss.st.sreg b
  s.engineIssue .nmred t w v 0
    (failed [(wbits w 30 34 != 0 || wbits w 28 2 == 3 || wbits w 0 6 != 0 || wbits v 28 36 != 0 || wbits v 0 6 != 0, s.badOperand)] ++
      s.poisonChecks [a, b]) [] []

/-- NMSAC (R420, R421). -/
def execNmsac (t a b : BitVec 6) (s : State) : Host.Outcome State Fault Refusal :=
  let w := s.iss.st.sreg a
  let v := s.iss.st.sreg b
  s.engineIssue .nmsac t w v 0
    (failed [(wbits w 28 4 != 0 || wbits w 0 6 != 0 || wbits v 28 36 != 0 || wbits v 0 6 != 0, s.badOperand)] ++
      s.poisonChecks [a, b]) [] []

/-- NMCAS (R416, R417). -/
def execNmcas (t a b : BitVec 6) (s : State) : Host.Outcome State Fault Refusal :=
  let w := s.iss.st.sreg a
  let v := s.iss.st.sreg b
  s.engineIssue .nmcas t w v 0
    (failed [(wbits w 32 32 != 0 || wbits w 0 4 != 0 || wbits v 20 3 != 0, s.badOperand)] ++ s.poisonChecks [a, b]) [] []

/-- SIG (R452, R453). -/
def execSig (t a b : BitVec 6) (s : State) : Host.Outcome State Fault Refusal :=
  let w := s.iss.st.sreg a
  s.engineIssue .sig t w (s.iss.st.sreg b) 0
    (failed [(wbits w 20 3 != 0 || wbits w 0 20 == 0, s.badOperand)] ++ s.poisonChecks [a, b]) [] []

/-! ### Endpoints -/

/-- An endpoint as its 128 bytes give it (R217). -/
inductive RawEnd where
  | view (v : View)
  | ring (addr : BitVec 28) (diag : Bool) (fmt nel : Nat) (reserved : Bool)
  | peer (dev win fmt : Nat) (off : Word) (nel : Nat) (reserved : Bool)
  | bad
  deriving DecidableEq, Repr

/-- The endpoint of a kind in 1,024 bits. -/
def rawEnd (kind x : Nat) : RawEnd :=
  match kind with
  | 0 => .view (viewOf x)
  | 1 => .ring (BitVec.ofNat 28 x) (bits x 28 1 == 1) (bits x 32 8) (bits x 64 32)
      (bits x 29 3 != 0 || bits x 40 24 != 0 || bits x 96 928 != 0)
  | 2 => .peer (bits x 0 8) (bits x 8 16) (bits x 32 8) (BitVec.ofNat 64 (bits x 64 64)) (bits x 128 32)
      (bits x 24 8 != 0 || bits x 40 24 != 0 || bits x 160 864 != 0)
  | _ => .bad

/-- An endpoint bound at a command's start: DESC, then VIEW-RANGE (orders 2 and 3 of R219). -/
def State.bindEnd (s : State) (c : Context) (old : Nat) : RawEnd → Except Cause Endpoint
  | .view v => (s.bindView c old v).map .view
  | .ring a d f n _ => .ok (.ring a d f n)
  | .peer d w f o n _ => .ok (.peer d w f o n)
  | .bad => .ok (.ring 0 false 0 0)

/-- Whether an endpoint is of the kind that COPY-KIND rejects by itself. -/
def RawEnd.wrong : RawEnd → Bool
  | .view _ => false
  | .ring _ _ _ _ r | .peer _ _ _ _ _ r => r
  | .bad => true

/-- Format of an endpoint's elements. -/
def Endpoint.fmt : Endpoint → Nat
  | .view b => b.desc.fmt
  | .ring _ _ f _ | .peer _ _ f _ _ => f

/-- Number of elements of an endpoint. -/
def Endpoint.count : Endpoint → Nat
  | .view b => b.view.count
  | .ring _ _ _ n | .peer _ _ _ _ n => n

/-- Whether an endpoint that is no view has a format of whole bytes (R217). -/
def Endpoint.fmtOk : Endpoint → Bool
  | .view _ => true
  | .ring _ _ f _ | .peer _ _ f _ _ => 8 ≤ codeWidth f && !isMx f && codeWidth f % 8 == 0

/-- Whether a ring endpoint lies in the belt (order 7 of R219). -/
def Endpoint.inBelt (t : Team) : Endpoint → Bool
  | .ring a _ f n => t.rangeOk a (n * codeBytes f)
  | _ => true

/-- Whether an endpoint is a ring, or a peer. -/
def Endpoint.isRing : Endpoint → Bool
  | .ring _ _ _ _ => true
  | _ => false

/-- Whether an endpoint is on a peer. -/
def Endpoint.isPeer : Endpoint → Bool
  | .peer _ _ _ _ _ => true
  | _ => false

/-- The checks of orders 4 to 9 of R219 on bound endpoints. -/
def copyCheck (t : Team) (w : Word) (rs rd : RawEnd) (src dst : Endpoint) : Option Cause :=
  let rop := cpwRop w
  if rs.wrong || rd.wrong || (src.isPeer && dst.isPeer) || (rop != 0 && dst.isPeer) then some .engCopyKind
  else if src.count != dst.count || src.count == 0 then some .engCopyShape
  else if !convOk (cpwConv w) src.fmt dst.fmt || !src.fmtOk || !dst.fmtOk ||
      (match dst with | .view b => isMx b.desc.fmt && !mxTargetOk b.view | _ => false) ||
      (rop != 0 && !(dst.fmt == 1 || dst.fmt == 2 || dst.fmt == 3 || dst.fmt == 7)) then some .engCopyFmt
  else if !src.inBelt t || !dst.inBelt t then some .engRingRange
  else if (RMode.ofCode (cpwRm w)).isNone then some .engCmdRm
  else if dst.isRing && cpwSeq w == 0xFFFF#16 then some .engSeq
  else match dst with
    | .view b => if rop == 0 && !b.view.injective b.desc then some .engViewAlias else none
    | _ => none

/-- The endpoint pair of a copy control word: raw bits and whether they are poisoned. -/
def State.copyPair (s : State) (t : Team) (w : Word) : (Nat × Nat) × Bool :=
  let x := s.ringGet t (cpwEadr w) false 0 256
  ((x.1 % 2 ^ 1024, x.1 / 2 ^ 1024), x.2)

/-- Binds both endpoints of a copy (orders 1 to 3 of R219). -/
def State.copyBind (s : State) (c : Context) (t : Team) (old : Nat) (w : Word) :
    Except Cause (RawEnd × RawEnd × Endpoint × Endpoint) :=
  if !t.rangeOk (cpwEadr w) 256 then .error .engRingRange
  else
    let p := (s.copyPair t w).1
    let rs := rawEnd (wbits w 28 2) p.1
    let rd := rawEnd (wbits w 30 2) p.2
    match s.bindEnd c old rs, s.bindEnd c old rd with
    | .ok a, .ok b => .ok (rs, rd, a, b)
    | .error .engDesc, _ | _, .error .engDesc => .error .engDesc
    | .error e, _ | _, .error e => .error e

/-- A start fault of a command. -/
def State.startFault (s : State) (c : Cmd) (x : Cause) : State := s.commandFault c (startRaised x 0)

/-- POISON CONSUME of control data in the ring at a command's start (R289). -/
def State.startPoison (s : State) (c : Cmd) : State := s.commandFault c (startRaised .poisonConsume 1)

/-- Start of a COPY (R219, R367). -/
def State.copyStart (s : State) (x : Context) (t : Team) (old : Nat) (c : Cmd) : State :=
  match s.copyBind x t old c.w0 with
  | .error e => s.startFault c e
  | .ok (rs, rd, a, b) =>
    match copyCheck t c.w0 rs rd a b with
    | some e => s.startFault c e
    | none =>
      if (s.copyPair t c.w0).2 then s.startPoison c
      else if (a.isPeer || b.isPeer) && !s.fabric.joined && c.xpc = 0 then s.finish c.id 5
      else s.begin { c with src := some a, dst := some b } ((b.count + 1023) / 1024)

/-- The form of a CCOPY (R225): the destination view. -/
def ccopyForm (w : Word) (rs : RawEnd) (src dst : Endpoint) : Bool :=
  wbits w 28 2 == 1 && wbits w 30 2 == 0 && cpwConv w == 0 && cpwRop w == 0 && !rs.wrong &&
  match src, dst with
  | .ring _ _ f n, .view b =>
    match b.view.dims with
    | [d] => f == 9 && b.desc.rank == 1 && b.desc.fmt == 9 && d.str == 1 && b.view.org.headD 0 % 64 == 0 &&
        16 ≤ d.ext && d.ext ≤ 4096 && n + 8 == d.ext && b.view.org.headD 0 / 65536 == (b.view.org.headD 0 + d.ext - 1) / 65536
    | _ => false
  | _, _ => false

/-- Whether the block of a CCOPY lies on a page of a peer, so far as the tables map it at its start (R225). -/
def State.onPeerPage (s : State) (x : Context) (old : Nat) : Endpoint → Bool
  | .view b =>
    let (t, n) := b.desc.block b.view.org
    match s.mapping x old b.view.tid b.desc t (n / 64) with
    | .ok (e, _) => bits e 6 1 == 1
    | .error _ => false
  | _ => false

/-- Start of a CCOPY (R360): the orders of R219 from the belt on, once its form has passed. -/
def State.ccopyStart (s : State) (x : Context) (t : Team) (old : Nat) (c : Cmd) : State :=
  match s.copyBind x t old c.w0 with
  | .error e => s.startFault c e
  | .ok (rs, _, a, b) =>
    if !ccopyForm c.w0 rs a b || s.onPeerPage x old b then s.startFault c .engCcopyShape
    else if !a.inBelt t then s.startFault c .engRingRange
    else if (RMode.ofCode (cpwRm c.w0)).isNone then s.startFault c .engCmdRm
    else if (s.copyPair t c.w0).2 then s.startPoison c
    else s.begin { c with src := some a, dst := some b } 1

/-! ### Handles -/

/-- The transitions a handle's counts cause (R222). -/
def Handle.settle (h : Handle) : Handle :=
  match h.st with
  | .filling => if 0 < h.exp && h.exp ≤ h.fcnt then { h with st := .full, fcnt := 0 } else h
  | .draining => if 0 < h.exp && h.exp ≤ h.dcnt then { h with st := .free, dcnt := 0 } else h
  | _ => h

/-- Changes a handle of a context. -/
def State.setHandle (s : State) (ctx h : Nat) (f : Handle → Handle) : State :=
  match s.context ctx with
  | some c => s.setContext { c with handles := SMap.set Handle.fresh c.handles h (f (SMap.get Handle.fresh c.handles h)) }
  | none => s

/-- Whether bytes of a command count in a handle in the role `drain` (R221, R367). -/
def Cmd.counts (c : Cmd) (drain : Bool) : Bool :=
  c.op == .copy && c.packet.isNone && wbits c.w1 0 8 != 0 && (wbits c.w1 8 1 == 1) == drain

/-- Destination bytes of a command have performed (R221). -/
def State.countFill (s : State) (c : Cmd) (n : Nat) : State :=
  if c.counts false && n != 0 then s.setHandle c.ctx (wbits c.w1 0 8) fun h => { h with fcnt := h.fcnt + n } else s

/-- Source bytes of a command have been read (R221). -/
def State.countDrain (s : State) (c : Cmd) (n : Nat) : State :=
  if c.counts true && n != 0 then s.setHandle c.ctx (wbits c.w1 0 8) fun h => { h with dcnt := h.dcnt + n } else s

/-- Whether a command's bytes count in a handle whose counts cause a transition now. -/
def State.settlesFor (s : State) (c : Cmd) : Bool :=
  (c.counts false || c.counts true) && (s.context c.ctx).any fun x =>
    let h := SMap.get Handle.fresh x.handles (wbits c.w1 0 8)
    h.settle != h

/-- The transitions on counts of every handle at the end of a CYC cy, which drop what was counted in excess (R222). -/
def Context.settleHandles (c : Context) : Context :=
  { c with handles := c.handles.foldl (fun m e => SMap.set Handle.fresh m e.1 e.2.settle) c.handles }

/-! ### Writes of the ring perform -/

/-- The linear ring address of byte `i` of an engine's write (R158). -/
def RingWrite.at_ (w : RingWrite) (i : Nat) : BitVec 28 := ringAddr w.addr w.diag i

/-- Ring keys of the bytes of an engine's write. -/
def RingWrite.keys (w : RingWrite) (t : Team) : List Nat := (List.range w.data.length).map fun i => t.byteKey w.addr w.diag i

/-- The linear ring address of the first byte of an engine's write. -/
def RingWrite.first (w : RingWrite) : BitVec 28 := w.at_ 0

/-- The linear ring address of the last byte of an engine's write. -/
def RingWrite.last (w : RingWrite) : BitVec 28 := w.at_ (w.data.length - 1)

/-- What an engine's write leaves at its bytes, and which of them are poisoned: an update whose element or operand is poisoned is (R161). -/
def RingWrite.result (w : RingWrite) (s : State) (keys : List Nat) : List Byte × List Bool :=
  match w.update with
  | none => (w.data, w.pois)
  | some (f, op) =>
    let v := match Fmt.ofCode f with
      | some y => combine y op (natOf (keys.map (Memory.read s.ring))) (natOf w.data)
      | none => 0
    (bytesOf w.data.length v, List.replicate w.data.length (w.pois.any id || keys.any fun k => s.tag k == 0xFFFF#16))

/-- A command has begun to write a parcel. -/
def Cmd.beginParcel (c : Cmd) (p : Nat) : Cmd :=
  if c.parcels.any (·.1 == p) then c else { c with parcels := c.parcels ++ [(p, false)] }

/-- An engine's write of the ring performs (R161, R221, R239, R244). -/
def State.performRing (s : State) (t : Team) (w : RingWrite) : State :=
  let keys := w.keys t
  let (bs, ps) := w.result s keys
  let join (x : Team) (a : BitVec 28) : Team := x.joinChunk (eaTwi a) (eaStn a) (eaOff a / 64 * 64)
  let s : State := { s.setTeam (join (join ((s.team t.id).getD t) w.first) w.last) with ring := writeKeys s.ring keys bs }
  let s := match s.cmd w.cmd with
    | some c => (s.setCmd ((c.beginParcel (eaParcel w.first)).beginParcel (eaParcel w.last))).countFill c (if w.loose then 0 else bs.length)
    | none => s
  if ps.any id then s.poisonTags (((keys.zip ps).filter (·.2)).map fun e => e.1 / 4096).eraseDups else s

/-- A parcel takes its tag at the end of this tower cycle, unless it is poisoned and the command has not written the whole of it since (R160,
R161); a `.chk` load that sees it acquires of the command (R240). -/
def State.performTag (s : State) (t : Team) (w : RingWrite) (seq : BitVec 16) (whole : Bool) : State :=
  let p := eaParcel w.addr
  let k := t.parcelKey p
  if (s.cmd w.cmd).any (fun c => c.parcels.contains (p, true)) || (SMap.get 0 s.tags k == 0xFFFF#16 && !whole) then s
  else
    let s : State := { s with newTags := s.newTags ++ [(k, seq)] }
    match s.cmd w.cmd with
    | some c => s.releaseCmd c
    | none => s

/-- The lines of a team's belt that an engine's write lies in. -/
def RingWrite.lines (w : RingWrite) : List Nat := [w.first.toNat / 64, w.last.toNat / 64]

/-- Whether a write that waits holds a later one of its command: a write of the same line, or a tag of its parcel. -/
def RingWrite.holds (q w : RingWrite) : Bool :=
  q.cmd == w.cmd && q.tag.isNone &&
  if w.tag.isSome then eaParcel q.first == eaParcel w.addr || eaParcel q.last == eaParcel w.addr
  else q.lines.any w.lines.contains

/-- The banks of an engine's write. -/
def RingWrite.banks (w : RingWrite) (t : Team) : List Nat := ((w.keys t).map bankOf).eraseDups

/-- Engine writes perform in this cycle, each at a bank that no core access and no engine write before it has taken (R157, R243); `taken` are
the banks taken, `kept` the writes that wait. -/
def State.drainFrom : List RingWrite → State → List Nat → List RingWrite → State
  | [], s, _, kept => { s with ringQueue := kept }
  | w :: l, s, taken, kept =>
    match (s.team w.team).filter Team.onCores, w.tag with
    | none, _ => State.drainFrom l s taken kept
    | some t, some (seq, whole) =>
      if kept.any fun q => q.holds w then State.drainFrom l s taken (kept ++ [w]) else State.drainFrom l (s.performTag t w seq whole) taken kept
    | some t, none =>
      if w.notBefore ≤ s.cyc && s.ticks (t.tower (eaTwi w.addr)) && !((w.banks t).any taken.contains) && !(kept.any fun q => q.holds w) then
        State.drainFrom l (s.performRing t w) (taken ++ w.banks t) kept
      else State.drainFrom l s taken (kept ++ [w])

/-- The engine writes of a cycle, once its core accesses have performed. -/
def State.drainRing (s : State) : State :=
  if s.ringQueue.isEmpty then s else State.drainFrom s.ringQueue { s with ringQueue := [] } s.busy []

/-! ### HSET -/

/-- What an HSET does to a handle (R222), and whether it is rejected. DESIGN CHOICE (log 107): a count that the post finds reached moves the handle on
with the HSET itself, since no later byte would. -/
def Handle.hset (h : Handle) (w : Word) : Handle × Bool :=
  let exp := wbits w 32 32
  if wbits w 8 2 = 1 then
    ({ st := match wbits w 10 2 with | 0 => .free | 1 => .filling | 2 => .full | _ => .draining, exp := 0, fcnt := 0, dcnt := 0 }, false)
  else match h.st with
    | .free => (({ h with st := .filling, exp } : Handle).settle, false)
    | .full => (({ h with st := .draining, exp } : Handle).settle, false)
    | _ => if h.exp = 0 then (({ h with exp } : Handle).settle, false) else (h, true)

/-- HSET_TAKE_EFFECT (R223, R224): the HSET takes effect in this cycle, after the bytes that perform in it; HSETs of one cycle apply
in issue order at its end. -/
def execHsetTakeEffect (cmd : Nat) (s : State) : Host.Outcome State Fault Refusal :=
  match s.cmd cmd with
  | some c => .next (if c.op == .hset && c.st == .running then s.setCmd { c with xpc := 1, expanding := false } else s)
  | none => .next s

/-! ### Steps -/

/-- Source elements `n0` to `n0 + n - 1` of a copy. A peer's come with `arrived`; on the local device the context's own export table
serves (R367). Answers elements and touches. -/
def State.sourceElems (s : State) (x : Context) (old : Nat) (c : Cmd) (t : Option Team) (e : Endpoint) (n0 n : Nat) :
    Except Stop (List Elem × List Touch) :=
  match e with
  | .view b => mapStop (fun i => s.viewElem x old c.fetched b (n0 + i)) (List.range n)
  | .ring a diag f _ =>
    match t with
    | none => .ok ([], [])
    | some t => .ok ((List.range n).map fun i =>
        let g := s.ringGet t a diag ((n0 + i) * codeBytes f) (codeBytes f)
        { val := g.1, scale := 127, pois := if g.2 then some (x.num, 1) else none }, [])
  | .peer dev win f off _ =>
    let sz := codeBytes f
    let split (v : Nat) (p : Nat → Bool) : List Elem := (List.range n).map fun i =>
      { val := bits v (8 * sz * i) (8 * sz), scale := 127, pois := if p i then some (x.num, 1) else none }
    if dev = s.fabric.devid then
      match s.windowRead x win (off.toNat + n0 * sz) (n * sz) 0 none with
      | .ok g => .ok (split g.val (fun i => g.bad (off.toNat + n0 * sz) (i * sz) sz), g.touched)
      | .error k => .error (.raise (.of .engFabRemote .access (2 ^ 12 * (failStatus k).toNat)))
    else match c.arrived with
      | some (bs, p) => .ok (split (natOf bs) (fun i => (List.range sz).any fun j => poisAt p (i * sz + j)), [])
      | none => .error (.peer dev win (n0 * sz))

/-- Number of accesses of a list before the first that stops. -/
def goodPrefix {α β : Type} (f : α → Except Stop β) : List α → Nat
  | [] => 0
  | a :: l => match f a with
    | .error _ => 0
    | .ok _ => goodPrefix f l + 1

/-- Near-memory operations on elements of a view, in order (R54, R146, R422): each is one indivisible read-modify-write of its element in its
granule's order, on a page of this device at once and on a page of a peer by a request. Answers the fault of the first that meets one. -/
def State.nmElems (s : State) (x : Context) (old : Nat) (c : Cmd) (b : Bound) (op : NmOp) : List (Nat × Elem) → State × Option Raised
  | [] => (s, none)
  | (n, e) :: l =>
    let tid := b.view.tid
    let (t, i) := b.desc.block (b.at_ n)
    let o := b.desc.offset i
    match s.translate x old tid b.desc t (o / 64) true with
    | .error (.raise r) => (s, some r)
    | .error (.peer _ _ _) => (s, none)
    | .ok (.peer dev page) =>
      let s' := s.sendElem c.id x.num dev page o op e.val e.pois.isSome
      (s'.noteTouches x c.id [⟨tid, t, o / 64, none, false⟩]).nmElems x old c b op l
    | .ok (.page p) =>
      let zeroed := b.desc.zeroFill && (s.poisonAt x.num b.desc.short (p * 1024 + o / 64)).isSome
      let s' := s.updateElem x tid b.desc p o op e.val e.pois.isSome
      ((s'.noteTouches x c.id [⟨tid, t, o / 64, some (p * 1024 + o / 64), zeroed⟩]).countFill c (codeBytes op.fmt)).nmElems x old c b op l

/-- Writes elements into a view, or combines them there by a near-memory operation (R218). The bytes written here count in the command's handle
at once, those on a page of a peer once they have performed there (R221). -/
def State.putView (s : State) (x : Context) (old : Nat) (c : Cmd) (b : Bound) (n0 : Nat) (l : List Elem) (f : Option NmOp) : State :=
  match f with
  | none =>
    let (w1, w2) := viewWrites b n0 l
    let (s1, o1, t1, e1) := s.writeGranules x old b.desc w1 [] []
    let (s2, o2, t2, e2) := match e1, b.scale with
      | none, some sd => s1.writeGranules x old sd w2 [] []
      | _, _ => (s1, [], [], none)
    let shares := (byteShares 0 (w1.map (·.mask))).zip t1
    let here := ((shares.filter fun q => q.2.addr.isSome).map (·.1)).foldl (· + ·) 0
    let there := (shares.filter fun q => q.2.addr.isNone).map (·.1)
    let s := ((s2.sendWrites c.id x.num (o1.zip there ++ o2.map fun o => (o, 0))).noteTouches x c.id (t1 ++ t2)).countFill c here
    match e1.or e2 with
    | some r => s.accessRaise c.id r
    | none => s.stepped c.id
  | some op =>
    match s.nmElems x old c b op (l.zipIdx.map fun e => (n0 + e.2, e.1)) with
    | (s', some r) => s'.accessRaise c.id r
    | (s', none) => s'.stepped c.id

/-- The bytes of elements of whole bytes, and which of them are poisoned. -/
def elemBytes (f : Nat) (l : List Elem) : List Byte × List Bool :=
  (l.flatMap fun e => bytesOf (codeBytes f) e.val, l.flatMap fun e => List.replicate (codeBytes f) e.pois.isSome)

/-- Elements combined one by one with those of a ring endpoint (R218), each at its bank; the step's parcels take their tags (R160). -/
def State.ringCombine (s : State) (c : Cmd) (t : Team) (a : BitVec 28) (diag : Bool) (f op nel n0 : Nat) (l : List Elem) : State :=
  let sz := codeBytes f
  let s := l.zipIdx.foldl (fun s e => s.queueUpdate c.id t a diag ((n0 + e.2) * sz) f op (bytesOf sz e.1.val) e.1.pois.isSome) s
  s.queueTags c.id t a (nel * sz) (n0 * sz) ((n0 + l.length) * sz) (cpwSeq c.w0)

/-- Writes the elements of a step to the destination of a copy (R160, R218). -/
def State.putElems (s : State) (x : Context) (old : Nat) (c : Cmd) (t : Option Team) (n0 : Nat) (l : List Elem) : State :=
  let rop := cpwRop c.w0
  match c.dst with
  | some (.view b) => s.putView x old c b n0 l (if rop = 0 then none else some { fmt := b.desc.fmt, rop := rop - 1, alpha := 0 })
  | some (.ring a diag f nel) =>
    match t with
    | none => s
    | some t =>
      let (bs, ps) := elemBytes f l
      (if rop = 0 then s.deliver c.id t a diag (nel * codeBytes f) (n0 * codeBytes f) bs ps (cpwSeq c.w0)
        else s.ringCombine c t a diag f (rop - 1) nel n0 l).stepped c.id
  | some (.peer dev win f off _) =>
    let (bs, ps) := elemBytes f l
    if dev = s.fabric.devid then
      match s.windowWrite x win (off.toNat + n0 * codeBytes f) 1 none bs (wholeMask bs.length) (fun i => ps.getD i false) with
      | .ok s' => (s'.countFill c bs.length).stepped c.id
      | .error k => s.accessRaise c.id (.of .engFabRemote .access (2 ^ 12 * (failStatus k).toNat))
    else (s.sendRequest c.id x.num dev 0 .copyWrite true bs.length { UntimedRequest.blank with
        win, off := off.toNat + n0 * codeBytes f, size := bs.length, data := bs, mask := wholeMask bs.length, pois := poisUnits ps }).stepped c.id
  | none => s

/-- Bytes of `n` elements of a format, as a handle counts them. -/
def elemsBytes (fmt n : Nat) : Nat := (n * codeWidth fmt + 7) / 8

/-- Bytes of `n` elements of a source that count when a step of a copy has read them: those of a ring endpoint have counted as they were read
(R221). -/
def Endpoint.drained (e : Endpoint) (n : Nat) : Nat := match e with
  | .ring _ _ _ _ => 0
  | _ => elemsBytes e.fmt n

/-- Source bytes of a copy that lie in lines of the ring which it has newly read (R221): `c` before the read, `c'` after it. -/
def Cmd.newBytes (t : Team) (c c' : Cmd) : Nat :=
  match c.op, c.src, c.dst with
  | .copy, some (.ring a diag f _), some d =>
    let new := (c'.lines.drop c.lines.length).map (·.1)
    ((List.range (min 1024 (d.count - 1024 * c.xpc) * codeBytes f)).filter fun i =>
      new.contains (t.byteKey a diag (1024 * c.xpc * codeBytes f + i) / 64)).length
  | _, _, _ => 0

/-- The step of a copy (R212, R220): up to 1,024 elements read, converted and written. -/
def State.copyStep (s : State) (x : Context) (old : Nat) (c : Cmd) (t : Option Team) : State :=
  match c.src, c.dst with
  | some src, some dst =>
    let n0 := 1024 * c.xpc
    let n := min 1024 (dst.count - n0)
    match s.sourceElems x old c t src n0 n with
    | .error (.raise r) =>
      let good := match src with
        | .view b => goodPrefix (fun i => s.viewElem x old c.fetched b (n0 + i)) (List.range n)
        | _ => 0
      (s.countDrain c (src.drained good)).accessRaise c.id r
    | .error (.peer d p g) =>
      match src with
      | .peer dev win f off _ =>
        s.sendRequest c.id x.num dev 0 .copyRead false 0 { UntimedRequest.blank with
          win, off := off.toNat + n0 * codeBytes f, size := n * codeBytes f }
      | _ => s.fetchGranule c.id x.num d p g
    | .ok (l, tch) =>
      let l := convertElems src.fmt dst.fmt ((RMode.ofCode (cpwRm c.w0)).getD .rne) (wbits c.w0 43 1 == 1) c.draw n0 l
      ((s.noteTouches x c.id tch).countDrain c (src.drained n)).putElems x old c t n0 l
  | _, _ => s

/-- The destination of a copy that ends with PEER-RESET holds any values (R218). They are no bytes of the copy's, and count in no handle (R221). -/
def State.looseDst (s : State) (c : Cmd) : State :=
  match s.context c.ctx, c.dst with
  | some x, some (.view b) =>
    let n := b.view.count
    let w := codeWidth b.desc.fmt
    let l : List Elem := (List.range n).map fun i =>
      { val := freeNat (s.fresh + 2 * i) 8 % 2 ^ w, scale := freeNat (s.fresh + 2 * i + 1) 1, pois := none }
    let (w1, w2) := viewWrites b 0 l
    let s1 := (s.writeGranules x s.choice b.desc w1 [] []).1
    let s2 := match b.scale with
      | some sd => (s1.writeGranules x s.choice sd w2 [] []).1
      | none => s1
    { s2 with fresh := s2.fresh + 2 * n }
  | some _, some (.ring a diag f nel) =>
    match s.team c.team with
    | some t =>
      let n := nel * codeBytes f
      let u := s.queueWrites c.id t a diag 0 ((freeBytes s.fresh (n + 7)).take n) (List.replicate n false) 0
      { s with fresh := s.fresh + n / 8 + 1
               ringQueue := s.ringQueue ++ (u.ringQueue.drop s.ringQueue.length).map fun w => { w with loose := true } }
    | none => s
  | _, _ => s

/-- The one step of a CCOPY (R226, R360): compare and write as a whole. Every granule it covers is translated as one that is written (R135), then
the version granule's poison is asked, and then the version. -/
def State.ccopyStep (s : State) (x : Context) (old : Nat) (c : Cmd) (t : Team) : State :=
  match c.src, c.dst with
  | some (.ring a diag _ n), some (.view b) =>
    let tid := b.view.tid
    match s.readGranule x old [] tid { b.desc with zeroFill := false } (b.view.org.headD 0 / 65536) (b.view.org.headD 0 % 65536 / 64) with
    | .error (.raise r) => s.accessRaise c.id r
    | .error (.peer _ _ _) => s.accessRaise c.id (.of .engCcopyShape .access 0)
    | .ok g =>
      let bytes := (List.range n).map fun i => s.ringGet t a diag i 1
      let ver := bytesOf 8 (c.w1.toNat + 1)
      let ws := ((ver.map fun v => (v.toNat, false)) ++ bytes).zipIdx.foldl (fun l e =>
        (elemWrites tid b.desc [b.view.org.headD 0 + e.2] e.1.1 (if e.1.2 then some (x.num, 1) else none)).foldl
          (fun l w => mergeWrite w l) l) []
      match s.writeGranules x old b.desc ws [] [] with
      | (_, _, _, some r) => s.accessRaise c.id r
      | (s', _, tch, none) =>
        match g.pois with
        | some (px, pk) => s.accessRaise c.id { Raised.of .poisonConsume .access 2 with pctx := px, pcause := pk }
        | none =>
          if bits g.val 0 64 != c.w1.toNat then (s.noteTouches x c.id g.touched).finish c.id 3
          else (s'.noteTouches x c.id tch).finish c.id 0
  | _, _ => s

/-! ### Near-memory commands -/

/-- The view a near-memory command or PROBE names: its address. -/
def viewAddr (w : Word) : BitVec 28 := w.extractLsb' 0 28

/-- Orders 1 to 3 of a command whose view stands in the ring (R423, R430): the binding, and whether the view is poisoned. -/
def State.ringView (s : State) (x : Context) (t : Team) (old : Nat) (addr : BitVec 28) : Except Cause (Bound × Bool) :=
  if !t.rangeOk addr 128 then .error .engRingRange
  else
    let g := s.ringGet t addr false 0 128
    (s.bindView x old (viewOf g.1)).map fun b => (b, g.2)

/-- Start of NMRED or NMSAC (R423). -/
def State.nmStart (s : State) (x : Context) (t : Team) (old : Nat) (c : Cmd) : State :=
  match s.ringView x t old (viewAddr c.w1) with
  | .error e => s.startFault c e
  | .ok (b, pois) =>
    let f := b.desc.fmt
    if !(f == 1 || f == 2 || f == 3 || (f == 7 && c.op == .nmred)) then s.startFault c .engCopyFmt
    else if !t.rangeOk (viewAddr c.w0) (b.view.count * codeBytes f) then s.startFault c .engRingRange
    else if c.op == .nmsac && !b.view.injective b.desc then s.startFault c .engViewAlias
    else if pois then s.startPoison c
    else s.begin { c with dst := some (.view b) } ((b.view.count + 255) / 256)

/-- A step of NMRED or NMSAC (R422): 256 traversal indices. -/
def State.nmStep (s : State) (x : Context) (old : Nat) (c : Cmd) (t : Team) : State :=
  match c.dst with
  | some (.view b) =>
    let n0 := 256 * c.xpc
    let sz := codeBytes b.desc.fmt
    let l : List Elem := (List.range (min 256 (b.view.count - n0))).map fun i =>
      let g := s.ringGet t (viewAddr c.w0) false ((n0 + i) * sz) sz
      { val := g.1, scale := 127, pois := if g.2 then some (x.num, 1) else none }
    s.putView x old c b n0 l (some { fmt := b.desc.fmt, rop := if c.op == .nmred then wbits c.w0 28 2 else 3, alpha := wbits c.w0 32 32 })
  | _ => s

/-- `n` bytes at an offset of a rank-1 i8 tensor, as a bound view. -/
def bytesBound (tid off n : Nat) (d : Desc) : Bound :=
  { view := { tid, pln := 0, org := [off], dims := [{ ext := n, str := 1, td := 0 }], reserved := false }, desc := d, scale := none }

/-- Start of a command on one 8-byte word at a structure address (R419, R453): it keeps the descriptor it has read (R126). -/
def State.wordStart (s : State) (x : Context) (old : Nat) (c : Cmd) (addr : Word) : State :=
  match s.structAt x old addr 8 1 with
  | .error (.raise r) => s.commandFault c r
  | .error _ => s
  | .ok (tid, off, d) => s.begin { c with dst := some (.view (bytesBound tid off 8 d)) } 1

/-- Start of NMCAS (R419). -/
def State.nmcasStart (s : State) (x : Context) (t : Team) (old : Nat) (c : Cmd) : State :=
  if !t.rangeOk (viewAddr c.w0) 16 then s.startFault c .engRingRange else s.wordStart x old c c.w1

/-- Mailbox order of a command's writes (R250): the later-issued command wins and, in one issue cycle, the lower ENGINE code. -/
def Cmd.mbxOrder (c : Cmd) : Nat := 16 * c.issuedCyc + (15 - c.engine)

/-- What NMCAS, FLD and FATOM do with the word they got: to a mailbox, or to the ring with no tag (R378, R418). -/
def State.wordResult (s : State) (t : Team) (c : Cmd) (mbx : Bool) (m : Nat) (addr : BitVec 28) (bs : List Byte) (pois : Nat → Bool) :
    State :=
  if mbx then s.mailbox c.team c.strand m (BitVec.ofNat 64 (natOf bs)) ((List.range bs.length).any pois) c.mbxOrder
  else (s.queueWrites c.id t addr false 0 bs ((List.range bs.length).map pois) s.choice).chosen

/-- The one step of NMCAS (R418): one indivisible operation in the granule's order. A word on a peer page takes an atomic of R273. -/
def State.nmcasStep (s : State) (x : Context) (old : Nat) (c : Cmd) (t : Team) : State :=
  let g := s.ringGet t (viewAddr c.w0) false 0 16
  match c.dst with
  | some (.view b) =>
    let tid := b.view.tid
    let off := b.view.org.headD 0
    let d := b.desc
    let (ti, o) := d.block [off]
    let new : Word := BitVec.ofNat 64 (bits g.1 0 64)
    let cmp : Word := BitVec.ofNat 64 (bits g.1 64 64)
    if g.2 then s.accessRaise c.id (.of .poisonConsume .access 1)
    else match s.translate x old tid d ti (o / 64) true with
    | .error (.raise r) => s.accessRaise c.id r
    | .error _ => s
    | .ok (.peer dev page) =>
      if s.unanswered c.id then s else (s.sendRequest c.id x.num dev 0 .own true 0 { UntimedRequest.blank with
        off := peerOffset page (o / 64) + o % 64, size := 8, op := 2, x := new, cmp })
    | .ok (.page p) =>
      let g := p * 1024 + o / 64
      match s.poisonAt x.num d.short g with
      | some (px, pk) => s.accessRaise c.id { Raised.of .poisonConsume .access 2 with pctx := px, pcause := pk }
      | none =>
        let w : Word := BitVec.ofNat 64 (bits (s.granuleData x.num d.keyid g) (8 * (o % 64)) 64)
        let s' := if w = cmp then s.putGranule x tid d.keyid (if d.short then some (d.retw * 1024) else none) g
            ((2 ^ 64 - 1) * 2 ^ (8 * (o % 64))) (new.toNat * 2 ^ (8 * (o % 64))) none else s
        let s' := s'.noteTouches x c.id [⟨tid, ti, o / 64, some g, false⟩]
        (s'.wordResult t c (wbits c.w0 31 1 == 1) (wbits c.w0 28 3) (viewAddr c.w0) (bytesOf 8 w.toNat) fun _ => false).finish c.id 0
  | _ => s

/-- The one step of SIG (R453). -/
def State.sigStep (s : State) (x : Context) (old : Nat) (c : Cmd) : State :=
  match c.dst with
  | some (.view b) =>
    match s.writeGranules x old b.desc (structWrites b.view.tid b.desc (b.view.org.headD 0) (bytesOf 8 c.w1.toNat) none) [] [] with
    | (_, _, _, some r) => s.accessRaise c.id r
    | (s', out, tch, none) =>
      let s' := (s'.sendWrites c.id x.num (out.map fun o => (o, 0))).noteTouches x c.id tch
      if out.isEmpty then s'.finish c.id 0 else s'.stepped c.id
  | _ => s

end Sys2Proof.Machine
end

