-- ==== Sys2Proof/Machine/Layout.lean ====
section
/-! DEFINITION. The layout engine (R202 to R214, R394, R395): the dimension-mapping word, its checks and the mapping, and the steps of
a LAYOUT; and the scatter-accumulate engine (R53, R227 to R229, R447, R448). -/

namespace Sys2Proof.Machine

/-! ### LAYOUT -/

/-- LAYOUT (R202): S`a` and S`(a + 1)` hold the DMW, S`b` the LCW. -/
def execLayout (t a b : BitVec 6) (s : State) : Host.Outcome State Fault Refusal :=
  let w := s.iss.st.sreg b
  let bad := a.toNat % 2 == 1 || wbits w 40 24 != 0 || wbits w 0 8 != 0
  s.engineIssue .layout t (s.iss.st.sreg a) w (s.iss.st.sreg (a + 1)) (failed [(bad, s.badOperand)] ++ s.poisonChecks [a, a + 1, b]) [] []

/-- The dimension-mapping word (R205). -/
structure Dmw where
  perm : List Nat
  split : BitVec 8
  splitF : List Nat
  merge : BitVec 15
  nsrc : Nat
  eclass : Nat
  top : Bool
  deriving DecidableEq, Repr

/-- The fields of a DMW, low word first. -/
def dmwOf (lo hi : Word) : Dmw :=
  { perm := digits 4 16 lo.toNat, split := hi.extractLsb' 0 8, splitF := digits 4 8 (wbits hi 8 32), merge := hi.extractLsb' 40 15,
    nsrc := wbits hi 55 4, eclass := wbits hi 59 4, top := wbits hi 63 1 == 1 }

/-- Whether the command works on bit planes (R205). -/
def Dmw.planes (w : Dmw) : Bool := w.eclass == 1

/-- The extents of the source atoms (R206): the plane atom, then one or two atoms for each source dimension of extents `es`. -/
def Dmw.atoms (w : Dmw) (bSrc : Nat) (es : List Nat) : List Nat :=
  (if w.planes then [bSrc] else []) ++ (es.zipIdx.flatMap fun e =>
    if w.split.getLsbD e.2 then [2 ^ w.splitF.getD e.2 0, e.1 / 2 ^ w.splitF.getD e.2 0] else [e.1])

/-- Number of atoms, from the words alone (R206). -/
def Dmw.count (w : Dmw) : Nat :=
  (if w.planes then 1 else 0) + (List.range (w.nsrc + 1)).foldl (fun n i => n + if w.split.getLsbD i then 2 else 1) 0

/-- Groups of destination atoms (R206): `ext` are their extents; each group is a dimension, its atoms innermost first. -/
def mergeGroups (merge : BitVec 15) : List Nat → Nat → List (List Nat)
  | [], _ => []
  | [e], _ => [[e]]
  | e :: f :: l, j =>
    match mergeGroups merge (f :: l) (j + 1) with
    | g :: gs => if merge.getLsbD j then (e :: g) :: gs else [e] :: g :: gs
    | [] => [[e]]

/-- The extents of the destination atoms. -/
def Dmw.destAtoms (w : Dmw) (src : List Nat) : List Nat := (w.perm.take src.length).map fun p => src.getD p 0

/-- The destination dimensions, each as its atoms' extents. -/
def Dmw.groups (w : Dmw) (src : List Nat) : List (List Nat) := mergeGroups w.merge (w.destAtoms src) 0

/-- Order 4 of R209: the DMW by itself. -/
def Dmw.bad (w : Dmw) : Bool :=
  let a := w.count
  w.top || 2 ≤ w.eclass ||
  ((List.range 8).any fun i => (w.split.getLsbD i && w.nsrc < i) || (w.splitF.getD i 0 != 0) != w.split.getLsbD i) || 16 < a ||
  !((List.range a).all fun k => (w.perm.take a).contains k) || (w.perm.drop a).any (· != 0) ||
  ((List.range 15).any fun j => a - 1 ≤ j && w.merge.getLsbD j) || (w.planes && w.merge.getLsbD 0)

/-- Order 5 of R209: the shapes of the two views. -/
def Dmw.shapeBad (w : Dmw) (src dst : Bound) : Bool :=
  let es := src.view.dims.map (·.ext)
  let atoms := w.atoms (codeWidth src.desc.fmt) es
  let dims := (w.groups atoms).map fun g => g.foldl (· * ·) 1
  let dd := dst.view.dims.map (·.ext)
  es.length != w.nsrc + 1 || (es.zipIdx.any fun e => w.split.getLsbD e.2 && e.1 % 2 ^ w.splitF.getD e.2 0 != 0) ||
  (if w.planes then 9 < dims.length || dims.tail != dd || dims.headD 0 != codeWidth dst.desc.fmt else 8 < dims.length || dims != dd)

/-- The atom values that make an index of a dimension (R207), innermost first. -/
def splitIndex : List Nat → Nat → List Nat
  | [], _ => []
  | [_], v => [v]
  | e :: f :: l, v => v % e :: splitIndex (f :: l) (v / e)

/-- The source atoms' values from the destination's (R206): source atom `k` feeds the destination atom that names it. -/
def Dmw.sourceAtoms (w : Dmw) (n : Nat) (dest : List Nat) : List Nat :=
  (List.range n).map fun k => match findIdx (· == k) (w.perm.take n) 0 with
    | some (j, _) => dest.getD j 0
    | none => 0

/-- The source index from the source atoms: dimension by dimension. -/
def Dmw.joinSource (w : Dmw) : List Nat → Nat → List Nat → List Nat
  | [], _, _ => []
  | _ :: es, i, at_ =>
    if w.split.getLsbD i then
      (at_.getD 0 0 + 2 ^ w.splitF.getD i 0 * at_.getD 1 0) :: w.joinSource es (i + 1) (at_.drop 2)
    else at_.getD 0 0 :: w.joinSource es (i + 1) (at_.drop 1)

/-- The source plane and source index that feed a destination index (R207): the mapping read backwards. -/
def Dmw.source (w : Dmw) (bSrc : Nat) (es y : List Nat) : Nat × List Nat :=
  let atoms := w.atoms bSrc es
  let dest := ((w.groups atoms).zip y).flatMap fun g => splitIndex g.1 g.2
  let src := w.sourceAtoms atoms.length dest
  if w.planes then (src.headD 0, w.joinSource es 0 src.tail) else (0, w.joinSource es 0 src)

/-- The traversal number of an index of a view (R129). -/
def traversal : List VDim → List Nat → Nat
  | d :: l, x :: y => x + d.ext * traversal l y
  | _, _ => 0

/-- CONV of an LCW (R203). -/
def lcwConv (w : Word) : Nat := wbits w 28 8
/-- RM of an LCW. -/
def lcwRm (w : Word) : Nat := wbits w 36 3

/-- Orders 4 to 8 of R209. Order 7 holds in bit-plane mode too: R208 ignores a rounding mode there, and a reserved code is none (R35;
log 85). -/
def layoutCheck (w : Dmw) (conv rm : Nat) (src dst : Bound) : Option Cause :=
  if w.bad then some .engLayoutDmw
  else if w.shapeBad src dst then some .engLayoutShape
  else if (if w.planes then conv != 0 || isMx src.desc.fmt || isMx dst.desc.fmt
      else !convOk conv src.desc.fmt dst.desc.fmt || (isMx dst.desc.fmt && !mxTargetOk dst.view)) then some .engLayoutFmt
  else if (RMode.ofCode rm).isNone then some .engCmdRm
  else if !dst.view.injective dst.desc then some .engViewAlias
  else none

/-- Binds the two views of a LAYOUT (orders 2 and 3 of R209). -/
def State.layoutBind (s : State) (x : Context) (old : Nat) (a b : View) : Except Cause (Bound × Bound) :=
  match s.bindView x old a, s.bindView x old b with
  | .ok p, .ok q => .ok (p, q)
  | .error .engDesc, _ | _, .error .engDesc => .error .engDesc
  | .error e, _ | _, .error e => .error e

/-- A LAYOUT whose views are read starts or faults. -/
def State.layoutBegin (s : State) (x : Context) (old : Nat) (c : Cmd) (a b : View) (pois : Bool) : State :=
  match s.layoutBind x old a b with
  | .error e => s.startFault c e
  | .ok (p, q) =>
    match layoutCheck (dmwOf c.w0 c.w2) (lcwConv c.w1) (lcwRm c.w1) p q with
    | some e => s.startFault c e
    | none =>
      if pois then s.startPoison c
      else s.begin { c with src := some (.view p), dst := some (.view q) } ((q.view.count + 1023) / 1024)

/-- Start of a strand's LAYOUT (R204, R209). -/
def State.layoutStart (s : State) (x : Context) (t : Team) (old : Nat) (c : Cmd) : State :=
  if !t.rangeOk (cpwEadr c.w1) 256 then s.startFault c .engRingRange
  else
    let p := s.copyPair t c.w1
    s.layoutBegin x old c (viewOf p.1.1) (viewOf p.1.2) p.2

/-- Plane `q` of the source element of traversal number `i` (R32, R208), with the poison of the granule it stands in (R211). -/
def State.planeBit (s : State) (x : Context) (old : Nat) (fetched : Fetched) (src : Bound) (q i : Nat) :
    Except Stop ((Nat × Option (Nat × Nat)) × List Touch) :=
  if src.desc.lay = 1 then
    if src.view.pln != 0 && src.view.pln ≤ q then .ok ((0, none), [])
    else
      let (bn, e) := src.desc.block (src.at_ i)
      match s.readGranule x old fetched src.view.tid src.desc (bn * src.desc.planes + q) (e / 512) with
      | .error e => .error e
      | .ok g => .ok ((bits g.val (e % 512) 1, g.pois), g.touched)
  else match s.viewElem x old fetched src i with
    | .error e => .error e
    | .ok (e, t) => .ok ((bits e.val (codeWidth src.desc.fmt - 1 - q) 1, e.pois), t)

/-- A destination element in bit-plane mode (R207, R208): each of its planes from a plane of a source element. -/
def State.planeElem (s : State) (x : Context) (old : Nat) (fetched : Fetched) (w : Dmw) (src dst : Bound) (n : Nat) :
    Except Stop (Elem × List Touch) :=
  let bs := codeWidth src.desc.fmt
  let bd := codeWidth dst.desc.fmt
  let es := src.view.dims.map (·.ext)
  match mapStop (fun p =>
      let (q, i) := w.source bs es (p :: indexOf dst.view.dims n)
      match s.planeBit x old fetched src q (traversal src.view.dims i) with
      | .error e => .error e
      | .ok (b, t) => .ok ((b.1 * 2 ^ (bd - 1 - p), b.2), t)) (List.range bd) with
  | .error e => .error e
  | .ok (l, t) => .ok ({ val := l.foldl (fun a b => a + b.1) 0, scale := 127, pois := l.foldl (fun a b => a.or b.2) none }, t)

/-- The step of a LAYOUT (R207, R212): up to 1,024 destination elements. -/
def State.layoutStep (s : State) (x : Context) (old : Nat) (c : Cmd) : State :=
  match c.src, c.dst with
  | some (.view src), some (.view dst) =>
    let w := dmwOf c.w0 c.w2
    let n0 := 1024 * c.xpc
    let es := src.view.dims.map (·.ext)
    match mapStop (fun i =>
        if w.planes then s.planeElem x old c.fetched w src dst (n0 + i)
        else s.viewElem x old c.fetched src
          (traversal src.view.dims (w.source 0 es (indexOf dst.view.dims (n0 + i))).2))
        (List.range (min 1024 (dst.view.count - n0))) with
    | .error (.raise r) => s.accessRaise c.id r
    | .error (.peer d p g) => s.fetchGranule c.id x.num d p g
    | .ok (l, tch) =>
      let l := if w.planes then l else convertElems src.desc.fmt dst.desc.fmt ((RMode.ofCode (lcwRm c.w1)).getD .rne)
        (wbits c.w1 39 1 == 1) c.draw n0 l
      (s.noteTouches x c.id tch).putView x old c dst n0 l none
  | _, _ => s

/-! ### Conversion at issue -/

/-- The state once the core stores of a team that are on their way have performed. -/
def State.storesDone (s : State) (t : Team) : State :=
  ((s.teamStrands t.id).flatMap (·.stores)).foldl (fun s w => s.performStore t w) s

/-- Whether a COPY or LAYOUT issued under SR converts, so that SRCTR advances (R40): the source format is the one its endpoint pair or view
pair names once the core stores issued before have performed. -/
def State.convertsAtIssue (s : State) (t : Team) (c : Cmd) : Bool :=
  match s.context c.ctx with
  | none => false
  | some x =>
    let s := s.storesDone t
    let w := if c.op == .copy then c.w0 else c.w1
    let conv := if c.op == .copy then cpwConv w else lcwConv w
    let rm := if c.op == .copy then cpwRm w else lcwRm w
    let kind := if c.op == .copy then wbits w 28 2 else 0
    (c.op == .copy || c.op == .layout) && rm == 4 && conv != 0 && t.rangeOk (cpwEadr w) 256 &&
    (match rawEnd kind (s.copyPair t w).1.1 with
      | .view v => match s.descOf x s.choice v.tid with
        | some (d, _) => d.fmt != conv
        | none => false
      | .ring _ _ f _ _ | .peer _ _ f _ _ _ => f != conv
      | .bad => false)

/-! ### SCAT -/

/-- IADR of a stream word (R227). -/
def scatIadr (w : Word) : BitVec 28 := w.extractLsb' 0 28
/-- VADR of a stream word. -/
def scatVadr (w : Word) : BitVec 28 := w.extractLsb' 28 28
/-- TADR of a target word. -/
def scatTadr (w : Word) : BitVec 28 := w.extractLsb' 36 28
/-- OP of a stream word. -/
def scatOp (w : Word) : Nat := wbits w 56 3
/-- Whether the target is a view. -/
def scatView (w : Word) : Bool := wbits w 61 1 == 1
/-- COUNT of a target word. -/
def scatCount (w : Word) : Nat := wbits w 0 20

/-- TYPE of a stream word, as a format code; 0 for the reserved one. -/
def scatFmt (w : Word) : Nat :=
  match wbits w 59 2 with
  | 0 => 1
  | 1 => 3
  | 2 => 7
  | _ => 0

/-- SCAT (R227). -/
def execScat (t a b : BitVec 6) (s : State) : Host.Outcome State Fault Refusal :=
  let w := s.iss.st.sreg a
  let bad := 3 ≤ scatOp w || scatFmt w == 0 || wbits w 62 2 != 0 || wbits w 0 28 % 4 != 0 ||
    (scatFmt w != 0 && wbits w 28 28 % codeBytes (scatFmt w) != 0)
  s.engineIssue .scat t w (s.iss.st.sreg b) 0 (failed [(bad, s.badOperand)] ++ s.poisonChecks [a, b]) [] []

/-- Start of a SCAT (R229). -/
def State.scatStart (s : State) (x : Context) (t : Team) (old : Nat) (c : Cmd) : State :=
  let n := scatCount c.w1
  let sz := codeBytes (scatFmt c.w0)
  if !t.rangeOk (scatIadr c.w0) (4 * n) || !t.rangeOk (scatVadr c.w0) (sz * n) ||
      !t.rangeOk (scatTadr c.w1) (if scatView c.w0 then 128 else sz) then s.startFault c .engRingRange
  else if scatView c.w0 then
    match s.ringView x t old (scatTadr c.w1) with
    | .error e => s.startFault c e
    | .ok (b, pois) =>
      if b.desc.fmt != scatFmt c.w0 then s.startFault c .engScatFmt
      else if pois then s.startPoison c
      else if n = 0 then s.finish c.id 0
      else s.begin { c with dst := some (.view b) } ((n + 63) / 64)
  else if wbits c.w1 20 16 == 65535 then s.startFault c .engSeq
  else if n = 0 then s.finish c.id 0
  else s.begin c ((n + 63) / 64)

/-- The merged values of a window (R53): each distinct index in order of its first appearance, its value and whether it is poisoned. -/
def scatMerge (f : Fmt) (op : Nat) : List (Nat × Nat × Bool) → List (Nat × Nat × Bool) → List (Nat × Nat × Bool)
  | [], acc => acc
  | (i, v, p) :: l, acc =>
    scatMerge f op l (if acc.any (·.1 == i) then
      acc.map fun e => if e.1 = i then (i, combine f op e.2.1 v, e.2.2 || p) else e
    else acc ++ [(i, v, p)])

/-- The last window in which an index whose element lies in a parcel is updated sets the parcel's tag; a window sets the tags of the
parcels it is the last to touch (R160, R228): whether a later window touches parcel `p`. -/
def State.scatLater (s : State) (t : Team) (c : Cmd) (p : Nat) : Bool :=
  let sz := codeBytes (scatFmt c.w0)
  let n := scatCount c.w1
  (List.range (n - 64 * (c.xpc + 1))).any fun i =>
    let x := (s.ringGet t (scatIadr c.w0) false (4 * (64 * (c.xpc + 1) + i)) 4).1
    (eaOff (scatTadr c.w1) + x * sz) / 4096 ≤ p && p ≤ (eaOff (scatTadr c.w1) + x * sz + sz - 1) / 4096

/-- One ring update of a SCAT (R228). -/
def State.scatRing (s : State) (t : Team) (c : Cmd) (e : Nat × Nat × Bool) : State :=
  let f := scatFmt c.w0
  s.queueUpdate c.id t (scatTadr c.w1) false (e.1 * codeBytes f) f (scatOp c.w0) (bytesOf (codeBytes f) e.2.1) e.2.2

/-- The tags a window of a SCAT sets (R160): those of the parcels it is the last to touch. -/
def State.scatTags (s : State) (t : Team) (c : Cmd) (l : List (Nat × Nat × Bool)) : State :=
  let sz := codeBytes (scatFmt c.w0)
  let a := scatTadr c.w1
  let ps := (l.flatMap fun e => (List.range sz).map fun i => (eaOff a + e.1 * sz + i) / 4096).eraseDups
  ps.foldl (fun s p => if s.scatLater t c p then s else s.queueTag c.id t a p (c.w1.extractLsb' 20 16) false) s

/-- A window of a SCAT (R228, R229, R448). -/
def State.scatStep (s : State) (x : Context) (old : Nat) (c : Cmd) (t : Team) : State :=
  match Fmt.ofCode (scatFmt c.w0) with
  | none => s
  | some f =>
    let sz := codeBytes (scatFmt c.w0)
    let pos := (List.range (min 64 (scatCount c.w1 - 64 * c.xpc))).map fun i => 64 * c.xpc + i
    let idx := pos.map fun i => s.ringGet t (scatIadr c.w0) false (4 * i) 4
    let vals := pos.map fun i => s.ringGet t (scatVadr c.w0) false (sz * i) sz
    let l := scatMerge f (scatOp c.w0) ((idx.zip vals).map fun e => (e.1.1, e.2.1, e.2.2)) []
    if idx.any (·.2) then s.accessRaise c.id (.of .poisonConsume .access 1)
    else match c.dst with
      | some (.view b) =>
        if l.any fun e => b.view.count ≤ e.1 then s.accessRaise c.id (.of .engScatIndex .access 0)
        else
          match s.nmElems x old c b { fmt := scatFmt c.w0, rop := scatOp c.w0, alpha := 0 }
              (l.map fun e => (e.1, { val := e.2.1, scale := 127, pois := if e.2.2 then some (x.num, 1) else none })) with
          | (s', some r) => s'.accessRaise c.id r
          | (s', none) => s'.stepped c.id
      | _ =>
        if l.any fun e => !t.rangeOk (scatTadr c.w1) ((e.1 + 1) * sz) then s.accessRaise c.id (.of .engScatIndex .access 0)
        else ((l.foldl (fun s e => s.scatRing t c e) s).scatTags t c l).stepped c.id

end Sys2Proof.Machine
end

