-- ==== Sys2Proof/Machine/Collective.lean ====
section
/-! DEFINITION. The translation engine (PROBE, R139, R429 to R432, and the step of TSHOOT, R137), the scheduler's commands LEASE,
UNLEASE and LAUNCH at issue and start (R392, R400, R401, R465, R466), and the collective engine (R230 to R233, R364, R365). -/

namespace Sys2Proof.Machine

/-! ### PROBE and TSHOOT -/

/-- The first slot of the bundle that R431 does not allow beside a PROBE: neither a NOP nor a prefix of it. -/
def State.probeOther (s : State) : Option (Nat × BitVec 32) :=
  ((s.iss.words.zipIdx).find? fun e => e.2 != s.iss.slot && !(wordClass e.1 == 7 && wordOp e.1 ≤ 3)).map fun e => (e.2, e.1)

/-- The operand checks of PROBE and PROBE.req (R429). -/
def State.probeChecks (s : State) (a : BitVec 6) : List Raised :=
  let w := s.iss.st.sreg a
  failed [(wbits w 28 36 != 0 || wbits w 0 6 != 0, s.badOperand)] ++ s.poisonChecks [a]

/-- PROBE (R430, R431): in timed mode, an illegal instruction. -/
def execProbe (t a : BitVec 6) (s : State) : Host.Outcome State Fault Refusal :=
  s.engineIssue .probe t (s.iss.st.sreg a) 0 0
    ((match s.probeOther with
        | some (i, w) => [{ s.badOperand with slot := i, detail := BitVec.ofNat 64 w.toNat }]
        | none => []) ++ s.probeChecks a) s.pacedOnly []

/-- PROBE.req (R430). -/
def execProbeReq (t a : BitVec 6) (s : State) : Host.Outcome State Fault Refusal :=
  s.engineIssue .probeReq t (s.iss.st.sreg a) 0 0 (s.probeChecks a) [] []

/-- Start of a PROBE or PROBE.req (R430). -/
def State.probeStart (s : State) (x : Context) (t : Team) (old : Nat) (c : Cmd) : State :=
  match s.ringView x t old (viewAddr c.w0) with
  | .error e => s.startFault c e
  | .ok (b, pois) => if pois then s.startPoison c else s.begin { c with dst := some (.view b) } 1

/-- The table indices an element of a view reaches with the granule it lies in (R430). -/
def Bound.indices (b : Bound) (n : Nat) : List (Nat × Nat) :=
  let (bn, e) := b.desc.block (b.at_ n)
  if b.desc.lay = 1 then
    (List.range (if b.view.pln = 0 then b.desc.planes else b.view.pln)).map fun q => (bn * b.desc.planes + q, e / 512)
  else [(bn, b.desc.offset e / 64)]

/-- The first failing table index of a view in traversal order (R139, R430), from element `n` on. -/
def State.probeMiss (s : State) (x : Context) (old : Nat) (b : Bound) : Nat → Nat → Option (Nat × Nat)
  | 0, _ => none
  | k + 1, n =>
    match (b.indices n).find? fun i => match s.mapping x old b.view.tid b.desc i.1 i.2 with
        | .ok _ => false
        | .error _ => true with
    | some i => some i
    | none => s.probeMiss x old b k (n + 1)

/-- What the table reads of a PROBE leave in the caches and the sketch (R126, R135, R147): of every index up to the first that fails. -/
def State.probeNote (s : State) (x : Context) (old tower : Nat) (b : Bound) : State :=
  let l := (List.range b.view.count).flatMap b.indices
  let ok (i : Nat × Nat) : Bool := match s.mapping x old b.view.tid b.desc i.1 i.2 with
    | .ok _ => true
    | .error _ => false
  let u := (l.takeWhile ok).foldl (fun u i => u.cacheEntry x tower b.view.tid b.desc i.1) s
  s.tracesOf (((l.dropWhile ok).take 1).foldl (fun u i => u.touchEntry x tower b.desc i.1) u)

/-- The one step of a PROBE or PROBE.req (R139, R430). -/
def State.probeStep (s : State) (x : Context) (old : Nat) (c : Cmd) : State :=
  match c.dst with
  | some (.view b) =>
    let miss := s.probeMiss x old b b.view.count 0
    let s := s.probeNote x old c.tower b
    match miss with
    | none => s.finish c.id 0
    | some (t, g) =>
      let d := entryDetail b.view.tid t g
      if c.op == .probe then (s.commandFault { c with again := true } (.of .probeMiss .access d))
      else (s.logEvent x.num (s.cmdGrid c) (s.eventRecord c (.of .eventResidency .access d))).finish c.id 5
  | _ => s

/-- Drops what the device has cached of a tensor of a context (R137). -/
def State.dropCached (s : State) (ctx tid : Nat) : State :=
  { s with cached := s.cached.filter fun e => !(e.ctx == ctx && e.tid == tid) }

/-- Whether a request to a peer was sent under a translation of a context before request number `n`. -/
def State.usesOld (s : State) (ctx n : Nat) (o : Outstanding) : Bool :=
  o.ctx == ctx && o.id < n && match o.what with
    | .page _ _ | .pageWrite => true
    | .own => (s.cmd o.cmd).any (·.op == .nmcas)
    | _ => false

/-- The one step of a TSHOOT (R137, R462): the cached descriptor and translations are dropped, and the command is done once every request to
a page of a peer that was out by then has performed. -/
def State.tshootStep (s : State) (c : Cmd) : State :=
  match c.sent with
  | none =>
    let n := s.fabric.nextReq
    let s := s.dropCached c.ctx (wbits c.w0 0 20)
    if s.fabric.outstanding.any (s.usesOld c.ctx n) then s.setCmd { c with sent := some n } else s.finish c.id 0
  | some n => if s.fabric.outstanding.any (s.usesOld c.ctx n) then s else s.finish c.id 0

/-! ### LEASE, UNLEASE, LAUNCH -/

/-- The band claim a band word names on the team tower of a strand (R401). -/
def Team.claimOf (t : Team) (strand : Nat) (w : Word) : Option Nat :=
  (findIdx (fun k => k.btw == strand / 4 && k.mask == bandMask w && k.trk == bandTrk w) t.claims 0).map (·.1)

/-- LEASE (R400, R401): a paced strand is held from this bundle on until the lease is granted; in timed mode a lease not held is a
SCHEDULE WAIT. -/
def execLease (t a : BitVec 6) (s : State) : Host.Outcome State Fault Refusal :=
  let w := s.iss.st.sreg a
  let claim := s.iss.tm.claimOf s.iss.st.index w
  let unheld : Bool := match claim with
    | some i => !((s.iss.tm.claims[i]?).any fun k => k.heldAt s.iss.tm.tcyc)
    | none => false
  s.engineIssue .lease t w 0 0 (failed [(bandBad w, s.badOperand)] ++ s.poisonChecks [a])
    (failed [(s.isTimed && unheld, s.waitFault 5)]) (if unheld then [.hold (.lease (claim.getD 0))] else [])

/-- UNLEASE (R465, R466). -/
def execUnlease (t a : BitVec 6) (s : State) : Host.Outcome State Fault Refusal :=
  let w := s.iss.st.sreg a
  s.engineIssue .unlease t w 0 0 (failed [(bandBad w, s.badOperand)] ++ s.poisonChecks [a]) [] []

/-- LAUNCH (R392, R393): whether its entry finds room is judged when the bundle is resolved. -/
def execLaunch (t a : BitVec 6) (s : State) : Host.Outcome State Fault Refusal :=
  s.engineIssue .launch t (s.iss.st.sreg a) 0 0 (s.poisonChecks [a]) [] []

/-- ENGINE BAND: no claim matches a band word (R197, R287). -/
def bandFault (w : Word) : Raised := startRaised .engBand (wbits w 0 18)

/-- Whether a LEASE may start: its team goes on, the commands its fences name are done and, in paced code, its consumed tokens are. -/
def State.leaseReady (s : State) (t : Team) (c : Cmd) : Bool :=
  c.st == .queued && t.before && s.ticks c.tower && s.fencesDone c && (c.timed || s.tokensDone c.team c.strand c.deps)

/-- The paced LEASE that is issued makes its request in its issue cycle (R197, R401): a claim that is not HELD waits from then on. -/
def State.leaseRequest (s : State) (c : Cmd) : State :=
  match s.team c.team with
  | none => s
  | some t => match t.claimOf c.strand c.w0 with
    | none => s
    | some i => match t.claims[i]? with
      | some k =>
        if c.timed || k.heldAt t.tcyc || k.st == .waiting || k.st == .replaying then s
        else s.setTeam { t with claims := t.claims.set i { k with st := .waiting, reqCyc := s.cyc, reqCore := c.core } }
      | none => s

/-- Start of a LEASE: of a lease held, it completes; else its request waits for a grant (R197, R401). It expands in no steps while it waits, so
it has no entry in the XPC list (R80; log 86). -/
def State.leaseStart (s : State) (t : Team) (c : Cmd) : State :=
  match t.claimOf c.strand c.w0 with
  | none => s.commandFault c (bandFault c.w0)
  | some i =>
    match t.claims[i]? with
    | some k =>
      if k.heldAt t.tcyc then s.finish c.id 0
      else
        let s := s.setCmd { c with st := .running, again := true, start := t.tcyc, startCyc := s.cyc }
        if k.st == .waiting || k.st == .replaying then s
        else s.setTeam { t with claims := t.claims.set i { k with st := .waiting, reqCyc := s.cyc, reqCore := c.core } }
    | none => s

/-- Whether an UNLEASE may start (R466): its team's earlier cube commands have fed their last step, its loads are complete. -/
def State.unleaseReady (s : State) (t : Team) (c : Cmd) : Bool :=
  c.st == .queued && t.before && s.ticks c.tower && c.issuedTc + 1 ≤ t.tcyc && s.fencesDone c &&
  (c.timed || s.tokensDone c.team c.strand c.deps) &&
  !(({ s with cmds := s.cmds.filter (·.team == c.team) } : State).trackBlocked { c with w1 := c.w0 } true true)

/-- Start of an UNLEASE: the lease becomes FREE at the end of the cycle (R466). -/
def State.unleaseStart (s : State) (t : Team) (c : Cmd) : State :=
  match t.claimOf c.strand c.w0 with
  | none => s.commandFault c (bandFault c.w0)
  | some i =>
    match t.claims[i]? with
    | some k =>
      (s.setTeam { t with claims := t.claims.set i (if k.st == .held || k.st == .expired then { k with st := .free, budget := .none } else k) }).finish c.id 0
    | none => s

/-! ### COLL -/

/-- KIND of a collective word (R230). -/
def collKind (w : Word) : Nat := wbits w 8 3
/-- ROP of a collective word. -/
def collRop (w : Word) : Nat := wbits w 11 2
/-- ARM of a collective word. -/
def collArm (w : Word) : Bool := wbits w 13 1 == 1
/-- Number of buckets of a collective word. -/
def collBuckets (w : Word) : Nat := wbits w 14 12 + 1

/-- COLL (R230). -/
def execColl (t a b : BitVec 6) (s : State) : Host.Outcome State Fault Refusal :=
  let w := s.iss.st.sreg a
  let v := s.iss.st.sreg b
  let bad := wbits w 28 36 != 0 || wbits w 0 8 != 0 || 4 ≤ collKind v || collRop v == 3 || wbits v 34 30 != 0
  s.engineIssue .coll t w v 0 (failed [(bad, s.badOperand)] ++ s.poisonChecks [a, b]) [] []

/-- The members of a group in increasing device id (R231). -/
def groupMembers (g : BitVec 256) : List Nat := (List.range 256).filter g.getLsbD

/-- The members of the group of a collective command, from the scheduler's copy (R88), which it keeps once it has started. -/
def State.collGroup (s : State) (c : Cmd) : List Nat := groupMembers (s.groupOf c.ctx (wbits c.w1 0 8))

/-- Extent of the outermost dimension of a view. -/
def View.outer (v : View) : Nat := (v.dims.getLastD { ext := 1, str := 0, td := 0 }).ext

/-- The divisibility rules of R232. -/
def collShapeBad (w : Word) (e n : Nat) : Bool :=
  let b := collBuckets w
  e % b != 0 || ((collKind w == 1 || collKind w == 2) && e % (n * b) != 0)

/-- The flag words of a COLL (R230), with the descriptor of their tensor (R126): none without ARM, and none as FLAGS is malformed. -/
def State.collFlags (s : State) (x : Context) (old : Nat) (c : Cmd) (flags : Word) : Option Bound :=
  if !collArm c.w1 then none
  else match s.structAt x old flags (8 * collBuckets c.w1) 8 with
    | .ok (tid, off, d) => some (bytesBound tid off (8 * collBuckets c.w1) d)
    | .error _ => none

/-- The start checks of a COLL in the order of R365: the binding of BUF, the flag words, and whether the block is poisoned. ROOT is a member
whatever KIND is (R232). -/
def State.collCheck (s : State) (x : Context) (t : Team) (old : Nat) (c : Cmd) : Except Cause (Bound × Option Bound × Bool) :=
  let a := viewAddr c.w0
  if !t.rangeOk a 256 then .error .engRingRange
  else
    let g := s.ringGet t a false 0 256
    let flags : Word := BitVec.ofNat 64 (bits g.1 1024 64)
    let fb := s.collFlags x old c flags
    let members := s.collGroup c
    if bits g.1 1088 960 != 0 || collArm c.w1 == (flags == 0) || collArm c.w1 != fb.isSome then .error .engCollShape
    else if !members.contains s.fabric.devid || !members.contains (wbits c.w1 26 8) then .error .engGroup
    else match s.bindView x old (viewOf (g.1 % 2 ^ 1024)) with
      | .error e => .error e
      | .ok b =>
        let f := b.desc.fmt
        if collShapeBad c.w1 b.view.outer members.length then .error .engCollShape
        else if collKind c.w1 ≤ 1 && !(f == 1 || f == 2 || f == 3 || f == 7) then .error .engCollFmt
        else if !b.view.injective b.desc then .error .engViewAlias
        else .ok (b, fb, g.2)

/-- A message of a COLL (R232). -/
def State.collMessage (s : State) (c : Cmd) (seq fmt count bucket : Nat) (data : List Byte) (pois : List Bool) (abort : Bool) :
    CollRequest :=
  { dev := s.fabric.devid, ctx := c.ctx, group := wbits c.w1 0 8, seq, word := c.w1, fmt, count, bucket, data, pois, abort }

/-- Sends a message to every other member, an untimed request of the command to each (R234, R270), and holds it as this device's own. -/
def State.collSend (s : State) (cid : Nat) (members : List Nat) (r : CollRequest) : State :=
  let s := { s with fabric := { s.fabric with colls := s.fabric.colls ++ [r] } }
  (members.filter (· != s.fabric.devid)).foldl (fun s d =>
    s.sendRequest cid r.ctx d 0 .message true 0 { UntimedRequest.blank with size := r.data.length, data := r.data, body := .collective r }) s

/-- Counts a COLL of a context on a group and answers its number (R232). -/
def State.collCount (s : State) (x : Context) (g : Nat) : State × Nat :=
  let k := SMap.get 0 x.collCount g + 1
  (s.setContext { x with collCount := SMap.set 0 x.collCount g k }, k)

/-- Whether two members' commands match (R232): KIND, B, ROP, ROOT, FMT and element count. -/
def collMatches (w v : Word) (f1 f2 n1 n2 : Nat) : Bool :=
  collKind w == collKind v && collBuckets w == collBuckets v && collRop w == collRop v && wbits w 26 8 == wbits v 26 8 && f1 == f2 && n1 == n2

/-- The messages held of other members for a COLL of this device. -/
def State.collOf (s : State) (ctx group seq : Nat) : List CollRequest :=
  s.fabric.colls.filter fun r => r.ctx == ctx && r.group == group && r.seq == seq && r.dev != s.fabric.devid

/-- What the messages held say of a running COLL: an abort, or a mismatch (R232). -/
def State.collVerdict (s : State) (c : Cmd) (fmt count seq : Nat) : Option Cause :=
  let l := s.collOf c.ctx (wbits c.w1 0 8) seq
  if l.any (·.abort) then some .engFabTimeout
  else if l.any fun r => !collMatches c.w1 r.word fmt r.fmt count r.count then some .engCollMismatch
  else none

/-- A COLL that faults at its start counts, and its engine answers the other members' requests with an abort (R232). -/
def State.collAbort (s : State) (x : Context) (c : Cmd) : State :=
  let members := s.collGroup c
  let (s, k) := s.collCount x (wbits c.w1 0 8)
  s.collSend c.id members (s.collMessage c k 0 0 0 [] [] true)

/-- Start of a COLL (R232, R365): it keeps the members it has read (R88) and tells them of its start, or that it ends. -/
def State.collStart (s : State) (x : Context) (t : Team) (old : Nat) (c : Cmd) : State :=
  let members := s.collGroup c
  match s.collCheck x t old c with
  | .error e => (s.collAbort x c).startFault c e
  | .ok (b, flags, pois) =>
    if pois then (s.collAbort x c).startPoison c
    else if 1 < members.length && !s.fabric.joined then s.finish c.id 5
    else
      let (s, k) := s.collCount x (wbits c.w1 0 8)
      let s := s.collSend c.id members (s.collMessage c k b.desc.fmt b.view.count (collBuckets c.w1) [] [] false)
      match s.collVerdict c b.desc.fmt b.view.count k with
      | some e => s.startFault c e
      | none => s.begin { c with src := some (.view b), dst := flags.map .view, sent := some k, members } (collBuckets c.w1)

/-- The number of a running COLL among those of its context on its group. -/
def State.collSeq (s : State) (c : Cmd) : Nat := c.sent.getD ((s.context c.ctx).elim 0 fun x => SMap.get 0 x.collCount (wbits c.w1 0 8))

/-- Traversal range of a bucket: first index and number (R231). -/
def collRange (v : View) (w : Word) (b : Nat) : Nat × Nat :=
  let e := v.outer
  let inner := v.count / max 1 e
  let n := collBuckets w
  (inner * (b * e / n), inner * ((b + 1) * e / n - b * e / n))

/-- Bytes of an element in a message: its code and, for an MX format, its scale. -/
def Elem.pack (e : Elem) (fmt : Nat) : List Byte :=
  bytesOf ((codeWidth fmt + 7) / 8) e.val ++ (if isMx fmt then bytesOf 1 e.scale else [])

/-- The elements of a message. -/
def unpackElems (fmt : Nat) (data : List Byte) (pois : List Bool) (n : Nat) : List Elem :=
  let sz := (codeWidth fmt + 7) / 8
  let w := if isMx fmt then sz + 1 else sz
  (List.range n).map fun i =>
    { val := natOf ((data.drop (w * i)).take sz), scale := if isMx fmt then natOf ((data.drop (w * i + sz)).take 1) else 127,
      pois := if pois.getD i false then some (0, 1) else none }

/-- The flag word of a bucket, through the descriptor read at the start (R126): whether it lets the bucket start (R233), or the poison it holds.
FLAGS stands in local HBM (R230). -/
def State.collFlag (s : State) (x : Context) (c : Cmd) (b : Nat) : Except Raised Bool :=
  match c.dst with
  | some (.view f) =>
    let off := f.view.org.headD 0 + 8 * b
    match s.wordPlace x f.view.tid off f.desc with
    | .error r => .error r
    | .ok (.page _ v) => .ok (bits v (8 * (off % 64)) 64 != 0)
    | .ok _ => .ok false
  | _ => .ok true

/-- The flag word of a bucket advances by 2^32, with release semantics (R233). -/
def State.flagAdd (s : State) (x : Context) (c : Cmd) (b : Nat) : State :=
  match c.dst with
  | some (.view f) =>
    let off := f.view.org.headD 0 + 8 * b
    match s.structGranules x s.choice f.view.tid f.desc off 1 with
    | .error _ => s
    | .ok g =>
      match s.writeGranules x s.choice f.desc (structWrites f.view.tid f.desc off
          (bytesOf 8 ((bits g.val (8 * (off % 64)) 64 + 2 ^ 32) % 2 ^ 64)) none) [] [] with
      | (s', _, tch, none) => s'.noteList x 0 tch
      | _ => s
  | _ => s

/-- A bucket asks for a granule of a peer's page, unless one is on its way; what another bucket has fetched is dropped, so that every granule of
its elements is read after its own flag (R491). -/
def State.collFetch (s : State) (c : Cmd) (bucket dev page gran : Nat) : State :=
  if s.awaiting c.id then s
  else (s.setCmd (if c.fedAt = bucket + 1 then c else { c with fedAt := bucket + 1, fetched := [] })).fetchGranule c.id c.ctx dev page gran

/-- What the flag of a bucket that starts acquires (R246; log 93). -/
def State.flagHeard (s : State) (c : Cmd) : SMap Nat :=
  if c.dst.isNone then c.heard
  else (s.teamStrands c.team).foldl (fun m x => SMap.set 0 m x.index (max (SMap.get 0 m x.index) (x.released + 3))) c.heard

/-- COLL_BUCKET_START (R233): the local values of a bucket go to the other members. Without ARM, buckets start in order. -/
def execCollBucketStart (cmd bucket : Nat) (s : State) : Host.Outcome State Fault Refusal :=
  match s.cmd cmd with
  | none => .next s
  | some c =>
    match s.context c.ctx, c.src with
    | some x, some (.view v) =>
      if c.op == .coll && c.st == .running && !x.destroying && (s.team c.team).any Team.before && bucket < collBuckets c.w1 && !c.slots.contains bucket &&
          (collArm c.w1 || (List.range bucket).all c.slots.contains) then
        match s.collFlag x c bucket with
        | .error r => .next (s.accessRaise cmd r)
        | .ok false => .next s
        | .ok true =>
          let (n0, n) := collRange v.view c.w1 bucket
          match mapStop (fun i => s.viewElem x s.choice (if c.fedAt = bucket + 1 then c.fetched else []) v (n0 + i)) (List.range n) with
          | .error (.raise r) => .next (s.accessRaise cmd r)
          | .error (.peer d p g) => .next (s.collFetch c bucket d p g)
          | .ok (l, tch) =>
            let r := s.collMessage c (s.collSeq c) v.desc.fmt v.view.count bucket (l.flatMap fun e => e.pack v.desc.fmt)
              (l.map fun e => e.pois.isSome) false
            let s := s.setCmd { c with slots := c.slots ++ [bucket], heard := s.flagHeard c, fetched := if c.fedAt = bucket + 1 then [] else c.fetched }
            .next ((s.noteTouches x cmd tch).collSend cmd c.members r)
      else .next s
    | _, _ => .next s

/-- The result elements of a bucket on this member (R231), with which of them are written: by rank, the members' elements. -/
def collResult (w : Word) (fmt rank : Nat) (members : List Nat) (vals : List (List Elem)) (n : Nat) : List (Option Elem) :=
  let parts := max 1 members.length
  (List.range n).map fun i =>
    let col := vals.map fun l => l.getD i { val := 0, scale := 127, pois := none }
    let fold : Option Elem := match col with
      | [] => none
      | e :: l => some (l.foldl (fun a b => { val := match Fmt.ofCode fmt with | some f => combine f (collRop w) a.val b.val | none => 0,
                                              scale := 127, pois := a.pois.or b.pois }) e)
    let chunk := i / max 1 (n / parts)
    match collKind w with
    | 0 => fold
    | 1 => if chunk = rank then fold else none
    | 2 => col[chunk]?
    | _ => match findIdx (· == wbits w 26 8) members 0 with
      | some (j, _) => col[j]?
      | none => none

/-- The granule writes of those elements of a bucket that are written. -/
def collWrites (b : Bound) (n0 : Nat) (l : List (Option Elem)) : List GranuleWrite × List GranuleWrite :=
  l.zipIdx.foldl (fun w e =>
    match e.1 with
    | none => w
    | some x =>
      let (a, c) := viewWrites b (n0 + e.2) [x]
      (a.foldl (fun l g => mergeWrite g l) w.1, c.foldl (fun l g => mergeWrite g l) w.2)) ([], [])

/-- Whether results of a command are on their way to pages of peers. -/
def State.writing (s : State) (cid : Nat) : Bool := s.fabric.outstanding.any fun o => o.cmd == cid && o.what == .pageWrite

/-- The mark in a command's list of buckets done of one whose results are on their way to pages of peers. -/
def bucketSent (bucket : Nat) : Nat := 4096 + bucket

/-- Every result of a bucket has performed: its flag advances and, with the last one, the command completes (R233, R245). -/
def State.bucketDone (s : State) (x : Context) (cmd bucket : Nat) : State :=
  match s.cmd cmd with
  | none => s
  | some c =>
    let c := { c with done_ := c.done_.filter (· != bucketSent bucket) ++ [bucket], xpc := c.xpc + 1, expanding := c.xpc + 1 < c.steps }
    let s := s.setCmd c
    let s := (s.releaseCmd c).flagAdd x c bucket
    if c.done_.length = collBuckets c.w1 then s.finish cmd 0 else s

/-- The messages that every member has sent for a bucket of a running COLL, in order of rank, if all have. -/
def State.bucketMessages (s : State) (c : Cmd) (bucket : Nat) : Option (List CollRequest) :=
  let seq := s.collSeq c
  let l := c.members.map fun d => s.fabric.colls.find? fun r =>
    r.ctx == c.ctx && r.group == wbits c.w1 0 8 && r.seq == seq && r.bucket == bucket && r.dev == d && !r.abort
  if l.all (·.isSome) then some (l.filterMap id) else none

/-- Whether the results of a started bucket can be written. -/
def State.bucketReady (s : State) (c : Cmd) (bucket : Nat) : Bool :=
  c.slots.contains bucket && !c.done_.contains bucket && !c.done_.contains (bucketSent bucket) && (s.bucketMessages c bucket).isSome

/-- The local results of a bucket are written (R231). -/
def State.bucketWrite (s : State) (x : Context) (c : Cmd) (v : Bound) (bucket : Nat) (msgs : List CollRequest) : State :=
  let (n0, n) := collRange v.view c.w1 bucket
  let vals := msgs.map fun r => unpackElems v.desc.fmt r.data r.pois n
  let rank := ((findIdx (· == s.fabric.devid) c.members 0).map (·.1)).getD 0
  let res := if c.members.length ≤ 1 then [] else collResult c.w1 v.desc.fmt rank c.members vals n
  let res := res.map fun o => o.map fun e => { e with pois := e.pois.map fun _ => (x.num, 1) }
  let (w1, w2) := collWrites v n0 res
  let (s1, o1, t1, e1) := s.writeGranules x s.choice v.desc w1 [] []
  let (s2, o2, t2, e2) := match e1, v.scale with
    | none, some sd => s1.writeGranules x s.choice sd w2 [] []
    | _, _ => (s1, [], [], none)
  let s3 := (s2.sendWrites c.id x.num ((o1 ++ o2).map fun o => (o, 0))).noteTouches x c.id (t1 ++ t2)
  match e1.or e2 with
  | some r => s3.accessRaise c.id r
  | none =>
    if (o1 ++ o2).isEmpty then s3.bucketDone x c.id bucket
    else match s3.cmd c.id with
      | some c' => s3.setCmd { c' with done_ := c'.done_ ++ [bucketSent bucket] }
      | none => s3

/-- COLL_BUCKET_COMPLETE (R231, R233, R245): every member's values are here, and the local results are written; the bucket completes with them,
or with the acknowledgement of the last of its writes to a peer's page. -/
def execCollBucketComplete (cmd bucket : Nat) (s : State) : Host.Outcome State Fault Refusal :=
  match s.cmd cmd with
  | none => .next s
  | some c =>
    match s.context c.ctx, c.src with
    | some x, some (.view v) =>
      if c.op == .coll && c.st == .running && (s.team c.team).any Team.onCores && c.slots.contains bucket && !c.done_.contains bucket then
        if c.done_.contains (bucketSent bucket) then .next (if s.writing cmd then s else s.bucketDone x cmd bucket)
        else match s.bucketMessages c bucket with
          | some msgs => .next (s.bucketWrite x c v bucket msgs)
          | none => .next s
      else .next s
    | _, _ => .next s

/-- A collective message of a peer is held for the matching COLL; a running one takes an abort or a mismatch as its fault (R232). -/
def State.collReceive (s : State) (r : CollRequest) : State :=
  let s := { s with fabric := { s.fabric with colls := s.fabric.colls ++ [r] } }
  match s.cmds.find? fun c => c.op == .coll && c.st == .running && c.ctx == r.ctx && wbits c.w1 0 8 == r.group && s.collSeq c == r.seq with
  | none => s
  | some c =>
    match c.src with
    | some (.view v) =>
      match s.collVerdict c v.desc.fmt v.view.count r.seq with
      | some e => s.accessRaise c.id (.of e .access 0)
      | none => s
    | _ => s

end Sys2Proof.Machine
end

