-- ==== Sys2Proof/Machine/Pages.lean ====
section
/-! DEFINITION. What happens to pages and storage of itself: short-lived pages and the temperature bands (R142, R143), uncorrectable errors
(R140, R290), the sampling of hot pages and their migration (R147 to R151). -/

namespace Sys2Proof.Machine

/-! ### Short-lived pages (R142, R143) -/

/-- SHORT_PAGE_DEADLINE (R142): a page whose deadline has come is as one that has not been written, until it is written again. -/
def execShortPageDeadline (page : Nat) (s : State) : Host.Outcome State Fault Refusal :=
  match SMap.get none s.shortPages page with
  | some { deadline := some d, .. } => .next (if d ≤ s.cyc then { s with shortPages := SMap.set none s.shortPages page none } else s)
  | _ => .next s

/-- Changes the short-lived pages of a stack that have been written. -/
def State.mapShort (s : State) (stack : Nat) (f : ShortPage → ShortPage) : State :=
  { s with shortPages := s.shortPages.map fun e => if e.1 / 2 ^ 21 = stack then (e.1, e.2.map f) else e }

/-- Sets the band of a stack. -/
def State.setBand (s : State) (stack : Nat) (hot : Bool) : State :=
  { s with memStacks := s.memStacks.setIfInBounds stack { s.memStacks.toList.getD stack Stack.cold with hot } }

/-- HOT_BAND_ENTER (R143): every short-lived page that has not expired is refreshed, and has no deadline while the band lasts. -/
def execHotBandEnter (stack : Nat) (s : State) : Host.Outcome State Fault Refusal :=
  if stack < 32 && !(s.memStacks.toList.getD stack Stack.cold).hot then
    .next ((s.setBand stack true).mapShort stack fun p => match p.deadline with
      | some d => if s.cyc < d then { p with deadline := none } else p
      | none => p)
  else .next s

/-- NORMAL_BAND_RETURN (R143): every page without a deadline takes a new one. -/
def execNormalBandReturn (stack : Nat) (s : State) : Host.Outcome State Fault Refusal :=
  if stack < 32 && (s.memStacks.toList.getD stack Stack.cold).hot then
    .next ((s.setBand stack false).mapShort stack fun p => match p.deadline with
      | none => { p with deadline := some (s.cyc + p.window) }
      | some _ => p)
  else .next s

/-! ### Uncorrectable errors (R140, R290) -/

/-- UNCORRECTABLE_ERROR (R140, R161, R288, R290): what the error is found in is poisoned with cause 0; a slot of the instruction store raises
POISON FETCH when it is fetched. An error that the ECC corrects is only counted. -/
def execUncorrectableError (site : ErrorSite) (s : State) : Host.Outcome State Fault Refusal :=
  match site with
  | .granule g =>
    let v := s.granule g
    .next (if g < 2 ^ 36 then s.setGranule g { v with pois := some ((v.key.map (·.1)).getD 0, 0) } else s)
  | .parcel tower p => .next (if tower < 4 && p < 2 ^ 14 then s.poisonTags [2 ^ 14 * tower + p] else s)
  | .sreg core d =>
    match if core < 16 then (s.core core).occupant else none with
    | some (t, i) => match s.strand t i with
      | some st => .next (s.setStrand (st.setSreg d (st.sreg d) true))
      | none => .next s
    | none => .next s
  | .tileLine tower tile line =>
    .next (if tower < 4 && tile < 64 && line < 128 then
      s.setLine (tileKey tower tile line) { s.line (tileKey tower tile line) with pois := true } else s)
  | .corrected => .next { s with keep := { s.keep with corrected := s.keep.corrected + 1 } }
  | .slot core slot => .next (if core < 16 && slot < 65536 then { s with slotErrors := SMap.set false s.slotErrors (65536 * core + slot) true } else s)

/-! ### Hot pages and migration (R147 to R151) -/

/-- Insertion by a measure, largest first; equal ones keep their order. -/
def insertLargest {α : Type} (k : α → Nat) (a : α) : List α → List α
  | [] => [a]
  | x :: l => if k x < k a then a :: x :: l else x :: insertLargest k a l

/-- A list ordered by a measure, largest first. -/
def sortLargest {α : Type} (k : α → Nat) (l : List α) : List α := l.foldl (fun m a => insertLargest k a m) []

/-- The tower with the most counted accesses, the lower number on ties (R148). -/
def HotEntry.tower (e : HotEntry) : Nat :=
  (List.range 4).foldl (fun b i => if e.byTower.getD b 0 < e.byTower.getD i 0 then i else b) 0

/-- A candidate as an entry of the hot list (R148). -/
def HotEntry.word (e : HotEntry) : BitVec 128 :=
  BitVec.ofNat 128 (packFields [(26, e.page), (16, e.est), (14, pseudoChannel e.page 0), (2, e.tower), (6, 0), (20, e.tid), (32, e.tix), (8, e.ctx), (4, 0)])

/-- PAGE of a hot-list entry (R148). -/
def hotPage (w : BitVec 128) : Nat := bits w.toNat 0 26
/-- EST of a hot-list entry. -/
def hotEst (w : BitVec 128) : Nat := bits w.toNat 26 16
/-- TWR of a hot-list entry. -/
def hotTower (w : BitVec 128) : Nat := bits w.toNat 56 2
/-- TID of a hot-list entry. -/
def hotTid (w : BitVec 128) : Nat := bits w.toNat 64 20
/-- TIX of a hot-list entry. -/
def hotTix (w : BitVec 128) : Nat := bits w.toNat 84 32
/-- CTX of a hot-list entry. -/
def hotCtx (w : BitVec 128) : Nat := bits w.toNat 116 8

/-- A granule of a context's migration table (R149). -/
def State.migGranule (s : State) (x : Context) (i : Nat) : Nat := s.deviceRead x (structPlus x.mtab (64 * i)) 64

/-- Whether a context may migrate a further page (R150): budget is left, and the log has room. -/
def State.migRoom (s : State) (x : Context) : Bool :=
  let g := s.migGranule x 0
  x.mtab != 0 && x.migUsed < x.migBudget && (bits g 128 64 + 2 ^ 64 - bits g 192 64) % 2 ^ 64 < 2 ^ bits g 64 5

/-- The target stacks of an entry in order (R150). -/
def hotTargets (w : BitVec 128) : List Nat := (List.range 8).map fun m => 8 * hotTower w + (hotPage w + m) % 8

/-- Whether a stack has a free page for a context (R149): NEXT is below COUNT. -/
def State.migFree (s : State) (x : Context) (k : Nat) : Bool :=
  let g := s.migGranule x (1 + k)
  decide (bits g 128 64 < bits g 64 64)

/-- The first target stack with a free page for an entry (R150): the stack and the new page. -/
def State.migTarget (s : State) (x : Context) (w : BitVec 128) : Option (Nat × Nat) :=
  ((hotTargets w).find? (s.migFree x)).map fun k =>
    (k, (bits (s.migGranule x (1 + k)) 0 64 + bits (s.migGranule x (1 + k)) 128 64) % 2 ^ 26)

/-- The reads of the tables and of the migration table that judging an entry makes count at their stacks (R147). -/
def State.migNote (s : State) (x : Context) (d : Desc) (w : BitVec 128) : State :=
  let l := hotTargets w
  let n := (l.takeWhile fun k => !s.migFree x k).length + 1
  (s.touchEntry x 0 d (hotTix w)).deviceNotes x ((0 :: (l.take n).map (1 + ·)).map fun i => (structPlus x.mtab (64 * i), 64))

/-- Writes a log record and advances LOGW (R151): `result` is 0 for a page moved and 1 for SPAN. -/
def State.migLog (s : State) (x : Context) (tid tix result old new : Nat) : State :=
  let g := s.migGranule x 0
  let w := bits g 128 64
  let rec_ := packFields [(20, tid), (32, tix), (4, result), (8, 0), (26, old), (26, new)]
  let s := s.deviceWrite x (structPlus (BitVec.ofNat 64 (bits g 0 64)) (16 * (w % 2 ^ bits g 64 5))) (bytesOf 16 rec_)
  s.deviceWrite x (structPlus x.mtab 16) (bytesOf 8 ((w + 1) % 2 ^ 64))

/-- Writes a word of a context's tables (R122), which counts at its stack (R147). What is another context's is not altered (R7). -/
def State.setTableWord (s : State) (x : Context) (addr v : Nat) : State :=
  let sh := 2 ^ (8 * (addr % 64))
  if s.othersTable x (addr / 64) then s
  else (s.writeGranuleAt x.num x.tkey (addr / 64) ((2 ^ 64 - 1) * sh) (v % 2 ^ 64 * sh) none).touchTable x 0 addr

/-- One more page of a context's budget in this interval. -/
def State.spendMig (s : State) (ctx : Nat) : State :=
  match s.context ctx with
  | some x => s.setContext { x with migUsed := x.migUsed + 1 }
  | none => s

/-- What the engine does with a hot-list entry (R150): it starts a migration, logs a SPAN, or passes the entry over. A SPAN migrates no page and
spends no budget. -/
def State.migTry (s : State) (e : BitVec 128) (rest : List (BitVec 128)) : State :=
  let idle (s : State) : State := { s with migration := Migration.idle }
  match s.context (hotCtx e) with
  | none => idle s
  | some x =>
    if x.mtab = 0 || x.destroying then idle s
    else match s.plainDesc x 0 (hotTid e) with
    | none => idle s
    | some d =>
      let tix := hotTix e
      match s.mapping x 0 (hotTid e) d tix 0, s.migTarget x e with
      | .ok (f, span), some (k, new) =>
        let page := bits f 16 26 + (if span then tix % 512 else 0)
        let peer := bits f 6 1 == 1
        let stack := page / 2 ^ 21
        let outside := if peer then x.peerPull && bits f 1 1 == 0 && s.fabric.joined
          else page == hotPage e && stack / 8 != hotTower e && (s.channelOwner page).isNone
        let room := s.migRoom x
        let next := bits (s.migGranule x (1 + k)) 128 64 + 1
        let s := s.migNote x d e
        if !room || !outside then idle s
        else if span then idle (s.migLog x (hotTid e) tix 1 page 0)
        else
          let l1 := s.tableWord x (d.root * 4096 + 8 * (tix / 512))
          let addr := bits l1 16 32 * 4096 + 8 * (tix % 512)
          let s := (s.setTableWord x addr (Nat.lor f 16)).spendMig x.num
          let s := s.deviceWrite x (structPlus x.mtab (64 * (1 + k) + 16)) (bytesOf 8 next)
          let s : State := { s with migration := { st := .copy, ctx := x.num, tid := hotTid e, tix, entryAddr := addr, oldPage := page,
                                                   peer := if peer then some (bits f 8 8) else none, newPage := new, sent := none, todo := rest } }
          if peer then (List.range 1024).foldl (fun s g => s.fetchGranule 0 x.num (bits f 8 8) page g) s else s
      | _, _ => idle (s.migNote x d e)

/-- The engine takes entries in order until one migrates (R150). -/
def State.migNext (s : State) : List (BitVec 128) → State
  | [] => { s with migration := Migration.idle }
  | e :: l =>
    let s' := s.migTry e l
    if s'.migration.st = .copy then s' else State.migNext s' l

/-- SAMPLING_INTERVAL_END (R148, R150): the accesses of the intervals' last cycle are counted, those of this one not yet. -/
def execSamplingIntervalEnd (s : State) : Host.Outcome State Fault Refusal :=
  if s.cyc % 2 ^ s.keep.sampling = 0 then
    let ks := s.memStacks.map fun k => { k with hotList := (sortLargest HotEntry.est k.candidates).map HotEntry.word, sketch := [], candidates := [] }
    let todo := sortLargest hotEst (ks.toList.flatMap (·.hotList))
    let s : State := { s with memStacks := ks, contexts := s.contexts.map fun x => { x with migUsed := 0 } }
    .next (if s.migration.st = .idle then s.migNext todo else { s with migration := { s.migration with todo } })
  else .next s

/-- Copies a local page of tensor `tid` of a context as it stands to another: bytes, poison and key, and deadline (R151). A granule of the new page
that is another context's is not altered, and one of the context's own tables takes any value (R7, R122; log 74). -/
def State.copyPage (s : State) (x : Context) (tid old new : Nat) : State :=
  let loose := tid != x.tblt && s.inTables x (16 * new)
  let s := (List.range 1024).foldl (fun s g =>
    let from_ := 1024 * old + g
    let dest := 1024 * new + g
    if s.othersTable x dest then s
    else
      let data := if loose then bytesOf 64 (freeNat (s.fresh + 8 * g) 64) else Memory.readBytes s.hbm (64 * from_) 64
      ({ s with hbm := Memory.writeBytes s.hbm (64 * dest) data } : State).setGranule dest (s.granule from_)) s
  { s with shortPages := SMap.set none s.shortPages new (SMap.get none s.shortPages old), fresh := s.fresh + 8192 }

/-- The accesses of a copied page count at their stacks (R147): 1,024 reads of the old page and 1,024 writes of the new one. -/
def State.noteCopy (s : State) (x : Context) (m : Migration) : State :=
  s.tracesOf ((List.range 1024).foldl (fun u _ => (u.touchPage m.oldPage 0 m.tid m.tix x.num).touchPage m.newPage 0 m.tid m.tix x.num) s)

/-- Whether a request for a granule of a page that is being pulled is outstanding. -/
def Outstanding.pulls (o : Outstanding) : Bool := o.cmd == 0 && match o.what with
  | .page _ _ => true
  | _ => false

/-- MIGRATION_COPY_COMPLETE (R151, SWITCH): the new page is home, and the entry names it. -/
def execMigrationCopyComplete (s : State) : Host.Outcome State Fault Refusal :=
  let m := s.migration
  match s.context m.ctx with
  | some x =>
    if m.st = .copy && !s.fabric.outstanding.any Outstanding.pulls then
      let s := if m.peer.isNone then (s.copyPage x m.tid m.oldPage m.newPage).noteCopy x m else s
      let f := s.tableWord x m.entryAddr
      let attrs := bits f 0 4
      let s := s.setTableWord x m.entryAddr (attrs + 2 ^ 16 * m.newPage)
      .next { s with
        forward := if m.peer.isNone then SMap.set m.oldPage s.forward m.oldPage m.newPage else s.forward
        migration := { m with st := .shoot } }
    else .next s
  | none => .next s

/-- What a SHOOT drops of the caches (R151): the level-2 mapping of the block, and a span of before it was split that covers it. -/
def State.dropBlock (s : State) (m : Migration) : State :=
  { s with cached := s.cached.filter fun e =>
      !(e.ctx == m.ctx && e.tid == m.tid && (e.key == .entry m.tix || e.key == .span (m.tix / 512))) }

/-- Whether the accesses that used a translation which a SHOOT has dropped have all performed (R137, R151). -/
def State.shot (s : State) (m : Migration) : Bool :=
  !s.fabric.outstanding.any (s.usesOld m.ctx (m.sent.getD s.fabric.nextReq))

/-- MIGRATION_SHOOT_COMPLETE (R151, DONE): the cached translations of the block are dropped and, once the accesses that used them have performed,
the log record is written, and the next entry is taken. -/
def execMigrationShootComplete (s : State) : Host.Outcome State Fault Refusal :=
  let m := s.migration
  match s.context m.ctx with
  | some x =>
    if m.st = .shoot then
      let s := s.dropBlock m
      if !s.shot m then .next { s with migration := { m with sent := some (m.sent.getD s.fabric.nextReq) } }
      else
        let s : State := { s with forward := SMap.erase s.forward m.oldPage (m.oldPage + 1) }
        .next ((s.migLog x m.tid m.tix 0 m.oldPage m.newPage).migNext m.todo)
    else .next s
  | none => .next s

/-- A peer's page cannot be pulled: the migration ends, and the entry is as it was. -/
def State.migFail (s : State) : State :=
  let m := s.migration
  match s.context m.ctx with
  | some x =>
    let f := s.tableWord x m.entryAddr
    let s : State := { s.setTableWord x m.entryAddr (f - Nat.land f 16) with
      fabric := { s.fabric with outstanding := s.fabric.outstanding.filter fun o => !o.pulls } }
    s.migNext m.todo
  | none => { s with migration := Migration.idle }

/-- A granule of a peer page that is being pulled (R150, R151). A short-lived page takes its deadline from the writes that pull it (R142; log
87). -/
def State.migReply (s : State) (gran : Nat) (r : UntimedReply) : State :=
  let m := s.migration
  match s.context m.ctx with
  | some x =>
    if m.st ≠ .copy then s
    else if r.status != 0 then s.migFail
    else
      let put (key : Nat) (short : Option Nat) : State :=
        (s.putGranule x m.tid key short (1024 * m.newPage + gran) (2 ^ 512 - 1) (natOf (r.data.take 64))
          (if r.pois.any id then some (x.num, 1) else none)).touchPage m.newPage 0 m.tid m.tix x.num
      match s.plainDesc x 0 m.tid with
      | some d => put d.keyid (if d.short then some (d.retw * 1024) else none)
      | none => put 0 none
  | none => s

end Sys2Proof.Machine
end

