-- ==== Sys2Proof/Machine/Fabric.lean ====
section
/-! DEFINITION. The Gweupa fabric (R254 to R278, R376 to R379, R382 to R385): the calendar, timed transfers and relays, untimed
requests in both directions, links, beacons and the incarnations of peers; the calendar and the flits are in Machine/Links.lean. What peers send is an input event; what the device sends
is appended to its output. -/

namespace Sys2Proof.Machine

/-! ### Turns -/

/-- The turn whose data interval an arrival in this cycle belongs to (R256, R265): its last flits may come in the next guard
interval. -/
def State.arrivalTurn (s : State) : Nat := if s.cyc % 4096 < 96 then s.cyc / 4096 - 1 else s.cyc / 4096

/-- The turn and port by which a relay that received in turn `g` reaches device `d` (R266). -/
def Fabric.onward (f : Fabric) (g d : Nat) : Nat × Nat :=
  let x := f.devid ^^^ d
  let q := f.turns
  (g + (x / 16 + 2 * q - g % q - 1) % q + 1, x % 16)

/-! ### Records of no command -/

/-! ### FSEND and FRECV -/

/-- Port of a send or receive word (R262, R264). -/
def fabPort (w : Word) : Nat := wbits w 28 4
/-- Receive id of a send or receive word. -/
def fabRid (w : Word) : Nat := wbits w 32 4
/-- Destination of a send word. -/
def sendDest (w : Word) : Nat := wbits w 36 8
/-- MC of a send word. -/
def sendMc (w : Word) : Bool := wbits w 44 1 == 1
/-- Length of a send word in 64-byte units. -/
def sendUnits (w : Word) : Nat := wbits w 46 14 + 1
/-- SEQ of a receive word. -/
def recvSeq (w : Word) : BitVec 16 := w.extractLsb' 36 16
/-- GTURN of a turn word. -/
def recvTurn (w : Word) : Nat := wbits w 0 52
/-- Capacity of a turn word in bytes. -/
def recvBytes (w : Word) : Nat := 256 * (wbits w 52 12 + 1)

/-- FSEND (R262, R263, R385). -/
def execFsend (t a b : BitVec 6) (s : State) : Host.Outcome State Fault Refusal :=
  let w := s.iss.st.sreg a
  let d := s.iss.st.sreg b
  s.engineIssue .fsend t w d 0
    (failed [(wbits w 45 1 != 0 || wbits w 60 4 != 0 || 15750 < sendUnits w || wbits w 0 6 != 0, s.badOperand)] ++
      s.poisonChecks [a, b])
    (failed [(d.toNat < s.cyc + 512, s.fault .scheduleDepart d.toNat)]) []

/-- FRECV (R264, R383). -/
def execFrecv (t a b : BitVec 6) (s : State) : Host.Outcome State Fault Refusal :=
  let w := s.iss.st.sreg a
  s.engineIssue .frecv t w (s.iss.st.sreg b) 0
    (failed [(wbits w 52 12 != 0 || wbits w 0 6 != 0, s.badOperand)] ++ s.poisonChecks [a, b]) [] []

/-- Whether a timed fabric command may start (R248, R263, R383): fences do not hold it, nor do the commands before it. -/
def State.timedReady (s : State) (c : Cmd) : Bool :=
  c.st == .queued && (match s.team c.team with | some t => t.before && c.issuedTc + 1 ≤ t.tcyc | none => false) &&
  (c.timed || s.tokensDone c.team c.strand c.deps)

/-- The members that a relay forwards a multicast to: all but the sender and itself (R268), whether it is a member or not (log 78). -/
def State.forwardMembers (s : State) (ctx g src relay : Nat) : List Nat :=
  (groupMembers (s.groupEntry ctx g)).filter fun d => d != src && d != relay

/-- Whether the transfer of a send word in turn `g` is relayed (R263, R268). -/
def State.isRelayed (s : State) (ctx : Nat) (w : Word) (g : Nat) : Bool :=
  let peer := s.fabric.facing g (fabPort w)
  if sendMc w then !(s.forwardMembers ctx (sendDest w) s.fabric.devid peer).isEmpty else peer != sendDest w

/-- The first `n` own-share slots of a port and turn that leave at or after `d` and are not claimed (R263). -/
def Fabric.freeSlots (f : Fabric) (port g d n : Nat) : List Nat :=
  (((List.range 4500).map (· + 1500)).filter fun t =>
    d ≤ 4096 * g + slotOffset t && !f.claimed.contains (port, g, t)).take n

/-- A started command with no further step. -/
def Cmd.started (c : Cmd) (s : State) : Cmd :=
  { c with st := .running, steps := 1, xpc := 1, expanding := false, startCyc := s.cyc, start := (s.team c.team).elim 0 (·.tcyc) }

/-- Start of an FSEND (R263). -/
def State.fsendStart (s : State) (t : Team) (c : Cmd) : State :=
  let f := s.fabric
  let d := c.w1.toNat
  let g := d / 4096
  let p := fabPort c.w0
  let n := flitCount (sendUnits c.w0)
  let slots := f.freeSlots p g d n
  let relayed := s.isRelayed c.ctx c.w0 g
  let used := SMap.get 0 f.relayUse (16 * g + p) + n
  if !t.rangeOk (viewAddr c.w0) (64 * sendUnits c.w0) then s.startFault c .engRingRange
  else if d % 4096 < 1096 || c.issuedCyc + 2 ^ 24 ≤ d then s.startFault c .engFabDepart
  else if f.loopback g p || (if sendMc c.w0 then s.groupOf c.ctx (sendDest c.w0) == 0
      else f.devices ≤ sendDest c.w0 || sendDest c.w0 == f.devid) then s.startFault c .engFabDest
  else if !f.joined || f.owner != some c.ctx || slots.length < n || (relayed && f.rbud < used) then s.finish c.id 5
  else
    let s := (s.setCmd { (c.started s) with slots, fedAt := s.choice }).chosen
    { s with fabric := { s.fabric with
        claimed := s.fabric.claimed ++ slots.map fun k => (p, g, k)
        relayUse := if relayed then SMap.set 0 f.relayUse (16 * g + p) used else f.relayUse } }

/-- Start of an FRECV (R264). -/
def State.frecvStart (s : State) (t : Team) (c : Cmd) : State :=
  let f := s.fabric
  let g := recvTurn c.w1
  let p := fabPort c.w0
  let rid := fabRid c.w0
  if !t.rangeOk (viewAddr c.w0) (recvBytes c.w1) then s.startFault c .engRingRange
  else if recvSeq c.w0 == 0xFFFF#16 then s.startFault c .engSeq
  else if f.loopback g p then s.startFault c .engFabDest
  else if !f.joined || f.owner != some c.ctx || 4096 * g ≤ s.cyc ||
      f.posted.any fun k => k.port == p && k.turn == g && k.rid == rid then s.finish c.id 5
  else
    let s := s.setCmd (c.started s)
    { s with fabric := { s.fabric with
        posted := s.fabric.posted ++ [{ cmd := c.id, ctx := c.ctx, port := p, turn := g, rid, matched := false }] } }

/-- The cycle in which the last flit of a started FSEND leaves. -/
def Cmd.lastFlit (c : Cmd) : Nat := 4096 * (c.w1.toNat / 4096) + slotOffset (c.slots.getLastD 0)

/-- Number of 32-byte units of a transfer. -/
def Cmd.sendParts (c : Cmd) : Nat := 2 * sendUnits c.w0

/-- The cycle in which an FSEND reads unit `u` of its data (R263): any from its start to the one its last slot leaves in, by the choice it made
at its start. -/
def Cmd.readCycle (c : Cmd) (u : Nat) : Nat := c.startCyc + bits c.fedAt (24 * u) 24 % (c.lastFlit - c.startCyc + 1)

/-- The units of an FSEND that may be read in this cycle: those without a read that stands, at a bank that is free (R157). -/
def State.sendReads (s : State) (t : Team) (c : Cmd) : List Nat :=
  (List.range c.sendParts).filter fun u => !(c.fetched.any (·.1 == (u, 0, 1))) && (t.linesOf (viewAddr c.w0) false (32 * u) 32).all s.lineFree

/-- The bytes of units of an FSEND are read from the ring with their poison (R385). From a unit's cycle on the read stands; before it, it stands
only if no later cycle has its bank free. -/
def State.readUnits (s : State) (t : Team) (c : Cmd) (l : List Nat) : Cmd :=
  { c with fetched := (c.fetched.filter fun e => !l.contains e.1.1) ++
      l.map fun u => ((u, 0, if c.readCycle u ≤ s.cyc then 1 else 0), s.ringGet t (viewAddr c.w0) false (32 * u) 32) }

/-- The transfer an FSEND sends (R258, R385), with the flits it loses at once. DESIGN CHOICE (log 103): a unit whose bank core accesses have taken in
every cycle since the start is read at the end. -/
def State.sendPayload (s : State) (t : Team) (c : Cmd) (lost : List Nat) : Arrival :=
  let parts := (List.range c.sendParts).map fun u =>
    match c.fetched.find? (·.1.1 == u) with
    | some (_, g) => g
    | none => s.ringGet t (viewAddr c.w0) false (32 * u) 32
  { port := fabPort c.w0, src := s.fabric.devid, dst := sendDest c.w0, mc := sendMc c.w0, relayed := false, inc := s.fabric.incarn
    ctx := c.ctx, rid := fabRid c.w0, sendTurn := c.w1.toNat / 4096, units := sendUnits c.w0, data := parts.flatMap fun g => bytesOf 32 g.1
    pois := parts.map (·.2), lost }

/-- The flits of a transfer that a port sends in a turn, with their slots: they are encrypted for the device it faces, and enter the retry buffers
of their links (R257, R259). -/
def State.emit (s : State) (port turn : Nat) (l : List (Nat × Nat)) (a : Arrival) : State :=
  let key := s.fabric.pairKey (s.fabric.facing turn port)
  let x := l.map fun e => (e.2, arrivalFlit a key e.1)
  { s with fabric := s.fabric.keepTimed port turn x, out := s.out ++ [.timedFlits port turn (x.map (·.1)) a (x.map (·.2))] }

/-- FSEND_FLIT_DEPARTURE (R263, R385): the units whose cycle has come are read and, once the last claimed slot is reached, the flits have
left. -/
def execFsendFlitDeparture (cmd : Nat) (s : State) : Host.Outcome State Fault Refusal :=
  match s.cmd cmd with
  | none => .next s
  | some c =>
    match s.team c.team with
    | none => .next s
    | some t =>
      if c.op == .fsend && c.st == .running && c.sent.isNone then
        let l := s.sendReads t c
        let s := s.noteRead c (l.map fun u => (viewAddr c.w0, false, 32 * u, 32))
          (l.flatMap fun u => t.linesOf (viewAddr c.w0) false (32 * u) 32)
        let c := s.readUnits t c l
        if s.cyc == c.lastFlit then
          let flits := c.slots.zipIdx.map fun e => (e.2, e.1)
          let good (e : Nat × Nat) : Bool := s.fabric.carries (fabPort c.w0) e.2
          let a := s.sendPayload t c ((flits.filter fun e => !good e).map (·.1))
          .next ((s.setCmd { c with sent := some 0 }).emit (fabPort c.w0) (c.w1.toNat / 4096) (flits.filter good) a)
        else .next (s.setCmd c)
      else .next s

/-- FSEND_TURN_END (R263): the token goes DONE at the end of the departure turn. -/
def execFsendTurnEnd (cmd : Nat) (s : State) : Host.Outcome State Fault Refusal :=
  match s.cmd cmd with
  | none => .next s
  | some c =>
    let g := c.w1.toNat / 4096
    if c.op == .fsend && c.st == .running && s.cyc + 1 == 4096 * (g + 1) then
      let s := s.finish cmd 0
      .next { s with fabric := { s.fabric with claimed := s.fabric.claimed.filter fun k => g < k.2.1 } }
    else .next s

/-- Flits relayed through a port in a turn, less those of an FSEND that do not leave (R263, R266). -/
def State.giveRelay (s : State) (c : Cmd) (n : Nat) : State :=
  let k := 16 * (c.w1.toNat / 4096) + fabPort c.w0
  if c.op == .fsend && c.st == .running && s.isRelayed c.ctx c.w0 (c.w1.toNat / 4096) then
    { s with fabric := { s.fabric with relayUse := SMap.set 0 s.fabric.relayUse k (SMap.get 0 s.fabric.relayUse k - n) } }
  else s

/-- Takes a timed fabric command of a team away (R261, R293, R383, R385): its token ends REJECTED, its key is withdrawn, its slots are
freed, and what has left of its flits is a transfer with flits lost; flits that are not sent are not relayed either. -/
def State.withdraw (s : State) (c : Cmd) : State :=
  let g := c.w1.toNat / 4096
  let flits := c.slots.zipIdx.map fun e => (e.2, e.1)
  let left (e : Nat × Nat) : Bool := 4096 * g + slotOffset e.2 < s.cyc
  let s : State := match s.team c.team with
    | some t => if c.op == .fsend && c.sent.isNone && flits.any left then
        s.emit (fabPort c.w0) g (flits.filter left) (s.sendPayload t c ((flits.filter fun e => !left e).map (·.1))) else s
    | none => s
  let s := (s.giveRelay c (flits.filter fun e => !left e).length).finish c.id 5
  { s with fabric := { s.fabric with
      posted := s.fabric.posted.filter (·.cmd != c.id)
      claimed := s.fabric.claimed.filter fun k => !(c.op == .fsend && k.1 == fabPort c.w0 && k.2.1 == g && c.slots.contains k.2.2) } }

/-- Withdraws every timed fabric command that `p` names and that is not done. -/
def State.withdrawAll (s : State) (p : Cmd → Bool) : State :=
  (s.cmds.filter fun c => (c.op == .fsend || c.op == .frecv) && (c.st == .queued || c.st == .running) && p c).foldl
    State.withdraw s

/-! ### Timed arrivals and relays -/

/-- The ring keys that later arrivals of the same turn, on higher ports, have written (R252). -/
def State.laterKeys (s : State) (c : Cmd) (port g : Nat) : List Nat :=
  s.cmds.flatMap fun e =>
    if e.op == .frecv && e.st == .running && e.id != c.id && recvTurn e.w1 == g && port < fabPort e.w0 && e.sent == some 0 then
      match s.team e.team, e.arrived with
      | some t, some (bs, _) => (List.range bs.length).map fun i => t.byteKey (viewAddr e.w0) false i
      | _, _ => []
    else []

/-- The bytes of an arrival that a later one has not written, with their ring keys and places (R252). -/
def State.arrivalBytes (s : State) (t : Team) (c : Cmd) (a : Arrival) (g : Nat) : List (Nat × Byte × Nat) :=
  let later := s.laterKeys c a.port g
  (a.data.zipIdx.map fun (e : Byte × Nat) => (t.byteKey (viewAddr c.w0) false e.2, e.1, e.2)).filter fun e => !later.contains e.1

/-- Bytes of an arrival, with their ring keys and places, go to their banks at its receive address (R265, R383): a line at a time or, where later
arrivals have written a part of it, byte by byte. -/
def State.placeArrival (s : State) (t : Team) (c : Cmd) (a : Arrival) (l : List (Nat × Byte × Nat)) : State :=
  let addr := viewAddr c.w0
  let put (s : State) (x : List (Nat × Byte × Nat)) : State :=
    s.queueWrites c.id t addr false (x.head?.elim 0 (·.2.2)) (x.map (·.2.1)) (x.map fun e => a.pois.getD (e.2.2 / 32) false) 0
  let s := (lineParts (eaOff addr) a.data.length).foldl (fun s p =>
    let x := l.filter fun e => p.1 ≤ e.2.2 && e.2.2 < p.1 + p.2
    if x.length = p.2 then put s x else x.foldl (fun s e => put s [e]) s) s
  s.setCmd { c with sent := some 0, arrived := some (a.data, a.pois) }

/-- An arrival that no posted key takes (R265): a schedule fault of every team of the owner in a fabric-timed section, else an
event. -/
def State.unposted (s : State) (a : Arrival) (g : Nat) : State :=
  let d := a.port + 16 * a.rid + 256 * g
  let teams := s.teams.filter fun t => t.ctx == a.ctx && t.onCores && s.inFabricSection t.id
  if teams.isEmpty then s.logEvent a.ctx none (s.plainRecord a.ctx (.of .eventUnposted .outside d))
  else teams.foldl (fun s t =>
    let k := ((s.cmds.find? fun c => c.team == t.id && c.packet.isNone && (c.op == .fsend || c.op == .frecv)).map (·.strand)).getD 0
    let pc := ((s.strand t.id k).map (·.pc)).getD 0
    s.chosen.takeFault t.id (stopCycle (t.tcyc + 1) s.choice) [(k, pc, .of .scheduleUnposted .outside d, 0)]) s

/-- An arrival whose bytes are for this device (R265). -/
def State.receive (s : State) (a : Arrival) (g : Nat) : State :=
  match s.fabric.posted.find? fun k => k.port == a.port && k.turn == g && k.rid == a.rid && !k.matched with
  | none => s.unposted a g
  | some k =>
    let mark (q : Posted) : Posted := if q.cmd == k.cmd then { q with matched := true } else q
    let s := { s with fabric := { s.fabric with posted := s.fabric.posted.map mark } }
    match s.cmd k.cmd with
    | none => s
    | some c =>
      match s.team c.team with
      | none => s
      | some t =>
        if a.lost.isEmpty && 64 * a.units ≤ recvBytes c.w1 && a.data.length = 64 * a.units then s.placeArrival t c a (s.arrivalBytes t c a g)
        else s.setCmd { c with sent := some 5 }

/-- What a relay holds of an arrival for one further device (R266, R268). -/
def State.hold (s : State) (a : Arrival) (g d : Nat) : State :=
  let (turn, port) := s.fabric.onward g d
  { s with fabric := { s.fabric with relays := s.fabric.relays ++
      [{ arrivedTurn := g, arrivedPort := a.port, turn, port, a }] } }

/-- Whether the header fields of an arrival are ones a flit can carry (R258). -/
def arrivalOk (a : Arrival) : Bool :=
  a.port < 16 && a.src < 256 && a.dst < 256 && a.ctx < 256 && a.rid < 16 && 0 < a.units && a.units ≤ 2 ^ 14

/-- TIMED_ARRIVAL (R258, R260, R265, R266, R268, R277): received, relayed, or dropped where its context is not the owner or its
sender's incarnation is not the one recorded. -/
def execTimedArrival (a : Arrival) (s : State) : Host.Outcome State Fault Refusal :=
  let g := s.arrivalTurn
  let me := s.fabric.devid
  if !s.fabric.joined || !arrivalOk a || s.fabric.loopback g a.port || s.fabric.owner != some a.ctx ||
      SMap.get 0 s.fabric.peers a.src != a.inc then .next s
  else if a.mc then
    let s := if (s.groupOf a.ctx a.dst).getLsbD me then s.receive a g else s
    .next (if a.relayed then s else (s.forwardMembers a.ctx a.dst a.src me).foldl (fun s d => s.hold a g d) s)
  else if a.dst = me then .next (s.receive a g)
  else .next (if a.relayed || s.fabric.devices ≤ a.dst then s else s.hold a g a.dst)

/-- Insertion by a measure, least first; equal ones keep their order. -/
def insertLeast {α : Type} (k : α → Nat) (a : α) : List α → List α
  | [] => [a]
  | x :: l => if k x ≤ k a then x :: insertLeast k a l else a :: x :: l

/-- The flits a relay holds, as transfer and flit index, in the order of R267: arrival turn, then arrival port, then flit index. -/
def relayOrder (l : List RelayHeld) : List (RelayHeld × Nat) :=
  let all := l.flatMap fun r => ((List.range (flitCount r.a.units)).filter fun i => !r.a.lost.contains i).map fun i => (r, i)
  all.foldl (fun m e => insertLeast (fun q => (16 * q.1.arrivedTurn + q.1.arrivedPort) * 2 ^ 14 + q.2) e m) []

/-- RELAY_FORWARD (R267): the flits held for this turn leave in the forward share of the port, a slot each; those beyond the share, or on no link,
are lost. -/
def execRelayForward (port : Nat) (s : State) : Host.Outcome State Fault Refusal :=
  let g := s.cyc / 4096
  let mine (r : RelayHeld) : Bool := r.turn == g && r.port == port
  if s.fabric.joined && 96 ≤ s.cyc % 4096 && s.cyc % 4096 ≤ slotOffset 1499 then
    let held := s.fabric.relays.filter mine
    let sent := ((relayOrder held).zipIdx).filter fun e => e.2 < 1500 && s.fabric.carries port e.2
    let s : State := { s with fabric := { s.fabric with relays := s.fabric.relays.filter fun r => !mine r } }
    .next (held.eraseDups.foldl (fun s r =>
      let flits := (sent.filter fun e => e.1.1 == r).map fun e => (e.1.2, e.2)
      let lost := (List.range (flitCount r.a.units)).filter fun i => !flits.any (·.1 == i)
      s.emit port g flits { r.a with port, relayed := true, lost }) s)
  else .next s

/-- The tags of a completed receive (R160, R161, R265). -/
def State.receiveTags (s : State) (t : Team) (c : Cmd) (n : Nat) : State :=
  let addr := viewAddr c.w0
  (parcelsOf addr 0 n).foldl (fun s p =>
    let k := t.beltKey (eaTwi addr) (eaStn addr) (4096 * p)
    let whole := eaOff addr ≤ 4096 * p && 4096 * (p + 1) ≤ eaOff addr + n
    let spoiled := c.parcels.contains (eaParcel addr / 512 * 512 + p, true)
    let v := if spoiled || (s.tag k == 0xFFFF#16 && !whole) then 0xFFFF#16 else recvSeq c.w0
    { s with tags := SMap.set 0 s.tags (k / 4096) v }) s

/-- FRECV_KEY_EXPIRY (R265): at the end of the guard interval after its turn, the receive ends, with its tags where an arrival was
written. DESIGN CHOICE (log 103): a write that has met a core access at its bank in every cycle so far goes on waiting (R157), and the token with
it. -/
def execFrecvKeyExpiry (cmd : Nat) (s : State) : Host.Outcome State Fault Refusal :=
  match s.cmd cmd with
  | none => .next s
  | some c =>
    if c.op == .frecv && c.st == .running && s.cyc == 4096 * (recvTurn c.w1 + 1) + 95 then
      let s := { s with fabric := { s.fabric with posted := s.fabric.posted.filter (·.cmd != cmd) } }
      match s.cmd cmd, c.arrived, s.team c.team with
      | some c', some (bs, _), some t => .next (if c.sent == some 0 then (s.receiveTags t c' bs.length).finish cmd 0 else s.finish cmd 5)
      | _, _, _ => .next (s.finish cmd 5)
    else .next s

/-- TIMED_OWNER_CUTOVER (R261). -/
def execTimedOwnerCutover (s : State) : Host.Outcome State Fault Refusal :=
  match s.fabric.nextOwner with
  | none => .next s
  | some new =>
    if s.cyc % s.fabric.round ≠ 0 then .next s
    else
      let old := s.fabric.owner
      let s := if old == new then s else s.withdrawAll fun c => old == some c.ctx
      let f := s.fabric
      .next { s with
        fabric := { f with
          owner := new, nextOwner := none
          relays := if old == new then f.relays else f.relays.filter fun r => some r.a.ctx != old
          relayUse := if old == new then f.relayUse else [] }
        out := s.out ++ [.report "timed owner" (new.getD 0) (if new.isSome then 1 else 0)] }

/-! ### FLD, FST, FATOM -/

/-- SZA of a request word (R273). -/
def reqSza (w : Word) : Nat := wbits w 28 4
/-- MB of a request word. -/
def reqMb (w : Word) : Nat := wbits w 32 3
/-- MBX of a request word. -/
def reqMbx (w : Word) : Bool := wbits w 35 1 == 1
/-- OCL of a request word. -/
def reqOcl (w : Word) : Nat := wbits w 36 2
/-- DEV of a request word. -/
def reqDev (w : Word) : Nat := wbits w 38 8
/-- WIN of a request word. -/
def reqWin (w : Word) : Nat := wbits w 46 16
/-- LOC of a request word. -/
def reqLoc (w : Word) : Bool := wbits w 62 1 == 1
/-- Bytes an FLD or FST moves. -/
def reqSize (w : Word) : Nat := 8 * 2 ^ reqSza w

/-- The operand checks of R273. -/
def requestBad (op : CmdOp) (w off : Word) : Bool :=
  wbits w 63 1 != 0 ||
  match op with
  | .fatom => 9 < reqSza w || wbits w 0 28 % 16 != 0 || off.toNat % 8 != 0
  | _ => 5 < reqSza w || (reqMbx w && (op == .fst || reqSza w != 0)) || wbits w 0 28 % reqSize w != 0 || off.toNat % reqSize w != 0

/-- Issue of an untimed fabric command. -/
def State.requestOp (s : State) (op : CmdOp) (t a b : BitVec 6) : Host.Outcome State Fault Refusal :=
  let w := s.iss.st.sreg a
  let off := s.iss.st.sreg b
  s.engineIssue op t w off 0 (failed [(requestBad op w off, s.badOperand)] ++ s.poisonChecks [a, b]) [] []

/-- FLD (R377). -/
def execFld (t a b : BitVec 6) (s : State) : Host.Outcome State Fault Refusal := s.requestOp .fld t a b

/-- FST (R377). -/
def execFst (t a b : BitVec 6) (s : State) : Host.Outcome State Fault Refusal := s.requestOp .fst t a b

/-- FATOM (R377). -/
def execFatom (t a b : BitVec 6) (s : State) : Host.Outcome State Fault Refusal := s.requestOp .fatom t a b

/-- Bytes of the ring range of an untimed command; an FLD into a mailbox has none. -/
def Cmd.ringBytes (c : Cmd) : Nat :=
  match c.op with
  | .fatom => 16
  | .fld => if reqMbx c.w0 then 0 else reqSize c.w0
  | _ => reqSize c.w0

/-- Whether a context has as many writes and atomics to a device under way as R274 allows. -/
def State.overLimit (s : State) (ctx dev : Nat) : Bool :=
  256 ≤ (s.fabric.outstanding.filter fun q => q.ctx == ctx && q.dev == dev && q.write).length

/-- Start of FLD, FST or FATOM (R273, R378): one over the limit of its destination waits. -/
def State.requestStart (s : State) (t : Team) (c : Cmd) : State :=
  if c.ringBytes != 0 && !t.rangeOk (viewAddr c.w0) c.ringBytes then s.startFault c .engRingRange
  else if !reqLoc c.w0 && s.fabric.devices ≤ reqDev c.w0 then s.startFault c .engFabDest
  else if !reqLoc c.w0 && !s.fabric.joined then s.finish c.id 5
  else if !reqLoc c.w0 && c.op != .fld && s.overLimit c.ctx (reqDev c.w0) then s
  else s.begin c 1

/-- A fault of a request at its destination (R272), by the number of the check. -/
def remoteFault (status : BitVec 8) : Raised := .of .engFabRemote .access (2 ^ 12 * status.toNat)

/-- POISON CONSUME of an atomic's target (R378). -/
def targetPoison : Raised := .of .poisonConsume .access 2

/-- What a response brings to FLD, FST or FATOM (R377, R378). -/
def State.requestDone (s : State) (t : Team) (c : Cmd) (bs : List Byte) (pois : Nat → Bool) : State :=
  let s := if c.op == .fst then s else s.wordResult t c (reqMbx c.w0) (reqMb c.w0) (viewAddr c.w0) bs pois
  s.finish c.id 0

/-- An atomic on a word of a window of this device (R272, R273): the old word, or the number of the check that fails, or that the
target is poisoned. -/
def State.windowAtomic (s : State) (x : Context) (w o op : Nat) (peer : Option Nat) (v cmp : Word) :
    Except Nat (State × Option Word) :=
  match s.windowRead x w o 8 2 peer with
  | .error k => .error k
  | .ok g =>
    let old : Word := BitVec.ofNat 64 g.val
    match s.windowWrite x w o 2 peer (bytesOf 8 (atomicOp op old v cmp).toNat) (wholeMask 8) (fun _ => false) with
    | .error k => .error k
    | .ok s' => .ok (if g.pois.any id || g.touched.any (·.zeroed) then (s, none) else (s', some old))

/-- A request served by this device's own windows (R377, R378). -/
def State.requestLocal (s : State) (x : Context) (t : Team) (c : Cmd) (data : Nat) (pois : Bool) : State :=
  let off := c.w1.toNat
  let peer := if reqLoc c.w0 then none else some s.fabric.devid
  match c.op with
  | .fld =>
    match s.windowRead x (reqWin c.w0) off (reqSize c.w0) 0 peer with
    | .error k => s.accessRaise c.id (remoteFault (failStatus k))
    | .ok g => ((s.noteTouches x c.id g.touched).requestDone t c (bytesOf (reqSize c.w0) g.val) (fun i => g.bad off i 1))
  | .fst =>
    match s.windowWrite x (reqWin c.w0) off 1 peer (bytesOf (reqSize c.w0) data) (wholeMask (reqSize c.w0)) (fun _ => pois) with
    | .error k => s.accessRaise c.id (remoteFault (failStatus k))
    | .ok s' => s'.requestDone t c [] fun _ => false
  | _ =>
    match s.windowAtomic x (reqWin c.w0) off (reqSza c.w0) peer (BitVec.ofNat 64 data) (BitVec.ofNat 64 (data / 2 ^ 64)) with
    | .error k => s.accessRaise c.id (remoteFault (failStatus k))
    | .ok (_, none) => s.accessRaise c.id targetPoison
    | .ok (s', some old) => s'.requestDone t c (bytesOf 8 old.toNat) fun _ => false

/-- The one step of FLD, FST or FATOM (R377): it is run when its request leaves. -/
def State.requestStep (s : State) (x : Context) (t : Team) (c : Cmd) : State :=
  let w := c.w0
  let g := if c.op == .fld then (0, false) else s.ringGet t (viewAddr w) false 0 c.ringBytes
  if s.unanswered c.id then s
  else if c.op == .fatom && g.2 then s.accessRaise c.id (.of .poisonConsume .access 1)
  else if reqLoc w || reqDev w == s.fabric.devid then s.requestLocal x t { c with xpc := 1 } g.1 g.2
  else
    let n := reqSize w
    let r := { UntimedRequest.blank with
      win := reqWin w, off := c.w1.toNat, size := if c.op == .fatom then 8 else n
      data := if c.op == .fst then bytesOf n g.1 else [], mask := if c.op == .fst then wholeMask n else 0
      pois := if c.op == .fst then poisUnits ((List.range n).map fun i => (s.ringGet t (viewAddr w) false i 1).2) else []
      op := if c.op == .fatom then reqSza w else 0
      x := if c.op == .fatom then BitVec.ofNat 64 g.1 else 0, cmp := if c.op == .fatom then BitVec.ofNat 64 (g.1 / 2 ^ 64) else 0 }
    s.sendRequest c.id x.num (reqDev w) (reqOcl w) .own (c.op != .fld) 0 r

/-! ### Responses -/

/-- A granule fetched for an address-queue entry; `bad` makes the entry INVALID. -/
def State.fillEntry (s : State) (id : Nat) (got : Fetched) (bad : Bool) : State :=
  let fill (e : AqEntry) : AqEntry := if e.id == id then { e with fetched := e.fetched ++ got, invalid := e.invalid || bad } else e
  { s with strands := s.strands.map fun st => { st with aq := st.aq.map fill } }

/-- What a response does for the command that sent its request; the bytes of a write count now that it has performed (R221). -/
def State.deliverReply (s : State) (o : Outstanding) (r : UntimedReply) : State :=
  match s.cmd o.cmd with
  | none =>
    match o.what with
    | .page p g => if o.cmd = 0 then s.migReply g r else s.fillEntry o.cmd [((o.dev, p, g), (natOf (r.data.take 64), r.pois.any id))] (r.status != 0)
    | .counter a => s.heardPoll o.ctx a (natOf (r.data.take 64)) (r.pois.any id) (if r.status != 0 then some (remoteFault r.status) else none)
    | _ => s
  | some c =>
    if c.st == .faulted then s
    else if r.status != 0 then s.accessRaise c.id (remoteFault r.status)
    else if r.poisonedTarget then s.accessRaise c.id targetPoison
    else match o.what with
      | .own =>
        match s.team c.team with
        | none => s
        | some t =>
          if c.op == .nmcas then
            (s.wordResult t c (wbits c.w0 31 1 == 1) (wbits c.w0 28 3) (viewAddr c.w0) (r.data.take 8) (poisAt r.pois)).finish c.id 0
          else s.requestDone t c (r.data.take (if c.op == .fatom then 8 else reqSize c.w0)) (poisAt r.pois)
      | .page p g => s.setCmd { c with fetched := c.fetched ++ [((o.dev, p, g), (natOf (r.data.take 64), r.pois.any id))] }
      | .copyRead => s.setCmd { c with arrived := some (r.data, r.pois) }
      | .pageWrite | .copyWrite => s.countFill c o.bytes
      | .message | .counter _ => s

/-- The strands that wait at a cross-device barrier take FAB-TIMEOUT where `p` says so of context, group, count and members (R356). -/
def State.barrierFail (s : State) (p : Nat → Nat → Nat → List Nat → Bool) : State :=
  s.teams.foldl (fun s t =>
    let hit := (s.teamStrands t.id).filter fun st => st.waits.any fun w => match w with
      | .crossBarrier g n l => p t.ctx g n l
      | _ => false
    if hit.isEmpty then s
    else s.chosen.takeFault t.id (stopCycle (t.tcyc + 1) s.choice) (hit.map fun st => (st.index, st.pc, .of .engFabTimeout .outside 9, 0))) s

/-- A request has had no answer at last (R276): its command, its barrier, its entry or its migration fails. -/
def State.requestFails (s : State) (o : Outstanding) : State :=
  match o.req.body with
  | .barrier g n => s.barrierFail fun ctx g' n' _ => ctx == o.ctx && g' == g && n' == n
  | _ =>
    if o.pulls then s.migFail
    else if let .counter a := o.what then s.heardPoll o.ctx a 0 false (some (.of .engFabTimeout .access 0))
    else if (s.cmd o.cmd).isSome then s.accessRaise o.cmd (.of .engFabTimeout .access 0)
    else s.fillEntry o.cmd [] true

/-- UNTIMED_RESPONSE (R274, R276, R277, R377): the oldest request of its stream is answered; a response already answered, or to another
incarnation of the peer, is dropped. -/
def execUntimedResponse (r : UntimedReply) (s : State) : Host.Outcome State Fault Refusal :=
  match s.fabric.outstanding.find? (·.id == r.req) with
  | none => .next s
  | some o =>
    if !s.fabric.joined || r.inc != o.inc || SMap.get 0 s.fabric.peers o.dev != r.inc ||
        (s.fabric.outstanding.takeWhile (·.id != o.id)).any o.sameStream || !o.tried then .next s
    else
      let s := { s with fabric := { s.fabric with outstanding := s.fabric.outstanding.filter (·.id != o.id) } }
      .next (s.deliverReply o r)

/-- UNTIMED_TIMEOUT (R276): a timer is extended once where a link of the path replays, and DESIGN CHOICE (log 104) once again after a resend; else the
request and the later ones of its stream are sent again, three times at most. A request that waits to be sent has no timer while the device is in a
domain; outside of one nothing is sent (R254), and it expires like the others. -/
def execUntimedTimeout (req : Nat) (replaying : Bool) (s : State) : Host.Outcome State Fault Refusal :=
  match s.fabric.outstanding.find? (·.id == req) with
  | none => .next s
  | some o =>
    let next := s.cyc + 8 * s.fabric.round
    let put (f : Outstanding → Outstanding) : State :=
      { s with fabric := { s.fabric with outstanding := s.fabric.outstanding.map f } }
    if s.cyc < o.deadline || (s.fabric.joined && !o.sent) then .next s
    else if replaying && !o.extended then
      .next (put fun q => if q.id == req then { q with deadline := next, extended := true } else q)
    else if o.resent < 3 then
      let later := (s.fabric.outstanding.dropWhile (·.id != req)).map (·.id)
      let s' := put fun q => if o.sameStream q && later.contains q.id then
        { q with deadline := next, extended := false, sent := false, resent := if q.id == req then q.resent + 1 else q.resent } else q
      .next s'.pump
    else .next ({ s with fabric := { s.fabric with outstanding := s.fabric.outstanding.filter (·.id != req) } }.requestFails o)

/-! ### Requests of peers -/

/-- The next sequence number expected of a peer's stream (R274). -/
def Fabric.expected (f : Fabric) (r : UntimedRequest) : Nat :=
  ((f.incoming.find? fun x => x.ctx == r.ctx && x.dev == r.src && x.cls == r.cls).map (·.next)).getD 0

/-- A peer's stream goes on by one request. -/
def Fabric.advance (f : Fabric) (r : UntimedRequest) : Fabric :=
  { f with incoming := (nextSeq r.ctx r.src r.cls none f.incoming).2.2 }

/-- Whether a request of a peer is accepted by its incarnation (R254, R277). DESIGN CHOICE (log 108): the incarnation recorded of a peer whose beacon has
not come is 0. -/
def State.accepts (s : State) (r : UntimedRequest) : Bool :=
  s.fabric.joined && r.src < s.fabric.devices && r.src != s.fabric.devid && SMap.get 0 s.fabric.peers r.src == r.inc

/-- Gives a response (R272): it leaves as soon as its path is open (R275). -/
def State.answer (s : State) (r : UntimedRequest) (status : BitVec 8) (poisonedTarget : Bool) (data : List Byte) (pois : List Bool) : State :=
  let x : UntimedReply := { req := 0, inc := s.fabric.incarn, status, poisonedTarget, data, pois }
  { s with fabric := { s.fabric with
      replies := s.fabric.replies ++ [{ dev := r.src, ctx := r.ctx, cls := r.cls, sseq := r.sseq, reply := x, flits := replyFlitCount x }] } }

/-- Keeps the response to a write or atomic for a duplicate of it: the last 256 of each source (R276). -/
def State.remember (s : State) (r : UntimedRequest) (status : BitVec 8) (poisonedTarget : Bool) (data : List Byte) : State :=
  let mine := s.fabric.cache.filter (·.src == r.src)
  let others := s.fabric.cache.filter (·.src != r.src)
  let new : Cached := { src := r.src, ctx := r.ctx, cls := r.cls, sseq := r.sseq, status, poisonedTarget, data }
  { s with fabric := { s.fabric with cache := others ++ (mine ++ [new]).drop (mine.length + 1 - 256) } }

/-- A duplicate of a write or atomic is answered from the cache (R276). -/
def State.answerAgain (s : State) (r : UntimedRequest) : State :=
  match s.fabric.cache.find? fun q => q.src == r.src && q.ctx == r.ctx && q.cls == r.cls && q.sseq == r.sseq with
  | some q => s.answer r q.status q.poisonedTarget q.data []
  | none => s

/-- Whether a sequence number is ahead of the one expected (R274), modulo 2^32 (R258). -/
def seqAhead (next sseq : Nat) : Bool :=
  let d := (sseq + 2 ^ 32 - next % 2 ^ 32) % 2 ^ 32
  0 < d && d < 2 ^ 31

/-- UNTIMED_READ_REQUEST (R272, R274, R276): a duplicate read performs again; one ahead of its stream is dropped. -/
def execUntimedReadRequest (r : UntimedRequest) (s : State) : Host.Outcome State Fault Refusal :=
  if !s.accepts r || seqAhead (s.fabric.expected r) r.sseq then .next s
  else
    let s := if r.sseq = s.fabric.expected r then { s with fabric := s.fabric.advance r } else s
    match s.context r.ctx with
    | none => .next (s.answer r (failStatus 1) false [] [])
    | some x =>
      match s.windowRead x r.win r.off r.size 0 (some r.src) with
      | .error k => .next (s.answer r (failStatus k) false [] [])
      | .ok g => .next ((s.noteForeign x g.touched).answer r 0 false (bytesOf r.size g.val) (g.poisBits r.off r.size))

/-- A request of a peer that is no read (R274, R276): one ahead of its stream is dropped, a duplicate is answered from the cache, and the next one
is performed, answered and remembered. -/
def State.perform (s : State) (r : UntimedRequest) (f : State → State × BitVec 8 × Bool × List Byte) : State :=
  if !s.accepts r || seqAhead (s.fabric.expected r) r.sseq then s
  else if r.sseq ≠ s.fabric.expected r then s.answerAgain r
  else
    let res := f { s with fabric := s.fabric.advance r }
    (res.1.answer r res.2.1 res.2.2.1 res.2.2.2 []).remember r res.2.1 res.2.2.1 res.2.2.2

/-- The effect of a write request of a peer (R272, R378). -/
def State.performWrite (s : State) (r : UntimedRequest) : State × BitVec 8 × Bool × List Byte :=
  match s.context r.ctx with
  | none => (s, failStatus 1, false, [])
  | some x =>
    match r.body with
    | .element fmt rop alpha =>
      match s.windowElement x r.win r.off (some r.src) { fmt, rop, alpha } (natOf r.data) (r.pois.any id) with
      | .error k => (s, failStatus k, false, [])
      | .ok s' => (s', 0, false, [])
    | _ =>
      match s.windowWrite x r.win r.off 1 (some r.src) r.data r.mask (poisAt r.pois) with
      | .error k => (s, failStatus k, false, [])
      | .ok s' => (s', 0, false, [])

/-- UNTIMED_WRITE_REQUEST (R272, R274, R276, R378): a write, or the update of an element of a page that a peer maps (R146, R422; log 27). -/
def execUntimedWriteRequest (r : UntimedRequest) (s : State) : Host.Outcome State Fault Refusal :=
  .next (s.perform r fun s => s.performWrite r)

/-- The effect of an atomic request of a peer (R270, R272, R273, R378): of 8 bytes at a multiple of 8, and of no other size; nothing is done on a
poisoned word. -/
def State.performAtomic (s : State) (r : UntimedRequest) : State × BitVec 8 × Bool × List Byte :=
  match s.context r.ctx with
  | none => (s, failStatus 1, false, [])
  | some x =>
    if r.size ≠ 8 || r.off % 8 ≠ 0 || 9 < r.op then (s, failStatus 6, false, [])
    else match s.windowAtomic x r.win r.off r.op (some r.src) r.x r.cmp with
    | .error k => (s, failStatus k, false, [])
    | .ok (s', none) => (s', 0, true, [])
    | .ok (s', some old) => (s', 0, false, bytesOf 8 old.toNat)

/-- UNTIMED_ATOMIC_REQUEST (R272, R273, R276, R378): one indivisible read-modify-write. -/
def execUntimedAtomicRequest (r : UntimedRequest) (s : State) : Host.Outcome State Fault Refusal :=
  .next (s.perform r fun s => s.performAtomic r)

/-- COLLECTIVE_REQUEST (R232, R234): a message of a member is acknowledged and held for the matching COLL; a device without the context or the
group gives no answer. -/
def execCollectiveRequest (r : UntimedRequest) (s : State) : Host.Outcome State Fault Refusal :=
  match r.body with
  | .collective q =>
    if q.dev ≠ r.src || q.ctx ≠ r.ctx || (s.context q.ctx).isNone || !s.inGroup q.ctx q.group q.dev then .next s
    else .next (s.perform r fun s => (s.collReceive q, 0, false, []))
  | _ => .next s

/-- A barrier request as a request of its stream (R274, R355). -/
def barrierMessage (h : MessageHead) (ctx group count : Nat) : UntimedRequest :=
  { UntimedRequest.blank with src := h.src, ctx, cls := h.cls, sseq := h.sseq, inc := h.inc, body := .barrier group count }

/-- BARRIER_REQUEST (R355): a member's arrival at a cross-device barrier is counted and acknowledged. -/
def execBarrierRequest (h : MessageHead) (ctx group count : Nat) (s : State) : Host.Outcome State Fault Refusal :=
  if (s.context ctx).isNone || !s.inGroup ctx group h.src then .next s
  else .next (s.perform (barrierMessage h ctx group count) fun s =>
    ({ s with fabric := { s.fabric with barriers := s.fabric.barriers ++ [(h.src, ctx, group, count)] } }, 0, false, []))

/-- UNTIMED_RELAY_FORWARD (R257, R258, R266, R275, R277): on an intermediate device, untimed flits of another pair's stream enter the part of the
relay buffer that untimed traffic has, for which their source has held credit; they leave, oldest of their pair first, on the port that faces their
destination, with RLY and under the key of that pair, and their credit goes back to the source. On the source, the credit is back. -/
def execUntimedRelayForward (r : RelayedFlits) (s : State) : Host.Outcome State Fault Refusal :=
  let f := s.fabric
  let same (x : RelayedFlits) : Bool := x.src == r.src && x.dst == r.dst
  if !f.joined then .next s
  else if r.src = f.devid then
    if r.credit && SMap.get 0 f.peers r.via = r.inc then
      .next ({ s with fabric := { f with credit := SMap.set 0 f.credit r.via (SMap.get 0 f.credit r.via - r.flits.length) } }.pump)
    else .next s
  else if r.via ≠ f.devid || r.dst = f.devid || SMap.get 0 f.peers r.src ≠ r.inc then .next s
  else if !r.credit then
    .next { s with fabric := { f with untimedRelay := f.untimedRelay ++ [r] } }
  else match f.untimedRelay.find? same with
    | some x =>
      let p := f.portTo x.dst
      if f.meets s.cyc x.dst && f.roomFor p s.cyc x.flits.length then
        let l := x.flits.map (relayFlit (f.pairKey x.dst))
        .next { s with
          fabric := { ((f.takeSlots p s.cyc l.length).keepUntimed p (s.cyc / 4096) l) with untimedRelay := dropFirst same f.untimedRelay }
          out := s.out ++ [.relayed p x l, .credit x.src l.length] }
      else .next s
    | none => .next s

/-! ### Links, beacons, incarnations -/

/-- LINK_CONTROL_FLIT (R259, R277): the acknowledgement of a link, the number of the first flit it has not received, from the device that the port
faces. -/
def execLinkControlFlit (port link : Nat) (ack : LinkAck) (s : State) : Host.Outcome State Fault Refusal :=
  .next (if s.fabric.joined && port < 16 && link < 4 &&
      SMap.get 0 s.fabric.peers (s.fabric.facing (s.cyc / 4096) port) = ack.inc then s.acknowledge port link ack.num else s)

/-- LINK_FAILURE (R259): the link is marked down at the next guard interval. -/
def execLinkFailure (port link : Nat) (s : State) : Host.Outcome State Fault Refusal :=
  if port < 16 && link < 4 then .next { s with fabric := { s.fabric with failing := s.fabric.failing ++ [(port, link)] } }
  else .next s

/-- Whether an endpoint is on another device, and on `dev` where that is one. -/
def Endpoint.onPeer (e : Option Endpoint) (me : Nat) (dev : Option Nat) : Bool :=
  match e with
  | some (.peer d _ _ _ _) => d != me && (dev.isNone || dev == some d)
  | _ => false

/-- Whether a started command is one with untimed traffic to a peer under way, or to any device (R218, R277, R278). -/
def State.engaged (s : State) (c : Cmd) (dev : Option Nat) : Bool :=
  let me := s.fabric.devid
  (s.fabric.outstanding.any fun o => o.cmd == c.id && (dev.isNone || dev == some o.dev)) ||
  match c.op with
  | .coll => match dev with
    | some d => c.members.contains d
    | none => 1 < c.members.length
  | .copy => Endpoint.onPeer c.src me dev || Endpoint.onPeer c.dst me dev
  | .fld | .fst | .fatom => !reqLoc c.w0 && reqDev c.w0 != me && (dev.isNone || dev == some (reqDev c.w0))
  | _ => false

/-- Ends a command with PEER-RESET (R77, R277): what the reply of an FLD or FATOM would have written, the destination of a COPY and the buffer of
a COLL are unspecified (R218, R232, R378), so the model writes free values there (log 5). -/
def State.peerReset (s : State) (c : Cmd) : State :=
  let s : State := match c.op, s.team c.team with
    | .fld, some t | .fatom, some t =>
      let n := if c.op == .fatom then 1 else reqSize c.w0 / 8
      ({ s with fresh := s.fresh + n }).wordResult t c (reqMbx c.w0) (reqMb c.w0) (viewAddr c.w0) (freeBytes s.fresh (8 * n)) fun _ => false
    | .copy, _ => s.looseDst c
    | .coll, _ => s.looseDst { c with dst := c.src }
    | _, _ => s
  s.finish c.id 4

/-- Ends the untimed commands under way with a peer, or all of them, and forgets their requests. -/
def State.resetTraffic (s : State) (dev : Option Nat) : State :=
  let s := (s.cmds.filter fun c => c.st == .running && s.engaged c dev).foldl State.peerReset s
  let other (d : Nat) : Bool := dev.isSome && dev != some d
  let f := s.fabric
  let s : State := { s with fabric := { f with
      outstanding := f.outstanding.filter fun o => other o.dev
      streams := f.streams.filter fun x => other x.dev } }
  if f.outstanding.any fun o => o.pulls && !other o.dev then s.migFail else s

/-- A peer's new incarnation (R277). -/
def State.peerChange (s : State) (dev : Nat) (inc : BitVec 16) : State :=
  if SMap.get 0 s.fabric.peers dev = inc then s
  else
    let s := (s.resetTraffic (some dev)).barrierFail fun _ _ _ l => l.contains dev
    let f := s.fabric
    { s with fabric := { f with
        peers := SMap.set 0 f.peers dev inc
        incoming := f.incoming.filter (·.dev != dev)
        cache := f.cache.filter (·.src != dev)
        replies := f.replies.filter (·.dev != dev)
        credit := SMap.set 0 f.credit dev 0
        relays := f.relays.filter fun r => r.a.src != dev && f.facing r.turn r.port != dev
        untimedRelay := f.untimedRelay.filter fun r => r.src != dev && r.dst != dev } }

/-- PEER_INCARNATION_CHANGE (R277). -/
def execPeerIncarnationChange (dev : Nat) (inc : BitVec 16) (s : State) : Host.Outcome State Fault Refusal :=
  .next (if s.fabric.joined && dev < s.fabric.devices && dev ≠ s.fabric.devid then s.peerChange dev inc else s)

/-- A flight time after the loopback path has changed by `x` (R255; log 104). -/
def flightMoved (x : Int) (n : Nat) : Nat := ((n : Int) + x).toNat

/-- BEACON (R255, R277, R278): the receiver subtracts the flight time of the path from the time the beacon took by its own counter, which gives the
counter offset of a peer, and the beacon gives the peer's incarnation. The device's own beacon, on the loopback turn, keeps the flight
times of all paths current: each changes as the loopback path has. -/
def execBeacon (dev port sent : Nat) (inc : BitVec 16) (s : State) : Host.Outcome State Fault Refusal :=
  let f := s.fabric
  let g := s.cyc / 4096
  if f.joined && port < 16 && f.facing g port = dev && 48 ≤ s.cyc % 4096 && s.cyc % 4096 < 160 then
    if dev = f.devid then .next { s with fabric := { f with flight := f.flight.map (flightMoved (((s.cyc - sent : Nat) : Int) - f.flight.getD 0 0)) } }
    else
      let s := s.peerChange dev inc
      let x : Int := (s.cyc : Int) - sent - f.flight.getD (16 * (g % f.turns) + port) 0
      .next { s with fabric := { s.fabric with offsets := s.fabric.offsets ++ [x] } }
  else .next s

/-- Insertion of an offset in order. -/
def insertInt (x : Int) : List Int → List Int
  | [] => [x]
  | y :: l => if x ≤ y then x :: y :: l else y :: insertInt x l

/-- The median of offsets, 0 of none (R278). DESIGN CHOICE (log 108): of an even number, the lower of the middle two. -/
def median (l : List Int) : Int := (l.foldr insertInt []).getD ((l.length - 1) / 2) 0

/-- Loss of counter alignment (R278). -/
def State.desync (s : State) (m : Int) : State :=
  let hit := s.contexts.filter fun x => s.teams.any fun t => t.ctx == x.num && s.inFabricSection t.id
  let s := hit.foldl (fun s x =>
    s.logEvent x.num none (s.plainRecord x.num { Raised.of .eventDesync .outside 0 with detail := BitVec.ofInt 64 m })) s
  let s := ({ s with fabric := { s.fabric with joined := false, replies := [] } }.withdrawAll fun _ => true).resetTraffic none
  { s with out := s.out ++ [.report "desync" m.natAbs (if m < 0 then 1 else 0)] }

/-- ROUND_END (R278): the median of the round's offsets trims the clock, or alignment is lost. -/
def execRoundEnd (s : State) : Host.Outcome State Fault Refusal :=
  if s.fabric.joined && (s.cyc + 1) % s.fabric.round = 0 then
    let m := median s.fabric.offsets
    let s := { s with fabric := { s.fabric with offsets := [], trim := if m.natAbs ≤ 2 then s.fabric.trim else s.fabric.trim - m } }
    .next (if 16 < m.natAbs then s.desync m else s)
  else .next s

end Sys2Proof.Machine
end

