-- ==== Sys2Proof/Machine/Engines.lean ====
section
/-! DEFINITION. The start, the steps and the completion of an engine command of any engine but the cube (R74, R76, R80, R213, R240), and the
address generator's side of the queues (R235, R236, R436, R486). -/

namespace Sys2Proof.Machine

/-! ### Commands -/

/-- The start of a strand's command by its operation, its start checks included (R280). -/
def State.startOp (s : State) (x : Context) (t : Team) (old : Nat) (c : Cmd) : State :=
  match c.op with
  | .copy => s.copyStart x t old c
  | .ccopy => s.ccopyStart x t old c
  | .layout => s.layoutStart x t old c
  | .scat => s.scatStart x t old c
  | .nmred | .nmsac => s.nmStart x t old c
  | .nmcas => s.nmcasStart x t old c
  | .sig => s.wordStart x old c c.w0
  | .probe | .probeReq => s.probeStart x t old c
  | .fsend => s.fsendStart t c
  | .frecv => s.frecvStart t c
  | .fld | .fst | .fatom => s.requestStart t c
  | .coll => s.collStart x t old c
  | .lease => s.leaseStart t c
  | .unlease => s.unleaseStart t c
  | .hset | .tshoot => s.begin c 1
  | .launch | .cube | .cubeh | .wld | .wldSp | .wswap => s

/-- Whether a strand's command may start in this cycle: no command of a context that is being destroyed does (R304). -/
def State.mayStart (s : State) (t : Team) (c : Cmd) : Bool :=
  c.notBefore ≤ s.cyc && !s.ending c.ctx &&
  match c.op with
  | .fsend | .frecv => s.timedReady c
  | .lease => s.leaseReady t c
  | .unlease => s.unleaseReady t c
  | .launch | .cube | .cubeh | .wld | .wldSp | .wswap => false
  | _ => s.startReady c

/-- The descriptors of a view, its scale tensor's included, go into the device's caches (R126). -/
def State.cacheBound (s : State) (x : Context) (tower : Nat) (b : Bound) : State :=
  let s := s.cacheDesc x tower b.view.tid
  if b.scale.isSome then s.cacheDesc x tower b.desc.scaleid else s

/-- The descriptors a command has read of an endpoint go into the caches. -/
def State.cacheEnd (s : State) (x : Context) (tower : Nat) (e : Option Endpoint) : State :=
  match e with
  | some (.view b) => s.cacheBound x tower b
  | _ => s

/-- What the start of a command leaves in the caches. -/
def State.cacheEnds (s : State) (x : Context) (cmd : Nat) : State :=
  match s.cmd cmd with
  | some c => (s.cacheEnd x c.tower c.src).cacheEnd x c.tower c.dst
  | none => s

/-! ### Reads of the ring (R157, R239) -/

/-- The ring ranges that the start of a command reads: address, view, first byte and length. -/
def Cmd.startReads (c : Cmd) : List (BitVec 28 × Bool × Nat × Nat) :=
  match c.op with
  | .copy | .ccopy => [(cpwEadr c.w0, false, 0, 256)]
  | .layout => [(cpwEadr c.w1, false, 0, 256)]
  | .scat => if scatView c.w0 then [(scatTadr c.w1, false, 0, 128)] else []
  | .nmred | .nmsac => [(viewAddr c.w1, false, 0, 128)]
  | .probe | .probeReq => [(viewAddr c.w0, false, 0, 128)]
  | .coll => [(viewAddr c.w0, false, 0, 256)]
  | _ => []

/-- The ring ranges that the next step of a command reads. -/
def Cmd.stepReads (c : Cmd) : List (BitVec 28 × Bool × Nat × Nat) :=
  match c.op, c.src, c.dst with
  | .copy, some (.ring a diag f _), some d => [(a, diag, 1024 * c.xpc * codeBytes f, min 1024 (d.count - 1024 * c.xpc) * codeBytes f)]
  | .ccopy, some (.ring a diag _ n), _ => [(a, diag, 0, n)]
  | .scat, _, _ =>
    let n := min 64 (scatCount c.w1 - 64 * c.xpc)
    let sz := codeBytes (scatFmt c.w0)
    [(scatIadr c.w0, false, 256 * c.xpc, 4 * n), (scatVadr c.w0, false, 64 * c.xpc * sz, n * sz)]
  | .nmred, _, some d | .nmsac, _, some d =>
    [(viewAddr c.w0, false, 256 * c.xpc * codeBytes d.fmt, min 256 (d.count - 256 * c.xpc) * codeBytes d.fmt)]
  | .nmcas, _, _ => [(viewAddr c.w0, false, 0, 16)]
  | .fst, _, _ | .fatom, _, _ => [(viewAddr c.w0, false, 0, c.ringBytes)]
  | _, _, _ => []

/-- The lines that ranges of a team's belt lie in. -/
def Team.readLines (t : Team) (l : List (BitVec 28 × Bool × Nat × Nat)) : List Nat :=
  ((l.filter fun r => t.rangeOk r.1 (r.2.2.1 + r.2.2.2)).flatMap fun r => t.linesOf r.1 r.2.1 r.2.2.1 r.2.2.2).eraseDups

/-- A command reads those lines of ranges that it has not read and whose bank is free; whether it has all of them now. -/
def State.gather (s : State) (t : Team) (c : Cmd) (l : List (BitVec 28 × Bool × Nat × Nat)) : Cmd × Bool :=
  let need := t.readLines l
  let new := (need.filter fun k => !(c.lines.any (·.1 == k)) && s.lineFree k).map fun k =>
    (k, natOf (Memory.readBytes s.ring (64 * k) 64), s.tag (64 * k) == 0xFFFF#16)
  ({ c with lines := c.lines ++ new }, need.all fun k => (c.lines ++ new).any (·.1 == k))

/-- The lines a command has newly read. -/
def Cmd.newLines (c c' : Cmd) : List Nat := (c'.lines.drop c.lines.length).map (·.1)

/-- The ring as a command has read it, line by line; a parcel one of whose lines was poisoned when it was read counts as poisoned (log 89). -/
def State.withLines (s : State) (l : List (Nat × Nat × Bool)) : State :=
  let parcels := (l.map (·.1 / 64)).eraseDups
  let tag (p : Nat) : BitVec 16 :=
    if l.any fun e => e.1 / 64 == p && e.2.2 then 0xFFFF#16
    else if SMap.get 0 s.tags p == 0xFFFF#16 then 0 else SMap.get 0 s.tags p
  { s with
    ring := l.foldl (fun m e => writeKeys m ((List.range 64).map fun i => 64 * e.1 + i) (bytesOf 64 e.2.1)) s.ring
    tags := parcels.foldl (fun m p => SMap.set 0 m p (tag p)) s.tags }

/-- The source bytes of a copy that it has newly read from the ring count in its handle (R221). -/
def State.countLines (s : State) (c c' : Cmd) : State := s.countDrain c ((s.team c.team).elim 0 fun t => Cmd.newBytes t c c')

/-- A start or a step of a command over the lines it has read, in earlier cycles too; starts and steps write nothing in the ring at once. -/
def State.overLines (s : State) (c : Cmd) (lines : List (Nat × Nat × Bool)) (f : State → State) : State :=
  if c.lines.isEmpty then f s else { f (s.withLines lines) with ring := s.ring, tags := s.tags }

/-- ENGINE_COMMAND_START (R74, R80, R240): the command starts once its tokens and its queue allow and what it reads of the ring is there, with
the checks of its start. A descriptor or translation may be one the device has cached (R126, R135): a choice for each access. -/
def execEngineCommandStart (cmd : Nat) (s : State) : Host.Outcome State Fault Refusal :=
  match s.cmd cmd with
  | none => .next s
  | some c =>
    match s.team c.team, s.context c.ctx with
    | some t, some x =>
      if c.packet.isNone && s.mayStart t c then
        match s.tokenFault c with
        | some r => .next ((if c.op == .coll then s.collAbort x c else s).commandFault c r)
        | none =>
          match s.gather t c c.startReads with
          | (c', false) => .next ((s.noteRead c c.startReads (c.newLines c')).setCmd c')
          | (c', true) => .next (((s.noteRead c c.startReads (c.newLines c')).chosen.overLines c c'.lines fun u => u.startOp x t s.choice c).cacheEnds x cmd)
      else .next s
    | _, _ => .next s

/-- A step of a running command by its operation. A packet's command has no team. -/
def State.stepOp (s : State) (x : Context) (t : Option Team) (old : Nat) (c : Cmd) : State :=
  match c.op, t with
  | .copy, _ => s.copyStep x old c t
  | .layout, _ => s.layoutStep x old c
  | .ccopy, some t => s.ccopyStep x old c t
  | .scat, some t => s.scatStep x old c t
  | .nmred, some t | .nmsac, some t => s.nmStep x old c t
  | .nmcas, some t => s.nmcasStep x old c t
  | .sig, _ => s.sigStep x old c
  | .probe, _ | .probeReq, _ => s.probeStep x old c
  | .tshoot, _ => s.tshootStep c
  | .fld, some t | .fst, some t | .fatom, some t => s.requestStep x t c
  | _, _ => s

/-- The tower whose engine runs a packet of queue `q` (R100): the first online one from q on. -/
def State.packetTower (s : State) (q : Nat) : Option Nat := ((List.range 4).map fun i => (q + i) % 4).find? fun t => (s.tower t).online

/-- A packet's command whose tower has gone offline goes on on the next online tower (R100, R311); no tower, no command. -/
def State.movePacket (s : State) (c : Cmd) : Option Cmd :=
  match c.packet with
  | some (q, _) => if (s.tower c.tower).online then some c else (s.packetTower q).map fun t => { c with tower := t }
  | none => some c

/-- ENGINE_STEP (R80, R213): the next step of an expanding command, once what it reads of the ring is there. The next one runs in a later cycle,
by choice. -/
def execEngineStep (cmd : Nat) (s : State) : Host.Outcome State Fault Refusal :=
  match s.cmd cmd with
  | none => .next s
  | some c =>
    match s.context c.ctx, s.movePacket c with
    | some x, some c =>
      if s.stepReady c && c.notBefore ≤ s.cyc then
        match (s.team c.team).elim (c, true) fun t => s.gather t c c.stepReads with
        | (c', false) => .next (((s.noteRead c c.stepReads (c.newLines c')).setCmd c').countLines c c')
        | (c', true) =>
          let d := { c with notBefore := s.cyc + 1 + s.chosen.choice }
          .next ((((s.noteRead c c.stepReads (c.newLines c')).chosen.chosen.setCmd d).countLines c c').overLines c c'.lines fun u => u.stepOp x (s.team c.team) s.choice d)
      else .next s
    | _, _ => .next s

/-- Whether a command completes of itself once its steps have run and its requests are answered. -/
def CmdOp.plain : CmdOp → Bool
  | .copy | .ccopy | .layout | .scat | .nmred | .nmcas | .nmsac | .sig | .probe | .probeReq => true
  | _ => false

/-- ENGINE_COMMAND_COMPLETE (R76, R214): every access of the command has performed, and its token goes DONE with status OK. -/
def execEngineCommandComplete (cmd : Nat) (s : State) : Host.Outcome State Fault Refusal :=
  match s.cmd cmd with
  | none => .next s
  | some c =>
    if c.op.plain && c.st == .running && c.steps ≤ c.xpc && !s.unanswered cmd then .next (s.finish cmd 0) else .next s

/-! ### The address generator -/

/-- What the generator keeps of a view it reads (R436), with the descriptor cached or present, by choice (R126). -/
def State.readQv (s : State) (x : Context) (t : Team) (addr : BitVec 28) : QvState :=
  if !t.rangeOk addr 128 then .invalid
  else
    let g := s.ringGet t addr false 0 128
    if g.2 then .poisoned
    else match s.bindView x s.choice (viewOf g.1) with
      | .error _ => .invalid
      | .ok b => if codeWidth b.desc.fmt < 8 || isMx b.desc.fmt then .invalid else .valid b

/-- What the read of a view leaves in the caches (R126). -/
def State.cacheQv (s : State) (x : Context) (tower : Nat) (q : QvState) : State := match q with
  | .valid b => s.cacheBound x tower b
  | _ => s

/-- QV_VIEW_READ (R235, R436): the view and descriptor of a newly written slot are read within 32 tower cy, in a cycle in which its banks are free,
by choice, and at the latest in the 32nd (log 103). -/
def execQvViewRead (team strand slot : Nat) (s : State) : Host.Outcome State Fault Refusal :=
  match s.team team, s.strand team strand with
  | some t, some st =>
    match s.context t.ctx, (st.qv.get (Fin.ofNat 4 slot)).readAt with
    | some x, some r =>
      let q := st.qv.get (Fin.ofNat 4 slot)
      let addr := q.reg.extractLsb' 0 28
      let last := r + 32 ≤ (s.tower (t.strandTower strand)).time
      if t.onCores && slot < 4 && (last || (s.choice / 2 ^ 64 % 2 == 1 && (t.readLines [(addr, false, 0, 128)]).all s.lineFree)) then
        let q' : QvSlot := { q with readAt := none, st := s.readQv x t addr }
        .next ((s.setStrand { st with qv := st.qv.set (Fin.ofNat 4 slot) q' }).cacheQv x (t.strandTower strand) q'.st)
      else .next s
    | _, _ => .next s
  | _, _ => .next s

/-- Replaces an entry of a strand's queues. -/
def Strand.setEntry (st : Strand) (e : AqEntry) : Strand := { st with aq := st.aq.map fun x => if x.id == e.id then e else x }

/-- The traces of an address generator's read, and its ZERO-FILL events (R140). -/
def State.noteEntry (s : State) (x : Context) (t : Team) (strand : Nat) (e : AqEntry) : List Touch → State
  | [] => s
  | y :: l =>
    let s := s.noteTouch x (t.strandTower strand) y
    let s := if y.zeroed then
        s.logEvent x.num (some t.grid) (s.strandRecord t strand e.pc
          { Raised.of .eventZeroFill .access (entryDetail y.tid y.t y.gran) with slot := e.slot } 0)
      else s
    State.noteEntry s x t strand e l

/-- The data of an entry (R236, R436). -/
def State.readEntry (s : State) (x : Context) (t : Team) (st : Strand) (e : AqEntry) : State :=
  match e.src, e.invalid with
  | some (b, n0), false =>
    match mapStop (fun i => s.viewElem x s.choice e.fetched b (n0 + i)) (List.range b.perEntry) with
    | .error (.peer d p g) =>
      if s.fabric.outstanding.any fun o => o.cmd == e.id then s else s.fetchGranule e.id x.num d p g
    | .error (.raise r) =>
      if e.spec then s.setStrand (st.setEntry { e with invalid := true, place := .arrived })
      else (s.setStrand (st.setEntry { e with place := .arrived })).chosen.takeFault t.id (stopCycle (t.tcyc + 1) s.choice)
        [(st.index, e.pc, { r with slot := e.slot }, 0)]
    | .ok (l, tch) =>
      let data := BitVec.ofNat 512 (undigits (codeWidth b.desc.fmt) (l.map (·.val)))
      (s.setStrand (st.setEntry { e with place := .arrived, data, pois := l.any fun v => v.pois.isSome })).noteEntry x t st.index e tch
  | _, _ => s.setStrand (st.setEntry { e with place := .arrived })

/-- The granules of pages of peers that an entry needs and that have not been fetched for it, in order (R134). -/
def State.entryNeeds (s : State) (x : Context) (e : AqEntry) : List (Nat × Nat × Nat) :=
  match e.src with
  | some (b, n0) => ((List.range b.perEntry).filterMap fun i =>
      match s.viewElem x s.choice e.fetched b (n0 + i) with
      | .error (.peer d p g) => some (d, p, g)
      | _ => none).eraseDups
  | none => []

/-- Whether the data of an entry return now (R236, R486): its time has come, and no granule is outstanding for it. -/
def State.entryDue (s : State) (time : Nat) (e : AqEntry) : Bool :=
  e.place == .outstanding && e.pushed + 64 ≤ time && e.ready ≤ time && !(s.fabric.outstanding.any fun o => o.cmd == e.id)

/-- DQ_ENTRY_ARRIVE (R236, R436, R486): the data of an outstanding request return, 64 tower cy after its push or later, as a choice at the push
has it; so data return in any order. -/
def execDqEntryArrive (team strand : Nat) (s : State) : Host.Outcome State Fault Refusal :=
  match s.team team, s.strand team strand with
  | some t, some st =>
    match s.context t.ctx, st.aq.find? (s.entryDue (s.tower (t.strandTower strand)).time) with
    | some x, some e => .next (if t.onCores then s.readEntry x t st e else s)
    | _, _ => .next s
  | _, _ => .next s

/-- Whether a request leaves its bank now: within 4 tower cy of its push (R486). -/
def AqEntry.leaves (e : AqEntry) (time : Nat) : Bool := e.place == .queued && e.pushed + 4 ≤ time

/-- Requests leave their bank. -/
def Strand.sendRequests (st : Strand) (time : Nat) : Strand :=
  { st with aq := st.aq.map fun e => if e.leaves time then { e with place := .outstanding } else e }

/-- The generator of a strand sends its requests in push order (R236), those to pages of peers as reads of their granules. -/
def State.sendQueue (s : State) (t : Team) (i : Nat) : State :=
  match s.strand t.id i, s.context t.ctx with
  | some st, some x =>
    let time := (s.tower (t.strandTower i)).time
    let l := st.aq.filter (AqEntry.leaves · time)
    if l.isEmpty then s
    else l.foldl (fun s e => (s.entryNeeds x e).foldl (fun s n => s.fetchGranule e.id x.num n.1 n.2.1 n.2.2) s)
      (s.setStrand (st.sendRequests time))
  | _, _ => s

end Sys2Proof.Machine
end

