-- ==== Sys2Proof/Machine/Teams.lean ====
section
/-! DEFINITION. Teams and their resources (R20, R57 to R60, R83 to R86, R103 to R108, R111 to R119, R153, R168, R171, R493): placing,
loading and retiring teams, band leases, pre-emption, the save area and resume. -/

namespace Sys2Proof.Machine

/-! ### What is in use -/

/-- Whether a team holds its claims (R85, R103). -/
def Team.placed (t : Team) : Bool :=
  match t.st with
  | .loading | .resident | .stopping _ _ => true
  | _ => false

/-- The teams that hold their claims. -/
def State.placedTeams (s : State) : List Team := s.teams.filter Team.placed

/-- Physical tiles of a tower in use (R168). -/
def State.usedTiles (s : State) (tower : Nat) : List Nat :=
  s.placedTeams.flatMap fun t => (s.teamStrands t.id).flatMap fun st => if t.strandTower st.index = tower then st.tiles else []

/-- Physical accumulator tiles of a tower in use (R172). -/
def State.usedAccs (s : State) (tower : Nat) : List Nat :=
  s.placedTeams.flatMap fun t => (s.teamStrands t.id).flatMap fun st => if t.strandTower st.index = tower then st.accs else []

/-- Bytes of whole parcels a belt of so many KiB takes in each station (R153). -/
def beltBytes (kib : Nat) : Nat := 4096 * ((kib + 3) / 4)

/-- The belts of a tower: offset and bytes. -/
def State.usedBelts (s : State) (tower : Nat) : List (Nat × Nat) :=
  s.placedTeams.flatMap fun t =>
    ((List.range t.spans).filter fun x => t.tower x = tower).map fun x => (t.beltBases.getD x 0, beltBytes t.belt)

/-- The lowest free offset for a belt in every station of a tower (R153). -/
def State.freeBelt (s : State) (tower n : Nat) : Option Nat :=
  if n = 0 then some 0
  else ((List.range 512).map (4096 * ·)).find? fun b =>
    b + n ≤ 2 ^ 21 && (s.usedBelts tower).all fun e => b + n ≤ e.1 || e.1 + e.2 ≤ b

/-- Whether two requests for bands of one tower conflict (R197). -/
def bandsConflict (m1 : BitVec 16) (k1 : Nat) (m2 : BitVec 16) (k2 : Nat) : Bool := m1 &&& m2 != 0 || k1 == k2

/-- Whether a lease occupies its band: held, or granted with its replay under way. -/
def Claim.occupies (k : Claim) : Bool := k.st == .held || k.st == .replaying

/-- The claims of the teams other than one on a tower: those of placed teams, and the requests of teams that a timed YIELD has suspended, on the
towers they left (R197; log 92). -/
def State.towerClaims (s : State) (team tower : Nat) : List Claim :=
  (s.teams.filter fun t => t.id != team && (t.placed || (t.yieldAt.isSome && t.st == .saved))).flatMap fun t =>
    t.claims.filter fun k => t.tower k.btw == tower && (t.placed || k.st == .waiting)

/-- Whether a request made at (`cyc`, `core`) may be granted (R197). -/
def State.grantable (s : State) (team tower : Nat) (k : Claim) (cyc core : Nat) : Bool :=
  (s.towerClaims team tower).all fun x =>
    !bandsConflict k.mask k.trk x.mask x.trk ||
    !(x.occupies || (x.st == .waiting && (x.reqCyc < cyc || (x.reqCyc == cyc && x.reqCore < core))))

/-- Whether a waiting request of another team on its tower conflicts with a lease (R484). -/
def State.yieldConflict (s : State) (t : Team) (k : Claim) : Bool :=
  (s.towerClaims t.id (t.tower k.btw)).any fun x => x.st == .waiting && bandsConflict k.mask k.trk x.mask x.trk

/-- A fresh paced budget from a team cycle on (R108). -/
def Budget.fresh (tc : Nat) : Budget := .paced 256 (tc + 2 ^ 20)

/-! ### Placement (R20, R103) -/

/-- What a team needs: its identity, width, live strands, claims per strand, belt, bands and context. -/
structure Need where
  team : Nat
  ctx : Nat
  width : Nat
  live : List Nat
  ntile : Nat
  nacc : Nat
  belt : Nat
  claims : List Claim
  deriving DecidableEq, Repr

/-- Number of towers a width spans. -/
def widthSpans (w : Nat) : Nat := max 1 (w / 4)

/-- Strands of a width on its `x`-th tower. -/
def strandsOn (w x : Nat) : Nat := min 4 (w - 4 * x)

/-- When the request of a claim that is to be admitted was made: by the YIELD that suspended its team, or now (R103, R197). DESIGN CHOICE (log 105):
among the requests of one cycle an admission's stands behind every LEASE, whose cores are 0 to 15. -/
def State.requestTime (s : State) (k : Claim) : Nat × Nat := if k.st == .waiting then (k.reqCyc, k.reqCore) else (s.cyc, 16)

/-- The offsets of the belt on each tower where everything a team needs is free at a place; T0 to T7 of each strand need tiles with a metadata
plane (R168). -/
def State.fits (s : State) (n : Need) (t0 c0 : Nat) : Option (List Nat) :=
  let xs := List.range (widthSpans n.width)
  let bases := xs.map fun x => s.freeBelt ((t0 + x) % 4) (beltBytes n.belt)
  if (xs.all fun x =>
        let tw := (t0 + x) % 4
        (s.tower tw).online && (s.usedTiles tw).length + strandsOn n.width x * n.ntile ≤ 64 &&
        ((s.usedTiles tw).filter (· < 32)).length + strandsOn n.width x * min n.ntile 8 ≤ 32 &&
        (s.usedAccs tw).length + strandsOn n.width x * n.nacc ≤ 16) &&
      (n.live.all fun i => (s.core (4 * ((t0 + i / 4) % 4) + (c0 + i) % 4)).occupant.isNone) &&
      (n.claims.all fun k => s.grantable n.team ((t0 + k.btw) % 4) k (s.requestTime k).1 (s.requestTime k).2) &&
      bases.all Option.isSome &&
      ((s.placedTeams.map (·.ctx)) ++ [n.ctx]).eraseDups.length ≤ 16
  then some (bases.map fun b => b.getD 0) else none

/-- The places a team may take. -/
def State.places (s : State) (n : Need) : List (Nat × Nat × List Nat) :=
  (List.range 16).filterMap fun i => (s.fits n (i / 4) (i % 4)).map fun b => (i / 4, i % 4, b)

/-- Whether a width can be placed on consecutive online towers (R20). -/
def State.placeable (s : State) (w : Nat) : Bool :=
  (List.range 4).any fun t0 => (List.range (widthSpans w)).all fun x => (s.tower ((t0 + x) % 4)).online

/-- The claims of a launch record as a team starts with them (R107). -/
def LaunchRec.claims (r : LaunchRec) : List Claim :=
  r.bands.map fun (m, trk, btw) =>
    { mask := m, trk, btw, st := .held, budget := .none, reqCyc := 0, reqCore := 0, replayEnd := 0, recActive := [], recShadow := [] }

/-- What a grid's next unstarted team needs. -/
def Grid.need (g : Grid) : Need :=
  { team := 0, ctx := g.ctx, width := g.launch.wm1 + 1, live := List.range (g.launch.wm1 + 1), ntile := g.launch.ntile,
    nacc := g.launch.nacc, belt := g.launch.belt, claims := g.launch.claims }

/-- The strands of a team that have not retired. -/
def State.live (s : State) (team : Nat) : List Strand := (s.teamStrands team).filter fun st => st.st != .retired

/-- What a saved team needs (R85). -/
def State.teamNeed (s : State) (t : Team) : Need :=
  { team := t.id, ctx := t.ctx, width := t.width, live := (s.live t.id).map (·.index), ntile := t.ntile, nacc := t.nacc, belt := t.belt,
    claims := t.claims }

/-! ### The waiting set (R104, R105) -/

/-- Effective priority of a waiting grid (R104). -/
def State.priority (s : State) (g : Grid) : Nat := g.prio - (s.cyc - g.waitSince) / Config.agingInterval

/-- The saved team of a grid that is admitted first. DESIGN CHOICE (log 40): the order of admission is unspecified (R58); a team's place is its
time of waiting and a choice made when it begins to wait. -/
def State.firstSaved (s : State) (grid : Nat) : Option Team :=
  (s.teams.filter fun t => t.grid == grid && t.st == .saved).foldl (fun b t => match b with
    | some u => if t.waitSince + t.turn < u.waitSince + u.turn then some t else some u
    | none => some t) none

/-- The next team of a grid that waits: a saved one, or an unstarted one; a grid that is to be discarded has none (R284). -/
def State.nextTeam (s : State) (g : Grid) : Option (Option Team) :=
  if !g.live || g.held || g.closing || s.teams.any (fun t => t.grid == g.id && t.st == .gone) then none
  else match s.firstSaved g.id with
    | some t => some (some t)
    | none => if g.placed.length < g.launch.teams then some none else none

/-- The index of the unstarted team of a grid that a choice picks: teams are admitted in any order (R58). -/
def Grid.nextIndex (g : Grid) (k : Nat) : Nat :=
  ((List.range g.launch.teams).filter fun i => !g.placed.contains i).getD (k % (g.launch.teams - g.placed.length)) 0

/-- The places the next team of a grid may take. -/
def State.nextPlaces (s : State) (g : Grid) : List (Nat × Nat × List Nat) :=
  match s.nextTeam g with
  | none => []
  | some none => s.places g.need
  | some (some t) => s.places (s.teamNeed t)

/-- Place of a grid's queue in the rotation after the queue served last (R104). -/
def State.turnOf (s : State) (g : Grid) : Nat :=
  (64 * g.ctx + g.queue + 2 ^ 14 - (64 * s.rotation.1 + s.rotation.2) - 1) % 2 ^ 14

/-- Whether one grid is served before another (R104). -/
def State.servedBefore (s : State) (g h : Grid) : Bool :=
  let a := (s.priority g, s.turnOf g, g.id)
  let b := (s.priority h, s.turnOf h, h.id)
  a.1 < b.1 || (a.1 == b.1 && (a.2.1 < b.2.1 || (a.2.1 == b.2.1 && a.2.2 < b.2.2)))

/-- Whether the scheduler admits teams at all (R306, R308): bring-up is done, and the store of job records has room. -/
def State.admits (s : State) : Bool := s.keep.boot == .running && s.keep.store.length < 65536

/-- The grid whose next team is admitted now, if any can be: a due grid shuts out all others (R104, R105). -/
def State.nextGrid (s : State) : Option Grid :=
  if !s.admits then none
  else
  let due := s.grids.any fun g => g.due && (s.nextTeam g).isSome
  ((s.grids.filter fun g => (!due || g.due) && !(s.nextPlaces g).isEmpty)).foldl
    (fun b g => match b with
      | some h => if s.servedBefore g h then some g else some h
      | none => some g) none

/-! ### Pre-emption (R106, R111, R112) -/

/-- The state with some teams off their cores, to judge what their leaving would free. -/
def State.without (s : State) (ids : List Nat) : State :=
  { s with
    teams := s.teams.map fun t => if ids.contains t.id then { t with st := .swapped 0 0 } else t
    cores := s.cores.map fun c => match c.occupant with
      | some (t, _) => if ids.contains t then { c with occupant := none } else c
      | none => c }

/-- The teams already asked to stop, or stopping. -/
def State.leaving (s : State) : List Nat :=
  (s.teams.filter fun t => (t.st == .resident && t.stopAsked) || (match t.st with | .stopping _ _ => true | _ => false)).map (·.id)

/-- The victims of R106: teams are added until the grid's next team fits, then those not needed are left out again. -/
def State.victims (s : State) (g : Grid) (cand : List Nat) : List Nat :=
  let gone := s.leaving
  let fitsWithout (l : List Nat) : Bool := !((s.without (gone ++ l)).nextPlaces g).isEmpty
  let l := cand.foldl (fun l t => if fitsWithout l then l else l ++ [t]) []
  if fitsWithout l then l.foldl (fun l t => if fitsWithout (l.filter (· != t)) then l.filter (· != t) else l) l else []

/-- Asks teams to stop. -/
def State.askStop (s : State) (l : List Nat) : State :=
  { s with teams := s.teams.map fun t => if l.contains t.id then { t with stopAsked := true } else t }

/-- Whether a team's quantum is over (R106). -/
def State.quantumOver (s : State) (t : Team) : Bool :=
  t.st == .resident && !t.stopAsked && match s.context t.ctx with
    | some x => x.quantum != 0 && t.since + x.quantum ≤ s.cyc
    | none => false

/-- Whether a waiting grid may pre-empt a resident team for the team's base priority alone (R106). -/
def State.outranks (s : State) (g : Grid) (t : Team) : Bool :=
  t.st == .resident && !t.stopAsked && (s.grid t.grid).any fun h => s.priority g < h.prio

/-- Whether a waiting grid may pre-empt a resident team at the end of its quantum (R106). DESIGN CHOICE (log 94): the effective priority of the
waiting grid is compared with the base PRIO of the resident one. -/
def State.outlasts (s : State) (g : Grid) (t : Team) : Bool :=
  s.quantumOver t && (s.grid t.grid).any fun h => s.priority g ≤ h.prio

/-- The teams that a waiting grid pre-empts, which of those it may being a choice `k` of rotation (R106): teams of lower base priority; where
these alone do not suffice, such teams and teams whose quantum is over. -/
def State.preempted (s : State) (g : Grid) (k : Nat) : List Nat :=
  if (s.nextTeam g).isNone || !(s.nextPlaces g).isEmpty then []
  else
    let turned (l : List Team) : List Nat := let l := l.map (·.id); l.drop (k % (l.length + 1)) ++ l.take (k % (l.length + 1))
    let low := turned (s.teams.filter (s.outranks g))
    match s.victims g low with
    | [] => s.victims g (low ++ turned (s.teams.filter fun t => s.outlasts g t && !s.outranks g t))
    | l => l

/-- Pre-emption for one waiting grid (R106). -/
def State.preemptFor (s : State) (g : Grid) : State := s.chosen.askStop (s.preempted g s.choice)

/-- Pre-emption for every waiting grid. -/
def State.preemptCheck (s : State) : State := s.grids.foldl (fun s g => s.preemptFor g) s

/-! ### Placing a team -/

/-- `n` tiles free on a tower (R168): T0 to T7 are of the tiles 0 to 31, the others of the upper half first. -/
def State.takeTiles (s : State) (tower n : Nat) : List Nat :=
  let free := (List.range 64).filter fun p => !(s.usedTiles tower).contains p
  let lo := (free.filter (· < 32)).take (min n 8)
  let rest := free.filter fun p => !lo.contains p
  (lo ++ ((rest.filter (32 ≤ ·)) ++ rest.filter (· < 32))).take n

/-- The first `n` accumulator tiles free on a tower. -/
def State.takeAccs (s : State) (tower n : Nat) : List Nat :=
  ((List.range 16).filter fun p => !(s.usedAccs tower).contains p).take n

/-- Gives a strand its tiles and accumulator tiles. -/
def State.giveTiles (s : State) (t : Team) (i : Nat) : State :=
  match s.strand t.id i with
  | some st =>
    let tw := t.strandTower i
    s.setStrand { st with tiles := s.takeTiles tw t.ntile, accs := s.takeAccs tw t.nacc }
  | none => s

/-- Zeroes a tile and its planes (R171). -/
def State.zeroTile (s : State) (tower p : Nat) : State :=
  { s with
    tiles := SMap.erase s.tiles (tileKey tower p 0) (tileKey tower p 128)
    scales := SMap.erase s.scales (tileKey tower p 0) (tileKey tower p 128)
    metas := SMap.erase s.metas (tileKey tower p 0) (tileKey tower p 128) }

/-- Zeroes what a strand has been given (R103, R171, R175). -/
def State.zeroStrand (s : State) (t : Team) (st : Strand) : State :=
  let tw := t.strandTower st.index
  let s := st.tiles.foldl (fun s p => s.zeroTile tw p) s
  { s with accs := st.accs.foldl (fun m p => SMap.erase m (accKey tw p 0) (accKey tw p 128)) s.accs }

/-- Zeroes a team's belt, its tags included (R103, R153). -/
def State.zeroBelt (s : State) (t : Team) : State :=
  (List.range t.spans).foldl (fun s x => (List.range 32).foldl (fun s stn =>
    let k := ringKey (t.tower x) stn (t.beltBases.getD x 0)
    { s with ring := SMap.erase s.ring k (k + beltBytes t.belt)
             tags := SMap.erase s.tags (k / 4096) ((k + beltBytes t.belt) / 4096)
             newTags := s.newTags.filter fun e => !(k / 4096 ≤ e.1 && e.1 < (k + beltBytes t.belt) / 4096) }) s) s

/-- The planes of a team's bands as a team first finds them (R188). -/
def State.zeroPlanes (s : State) (t : Team) : State :=
  t.claims.foldl (fun s k =>
    let s := s.ownPlanes t k
    let tw := s.tower (t.tower k.btw)
    let ls := (List.range 16).filter fun i => k.mask.getLsbD i
    s.setTower (t.tower k.btw) { tw with
      planes := ls.foldl (fun m i => SMap.set Plane.blank (SMap.set Plane.blank m (2 * i) Plane.blank) (2 * i + 1) Plane.blank) tw.planes }) s

/-- Offset and length of a stream in its image (R342). -/
def State.streamAt (s : State) (x : Context) (image : Word) (i : Nat) : Nat × Nat :=
  let h := s.deviceRead x image 256
  (bits h (256 + 64 * i) 32, bits h (288 + 64 * i) 32)

/-- Loads the stream of a strand into its core, unless the core's tag already names it (R57, R86, R343). -/
def State.loadStream (s : State) (x : Context) (t : Team) (g : Grid) (i : Nat) : State :=
  let p := t.physCore i
  let c := s.core p
  let (off, len) := s.streamAt x g.launch.image i
  let tag := some (g.launch.hash, i, x.num)
  let s := s.setCore p { c with occupant := some (t.id, i), resident := tag }
  let s := match s.strand t.id i with
    | some st => s.setStrand { st with len }
    | none => s
  if c.resident == tag then s
  else
    let bytes := bytesOf len (s.deviceRead x (structPlus g.launch.image off) len)
    ({ s with
        istore := Memory.writeBytes (SMap.erase s.istore (2 ^ 18 * p) (2 ^ 18 * (p + 1))) (2 ^ 18 * p) bytes
        slotErrors := SMap.erase s.slotErrors (65536 * p) (65536 * (p + 1)) } : State).deviceNotes x
      [(g.launch.image, 256), (structPlus g.launch.image off, len)]

/-- Loads the streams of a team's live strands. -/
def State.loadTeam (s : State) (x : Context) (t : Team) (g : Grid) : State :=
  ((s.live t.id).map (·.index)).foldl (fun s i => s.loadStream x t g i) s

/-- A strand right after launch (R322, R325): its record's ARG words and its context's values. -/
def Strand.launched (team index : Nat) (g : Grid) (x : Context) : Strand :=
  { Strand.initial with
    team, index
    swpth := BitVec.ofNat 64 (x.swpdef % 2 ^ 40)
    arg := Vector.ofFn fun (i : Fin 8) => g.launch.args.getD i.val 0
    auditn := x.auditn.zeroExtend 64 }

/-- A grid has been served: it enters the waiting set anew for the teams it still has, and is due no more (R104, R105). -/
def State.served (s : State) (gid : Nat) : State :=
  match s.grid gid with
  | some g =>
    let g := { g with waitSince := s.cyc, due := false, zeroSince := if g.prio = 0 then some s.cyc else none }
    { s.setGrid g with rotation := (g.ctx, g.queue) }
  | none => s

/-- TEAM_ADMIT (R20, R59, R103, R104): the next unstarted team of the grid whose turn it is takes one of its places. -/
def execTeamAdmit (grid : Nat) (s : State) : Host.Outcome State Fault Refusal :=
  match s.nextGrid with
  | none => .next s
  | some g =>
    match s.nextTeam g, s.context g.ctx with
    | some none, some x =>
      if g.id ≠ grid then .next s
      else
        let l := s.places g.need
        match l[s.choice % l.length]? with
        | none => .next s
        | some (t0, c0, bases) =>
          let index := g.nextIndex s.chosen.choice
          let t : Team := { Team.initial with
            id := s.nextId, grid := g.id, ctx := g.ctx, index, width := g.launch.wm1 + 1, t0, c0, st := .loading
            belt := g.launch.belt, beltBases := bases, ntile := g.launch.ntile, nacc := g.launch.nacc, tsec := g.launch.tsec
            tlen := g.launch.tlenm1 + 1, claims := g.launch.claims, since := s.cyc }
          let strands := (List.range t.width).map fun i => Strand.launched t.id i g x
          let s : State := { s.chosen.chosen with teams := s.teams ++ [t], strands := s.strands ++ strands, nextId := s.nextId + 1 }
          let s := s.setGrid { g with placed := index :: g.placed }
          let s := (List.range t.width).foldl (fun s i => s.giveTiles t i) s
          let s := ((s.teamStrands t.id).foldl (fun s st => s.zeroStrand t st) s).zeroBelt t |>.zeroPlanes t
          .next ((s.loadTeam x t g).served g.id).preemptCheck
    | _, _ => .next s

/-! ### The weights a band keeps (R118, R189, R198) -/

/-- Plane `shadow` of layer `k` of a tower after the load that a record names is replayed. -/
def State.replayWld (s : State) (t : Team) (tower shadow : Nat) (e : Nat × Option (Word × Word × Nat)) : State :=
  match e.2 with
  | none => s
  | some (w0, _, i) =>
    match s.strand t.id i with
    | none => s
    | some st =>
      let tw := s.tower tower
      let plane := s.planeOf tower (st.tile (cwBtb w0)) (cfgFmt (st.tileCfg (cwBtb w0))) (cwSp w0) e.1
      s.setTower tower { tw with planes := SMap.set Plane.blank tw.planes (2 * e.1 + shadow) plane }

/-- The planes of a claim after its recorded loads are replayed, layer by layer: the shadow planes, then the active planes. -/
def State.replayClaim (s : State) (t : Team) (k : Claim) : State :=
  let s := s.zeroPlanes { t with claims := [k] }
  let s := k.recShadow.foldl (fun s e => s.replayWld t (t.tower k.btw) 1 e) s
  k.recActive.foldl (fun s e => s.replayWld t (t.tower k.btw) 0 e) s

/-! ### Start of a team's run -/

/-- A claim as its admitted or resumed team starts with it (R107): a request that a timed YIELD made is held with the budget of that YIELD. -/
def Claim.granted (k : Claim) (tc : Nat) : Claim :=
  match k.st, k.budget with
  | .waiting, _ => { k with st := .held }
  | .held, .none => { k with budget := .fresh tc }
  | _, _ => k

/-- STREAMS_LOADED (R59, R83, R107, R118): the streams are loaded and the claims granted; the team's next cycle is team cycle 0 for a new
team, and the stop cycle for a resumed one. -/
def execStreamsLoaded (team : Nat) (s : State) : Host.Outcome State Fault Refusal :=
  match s.team team with
  | none => .next s
  | some t =>
    if t.st == .loading then
      let start (x : Strand) : Strand :=
        if x.st == .loading || x.st == .saved then { x with st := if x.prior == .drain then .drain else .run } else x
      .next ((s.setTeam { t with claims := t.claims.map (·.granted t.tcyc), yieldAt := none }).mapStrands team start)
    else .next s

/-- Whether a loading team's strands have all left LOADING and its towers run at one step (R60), so that its first cycle is the next. -/
def State.ready (s : State) (t : Team) : Bool :=
  t.st == .loading && ((s.teamStrands t.id).all fun x => x.st != .loading && x.st != .saved) &&
  (List.range t.spans).all fun i => (s.tower (t.tower i)).step == (s.tower t.t0).step

/-! ### Leaving -/

/-- Takes a strand off its core. -/
def State.freeCore (s : State) (t : Team) (i : Nat) : State :=
  let c := s.core (t.physCore i)
  if c.occupant == some (t.id, i) then s.setCore (t.physCore i) { c with occupant := none } else s

/-- Takes a team off its cores and frees what it holds. -/
def State.freeTeam (s : State) (t : Team) : State :=
  let s := (List.range t.width).foldl (fun s i => s.freeCore t i) s
  s.mapStrands t.id fun x => { x with tiles := [], accs := [] }

/-- An auditor lets go of the sample of a command of a team that ends without completing (R284, R295, R304). -/
def Tower.dropSample (x : Tower) (team : Nat) : Tower :=
  { x with sample := x.sample.filter fun p => p.complete || p.team != team }

/-- Forgets a team and its strands. -/
def State.dropTeam (s : State) (t : Team) : State :=
  let s := s.freeTeam t
  { s with
    towers := s.towers.map fun x => x.dropSample t.id
    teams := s.teams.filter (·.id != t.id)
    strands := s.strands.filter (·.team != t.id)
    cmds := s.cmds.filter fun c => c.packet.isSome || c.team != t.id
    contexts := s.contexts.map fun x => { x with watches := x.watches.map fun w => { w with teams := w.teams.filter (· != t.id) } } }

/-- The keys a context has (R302). -/
def State.keysOf (s : State) (ctx : Nat) : BitVec 16 := (s.context ctx).elim 0 (·.keys)

/-- A grid's last team is gone: its counter advances, and it is complete (R85, R110). -/
def State.gridDone (s : State) (gid : Nat) : State :=
  match s.grid gid with
  | some g =>
    if g.live && g.finished = g.launch.teams then
      (s.setGrid { g with live := false, outcome := 0, end_ := s.cyc, keys := s.keysOf g.ctx }).counterAdd g.ctx g.launch.ccaddr 1
    else s
  | none => s

/-- The PREEMPT counters whose teams have all left (R117). -/
def State.settleWatches (s : State) (ctx : Nat) : State :=
  match s.context ctx with
  | none => s
  | some x =>
    let done := x.watches.filter fun w => w.teams.isEmpty
    let s := s.setContext { x with watches := x.watches.filter fun w => !w.teams.isEmpty }
    done.foldl (fun s w => s.counterAdd ctx w.counter 1) s

/-- Whether a strand's engine queues and results are empty (R84, R109). -/
def State.drained (s : State) (t : Team) (st : Strand) : Bool :=
  (s.cmds.all fun c => c.packet.isSome || c.team != t.id || c.strand != st.index) && st.inflight.isEmpty && st.stores.isEmpty &&
  (s.core (t.physCore st.index)).launches.isEmpty

/-- STRAND_RETIRE (R84, R85): a draining strand whose queues are empty frees its core; with the last one the team frees its claims, and
with the last team the grid completes. -/
def execStrandRetire (team strand : Nat) (s : State) : Host.Outcome State Fault Refusal :=
  match s.team team, s.strand team strand with
  | some t, some st =>
    if st.st == .drain && t.st == .resident && s.drained t st then
      let s := (s.setStrand { st with st := .retired }).freeCore t strand
      if (s.live team).isEmpty then
        let s := s.dropTeam t
        let s := match s.grid t.grid with
          | some g => s.setGrid { g with finished := g.finished + 1 }
          | none => s
        .next ((s.settleWatches t.ctx).gridDone t.grid).preemptCheck
      else .next s.preemptCheck
    else .next s
  | _, _ => .next s

/-! ### Explicit waits (R64, R355) -/

/-- Whether a strand has issued its END: it has retired, it drains, or it will once its wait is met (R375). -/
def Strand.ended (st : Strand) : Bool := st.st == .retired || st.st == .drain || st.back.any fun b => b.next == .drain

/-- The strands of a team that take part in its rendezvous and barriers (R63, R355, R375): those that have not issued END. -/
def State.partners (s : State) (team : Nat) : List Strand := (s.teamStrands team).filter fun st => !st.ended

/-- Whether every strand of a team that takes part has issued its `n`-th team barrier. -/
def State.barrierMet (s : State) (team n : Nat) : Bool := (s.partners team).all fun x => n ≤ x.barrCount

/-- Whether every strand of a team that takes part has issued its `n`-th barrier of a group. -/
def State.crossLocal (s : State) (team group n : Nat) : Bool := (s.partners team).all fun x => n ≤ SMap.get 0 x.xbarrCount group

/-- The device's own part of a cross-device barrier (R355): once the team part is complete, every other member is sent a request (R270). -/
def State.tellMembers (s : State) (team group n : Nat) (members : List Nat) : State :=
  match s.team team with
  | none => s
  | some t =>
    if n ≤ SMap.get 0 t.xtold group || !s.crossLocal team group n then s
    else
      (members.filter (· != s.fabric.devid)).foldl (fun s d =>
        s.sendRequest 0 t.ctx d 0 .message true 0 { UntimedRequest.blank with body := .barrier group n })
        (s.setTeam { t with xtold := SMap.set 0 t.xtold group n })

/-- The `n`-th barrier of a group is passed once every other member, as the barrier's bundle has read the group (R88), has arrived at it (R355):
one arrival of each is used up. -/
def State.passBarrier (s : State) (team group n : Nat) (members : List Nat) : State :=
  match s.team team with
  | none => s
  | some t =>
    let due := (members.filter (· != s.fabric.devid)).map fun d => (d, t.ctx, group, n)
    if SMap.get 0 t.xpassed group < n && n ≤ SMap.get 0 t.xtold group && due.all s.fabric.barriers.contains then
      { s.setTeam { t with xpassed := SMap.set 0 t.xpassed group n } with
        fabric := { s.fabric with barriers := due.foldl (fun l e => l.erase e) s.fabric.barriers } }
    else s

/-- What the near-memory unit reports of a counter that a WAITC is held for: a finite time after it has reached its target (R479), by choice. -/
def State.hearCounter (s : State) (t : Team) (w : Wait) : Wait × State :=
  match w with
  | .counter a v since cycles slot none =>
    if (s.counterReached t.ctx a v).toOption == some true then (.counter a v since cycles slot (some (s.cyc + s.choice)), s.chosen)
    else (w, s.pollCounter t.ctx a)
  | _ => (w, s)

/-- The waits of a list as they stand in this cycle. -/
def State.hearWaits (s : State) (t : Team) : List Wait → List Wait × State
  | [] => ([], s)
  | w :: l =>
    let (w', s1) := s.hearCounter t w
    let (l', s2) := State.hearWaits s1 t l
    (w' :: l', s2)

/-- Whether a wait is met, or the fault its check meets, in its slot. -/
def State.waitMet (s : State) (t : Team) (st : Strand) (w : Wait) : Except Raised Bool :=
  match w with
  | .queue | .tokenless _ => .ok false
  | .tokens a b c => .ok (!([a, b, c].any st.isPending))
  | .handle h e => .ok ((s.handle t.ctx h).st.code == e)
  | .counter a v _ _ slot report =>
    match s.counterReached t.ctx a v with
    | .error r => .error { r with slot }
    | .ok _ => .ok (report.any fun n => n ≤ s.cyc)
  | .barrier n => .ok (s.barrierMet t.id n)
  | .crossBarrier g n _ => .ok (n ≤ SMap.get 0 t.xpassed g)
  | .lease i => .ok (match t.claims[i]? with | some k => k.st == .held | none => true)

/-- Whether all waits of a list are met, or the first fault a check meets. -/
def State.waitsMet (s : State) (t : Team) (st : Strand) : List Wait → Except Raised Bool
  | [] => .ok true
  | w :: l =>
    match s.waitMet t st w, s.waitsMet t st l with
    | .error r, _ => .error r
    | .ok _, .error r => .error r
    | .ok a, .ok b => .ok (a && b)

/-! ### What a wait joins (R240, R244, R246) -/

/-- A strand finds what strand `w` has written in the other view up to team cycle `bound`, in the reads of bundles issued after team cycle `tc`. -/
def Strand.joinWriter (st : Strand) (w bound tc : Nat) : Strand :=
  let past (j : Nat × Nat × Nat) : Bool := j.1 == w && j.2.2 ≤ tc
  { st with joins := st.joins.filter (!past ·) ++
      (match (st.joins.filter past).map (·.2.1) with
        | [] => []
        | l => [(w, l.foldl max 0, tc)]) ++ [(w, bound, tc + 4)] }

/-- A strand finds what the completed commands of strand `x` order before it (log 93): the writes of `x` itself, and those that its commands have
acquired. -/
def Strand.hear (st x : Strand) (tc : Nat) : Strand :=
  x.heard.foldl (fun y e => y.joinWriter e.1 e.2 tc) (st.joinWriter x.index (x.released + 3) tc)

/-- A wait for tokens, or an acquire read, of strand `i` is satisfied in team cycle `tc`: its own writes, or those of every teammate, are joined
up to the bundle of the latest of the writer's commands that has released (log 93). -/
def State.acquire (s : State) (t : Team) (i tc : Nat) (all : Bool) : State :=
  match s.strand t.id i with
  | some st => s.setStrand (((s.teamStrands t.id).filter fun x => all || x.index == i).foldl (fun y x => y.hear x tc) st)
  | none => s

/-- A barrier of strand `i` is satisfied in team cycle `tc`: every teammate's writes of bundles up to it are joined. -/
def State.acquireTeam (s : State) (t : Team) (i tc : Nat) : State :=
  match s.strand t.id i with
  | some st => s.setStrand ((s.teamStrands t.id).foldl (fun y x => y.joinWriter x.index (tc + 3) tc) st)
  | none => s

/-- What the end of a wait joins. -/
def State.acquireWait (s : State) (t : Team) (i tc : Nat) (w : Wait) : State :=
  match w with
  | .tokens _ _ _ => s.acquire t i tc false
  | .handle _ _ | .counter _ _ _ _ _ _ => s.acquire t i tc true
  | .barrier _ | .crossBarrier _ _ _ => s.acquireTeam t i tc
  | .lease _ | .queue | .tokenless _ => s

/-- Whether a wait is for the grant of a lease. -/
def Wait.isLease : Wait → Bool
  | .lease _ => true
  | _ => false

/-- Whether a wait is for the state of a handle. -/
def Wait.isHandle : Wait → Bool
  | .handle _ _ => true
  | _ => false

/-- The waiting strand goes on in team cycle `tc`; after an HWAIT its next bundle issues no earlier than in the cycle after that (R389).
DESIGN CHOICE (log 91): a wait in the bundle of a TIMED that is met after V lets the strand go on late, in timed mode and with no fault (R63). -/
def Strand.release (st : Strand) (tc : Nat) : Strand :=
  { st with
    st := match st.back with | some b => b.next | none => .run
    waits := [], back := none
    nextIssue := if st.waits.any Wait.isHandle then max st.nextIssue (tc + 1) else st.nextIssue }

/-- What comes to the waits of a strand in this cycle: the reports of its counters, and the arrivals at its cross-device barriers. -/
def State.serveWaits (s : State) (t : Team) (st : Strand) : State :=
  let (l, s) := s.hearWaits t st.waits
  l.foldl (fun (s : State) (w : Wait) => match w with
    | .crossBarrier g n m => (s.tellMembers t.id g n m).passBarrier t.id g n m
    | _ => s) (s.setStrand { st with waits := l })

/-- WAIT_RELEASE (R64): at the start of a tower cycle, the conditions of the explicit waits that hold a strand are met, and it goes on. -/
def execWaitRelease (team strand : Nat) (s : State) : Host.Outcome State Fault Refusal :=
  match s.team team, s.strand team strand with
  | some t, some st =>
    if st.st == .wait && t.before && s.ticks (t.strandTower strand) then
      let s := s.serveWaits t st
      match s.team team, s.strand team strand with
      | some t, some st =>
        match s.waitsMet t st st.waits with
        | .error r => .next (s.chosen.takeFault team (stopCycle (t.tcyc + 1) s.choice)
            [(strand, match st.back with | some b => b.pc | none => st.pc, r, 0)])
        | .ok true => .next (st.waits.foldl (fun s w => s.acquireWait t strand (t.tcyc - 1) w) (s.setStrand (st.release t.tcyc)))
        | .ok false => .next s
      | _, _ => .next s
    else .next s
  | _, _ => .next s

/-! ### Asking a team to stop -/

/-- GRID_DUE (R105): a cycle in which a team of the grid could be admitted starts the count anew. -/
def execGridDue (grid : Nat) (s : State) : Host.Outcome State Fault Refusal :=
  match s.grid grid with
  | some g =>
    match g.zeroSince with
    | some z =>
      .next (if g.due || (s.nextTeam g).isNone then s
        else if !(s.nextPlaces g).isEmpty then s.setGrid { g with zeroSince := some s.cyc }
        else if z + Config.agingInterval ≤ s.cyc then s.setGrid { g with due := true } else s)
    | none => .next s
  | none => .next s

/-- GRID_PRIORITY_RISE (R104, R106): after each interval of waiting the effective priority is one level higher, and may pre-empt. -/
def execGridPriorityRise (grid : Nat) (s : State) : Host.Outcome State Fault Refusal :=
  match s.grid grid with
  | some g =>
    if (s.nextTeam g).isSome && g.waitSince < s.cyc && (s.cyc - g.waitSince) % Config.agingInterval = 0 then
      let g := { g with zeroSince := if s.priority g = 0 && g.zeroSince.isNone then some s.cyc else g.zeroSince }
      .next ((s.setGrid g).preemptFor g)
    else .next s
  | none => .next s

/-- QUANTUM_EXPIRY (R106): a team whose quantum is over, and others with it, are pre-empted for the waiting grids that need what they hold. -/
def execQuantumExpiry (team : Nat) (s : State) : Host.Outcome State Fault Refusal :=
  match s.team team with
  | none => .next s
  | some t => .next (if s.quantumOver t then s.preemptCheck else s)

/-- SWAP_OUT (R111): a WAITC held for SWPTH cycles swaps its team out. -/
def execSwapOut (team strand : Nat) (s : State) : Host.Outcome State Fault Refusal :=
  match s.team team, s.strand team strand with
  | some t, some st =>
    match st.st, st.waits.find? fun (w : Wait) => match w with | .counter _ _ _ _ _ _ => true | _ => false with
    | .wait, some (.counter a w since cycles _ _) =>
      .next (if t.st == .resident && !t.stopAsked && cycles != 0 && since + cycles.toNat ≤ s.cyc && !s.inFabricSection team then
        (s.setTeam { t with swapTo := some (a, w) }).askStop [team] else s)
    | _, _ => .next s
  | _, _ => .next s

/-- SWAPPED_COUNTER_REACHED (R104, R111): the team is in the waiting set again; where no other team of its grid waits, the count of R105 begins. -/
def execSwappedCounterReached (team : Nat) (s : State) : Host.Outcome State Fault Refusal :=
  match s.team team with
  | none => .next s
  | some t =>
    match t.st with
    | .swapped a w =>
      match s.counterReached t.ctx a w with
      | .ok true =>
        let alone := (s.grid t.grid).any fun g => (s.nextTeam g).isNone
        let s := s.chosen.setTeam { t with st := .saved, waitSince := s.cyc, turn := s.choice }
        match s.grid t.grid with
        | some g =>
          let g := if alone then { g with zeroSince := if s.priority g = 0 then some s.cyc else none } else g
          .next ((s.setGrid g).preemptFor g)
        | none => .next s
      | _ => .next (s.pollCounter t.ctx a)
    | _ => .next s

/-- A fabric-timed section opens before a stop that has been set for a pre-emption: the stop waits for its end (R106, R111, R112). -/
def Team.deferStop (t : Team) : Team :=
  match t.st with
  | .stopping a false => if t.tcyc < a && !t.faulted && t.yieldAt.isNone then { t with st := .resident, stopAsked := true } else t
  | _ => t

/-- PREEMPT_STOP (R112, R113): outside a fabric-timed section the team stops at a cycle within 64 of the request. -/
def execPreemptStop (team : Nat) (s : State) : Host.Outcome State Fault Refusal :=
  match s.team team with
  | some t => .next (if t.st == .resident && t.stopAsked && !s.inFabricSection team then
      s.chosen.setTeam { t with st := .stopping (stopCycle (t.tcyc + 1) s.choice) false } else s)
  | none => .next s

/-! ### Leases (R107, R108, R196 to R198) -/

/-- LEASE_BUDGET_EXPIRY (R108); a budget left at the stop cycle stays (R107). -/
def execLeaseBudgetExpiry (team claim : Nat) (s : State) : Host.Outcome State Fault Refusal :=
  match s.team team with
  | some t =>
    match t.claims[claim]? with
    | some k => .next (if t.before && k.st == .held && !k.heldAt t.tcyc then
        s.setTeam { t with claims := t.claims.set claim { k with st := .expired } } else s)
    | none => .next s
  | none => .next s

/-- The LEASE commands that wait for a claim complete (R198, R401). -/
def State.finishLease (s : State) (t : Team) (claim : Nat) : State :=
  (s.cmds.filter fun c => c.op == .lease && c.team == t.id && c.packet.isNone && c.st == .running &&
    t.claimOf c.strand c.w0 == some claim).foldl (fun s c => s.finish c.id 0) s

/-- LEASE_GRANT (R107, R197, R198): a waiting request is granted in the first cycle it may be; recorded loads are replayed first. -/
def execLeaseGrant (team claim : Nat) (s : State) : Host.Outcome State Fault Refusal :=
  match s.team team with
  | some t =>
    match t.claims[claim]? with
    | some k =>
      if t.before && s.ticks (t.tower k.btw) && k.st == .waiting && s.grantable team (t.tower k.btw) k k.reqCyc k.reqCore then
        if !k.recActive.isEmpty || !k.recShadow.isEmpty then
          .next ((s.chosen.setTeam { t with
            claims := t.claims.set claim { k with st := .replaying, replayEnd := t.tcyc + min 260 (s.choice % 261) } }).ownPlanes t k)
        else
          let s := s.setTeam { t with claims := t.claims.set claim { k with st := .held, budget := .fresh t.tcyc } }
          .next ((s.zeroPlanes { t with claims := [k] }).finishLease t claim)
      else .next s
    | none => .next s
  | none => .next s

/-- LEASE_REPLAY_COMPLETE (R198): the recorded loads stand in the planes again, and the lease is held. -/
def execLeaseReplayComplete (team claim : Nat) (s : State) : Host.Outcome State Fault Refusal :=
  match s.team team with
  | some t =>
    match t.claims[claim]? with
    | some k =>
      if t.before && s.ticks (t.tower k.btw) && k.st == .replaying && k.replayEnd ≤ t.tcyc then
        let s := s.setTeam { t with claims := t.claims.set claim { k with st := .held, budget := .fresh t.tcyc } }
        .next ((s.replayClaim t k).finishLease t claim)
      else .next s
    | none => .next s
  | none => .next s

end Sys2Proof.Machine
end

