-- ==== Sys2Proof/Machine/Saving.lean ====
section
/-! DEFINITION. Saving and resuming a team (R113 to R118, R163, R171, R199, R493), what follows a fault (R284, R285, R291 to
R293), and the auditor's replays (R297, R298). -/

namespace Sys2Proof.Machine

/-! ### At rest (R114, R199) -/

/-- Whether a started command completes before its team is saved (R114). -/
def Cmd.mustComplete (c : Cmd) : Bool :=
  c.st == .running && (c.op == .ccopy || c.op == .hset || c.op == .unlease || c.engine == 9 || c.engine == 10 || c.engine == 11)

/-- The timed fabric commands of a team that are not done. -/
def State.timedOf (s : State) (team : Nat) : List Cmd :=
  s.cmds.filter fun c => c.team == team && c.packet.isNone && (c.op == .fsend || c.op == .frecv) && (c.st == .queued || c.st == .running)

/-- Whether a bucket of a collective is at work: its values are all here, or its results are on their way. -/
def State.inBucket (s : State) (c : Cmd) : Bool :=
  c.op == .coll && c.st == .running && (List.range (collBuckets c.w1)).any fun b => s.bucketReady c b || c.done_.contains (bucketSent b)

/-- Whether a command of a team that has stopped has come to rest (R114, R213, R284): what it has sent to the ring has performed; `hard` cancels
it where it stands. -/
def State.cmdAtRest (s : State) (c : Cmd) (hard : Bool) : Bool :=
  c.fed.isEmpty && !(c.op.loads && c.st == .running) && !(s.ringQueue.any fun w => w.cmd == c.id) &&
  (hard || c.st == .faulted ||
    ((match c.st with | .finishing _ => false | _ => true) && !c.mustComplete && !s.unanswered c.id && !s.inBucket c &&
      !(c.op.plain && c.st == .running && c.steps ≤ c.xpc)))

/-- Whether a LAUNCH of a pending-launch queue waits for the commands it names (R74, R248). -/
def State.launchHeld (s : State) (c : Cmd) : Bool := !s.fencesDone c || (!c.timed && !s.tokensDone c.team c.strand c.deps)

/-- Whether the scheduler has drained the pending-launch queues of a team (R109): a LAUNCH that waits for commands which the stop has held up
stays with its team, and so do those behind it (log 96). -/
def State.launchesDrained (s : State) (team : Nat) : Bool :=
  s.cores.all fun c => match c.launches.head? with
    | some l => (s.cmd l.cmd).all fun m => m.team != team || s.launchHeld m
    | none => true

/-- Whether a parcel lies in a team's belt. -/
def Team.ownsParcel (t : Team) (k : Nat) : Bool :=
  (List.range t.spans).any fun x => (List.range 32).any fun stn =>
    t.beltKey x stn 0 / 4096 ≤ k && k < t.beltKey x stn 0 / 4096 + (t.belt + 3) / 4

/-- Whether every engine has come to rest for a team that stops at `at_` (R113, R114, R115, R284), and its parcels have the tags they were to take
(R160, R163). -/
def State.atRest (s : State) (t : Team) (at_ : Nat) (hard : Bool) : Bool :=
  at_ + 3 ≤ t.tcyc && !(s.ringQueue.any (·.team == t.id)) && !(s.newTags.any fun e => t.ownsParcel e.1) &&
  ((s.teamStrands t.id).all fun st => st.stores.isEmpty && (hard || st.aq.all fun e => e.place == .arrived)) &&
  (s.cmds.all fun c => c.packet.isSome || c.team != t.id || s.cmdAtRest c hard) &&
  (hard || s.launchesDrained t.id)

/-! ### What is saved -/

/-- The replay-list word of a result in flight at the stop cycle (R116). -/
def InFlight.word (f : InFlight) (at_ : Nat) : Word :=
  let (cls, dst, kind) : Nat × Nat × Nat := match f.what with
    | .sreg d _ _ => (0, d.toNat, 0)
    | .preg d _ => (1, d.toNat, 0)
    | .row r _ _ _ => (2, r, 0)
    | .tap r _ _ => (2, r, 0)
    | .load (.sreg d) _ _ _ _ => (0, d.toNat, 0)
    | .load (.row r) _ _ _ _ => (2, r, 0)
    | .load (.lines n l _ _ _) _ _ _ _ => (2, n + 32 * (l / 4), 1)
    | .load (.plane n c m) _ _ _ _ => (2, n + 32 * (if m then 1 else 0) + 64 * c, 2)
  BitVec.ofNat 64 (packFields [(2, cls), (12, dst), (8, f.commit + 1 - at_), (1, 1), (2, kind)])

/-- Insertion in commit order, results of earlier bundles first. -/
def insertFlight (f : InFlight) : List InFlight → List InFlight
  | [] => [f]
  | x :: l => if x.commit < f.commit || (x.commit == f.commit && x.issued ≤ f.issued) then x :: insertFlight f l else f :: x :: l

/-- A strand as it is saved at the stop cycle (R113, R115, R116, R355): a bundle that an explicit wait holds issues again. DESIGN CHOICE (log 106): the
entries of RPL keep the words of this save, VALID among them, until the next one. -/
def Strand.saved (st : Strand) (at_ : Nat) (s : State) : Strand :=
  if st.st == .retired then st
  else
    let prior := if st.st == .frozen then st.prior else st.st
    let late : List InFlight := (st.inflight.filter fun f => at_ ≤ f.commit).foldl (fun l f => insertFlight f l) []
    let st := { st with prior, st := .saved, inflight := late, nrpl := late.length, rpl := (late.take 16).map fun (f : InFlight) => f.word at_ }
    let st := match prior, st.back with
      | .wait, some b =>
        let k := (st.waits.filter fun (w : Wait) => match w with | .barrier _ => true | _ => false).length
        let xb := st.waits.foldl (fun m (w : Wait) => match w with | .crossBarrier g n _ => SMap.set 0 m g (n - 1) | _ => m) st.xbarrCount
        { st with pc := b.pc, loops := b.loops, lc := b.lc, mode := b.mode, nulls := b.nulls, barrCount := st.barrCount - k,
                  xbarrCount := xb, nextIssue := at_, prior := .run }
      | .wait, none => { st with prior := .run, nextIssue := at_ }
      | _, _ => st
    let st := { st with waits := [], back := none, joins := [], heard := [] }
    match s.cmds.find? fun c => c.team == st.team && c.strand == st.index && c.packet.isNone && c.op == .probe && c.st == .faulted with
    | some c => { st with pc := c.pc, nextIssue := at_, prior := .run }
    | none => st

/-- A lease as it is saved (R107): a request is withdrawn, a grant whose replay was under way stands as held, and one that a timed YIELD gives up
waits from that YIELD on (R484). DESIGN CHOICE (log 105): a request is withdrawn at the save, so it holds back later ones while its team drains. -/
def Claim.saved (k : Claim) (at_ : Nat) (yieldAt : Option (Nat × Nat)) : Claim :=
  match k.st, yieldAt with
  | .waiting, _ => { k with st := if k.budget == .none then .free else .expired }
  | .replaying, _ => { k with st := .held, budget := .fresh at_ }
  | .held, some y => { k with st := .waiting, reqCyc := y.1, reqCore := y.2 }
  | _, _ => k

/-- Whether a strand is held at a bundle with a LEASE whose grant it waits for (R401). -/
def Strand.heldAtLease (st : Strand) (pc : Nat) : Bool := st.waits.any Wait.isLease && st.back.any fun b => b.pc == pc

/-- A command as it is kept with its team (R76, R114, R213, R220, R292, R401): a PROBE that missed, and a LEASE at which its strand is held (`held`),
start again when their bundle does; a LAYOUT or COPY that has begun reads its views and descriptors again and goes on at its step, and a collective starts anew
the bucket it had not received (log 95). -/
def Cmd.saved (c : Cmd) (held : Bool) : Cmd :=
  let c := { c with fetched := [], arrived := none, lines := [] }
  if c.op == .probe && c.st == .faulted then { c with st := .queued, again := true }
  else if c.op == .lease && held && (c.st == .queued || c.st == .running) then { c with st := .queued, again := true }
  else if c.op == .lease && c.st == .running then { c with st := .queued, deps := [], fences := [], again := false }
  else if (c.op == .layout || c.op == .copy) && c.st == .running && c.xpc < c.steps then
    { c with st := .queued, src := none, dst := none, deps := [], fences := [] }
  else if c.op == .coll then { c with slots := c.done_ }
  else c

/-! ### The save area (R115) -/

/-- Size of a strand's part of a save area. -/
def Team.strandSize (t : Team) : Nat := 1024 * (512 + 16 * t.ntile + 65 * t.nacc)

/-- Size of a team's save area. -/
def Team.saveSize (t : Team) : Nat :=
  (65536 + t.width * t.strandSize + t.spans * 32 * 1024 * t.belt + 65535) / 65536 * 65536

/-- Offset of a strand's part. -/
def Team.strandOffset (t : Team) (i : Nat) : Nat := 65536 + i * t.strandSize

/-- Offset of a station of a team tower's belt. -/
def Team.beltOffset (t : Team) (x stn : Nat) : Nat := 65536 + t.width * t.strandSize + (32 * x + stn) * 1024 * t.belt

/-- The parcels of a team tower's belt, in station order and then in parcel order (R163). -/
def Team.parcelList (t : Team) (x : Nat) : List Nat :=
  (List.range 32).flatMap fun stn => (List.range ((t.belt + 3) / 4)).map fun p => t.beltKey x stn (4096 * p) / 4096

/-- Words as bytes, filled up to `n` bytes with free ones (log 5). -/
def padWords (base n : Nat) (l : List Nat) : List Byte :=
  let bs := (l.take (n / 8)).flatMap fun w => bytesOf 8 w
  bs ++ (freeBytes base n).drop bs.length

/-- A list cut or filled up to `n` words. -/
def fillTo (n : Nat) (l : List Nat) : List Nat := (l ++ List.replicate n 0).take n

/-- A bit of each of a list, packed. -/
def packBits (l : List Bool) : Nat := undigits 1 (l.map Bool.toNat)

/-- A loop frame as five words. -/
def LoopFrame.words (f : LoopFrame) : List Nat := [f.lc, f.first, f.after, f.count, f.index]

/-- A loop frame from them. -/
def LoopFrame.ofWords (w : Nat → Nat) : LoopFrame := { lc := w 0 % 4, first := w 1, after := w 2, count := w 3, index := w 4 }

/-- A token as a byte: its state and its status. -/
def Token.code (t : Token) : Nat := (match t.st with | .idle => 0 | .pending => 1 | .done => 2) + 16 * t.status.toNat

/-- A token from it. -/
def Token.ofCode (n : Nat) : Token :=
  { st := if n % 16 = 0 then .idle else if n % 16 = 1 then .pending else .done, status := BitVec.ofNat 4 (n / 16) }

/-- A descriptor as words. -/
def Desc.words (d : Desc) : List Nat :=
  [d.fmt, d.rank, d.lay, d.planes, d.zeroFill.toNat, d.short.toNat, d.keyid, d.retw, d.root, d.scaleid, d.bshape.length] ++ fillTo 8 d.bshape ++
  d.ext.length :: fillTo 8 d.ext

/-- A descriptor from them. -/
def Desc.ofWords (w : Nat → Nat) : Desc :=
  { fmt := w 0, rank := w 1, lay := w 2, planes := w 3, zeroFill := w 4 == 1, short := w 5 == 1, keyid := w 6, retw := w 7, root := w 8, scaleid := w 9
    bshape := (List.range (w 10 % 9)).map fun i => w (11 + i), ext := (List.range (w 19 % 9)).map fun i => w (20 + i) }

/-- A view as words. -/
def View.words (v : View) : List Nat :=
  [v.tid, v.pln, v.reserved.toNat, v.org.length] ++ fillTo 8 v.org ++
  v.dims.length :: fillTo 24 (v.dims.flatMap fun d => [d.ext, wrap 64 d.str, d.td])

/-- A view from them. -/
def View.ofWords (w : Nat → Nat) : View :=
  { tid := w 0, pln := w 1, reserved := w 2 == 1, org := (List.range (w 3 % 9)).map fun i => w (4 + i)
    dims := (List.range (w 12 % 9)).map fun i => { ext := w (13 + 3 * i), str := signed 64 (w (14 + 3 * i)), td := w (15 + 3 * i) } }

/-- What the address generator holds of a view, as 96 words (R235). -/
def QvState.words : QvState → List Nat
  | .invalid => fillTo 96 [0]
  | .poisoned => fillTo 96 [1]
  | .valid b => fillTo 96 (2 :: b.view.words ++ b.desc.words ++ match b.scale with | some d => 1 :: d.words | none => [0])

/-- What it holds, from them. -/
def QvState.ofWords (w : Nat → Nat) : QvState :=
  match w 0 with
  | 0 => .invalid
  | 1 => .poisoned
  | _ => .valid { view := .ofWords fun i => w (1 + i), desc := .ofWords fun i => w (38 + i)
                  scale := if w 66 = 1 then some (.ofWords fun i => w (67 + i)) else none }

/-- The control registers that R325 marks Saved, in number order. -/
def savedControls : List Nat :=
  [0x003, 0x007, 0x00C, 0x010, 0x011, 0x012, 0x013, 0x018, 0x019, 0x01A, 0x01B, 0x01C] ++ (List.range 32).map (0x020 + ·) ++ [0x040, 0x041] ++
  (List.range 8).map (0x080 + ·) ++ (List.range 12).map (0x090 + ·) ++ (List.range 48).map (0x0A0 + ·)

/-- A control register of a strand as it reads. -/
def State.savedControl (s : State) (t : Team) (st : Strand) (n : Nat) : Nat :=
  (({ s with iss := { s.iss with st, tm := t } } : State).controlReg n).toNat

/-- The state a saved strand goes on in, as a word. -/
def StrandState.code : StrandState → Nat
  | .drain => 1
  | .retired => 2
  | _ => 0

/-- That state from the word. -/
def StrandState.ofCode (n : Nat) : StrandState := if n = 1 then .drain else if n = 2 then .retired else .run

/-- The registers of a strand in the order in which R115 lists them, a word for each, the control registers in number order (R325), and after them
what the address generator holds of its views (log 34). -/
def State.strandWords (s : State) (t : Team) (st : Strand) (at_ : Nat) : List Nat :=
  st.s.toList.map (·.toNat) ++
  [packBits st.p.toList, packBits st.spois.toList, st.pc, if st.mode == .timed then 1 else 0, st.nulls, st.nextIssue - at_, st.prior.code,
   st.loops.length] ++
  fillTo 20 (st.loops.flatMap LoopFrame.words) ++ st.lc.toList.map (·.toNat) ++
  st.masks.length :: fillTo 64 (st.masks.flatMap fun m => digits 64 8 m.toNat) ++
  digits 64 8 (undigits 8 (st.tokens.toList.map Token.code)) ++ st.tokenless ::
  fillTo 16 ((s.expandingOf st.team st.index).map fun c => c.xpcEntry.toNat) ++ (if st.auditMark then 1 else 0) ::
  savedControls.map (s.savedControl t st) ++ st.qv.toList.flatMap fun q => q.st.words

/-- A strand with those registers, stopped at `at_` (R118). -/
def Strand.ofWords (st : Strand) (w : Nat → Nat) (at_ : Nat) : Strand :=
  let word (n : Nat) : Word := BitVec.ofNat 64 (w n)
  { st with
    s := Vector.ofFn fun (i : Fin 64) => word i.val
    p := Vector.ofFn fun (i : Fin 8) => (w 64).testBit i.val
    spois := Vector.ofFn fun (i : Fin 64) => (w 65).testBit i.val
    pc := w 66
    mode := if w 67 = 1 then .timed else .paced
    nulls := w 68
    nextIssue := at_ + w 69
    prior := .ofCode (w 70)
    loops := (List.range (w 71 % 5)).map fun i => LoopFrame.ofWords fun j => w (72 + 5 * i + j)
    lc := Vector.ofFn fun (i : Fin 4) => BitVec.ofNat 32 (w (92 + i.val))
    masks := (List.range (w 96 % 9)).map fun i => BitVec.ofNat 512 (undigits 64 ((List.range 8).map fun j => w (97 + 8 * i + j)))
    tokens := Vector.ofFn fun (i : Fin 64) => Token.ofCode (bits (w (161 + i.val / 8)) (8 * (i.val % 8)) 8)
    tokenless := w 169
    auditMark := w 186 == 1
    auditn := word 189
    rpl := (List.range 16).map fun i => word (215 + i)
    qlossEvents := bits (w 232) 0 32
    qlossCycles := bits (w 232) 32 32
    arg := Vector.ofFn fun (i : Fin 8) => word (233 + i.val)
    numctl := word 241
    srkey := word 242
    srctr := word 243
    vwb := word 244
    acktol := word 245
    swpth := word 246
    cwgt := word 247
    mbxst := word 248
    qv := Vector.ofFn fun (i : Fin 4) =>
      { reg := word (249 + i.val), readAt := (st.qv.get i).readAt, st := .ofWords fun j => w (301 + 96 * i.val + j) }
    tcfg := Vector.ofFn fun (i : Fin 32) => word (253 + i.val)
    acfg := Vector.ofFn fun (i : Fin 16) => word (285 + i.val) }

/-- The words of a replay-list entry (R115, R116; log 34): its descriptor, with the poison bit of a scalar on top; then a value and nothing more, or
poison bits and a row's words. -/
def InFlight.entryWords (f : InFlight) (at_ : Nat) : List Nat :=
  let w := (f.word at_).toNat
  match f.what with
  | .sreg _ v p => [w + 2 ^ 63 * p.toNat, v.toNat]
  | .preg _ v => [w, v.toNat]
  | .row _ d _ p => w :: p.toNat :: digits 64 64 d.toNat
  | .load (.sreg _) _ _ _ g => match g with
    | some (d, p) => [w + 2 ^ 63 * (p.toNat % 2), d.toNat % 2 ^ 64]
    | none => [w, 0]
  | .load _ _ _ _ g => match g with
    | some (d, p) => w :: p.toNat :: digits 64 64 d.toNat
    | none => fillTo 66 [w]
  | .tap _ _ _ => fillTo 66 [w]

/-- A result in flight from its entry: descriptor `w`, value or poison bits `v` and row `d`, with what the granules of the area add to its poison. The
bytes of a row that it writes and the shape of a load are those kept of it (log 34). -/
def InFlight.ofEntry (kept : Option InFlight) (w v d : Nat) (bad : BitVec 8) (at_ : Nat) : InFlight :=
  let dst := bits w 2 12
  let data : Row := BitVec.ofNat 4096 d
  let pois : BitVec 8 := BitVec.ofNat 8 v ||| bad
  let what : Result := match bits w 0 2, bits w 23 2 with
    | 0, _ => .sreg (BitVec.ofNat 6 dst) (BitVec.ofNat 64 v) (w.testBit 63 || bad != 0)
    | 1, _ => .preg (BitVec.ofNat 3 dst) (v % 2 == 1)
    | _, 1 => match kept.map InFlight.what with
      | some (.load (.lines _ _ n r o) a z g _) => .load (.lines (dst % 32) (4 * (dst / 32 % 32)) n r o) a z g (some (data, pois))
      | _ => .load (.lines (dst % 32) (4 * (dst / 32 % 32)) 128 128 false) 0 512 false (some (data, pois))
    | _, 2 => .load (.plane (dst % 32) (dst / 64) (dst / 32 % 2 == 1)) 0 512 false (some (data, pois))
    | _, _ => match kept.map InFlight.what with
      | some (.row _ _ m _) => .row dst data m pois
      | _ => .row dst data (BitVec.allOnes 512) pois
  { issued := (kept.map (·.issued)).getD 0, perform := (kept.map (·.perform)).getD 0, commit := at_ + bits w 14 8 - 1, what }

/-- The two words that lead a queue entry of 80 bytes: that it stands, its bank, group, poison bit, validity, place and push, and its request (R115;
log 34). -/
def AqEntry.words (e : AqEntry) : List Nat :=
  [packFields [(1, 1), (1, e.bank), (1, e.open_.toNat), (1, e.pois.toNat), (1, e.invalid.toNat), (1, (e.place == .arrived).toNat), (1, e.spec.toNat),
     (3, e.slot), (18, e.pc)],
   match e.src with | some (b, n) => n + 2 ^ 44 * b.view.tid | none => 0]

/-- A queue entry from them and its data; its request has been answered (R115). -/
def AqEntry.ofWords (id w data : Nat) (bad : Bool) : AqEntry :=
  { id, pc := bits w 10 18, slot := bits w 7 3, bank := bits w 1 1, open_ := w.testBit 2, spec := w.testBit 6, src := none, invalid := w.testBit 4
    place := if w.testBit 5 then .arrived else .queued, pushed := 0, ready := 0, data := BitVec.ofNat 512 data, pois := w.testBit 3 || bad, fetched := [] }

/-- The 16 bytes that lead a lane value of 528: its drive, its lane and its poison bits (R115, R167; log 34). -/
def LaneValue.words (v : LaneValue) (at_ : Nat) : List Nat :=
  [packFields [(8, v.p + 128 - at_), (2, v.twi), (5, v.stn), (1, v.anti.toNat), (8, v.lane), (1, 1)], v.pois.toNat]

/-- A lane value from them and its row, stopped at `at_`. -/
def LaneValue.ofWords (w pois data : Nat) (bad : BitVec 8) (at_ : Nat) : LaneValue :=
  { p := at_ + bits w 0 8 - 128, twi := bits w 8 2, stn := bits w 10 5, anti := w.testBit 15, lane := bits w 16 8, data := BitVec.ofNat 4096 data
    pois := BitVec.ofNat 8 pois ||| bad }

/-- The offset in a fixed part of the `i`-th lane value: 32 that stand on a lane, and behind the line poison those not yet driven (R167; log 34). -/
def laneOffset (i : Nat) : Nat := 442368 + if i < 32 then 528 * i else 17408 + 528 * (i - 32)

/-- The fixed part of a strand's save area (R115) but for the parcel tags: offset in it and bytes. Bytes without a layout are free. -/
def State.fixedParts (s : State) (t : Team) (st : Strand) (at_ : Nat) : List (Nat × List Byte) :=
  let tw := t.strandTower st.index
  let base := s.fresh + 2 ^ 16 * (st.index + 1)
  let plane (n sz : Nat) (f : Nat → Nat) : List Byte := (List.range n).flatMap fun i =>
    match st.tiles[i]? with
    | some p => (List.range 128).flatMap fun l => bytesOf sz (f (tileKey tw p l))
    | none => List.replicate (128 * sz) 0
  let lanes (l : List LaneValue) : List Nat := l.flatMap fun v => v.words at_ ++ digits 64 64 v.data.toNat
  [(0, padWords base 16384 (s.strandWords t st at_)),
   (16384, padWords (base + 2048) 131072 (st.inflight.flatMap (·.entryWords at_) ++ [0])),
   (147456, padWords (base + 18432) 163840 (st.aq.flatMap (fun e => e.words ++ digits 64 8 e.data.toNat) ++ [0])),
   (311296, plane 32 8 fun k => (SMap.get (0 : Word) s.scales k).toNat),
   (344064, plane 8 64 fun k => (SMap.get (0 : Chunk) s.metas k).toNat),
   (442368, padWords (base + 55296) 32768 (fillTo 2112 (lanes (st.lanes.take 32)) ++
     fillTo 64 (st.tiles.flatMap fun p => digits 64 2 (packBits ((List.range 128).map fun l => (s.line (tileKey tw p l)).pois))) ++
     fillTo 1848 (lanes (st.lanes.drop 32)))),
   (475136, List.replicate 49152 0)] ++ (if st.index % 4 = 0 then [] else [(409600, List.replicate 32768 0)])

/-- The lease and the recorded loads of a claim, as words of the team header (R107, R114). -/
def Claim.words (k : Claim) : List Nat :=
  let state : Nat := match k.st with | .held => 0 | .expired => 1 | .free => 2 | .waiting => 3 | .replaying => 4
  let budget : List Nat := match k.budget with | .none => [0, 0, 0] | .paced n u => [1, n, u] | .timed u => [2, 0, u]
  let recorded (m : SMap (Option (Word × Word × Nat))) : List Nat := (List.range 16).flatMap fun i =>
    match SMap.get none m i with | some (a, b, n) => [1, a.toNat, b.toNat, n] | none => [0, 0, 0, 0]
  k.mask.toNat :: k.trk :: k.btw :: state :: budget ++ recorded k.recShadow ++ recorded k.recActive

/-- The lease and the recorded loads of a claim from those words (R107, R118). -/
def Claim.ofWords (k : Claim) (w : Nat → Nat) : Claim :=
  let recorded (o : Nat) : SMap (Option (Word × Word × Nat)) := (List.range 16).foldl (fun m i =>
    if w (o + 4 * i) = 1 then SMap.set none m i (some (BitVec.ofNat 64 (w (o + 4 * i + 1)), BitVec.ofNat 64 (w (o + 4 * i + 2)), w (o + 4 * i + 3)))
    else m) []
  { k with
    st := if w 3 = 0 then .held else if w 3 = 1 then .expired else if w 3 = 2 then .free else .waiting
    budget := if w 4 = 1 then .paced (w 5) (w 6) else if w 4 = 2 then .timed (w 6) else .none
    recShadow := recorded 7, recActive := recorded 71 }

/-- The team header (R115; log 34), with the leases as they are saved (R107). -/
def Team.headerWords (t : Team) (strands : List Strand) (at_ : Nat) : List Nat :=
  let counts (m : SMap Nat) : List Nat := (List.range 256).map fun g => SMap.get 0 m g
  [at_, t.pending.isSome.toNat, t.pending.getD 0, packBits ((List.range 16).map t.joined.contains), t.entering.toNat, t.t0, t.c0] ++
  fillTo 4 t.beltBases ++ counts t.xtold ++ counts t.xpassed ++ (strands.flatMap fun st => st.barrCount :: counts st.xbarrCount) ++
  (t.claims.map (·.saved at_ t.yieldAt)).flatMap Claim.words

/-- Counts of a header by group. -/
def countsOf (w : Nat → Nat) : SMap Nat := (List.range 256).foldl (fun m g => SMap.set 0 m g (w g)) []

/-- A team as its header has it (R118), with `n` strands that have not retired. -/
def Team.ofHeader (t : Team) (n : Nat) (w : Nat → Nat) : Team :=
  { t with
    tcyc := w 0
    pending := if w 1 = 1 then some (w 2) else none
    joined := (List.range 16).filter (w 3).testBit
    entering := w 4 == 1
    xtold := countsOf fun g => w (11 + g)
    xpassed := countsOf fun g => w (267 + g)
    claims := t.claims.zipIdx.map fun e => e.1.ofWords fun i => w (523 + 257 * n + 135 * e.2 + i) }

/-- The barrier counts of the `i`-th strand of a header (R355). -/
def Strand.ofHeader (st : Strand) (i : Nat) (w : Nat → Nat) : Strand :=
  { st with barrCount := w (523 + 257 * i), xbarrCount := countsOf fun g => w (524 + 257 * i + g) }

/-- The pieces of a team's save area (R85, R115, R163): offset and bytes. `strands` are those that have not retired; the tags of a tower stand in
its first strand's part even where that strand has retired (log 34). -/
def State.saveParts (s : State) (t : Team) (strands : List Strand) (at_ : Nat) : List (Nat × List Byte) :=
  (0, padWords s.fresh 65536 (t.headerWords strands at_)) ::
  strands.flatMap (fun st =>
    let tw := t.strandTower st.index
    let o := t.strandOffset st.index
    (s.fixedParts t st at_).map (fun e => (o + e.1, e.2)) ++
    (st.tiles.zipIdx).map (fun e => (o + 524288 + 16384 * e.2,
      (List.range 128).flatMap fun l => bytesOf 128 (s.line (tileKey tw e.1 l)).data.toNat)) ++
    (st.accs.zipIdx).map (fun e => (o + 524288 + 16384 * t.ntile + 66560 * e.2,
      ((List.range 128).flatMap fun r => bytesOf 512 (s.accRow (accKey tw e.1 r)).data.toNat) ++
      (List.range 128).flatMap fun r =>
        let v := s.accRow (accKey tw e.1 r)
        bytesOf 8 (v.ck.toNat + 2 ^ 32 * v.pois.toNat)))) ++
  (List.range t.spans).flatMap fun x =>
    let tags := (t.parcelList x).flatMap fun k => bytesOf 2 (SMap.get 0 s.tags k).toNat
    (t.strandOffset (4 * x) + 409600, tags ++ (freeBytes (s.fresh + 2 ^ 20 + 4096 * x) 32768).drop tags.length) ::
    (List.range 32).map fun stn => (t.beltOffset x stn, (List.range (1024 * t.belt)).map fun i => Memory.read s.ring (t.beltKey x stn i))

/-- What a write of one piece of a save area leaves, or the fault of its access. Its accesses count at their stacks (R147). -/
def State.pieceWritten (s : State) (x : Context) : Except Stop (State × List (Nat × Nat × GranuleWrite) × List Touch) → State × Option Raised
  | .ok (s', out, tch) => ((s'.sendWrites 0 x.num (out.map fun o => (o, 0))).tracesOf (s'.noteList x 0 tch), none)
  | .error (.raise r) => (s, some { r with point := .access })
  | .error (.peer _ _ _) => (s, some (.of .translationUnmapped .access 0))

/-- Writes one piece of a save area. -/
def State.writePart (s : State) (x : Context) (base : Word) (o : Nat) (bs : List Byte) : State × Option Raised :=
  s.pieceWritten x (s.writeStruct x s.choice (structPlus base o) 64 bs none)

/-- Writes the pieces of a save area that a choice picks, where each can be written. DESIGN CHOICE (log 102): which part of a save that fails was
written is unspecified (R493); the model picks it piece by piece. -/
def State.writeSome (s : State) (x : Context) (base : Word) (l : List (Nat × List Byte)) (k : Nat) : State :=
  l.zipIdx.foldl (fun s e => if k.testBit e.2 then (s.writePart x base e.1.1 e.1.2).1 else s) s

/-- Writes pieces of a save area until one fails, which `State.saveTeam` answers for a save that fails (R493, log 102). -/
def State.writeParts (s : State) (x : Context) (base : Word) : List (Nat × List Byte) → State × Option Raised
  | [] => (s, none)
  | (o, bs) :: l =>
    let p := s.writePart x base o bs
    if p.2.isSome then p else State.writeParts p.1 x base l

/-! ### Records of a stopped team (R286) -/

/-- Valid entries of a strand's XPC list. -/
def State.nxpc (s : State) (team strand : Nat) : Nat := (s.expandingOf team strand).length

/-- A record with the fields that are known once its team is saved or found not to be. -/
def PendingRecord.filled (p : PendingRecord) (saved nores : Bool) (nrpl nxpc : Nat) (ready : Bool) : PendingRecord :=
  { p with
    ready
    words := p.words ||| BitVec.ofNat 512 ((if saved then 2 ^ 14 else 0) + (if nores then 2 ^ 15 else 0) +
      2 ^ 448 * (nrpl % 256) + 2 ^ 456 * (nxpc % 256)) }

/-- Class of a record (R286). -/
def PendingRecord.cls (p : PendingRecord) : Nat := bits p.words.toNat 0 4

/-- Whether the faults of a team are of several classes (R293). -/
def mixedClasses (l : List PendingRecord) : Bool := l.any fun p => l.any fun q => p.cls != q.cls

/-- Fills in the records of a team; those of PROBE faults and TRAPs may be written at once (R285, R291, R293). -/
def State.fillRecords (s : State) (t : Team) (saved : Bool) (hard : Bool) : State :=
  match s.context t.ctx with
  | none => s
  | some x =>
    let mixed := mixedClasses (x.records.filter fun p => p.team == some t.id && !p.ready)
    let s := s.setTeam { (s.team t.id).getD t with nores := t.nores || mixed }
    let fill (p : PendingRecord) : PendingRecord :=
      if p.team == some t.id && !p.ready then
        p.filled saved (t.nores || mixed) (((s.strand t.id p.strand).map (·.nrpl)).getD 0) (s.nxpc t.id p.strand) (!hard && p.keep)
      else p
    (s.setContext { x with records := x.records.map fill }).flushRecords t.ctx

/-! ### TEAM_SAVE -/

/-- Takes the pending launches of a team that are not accepted yet from its cores. -/
def State.dropLaunches (s : State) (team : Nat) : State :=
  { s with cores := s.cores.map fun c => { c with launches := c.launches.filter fun l =>
      !((s.cmd l.cmd).any fun m => m.team == team && m.packet.isNone) } }

/-- The pending launches a team still has enter the queues of its cores again (log 96). -/
def State.queueLaunches (s : State) (t : Team) : State :=
  (s.cmds.filter fun c => c.op == .launch && c.team == t.id && c.packet.isNone && c.st == .running).foldl (fun s c =>
    let p := t.physCore c.strand
    let k := s.core p
    s.setCore p { k with launches := k.launches ++ [{ cmd := c.id, addr := c.w0, issued := c.issuedTc }] }) s

/-- A grid that had no waiting team enters the waiting set when one of its teams does, and one whose team is swapped out enters it anew (R104;
log 90). The count of R105 goes on where it waited at effective priority 0 and still does. -/
def State.reenter (s : State) (gid : Nat) (anew : Bool) : State :=
  match s.grid gid with
  | some g =>
    let waits := (s.nextTeam g).isSome
    if anew || !waits then
      s.setGrid { g with waitSince := s.cyc, zeroSince := if g.prio ≠ 0 then none else if waits && g.zeroSince.isSome then g.zeroSince else some s.cyc }
    else s
  | none => s

/-- A team leaves its cores, saved: frozen after a PROBE fault or a TRAP, else in the waiting set or swapped out. -/
def State.leaveSaved (s : State) (t : Team) (at_ : Nat) (frozen : Bool) : State :=
  let st : Residence := if frozen then .frozen else match t.swapTo with | some (a, w) => .swapped a w | none => .saved
  let s := if frozen then s else s.reenter t.grid t.swapTo.isSome
  let held (c : Cmd) : Bool := (s.strand t.id c.strand).any (·.heldAtLease c.pc)
  let s : State := s.mapStrands t.id fun x => { x.saved at_ s with lanes := x.lanes.filter fun v => at_ ≤ v.p + 16 }
  let s : State := { s with cmds := s.cmds.map fun c => if c.packet.isNone && c.team == t.id then c.saved (held c) else c }
  let s := s.chosen.setTeam { t with st, tcyc := at_, claims := t.claims.map (·.saved at_ t.yieldAt), stopAsked := false, swapTo := none,
                                     viewj := [], unjoined := [], faulted := false, waitSince := s.cyc, turn := s.choice }
  let s := (s.dropLaunches t.id).freeTeam t
  let s : State := { s with contexts := s.contexts.map fun x =>
    { x with watches := x.watches.map fun w => { w with teams := w.teams.filter (· != t.id) } } }
  s.settleWatches t.ctx

/-- The strands of a team that has stopped, as they are saved: those that have not retired (R85). -/
def State.savedStrands (s : State) (t : Team) (at_ : Nat) : List Strand :=
  (s.live t.id).map fun y => { y.saved at_ s with lanes := y.lanes.filter fun v => at_ ≤ v.p + 16 }

/-- The save of a team that has come to rest (R113 to R115, R284, R291, R493); one with a fault, however late it was found, is frozen (R283). -/
def State.saveTeam (s : State) (t : Team) (at_ : Nat) (hard : Bool) : State :=
  match s.context t.ctx, s.grid t.grid with
  | some x, some g =>
    let (s1, r) := s.writeParts x (structPlus g.launch.saveaddr (t.index * t.saveSize)) (s.saveParts t (s.savedStrands t at_) at_)
    let s1 := { s1 with fresh := s1.fresh + 2 ^ 21 }
    match r with
    | some e =>
      let s1 := { s.chosen.writeSome x (structPlus g.launch.saveaddr (t.index * t.saveSize)) (s.saveParts t (s.savedStrands t at_) at_) s.choice with
                  fresh := s1.fresh }
      let s1 := s1.setTeam { t with st := .gone }
      let s1 := s1.addRecord t.ctx { team := some t.id, grid := some t.grid, strand := 0, words := s1.strandRecord t 0 0 e 0 ||| 0x8000#512, ready := false, keep := false }
      (s1.freeTeam t).fillRecords t false true
    | none =>
      let s1 := s1.mapStrands t.id fun y => { y with nrpl := (y.inflight.filter fun f => at_ ≤ f.commit).length }
      let s2 := s1.fillRecords t true hard
      if hard then (s2.setTeam { t with st := .gone }).freeTeam t
      else (s2.leaveSaved ((s2.team t.id).getD t) at_ t.faulted).preemptCheck
  | _, _ => s

/-- TEAM_SAVE (R113 to R115, R293): once every engine is at rest; the timed fabric commands of a frozen team end first. -/
def execTeamSave (team : Nat) (s : State) : Host.Outcome State Fault Refusal :=
  match s.team team with
  | none => .next s
  | some t =>
    match t.st with
    | .stopping at_ hard =>
      if (s.context t.ctx).any (·.destroying) then .next s
      else if !(s.timedOf team).isEmpty && (hard || t.faulted) && at_ ≤ t.tcyc then
        .next (s.withdrawAll fun c => c.team == team && c.packet.isNone)
      else .next (if s.atRest t at_ hard then s.saveTeam t at_ hard else s)
    | _ => .next s

/-! ### TEAM_RESUME -/

/-- `n` bytes of a save area at an offset, and whether a granule of them is poisoned (R118, R140); where it cannot be read any more, free bytes
(log 15). -/
def State.savedAt (s : State) (x : Context) (base : Word) (o n : Nat) : Nat × Bool :=
  match s.readStruct x s.choice (structPlus base o) n 1 with
  | .ok g => (g.val, g.pois.isSome)
  | .error _ => (freeNat (s.fresh + o) n, false)

/-- `n` words of a save area from an offset on, each with the poison of its granule. -/
def State.savedWords (s : State) (x : Context) (base : Word) (o n : Nat) : List (Nat × Bool) :=
  (List.range ((n + 7) / 8)).flatMap fun i =>
    let g := s.savedAt x base (o + 64 * i) 64
    (digits 64 8 g.1).map fun w => (w, g.2)

/-- The 512 bytes of a row at an offset, and a poison bit for each 64 of them. -/
def State.savedRow (s : State) (x : Context) (base : Word) (o : Nat) : Nat × BitVec 8 :=
  let l := (List.range 8).map fun m => s.savedAt x base (o + 64 * m) 64
  (undigits 512 (l.map (·.1)), BitVec.ofNat 8 (packBits (l.map (·.2))))

/-- The replay list from an offset of a save area on, as long as its entries are VALID (R116, R118). -/
def State.savedReplay (s : State) (x : Context) (base : Word) (at_ : Nat) : Nat → Nat → List InFlight → List InFlight
  | 0, _, _ => []
  | n + 1, o, kept =>
    let w := (s.savedAt x base o 8).1
    if bits w 22 1 = 0 then []
    else
      let v := s.savedAt x base (o + 8) 8
      if bits w 0 2 = 2 then
        let d := s.savedRow x base (o + 16)
        InFlight.ofEntry kept.head? w v.1 d.1 d.2 at_ :: State.savedReplay s x base at_ n (o + 528) kept.tail
      else InFlight.ofEntry kept.head? w v.1 0 (if v.2 then 1 else 0) at_ :: State.savedReplay s x base at_ n (o + 16) kept.tail

/-- The entries of the address queues, from the `i`-th on. -/
def State.savedQueue (s : State) (x : Context) (base : Word) (o : Nat) : Nat → Nat → List AqEntry
  | 0, _ => []
  | n + 1, i =>
    let w := (s.savedAt x base (o + 80 * i) 8).1
    if w % 2 = 0 then []
    else
      let d := s.savedAt x base (o + 80 * i + 16) 64
      AqEntry.ofWords (s.nextId + i) w d.1 d.2 :: State.savedQueue s x base o n (i + 1)

/-- The lane values in flight. -/
def State.savedLanes (s : State) (x : Context) (base : Word) (o at_ : Nat) : List LaneValue :=
  (List.range 60).filterMap fun i =>
    let k := o + laneOffset i
    let w := (s.savedAt x base k 8).1
    let d := s.savedRow x base (k + 16)
    if w.testBit 24 then some (.ofWords w (s.savedAt x base (k + 8) 8).1 d.1 d.2 at_) else none

/-- A strand restored from its part of a save area (R115, R116, R118); what that has no place for is as it was kept (log 34). -/
def State.restoredStrand (s : State) (x : Context) (base : Word) (t : Team) (st : Strand) : Strand :=
  let o := t.strandOffset st.index
  let regs := s.savedWords x base o 688
  let y := st.ofWords (fun n => (regs.getD n (0, false)).1) t.tcyc
  { y with
    spois := Vector.ofFn fun (i : Fin 64) => y.spois.get i || (regs.getD i.val (0, false)).2
    inflight := s.savedReplay x base t.tcyc 248 (o + 16384) st.inflight
    aq := s.savedQueue x base (o + 147456) 2048 0
    lanes := s.savedLanes x base o t.tcyc }

/-- The tiles, planes and accumulators of a strand restored in its new place (R171, R175). -/
def State.restoreTiles (s : State) (x : Context) (base : Word) (t : Team) (st : Strand) : State :=
  let o := t.strandOffset st.index
  let tw := t.strandTower st.index
  let got (k n : Nat) : Nat × Bool := s.savedAt x base (o + k) n
  let s' := st.tiles.zipIdx.foldl (fun u e =>
    let pois := (got (442368 + 16896 + 16 * e.2) 16).1
    (List.range 128).foldl (fun (u : State) l =>
      let k := tileKey tw e.1 l
      let line := got (524288 + 16384 * e.2 + 128 * l) 128
      let scale := got (311296 + 1024 * e.2 + 8 * l) 8
      let meta_ := got (344064 + 8192 * e.2 + 64 * l) 64
      { u.setLine k { data := BitVec.ofNat 1024 line.1, pois := pois.testBit l || line.2 || scale.2 || (e.2 < 8 && meta_.2) } with
        scales := SMap.set (0 : Word) u.scales k (BitVec.ofNat 64 scale.1)
        metas := if e.2 < 8 then SMap.set (0 : Chunk) u.metas k (BitVec.ofNat 512 meta_.1) else u.metas }) u) s
  st.accs.zipIdx.foldl (fun u e =>
    let b := 524288 + 16384 * t.ntile + 66560 * e.2
    (List.range 128).foldl (fun (u : State) r =>
      let side := (got (b + 65536 + 8 * r) 8).1
      let row := s.savedRow x base (o + b + 512 * r)
      u.setAccRow (accKey tw e.1 r)
        { data := BitVec.ofNat 4096 row.1, ck := BitVec.ofNat 32 side, pois := BitVec.ofNat 8 (side / 2 ^ 32) ||| row.2 }) u) s'

/-- A parcel of a team tower's belt restored; poison of the area marks it (R118, R161). -/
def State.restoreParcel (s : State) (x : Context) (base : Word) (t : Team) (i stn p tag : Nat) : State :=
  let n := min 4096 (1024 * t.belt - 4096 * p)
  let g := s.savedAt x base (t.beltOffset i stn + 4096 * p) n
  { s with
    ring := Memory.writeBytes s.ring (t.beltKey i stn (4096 * p)) (bytesOf n g.1)
    tags := SMap.set 0 s.tags (t.beltKey i stn (4096 * p) / 4096) (if g.2 then 0xFFFF#16 else BitVec.ofNat 16 tag) }

/-- A team tower's belt restored, and its tags (R118, R163). -/
def State.restoreBelt (s : State) (x : Context) (base : Word) (t : Team) (i : Nat) : State :=
  let n := (t.belt + 3) / 4
  let tags := digits 16 (32 * n) (s.savedAt x base (t.strandOffset (4 * i) + 409600) (64 * n)).1
  (List.range (32 * n)).foldl (fun s k => s.restoreParcel x base t i (k / n) (k % n) (tags.getD k 0)) s

/-- The expanding commands of a strand go on at the XPC of its area (R118). -/
def State.restoreXpc (s : State) (x : Context) (base : Word) (t : Team) (st : Strand) : State :=
  let l := s.savedWords x base (t.strandOffset st.index) 192
  (s.expandingOf t.id st.index).zipIdx.foldl (fun u e =>
    let w := (l.getD (170 + e.2) (0, false)).1
    if e.2 < 16 && bits w 10 1 = 1 then u.setCmd { e.1 with xpc := bits w 16 32 } else u) s

/-- Restores the save area of a team in its new place (R85, R118, R163, R171), and replays its recorded loads. -/
def State.restore (s : State) (x : Context) (base : Word) (t : Team) : State :=
  let head := (s.savedWords x base 0 8192).map (·.1)
  let w (n : Nat) : Nat := head.getD n 0
  let live := s.live t.id
  let t := t.ofHeader live.length w
  let s := ((s.teamStrands t.id).foldl (fun s st => s.zeroStrand t st) (s.setTeam t)).zeroBelt t
  let s := live.zipIdx.foldl (fun u e => u.setStrand ((s.restoredStrand x base t e.1).ofHeader e.2 w)) s
  let s := (s.live t.id).foldl (fun u st => (u.restoreTiles x base t st).restoreXpc x base t st) s
  let s := (List.range t.spans).foldl (fun u i => u.restoreBelt x base t i) s
  let s := { s with fresh := s.fresh + t.saveSize, nextId := s.nextId + 2048 }.chosen
  t.claims.foldl (fun s k => s.replayClaim t k) s

/-- TEAM_RESUME (R85, R103, R118, R119): a saved team takes a place, its contents are restored, and its streams load. -/
def execTeamResume (team : Nat) (s : State) : Host.Outcome State Fault Refusal :=
  match s.nextGrid with
  | none => .next s
  | some g =>
    match s.nextTeam g, s.context g.ctx with
    | some (some t), some x =>
      if t.id ≠ team then .next s
      else
        let l := s.places (s.teamNeed t)
        match l[s.choice % l.length]? with
        | none => .next s
        | some (t0, c0, bases) =>
          let t' := { t with t0, c0, beltBases := bases, st := .loading, moved := t0 != t.t0 || c0 != t.c0,
                             nres := (t.nres + 1) % 2 ^ 16, since := s.cyc, records := [], nores := false }
          let s := s.chosen.setTeam t'
          let s := s.mapStrands team fun y => if y.st == .retired then y else { y with st := .loading }
          let s := (List.range t'.width).foldl (fun s i => s.giveTiles t' i) s
          let base := structPlus g.launch.saveaddr (t'.index * t'.saveSize)
          let s := s.restore x base t'
          let move (c : Cmd) : Cmd := if c.packet.isNone && c.team == team then
            { c with tower := t'.strandTower c.strand, core := t'.physCore c.strand } else c
          let s := ({ s with cmds := s.cmds.map move } : State).queueLaunches t'
          .next (((s.loadTeam x t' g).served g.id).deviceNotes x [(base, t'.saveSize)]).preemptCheck
    | _, _ => .next s

/-! ### GRID_DISCARD (R284) -/

/-- Frees a team of a discarded grid (R284, R383, R385). -/
def State.discardTeam (s : State) (t : Team) : State :=
  let s := s.withdrawAll fun c => c.team == t.id && c.packet.isNone
  (s.dropLaunches t.id).dropTeam t

/-- Steps 3 and 4 of R284: the teams of a grid are freed, and their records may be written. -/
def State.discardGrid (s : State) (gid : Nat) : State :=
  match s.grid gid with
  | none => s
  | some g =>
    let ids := (s.teams.filter (·.grid == gid)).map (·.id)
    let mark (p : PendingRecord) : PendingRecord := match p.team with
      | some id => if ids.contains id then { p with ready := true } else p
      | none => p
    let s := (s.teams.filter (·.grid == gid)).foldl (fun s t => s.discardTeam t) s
    let s := match s.context g.ctx with
      | some x => s.setContext { x with records := x.records.map mark }
      | none => s
    let s := (s.flushRecords g.ctx).settleWatches g.ctx
    (s.setGrid { (s.grid gid).getD g with closing := true }).preemptCheck

/-- Whether records of a grid that is being discarded are still to be written. -/
def State.recordsLeft (s : State) (g : Grid) : Bool := (s.context g.ctx).any fun x => x.records.any fun p => p.grid == some g.id

/-- Steps 5 and 6 of R284: the records stand in the fault queue, the counter advances, and the grid is complete. -/
def State.closeGrid (s : State) (g : Grid) : State :=
  (s.setGrid { g with live := false, closing := false, outcome := 1, end_ := s.cyc, keys := s.keysOf g.ctx }).counterAdd
    g.ctx g.launch.ccaddr (2 ^ 32)

/-- Whether the teams of a grid are to be discarded: one of them has stopped on a fault other than a PROBE fault or a TRAP, or could not be saved,
and every other one that has faulted has been saved (R283, R284). -/
def State.discardReady (s : State) (gid : Nat) : Bool :=
  (s.teams.any fun t => t.grid == gid && t.st == .gone) &&
  !(s.teams.any fun t => t.grid == gid && t.faulted && (match t.st with | .stopping _ _ => true | _ => false))

/-- GRID_DISCARD (R284, R493): the grid's teams are freed, its records are written, and then its counter advances. -/
def execGridDiscard (grid : Nat) (s : State) : Host.Outcome State Fault Refusal :=
  match s.grid grid with
  | some g =>
    .next (if g.closing then (if s.recordsLeft g then s.flushRecords g.ctx else s.closeGrid g)
      else if s.discardReady grid then s.discardGrid grid else s)
  | none => .next s

/-- FAULT_QUEUE_ROOM (R285): a held record is written once there is room. -/
def execFaultQueueRoom (ctx : Nat) (s : State) : Host.Outcome State Fault Refusal := .next (s.flushRecords ctx)

/-! ### The auditor's replays (R296 to R298) -/

/-- The A elements of a logged step, by row and layer (R179, R190). -/
def AuditStep.aNums (a : AuditStep) (fmt i k : Nat) : List Num :=
  a.tiles.flatMap fun l =>
    let e := l.getD i (0, 0)
    sliceNums fmt (bits e.1.toNat (64 * k) 64) (layerScale e.2 fmt k)

/-- The column sums of every step of a sample, replayed from what is logged (R49, R185, R296). -/
def Sample.replayed (x : Sample) : List (List (List (BitVec 32))) :=
  x.steps.map fun a => (bandStep (isIntFmt x.fmt) (a.aNums x.fmt) a.planes).1

/-- The row signatures of a replay (R297). -/
def Sample.replaySigs (x : Sample) : List (BitVec 128) := x.replayed.foldl (fun g v => List.zipWith rowSig g v) (List.replicate 128 0)

/-- The final rows of an accumulator tile of the sample, recomputed from its logged rows and the replayed column sums (R50, R297). -/
def Sample.replayTile (x : Sample) (sums : List (List (List (BitVec 32)))) (a : AuditTile) : List Row :=
  let mode := (RMode.ofCode (wbits x.w0 27 3)).getD .rne
  (sums.zipIdx).foldl (fun rows e =>
    let (_, _, out, kk) := stepTiles x.op x.w0 e.2
    if cwAcc x.w0 + out = a.acc then
      rows.zipIdx.map fun r => (({ data := r.1, ck := 0, pois := 0 } : AccRow).addSums (acfgType a.cfg) mode (wbits x.w0 30 1 == 1) (128 * cwOfs x.w0)
        (fun j => if mode == .sr then srDraw x.srkey x.srctr (16384 * out + 128 * r.2 + j) kk else 0) (e.1.getD r.2 []) 0 false).data
    else rows) a.before

/-- What the command and a replay compare (R297): place, the command's signature and the replay's. Places from 0 on are rows of the column sums,
and those from 2,048 on are the strand's accumulator rows, of the tiles that no one else has written. -/
def Sample.compared (x : Sample) : List (Nat × BitVec 128 × BitVec 128) :=
  let sums := x.replayed
  ((x.sigs.zip (sums.foldl (fun g v => List.zipWith rowSig g v) (List.replicate 128 0))).zipIdx.map fun e => (e.2, e.1.1, e.1.2)) ++
  (x.tiles.filter fun a => a.own && !a.final.isEmpty).flatMap fun a =>
    (a.final.zip ((x.replayTile sums a).map finalSig)).zipIdx.map fun e => (2048 + 128 * a.acc + e.2, e.1.1, e.1.2)

/-- The signature of a replay whose site differs from the exact one by `flip` at one place. -/
def siteSig (row : Nat) (flip : BitVec 128) (e : Nat × BitVec 128 × BitVec 128) : BitVec 128 := if e.1 = row then e.2.2 ^^^ flip else e.2.2

/-- The first place where the command and a replay differ, with the replay's signature there. -/
def Sample.mismatch (x : Sample) (row : Nat) (flip : BitVec 128) : Option (Nat × BitVec 128) :=
  (x.compared.find? fun e => e.2.1 != siteSig row flip e).map fun e => (e.1, siteSig row flip e)

/-- The strand accumulator row that a place of `compared` is reported as (R298): that of the first output tile for a row of the column sums, whose
signature runs over every step (log 43). -/
def Sample.rowOf (x : Sample) (place : Nat) : Nat := if 2048 ≤ place then place - 2048 else 128 * cwAcc x.w0 + place

/-- The EVENT AUDIT record of a mismatch at a place, and its count (R298). -/
def State.auditEvent (s : State) (tower : Nat) (x : Sample) (place verdict site2 : Nat) : State :=
  let tc := ((s.team x.team).map (·.tcyc)).getD 0
  let detail := packFields [(11, x.rowOf place), (2, verdict), (2, x.site1.getD 0), (2, site2), (1, if 2048 ≤ place then 1 else 0)]
  let words := x.record ||| BitVec.ofNat 512 (2 ^ 88 * (tc % 2 ^ 40) + 2 ^ 128 * (s.cyc % 2 ^ 64) + 2 ^ 384 * detail)
  let s := s.logEvent x.ctx (some x.grid) words
  let s := match s.grid x.grid with
    | some g => s.setGrid { g with mismatch := g.mismatch + 1 }
    | none => s
  s.setTower tower { s.tower tower with sample := none }

/-- AUDIT_REPLAY_COMPLETE (R296 to R298): the first replay's signatures are compared with the command's; `flip` is what the site adds to its own at
`row`, 0 for a sound site. -/
def execAuditReplayComplete (tower row : Nat) (flip : BitVec 128) (s : State) : Host.Outcome State Fault Refusal :=
  match (s.tower tower).sample with
  | some x =>
    if tower < 4 && x.complete && x.bad1.isNone then
      match x.mismatch row flip with
      | none => .next (s.setTower tower { s.tower tower with sample := none })
      | some (place, v) =>
        match s.auditSite (((List.range 4).map fun i => (tower + i) % 4).filter fun y => y != tower && some y != x.site1) with
        | none => .next (s.auditEvent tower x place 2 (x.site1.getD 0))
        | some y => .next (s.setTower tower { s.tower tower with sample := some { x with bad1 := some (place, v), site2 := some y } })
    else .next s
  | none => .next s

/-- AUDIT_SECOND_REPLAY_COMPLETE (R298): the verdict by what the second replay agrees with at the first mismatching row,
where its site adds `flip`. -/
def execAuditSecondReplayComplete (tower : Nat) (flip : BitVec 128) (s : State) : Host.Outcome State Fault Refusal :=
  match (s.tower tower).sample with
  | some x =>
    match x.bad1 with
    | some (place, first) =>
      if tower < 4 then
        let got := (x.compared.find? fun e => e.1 == place).map fun e => (e.2.1, siteSig place flip e)
        let verdict : Nat := match got with
          | some (own, second) => if second = first then 0 else if second = own then 1 else 3
          | none => 3
        .next (s.auditEvent tower x place verdict (x.site2.getD 0))
      else .next s
    | none => .next s
  | none => .next s

end Sys2Proof.Machine
end

