-- ==== Sys2Proof/Machine/Queues.lean ====
section
/-! DEFINITION. Work queues and their packets (R96 to R100, R117, R292), launch records and images (R57, R88, R101, R102, R302, R342, R343), and
device-side launches (R109, R393). -/

namespace Sys2Proof.Machine

/-! ### Reading as the scheduler does -/

/-- The `n` bytes at a structure address, with the poison of their granules whatever the tensor's policy (R98, R289). -/
def State.schedRead (s : State) (x : Context) (addr : Word) (n align : Nat) : Except Stop Got :=
  match s.structAt x s.choice addr n align with
  | .error e => .error e
  | .ok (tid, off, d) =>
    match s.structGranules x s.choice tid { d with zeroFill := false } off ((off % 64 + n + 63) / 64) with
    | .error e => .error e
    | .ok g => .ok { g with val := bits g.val (8 * (off % 64)) (8 * n) }

/-- Whether a structure address names `n` bytes of a structure with the alignment it needs (R93). -/
def State.structOk (s : State) (x : Context) (addr : Word) (n align : Nat) : Bool :=
  match s.structAt x s.choice addr n align with
  | .ok _ => true
  | .error _ => false

/-- Whether a counter field is well formed: none, or an aligned 8-byte word (R93, R100). -/
def State.counterOk (s : State) (x : Context) (addr : Word) : Bool := addr == 0 || s.structOk x addr 8 8

/-! ### Consuming a slot -/

/-- Changes a queue of a context. -/
def State.setQueue (s : State) (ctx q : Nat) (f : Queue → Queue) : State :=
  match s.context ctx with
  | some x => s.setContext { x with queues := x.queues.zipIdx.map fun e => if e.2 = q then f e.1 else e.1 }
  | none => s

/-- The round that a slot of index `n` is filled in (R96). -/
def Queue.round (q : Queue) (n : Nat) : Nat := n / 2 ^ q.szlog % 2 ^ 31

/-- Structure address of the slot of index `n`. -/
def Queue.slotAddr (q : Queue) (n : Nat) : Word := structPlus q.slots (64 * (n % 2 ^ q.szlog))

/-- A slot that the scheduler may consume: its context and queue, its 512 bits and its poison. -/
structure Packet where
  x : Context
  queue : Queue
  q : Nat
  bits : Nat
  pois : Option (Nat × Nat)
  deriving DecidableEq, Repr

/-- Word `i` of a packet. -/
def Packet.word (p : Packet) (i : Nat) : Word := BitVec.ofNat 64 (Machine.bits p.bits (64 * i) 64)

/-- TYPE of a packet (R97). -/
def Packet.type (p : Packet) : Nat := Machine.bits p.bits 24 8

/-- The slot at RIDX, where the scheduler reads it now, as a report has told it to (R96), and it is filled in the round of RIDX, or is poisoned
(R98). -/
def State.packetAt (s : State) (ctx q : Nat) : Option Packet :=
  match s.context ctx with
  | none => none
  | some x =>
    match x.queues[q]? with
    | none => none
    | some k =>
      if !k.enabled || k.ridx == k.known || s.cyc < k.next || k.hold != .none || x.destroying || s.keep.boot != .running then none
      else match s.schedRead x (k.slotAddr k.ridx) 64 64 with
        | .error _ => none
        | .ok g =>
          if g.pois.isSome || (bits g.val 63 1 = 1 && bits g.val 32 31 = k.round k.ridx) then some ⟨x, k, q, g.val, g.pois⟩ else none

/-- RIDX advances, with release semantics (R96). -/
def State.advance (s : State) (p : Packet) : State :=
  let n := (p.queue.ridx + 1) % 2 ^ 64
  (s.deviceWrite p.x (structPlus p.queue.idx 8) (bytesOf 8 n)).setQueue p.x.num p.q fun k => { k with ridx := n }

/-- Word 0 goes back with VALID 0, its reserved bits 0 and a status, and RIDX advances (R4, R98). -/
def State.consume (s : State) (p : Packet) (status : Nat) : State :=
  let w := 2 ^ 16 * status + 2 ^ 24 * p.type + 2 ^ 32 * bits p.bits 32 31
  (s.deviceWrite p.x (p.queue.slotAddr p.queue.ridx) (bytesOf 8 w)).advance p

/-- The record of a poisoned slot, launch record or group entry (R98). -/
def State.packetPoison (s : State) (p : Packet) (pois : Nat × Nat) : State :=
  let r := { Raised.of .poisonConsume .outside 2 with pctx := pois.1, pcause := pois.2 }
  (s.addRecord p.x.num { team := none, grid := none, strand := 0, words := s.packetRecord p.x.num p.q p.queue.ridx 0 r 0, ready := true,
                         keep := false }).flushRecords p.x.num

/-- A slot whose granule is poisoned (R98): the whole granule is written back, which clears the poison. -/
def State.consumePoisoned (s : State) (p : Packet) (pois : Nat × Nat) : State :=
  let w := 2 ^ 16 * 2 + 2 ^ 32 * p.queue.round p.queue.ridx
  ((s.deviceWrite p.x (p.queue.slotAddr p.queue.ridx) (bytesOf 64 w)).packetPoison p pois).advance p

/-- Whether a reserved bit of a packet is set: of word 0, of the words after word `used`, or where `extra` says (R97, R100). -/
def Packet.reserved (p : Packet) (used : Nat) (extra : Bool) : Bool :=
  extra || Machine.bits p.bits 0 16 != 0 || p.bits / 2 ^ (64 * (used + 1)) != 0

/-- The packet types of R100, but for the frozen-team codes of RESUME (R292), which have types of their own. -/
inductive PacketType where
  | nop | launch | copy | layout | signal | wait | preempt | resume | resumeFrozen | discardFrozen | fence
  deriving DecidableEq, Repr

/-- What a slot holds. A packet of an unknown type is consumed like a NOP, but malformed. -/
def Packet.kind (p : Packet) : PacketType :=
  match p.type with
  | 1 => .launch
  | 2 => .copy
  | 3 => .layout
  | 4 => .signal
  | 5 => .wait
  | 6 => .preempt
  | 7 => if wbits (p.word 1) 0 8 = 3 then .resumeFrozen else if wbits (p.word 1) 0 8 = 4 then .discardFrozen else .resume
  | 8 => .fence
  | _ => .nop

/-- The scheduler reads the slot at RIDX again a finite time after it has read it (R96): a choice (log 4). -/
def State.readAgain (s : State) (ctx q : Nat) : State := s.chosen.setQueue ctx q fun k => { k with next := s.cyc + 1 + s.choice }

/-- The read of a slot counts at its stack (R147). -/
def State.noteSlot (s : State) (x : Context) (k : Queue) : State := s.deviceNotes x [(k.slotAddr k.ridx, 64)]

/-- The scheduler serves the queue with a packet of kind `k` (R96, R98); a poisoned slot is consumed whatever it holds. -/
def State.serve (s : State) (ctx q : Nat) (k : PacketType) (f : State → Packet → State) : Host.Outcome State Fault Refusal :=
  match s.packetAt ctx q with
  | none => .next s
  | some p =>
    match p.pois with
    | some x => .next (if k = .nop then ((s.consumePoisoned p x).noteSlot p.x p.queue).readAgain ctx q else s)
    | none => .next (if p.kind = k then ((f s p).noteSlot p.x p.queue).readAgain ctx q else s)

/-! ### Reports of the near-memory units (R96) -/

/-- The write index of a queue, where its granule can be read. -/
def State.widx (s : State) (x : Context) (k : Queue) : Option Nat :=
  match s.schedRead x k.idx 8 8 with
  | .ok g => some g.val
  | .error _ => none

/-- A changed write index is reported; the report arrives a finite time later, by choice (log 4). -/
def State.reportQueue (s : State) (x : Context) (q : Nat) (k : Queue) : State :=
  match s.widx x k with
  | some n =>
    if n = k.seen then s
    else { s.chosen.setQueue x.num q fun k => { k with seen := n } with
           reports := s.reports ++ [{ ctx := x.num, queue := q, arrives := s.cyc + 1 + s.choice }] }
  | none => s

/-- The scheduler reads a slot that was not filled again later (R96, R98). -/
def State.pollQueue (s : State) (x : Context) (q : Nat) (k : Queue) : State :=
  if k.ridx != k.known && k.hold == .none && k.next ≤ s.cyc && (s.packetAt x.num q).isNone then (s.noteSlot x k).readAgain x.num q else s

/-- The near-memory units watch the index granules of every enabled queue, and the scheduler the slots it waits for. -/
def State.watchQueues (s : State) : State :=
  s.contexts.foldl (fun s x => x.queues.zipIdx.foldl (fun s e => if e.1.enabled then (s.reportQueue x e.2 e.1).pollQueue x e.2 e.1 else s) s) s

/-- The report that arrives first. -/
def firstReport : List Report → Option Report
  | [] => none
  | r :: l => match firstReport l with
    | some q => some (if r.arrives ≤ q.arrives then r else q)
    | none => some r

/-- The scheduler serves the reports in the order in which they arrive, one a cycle (R96): it then reads the queue's slot at once. -/
def State.serveReport (s : State) : State :=
  match firstReport s.reports with
  | some r =>
    if r.arrives ≤ s.cyc then
      { s.setQueue r.ctx r.queue fun k => { k with known := k.seen, next := s.cyc } with reports := s.reports.erase r }
    else s
  | none => s

/-- NOP_PACKET (R98, R100): also the consumption of a poisoned slot and of a packet of no known type. -/
def execNopPacket (ctx queue : Nat) (s : State) : Host.Outcome State Fault Refusal :=
  s.serve ctx queue .nop fun s p => s.consume p (if p.type = 0 && !p.reserved 0 false then 1 else 2)

/-! ### Launch records (R101, R102) -/

/-- The fields of a launch record. -/
def launchRec (x : Nat) : LaunchRec :=
  { hash := BitVec.ofNat 64 (bits x 0 64), image := BitVec.ofNat 64 (bits x 64 64), teams := bits x 128 16, wm1 := bits x 144 4,
    tsec := bits x 148 1 == 1, tlenm1 := bits x 149 24, gfirst := bits x 173 8, gcount := bits x 181 9, belt := bits x 192 12,
    ntile := bits x 204 6, nacc := bits x 210 5,
    bands := (List.range (bits x 215 3)).map fun b => (BitVec.ofNat 16 (bits x (256 + 16 * b) 16), bits x (218 + 2 * b) 2, bits x (226 + 2 * b) 2),
    ccaddr := BitVec.ofNat 64 (bits x 320 64), saveaddr := BitVec.ofNat 64 (bits x 384 64), grpaddr := BitVec.ofNat 64 (bits x 448 64),
    args := (List.range 8).map fun i => BitVec.ofNat 64 (bits x (512 + 64 * i) 64) }

/-- Team width of a launch record. -/
def LaunchRec.width (r : LaunchRec) : Nat := r.wm1 + 1

/-- Bytes of one team's save area (R115). -/
def LaunchRec.saveSize (r : LaunchRec) : Nat :=
  let n := 65536 + r.width * (524288 + 16384 * r.ntile + 66560 * r.nacc) + widthSpans r.width * 32 * (1024 * r.belt)
  (n + 65535) / 65536 * 65536

/-- Whether the fields that a record holds itself are in range (R101). -/
def LaunchRec.inRange (r : LaunchRec) (x : Nat) : Bool :=
  0 < r.teams && [1, 2, 3, 4, 8, 12, 16].contains r.width && r.gcount ≤ 256 && r.gfirst + r.gcount ≤ 256 && bits x 190 2 == 0 &&
  r.belt ≤ 2048 && r.ntile ≤ 32 && r.nacc ≤ 16 && bits x 215 3 ≤ 4 && bits x 234 22 == 0 && (r.grpaddr == 0) == (r.gcount == 0)

/-- Whether the band claims are sound (R102). -/
def LaunchRec.bandsOk (r : LaunchRec) : Bool :=
  (r.bands.all fun b => b.1 != 0 && (if 8 ≤ r.width then b.2.2 < r.width / 4 else b.2.2 == 0)) &&
  (r.bands.zipIdx.all fun a => r.bands.zipIdx.all fun b =>
    a.2 == b.2 || a.1.2.2 != b.1.2.2 || (a.1.1 &&& b.1.1 == 0 && a.1.2.1 != b.1.2.1))

/-- Whether the tiles of the strands on one tower are more than the tower has (R102). -/
def LaunchRec.tilesOk (r : LaunchRec) : Bool := min 4 r.width * r.ntile ≤ 64 && min 4 r.width * r.nacc ≤ 16

/-- Whether an image is malformed (R102, R343), or the keep does not accept its signature (R302): the signature is verified on the first load
of the image for the context. -/
def State.imageBad (s : State) (x : Context) (r : LaunchRec) : Bool :=
  let h := s.deviceRead x r.image 256
  let size := bits h 64 64
  let body := bytesOf (size - 1280) (s.deviceRead x r.image (size - 1280))
  let sig := BitVec.ofNat 10240 (s.deviceRead x (structPlus r.image (size - 1280)) 1280)
  !s.structOk x r.image 256 64 || bits h 0 32 != 0x494B5744 || bits h 61 3 != 0 || bits h 1408 640 != 0 || size < 1536 ||
  !s.structOk x r.image size 64 || bits h 32 4 < r.wm1 ||
  ((List.range (bits h 32 4 + 1)).any fun i =>
    let off := bits h (256 + 64 * i) 32
    let len := bits h (288 + 64 * i) 32
    off % 4 != 0 || len % 4 != 0 || 262144 < len || size < off + len) ||
  BitVec.ofNat 64 (natOf ((Config.shake256 8 body).take 8)) != r.hash ||
  (bits h 36 1 == 1 && (!r.tsec || r.tlenm1 < bits h 37 24)) ||
  !(x.verified.contains r.hash || x.imageKeys.contains (Config.falconKey body sig))

/-- The context's group table with the entries of a launch; none where an entry breaks R88. The copy also holds entries that do not include this
device, which only a relay of multicast copies reads (R268; log 78). -/
def State.groupsWith (s : State) (x : Context) (first : Nat) (entries : List (BitVec 256)) : Option (SMap (BitVec 256)) :=
  let copy := entries.zipIdx.foldl (fun m e =>
    SMap.set (0 : BitVec 256) m (first + e.2) e.1) x.groups
  if (entries.all fun e => e.toNat < 2 ^ s.fabric.devices) && (copy.filter fun e => e.2.getLsbD s.fabric.devid).length ≤ 4 then some copy else none

/-- What the scheduler finds of a launch record: it is accepted, with its group entries and the new copy of the table. -/
inductive Verdict where
  | malformed
  | unplaceable
  | poisoned (p : Nat × Nat)
  | accepted (r : LaunchRec) (entries : List (BitVec 256)) (copy : SMap (BitVec 256))
  deriving DecidableEq, Repr

/-- Whether a record is malformed by R102, its group entries apart. -/
def State.recordBad (s : State) (x : Context) (r : LaunchRec) (bits_ : Nat) : Bool :=
  !r.inRange bits_ || !r.bandsOk || !r.tilesOk || r.saveaddr == 0 || !s.structOk x r.saveaddr (r.teams * r.saveSize) 64 ||
  !s.counterOk x r.ccaddr || s.imageBad x r

/-- The scheduler reads and checks a launch record and the group entries it names (R88, R98, R102). -/
def State.checkLaunch (s : State) (x : Context) (addr : Word) : Verdict :=
  match s.schedRead x addr 128 64 with
  | .error _ => .malformed
  | .ok g =>
    match g.pois with
    | some p => .poisoned p
    | none =>
      let r := launchRec g.val
      if s.recordBad x r g.val then .malformed
      else
        let done (entries : List (BitVec 256)) : Verdict := match s.groupsWith x r.gfirst entries with
          | none => .malformed
          | some copy => if s.placeable r.width then .accepted r entries copy else .unplaceable
        if r.gcount = 0 then done []
        else match s.schedRead x r.grpaddr (32 * r.gcount) 64 with
          | .error _ => .malformed
          | .ok e => match e.pois with
            | some p => .poisoned p
            | none => done ((digits 256 r.gcount e.val).map (BitVec.ofNat 256))

/-- A grid as it enters the waiting set (R100, R104). -/
def State.newGrid (s : State) (ctx queue prio : Nat) (lrec : Word) (r : LaunchRec) : Grid where
  id := s.nextId
  ctx := ctx
  queue := queue
  prio := prio
  lrec := lrec
  launch := r
  placed := []
  finished := 0
  waitSince := s.cyc
  zeroSince := if prio = 0 then some s.cyc else none
  due := false
  held := false
  live := true
  closing := false
  outcome := 0
  keys := 0
  start := 0
  started := false
  end_ := 0
  zfill := 0
  pcons := 0
  sampled := 0
  skipped := 0
  mismatch := 0
  fqidx := 0

/-- A grid is accepted (R88, R100, R104, R302): its group entries go to the table and to the scheduler's copy. -/
def State.acceptGrid (s : State) (ctx queue prio : Nat) (lrec : Word) (r : LaunchRec) (entries : List (BitVec 256))
    (copy : SMap (BitVec 256)) : State :=
  match s.context ctx with
  | none => s
  | some x =>
    let g := s.newGrid ctx queue prio lrec r
    let s := if entries.isEmpty then s
      else s.deviceWrite x (structPlus x.gtab (32 * r.gfirst)) (entries.flatMap fun e => bytesOf 32 e.toNat)
    let s := s.setContext { x with groups := copy, verified := if x.verified.contains r.hash then x.verified else x.verified ++ [r.hash] }
    let s : State := { s with grids := s.grids ++ [g], nextId := s.nextId + 1 }
    s.preemptFor g

/-- The reads of a launch record, of the group entries it names and of its image count at their stacks (R147). -/
def State.noteLaunch (s : State) (x : Context) (addr : Word) : State :=
  match s.schedRead x addr 128 64 with
  | .error _ => s
  | .ok g =>
    let r := launchRec g.val
    let size := bits (s.deviceRead x r.image 256) 64 64
    s.deviceNotes x ((addr, 128) :: if g.pois.isSome then []
      else [(r.grpaddr, 32 * r.gcount), (r.image, if s.structOk x r.image size 64 then size else 256)])

/-- LAUNCH_PACKET (R98, R100). -/
def execLaunchPacket (ctx queue : Nat) (s : State) : Host.Outcome State Fault Refusal :=
  s.serve ctx queue .launch fun s p =>
    if p.reserved 1 false then s.consume p 2
    else
      let done := match s.checkLaunch p.x (p.word 1) with
        | .malformed => s.consume p 2
        | .unplaceable => s.consume p 3
        | .poisoned y => (s.packetPoison p y).consume p 2
        | .accepted r entries copy =>
          ((s.acceptGrid ctx queue p.queue.prio (p.word 1) r entries copy).consume p 1).setQueue ctx queue fun k => { k with grids := k.grids ++ [s.nextId] }
      done.noteLaunch p.x (p.word 1)

/-! ### COPY and LAYOUT packets -/

/-- The command of a COPY or LAYOUT packet (R100, R210). -/
def State.packetCmd (s : State) (p : Packet) (op : CmdOp) (tower : Nat) (w0 w1 w2 counter increment : Word) : Cmd where
  id := s.nextId
  op := op
  ctx := p.x.num
  team := 0
  strand := 0
  packet := some (p.q, p.queue.ridx)
  tower := tower
  core := 0
  w0 := w0
  w1 := w1
  w2 := w2
  token := 0
  deps := []
  fences := []
  timed := false
  pc := 0
  slot := 0
  issuedTc := 0
  issuedCyc := s.cyc
  srkey := 0
  srctr := BitVec.ofNat 64 p.queue.ridx
  weight := 8
  st := .queued
  start := 0
  startCyc := s.cyc
  expanding := false
  xpc := 0
  steps := 0
  notBefore := s.cyc + 1
  src := none
  dst := none
  fed := []
  fedAt := 0
  slots := []
  done_ := []
  parcels := []
  lines := []
  zeroed := []
  fetched := []
  arrived := none
  members := []
  sent := none
  audited := false
  counter := counter
  increment := increment
  again := false
  heard := []
  planes := []

/-- POISON CONSUME of a packet's views (R289). -/
def State.viewPoison (s : State) (c : Cmd) (p : Nat × Nat) : State :=
  s.commandFault c { startRaised .poisonConsume 2 with pctx := p.1, pcause := p.2 }

/-- Start of a COPY packet (R100, R219). -/
def State.copyPacketStart (s : State) (x : Context) (old : Nat) (c : Cmd) (a b : View) (pois : Option (Nat × Nat)) : State :=
  match s.layoutBind x old a b with
  | .error e => s.startFault c e
  | .ok (u, v) =>
    match copyCheck Team.initial c.w0 (.view a) (.view b) (.view u) (.view v) with
    | some e => s.startFault c e
    | none => match pois with
      | some p => s.viewPoison c p
      | none => s.begin { c with src := some (.view u), dst := some (.view v) } ((v.view.count + 1023) / 1024)

/-- Start of a LAYOUT packet (R100, R209). -/
def State.layoutPacketStart (s : State) (x : Context) (old : Nat) (c : Cmd) (a b : View) (pois : Option (Nat × Nat)) : State :=
  match s.layoutBind x old a b, layoutCheck (dmwOf c.w0 c.w2) (lcwConv c.w1) (lcwRm c.w1), pois with
  | .ok (u, v), check, some p => if (check u v).isNone then s.viewPoison c p else s.layoutBegin x old c a b false
  | _, _, _ => s.layoutBegin x old c a b false

/-- A COPY or LAYOUT packet (R100): malformed where its structure addresses are, held while no tower is online, else taken. -/
def State.engineAccept (s : State) (p : Packet) (bad : Bool) (counter : Word) (c : Nat → Cmd)
    (start : State → Nat → Cmd → View → View → Option (Nat × Nat) → State) : State :=
  match s.schedRead p.x (p.word 1) 128 64, s.schedRead p.x (p.word 2) 128 64 with
  | .ok a, .ok b =>
    if bad || !s.counterOk p.x counter then s.consume p 2
    else match s.packetTower p.q with
      | none => s
      | some t =>
        let c := c t
        let s : State := { s with cmds := s.cmds ++ [c], nextId := s.nextId + 1 }
        let s := (s.consume p 1).setQueue p.x.num p.q fun k => { k with open_ := k.open_ ++ [c.id] }
        ((start s.chosen s.choice c (viewOf a.val) (viewOf b.val) (a.pois.or b.pois)).cacheEnds p.x c.id).deviceNotes p.x
          [(p.word 1, 128), (p.word 2, 128)]
  | _, _ => s.consume p 2

/-- COPY_PACKET (R100): CONV, RM and SAT stand in word 3 as R216 has them 32 bits higher. -/
def execCopyPacket (ctx queue : Nat) (s : State) : Host.Outcome State Fault Refusal :=
  s.serve ctx queue .copy fun s p =>
    s.engineAccept p (p.reserved 5 (wbits (p.word 3) 12 52 != 0)) (p.word 4)
      (fun t => s.packetCmd p .copy t (p.word 3 <<< 32) 0 0 (p.word 4) (p.word 5)) (fun s old c a b q => s.copyPacketStart p.x old c a b q)

/-- LAYOUT_PACKET (R100, R205): CONV, RM and SAT stand in word 5 as R203 has them 28 bits higher. -/
def execLayoutPacket (ctx queue : Nat) (s : State) : Host.Outcome State Fault Refusal :=
  s.serve ctx queue .layout fun s p =>
    s.engineAccept p (p.reserved 7 (wbits (p.word 5) 12 52 != 0)) (p.word 6)
      (fun t => s.packetCmd p .layout t (p.word 3) (p.word 5 <<< 28) (p.word 4) (p.word 6) (p.word 7))
      (fun s old c a b q => s.layoutPacketStart p.x old c a b q)

/-! ### SIGNAL, WAIT and FENCE -/

/-- SIGNAL_PACKET (R100). -/
def execSignalPacket (ctx queue : Nat) (s : State) : Host.Outcome State Fault Refusal :=
  s.serve ctx queue .signal fun s p =>
    if p.reserved 3 (wbits (p.word 3) 1 63 != 0) || !s.counterOk p.x (p.word 1) then s.consume p 2
    else
      let s := if wbits (p.word 3) 0 1 = 0 then s.counterAdd ctx (p.word 1) (p.word 2).toNat
        else if p.word 1 = 0 then s else s.deviceWrite p.x (p.word 1) (bytesOf 8 (p.word 2).toNat)
      s.consume p 1

/-- Whether a WAIT packet's condition is met (R100); a counter of 0 names none, and a poisoned one holds the queue. -/
def State.queueWaitMet (s : State) (ctx : Nat) (addr target : Word) : Bool :=
  addr == 0 || match s.counterReached ctx addr target with
    | .ok b => b
    | .error _ => false

/-- WAIT_PACKET (R100). -/
def execWaitPacket (ctx queue : Nat) (s : State) : Host.Outcome State Fault Refusal :=
  s.serve ctx queue .wait fun s p =>
    if p.reserved 2 false || !s.counterOk p.x (p.word 1) then s.consume p 2
    else
      let s := s.forgetPoll ctx (p.word 1)
      let hold := if s.queueWaitMet ctx (p.word 1) (p.word 2) then .none else .wait (p.word 1) (p.word 2)
      (s.consume p 1).setQueue ctx queue fun k => { k with hold }

/-- WAIT_PACKET_SATISFIED (R100). -/
def execWaitPacketSatisfied (ctx queue : Nat) (s : State) : Host.Outcome State Fault Refusal :=
  match s.context ctx with
  | none => .next s
  | some x =>
    match x.queues[queue]? with
    | none => .next s
    | some k =>
      match k.hold with
      | .wait a t => .next (if s.queueWaitMet ctx a t then s.setQueue ctx queue fun k => { k with hold := .none } else s.pollCounter ctx a)
      | _ => .next s

/-- Whether every earlier packet of a queue, and every grid they launched, is done (R100). DESIGN CHOICE (log 97): a PREEMPT or RESUME packet is
completed when it has been taken, though the teams it stops are saved later. -/
def State.queueDrained (s : State) (k : Queue) : Bool :=
  (k.open_.all fun c => (s.cmd c).isNone) && k.grids.all fun g => (s.grid g).all fun h => !h.live

/-- FENCE_PACKET (R100). -/
def execFencePacket (ctx queue : Nat) (s : State) : Host.Outcome State Fault Refusal :=
  s.serve ctx queue .fence fun s p =>
    if p.reserved 3 (2 ≤ (p.word 1).toNat) || !s.counterOk p.x (p.word 2) then s.consume p 2
    else (s.consume p 1).setQueue ctx queue fun k => { k with hold := .fence (p.word 1).toNat (p.word 2) (p.word 3) }

/-- FENCE_PACKET_COMPLETE (R100): the counter is incremented and the queue goes on. -/
def execFencePacketComplete (ctx queue : Nat) (s : State) : Host.Outcome State Fault Refusal :=
  match s.context ctx with
  | none => .next s
  | some x =>
    match x.queues[queue]? with
    | none => .next s
    | some k =>
      match k.hold with
      | .fence _ a n =>
        .next (if s.queueDrained k then
          (s.setQueue ctx queue fun k => { k with hold := .none, open_ := [], grids := [] }).counterAdd ctx a n.toNat else s)
      | _ => .next s

/-! ### PREEMPT and RESUME -/

/-- The live grids that SCOPE and selector name (R117). -/
def State.scopeGrids (s : State) (ctx scope : Nat) (sel : Word) : List Nat :=
  (s.grids.filter fun g => g.live && g.ctx == ctx &&
    (scope == 0 || (scope == 1 && g.queue == sel.toNat) || (scope == 2 && g.launch.ccaddr == sel))).map (·.id)

/-- PREEMPT_PACKET (R117). -/
def execPreemptPacket (ctx queue : Nat) (s : State) : Host.Outcome State Fault Refusal :=
  s.serve ctx queue .preempt fun s p =>
    let w := p.word 1
    if p.reserved 3 (wbits w 8 56 != 0) || 3 ≤ wbits w 0 8 || !s.counterOk p.x (p.word 3) then s.consume p 2
    else
      let ids := s.scopeGrids ctx (wbits w 0 8) (p.word 2)
      let s : State := { s with grids := s.grids.map fun g => if ids.contains g.id then { g with held := true } else g }
      let teams := (s.placedTeams.filter fun t => ids.contains t.grid).map (·.id)
      let s := s.askStop teams
      let s := if teams.isEmpty then s.counterAdd ctx (p.word 3) 1
        else match s.context ctx with
          | some x => if p.word 3 = 0 then s else s.setContext { x with watches := x.watches ++ [{ counter := p.word 3, teams }] }
          | none => s
      s.consume p 1

/-- A grid is in the waiting set anew (R104). -/
def State.rewait (s : State) (gid : Nat) : State :=
  match s.grid gid with
  | some g =>
    let g := { g with held := false, waitSince := s.cyc, zeroSince := if g.prio = 0 then some s.cyc else none }
    (s.setGrid g).preemptFor g
  | none => s

/-- RESUME_PACKET (R117): SCOPE 0 to 2; 5 and above are malformed. -/
def execResumePacket (ctx queue : Nat) (s : State) : Host.Outcome State Fault Refusal :=
  s.serve ctx queue .resume fun s p =>
    let w := p.word 1
    if p.reserved 2 (wbits w 8 56 != 0) || 5 ≤ wbits w 0 8 then s.consume p 2
    else
      let held := (s.scopeGrids ctx (wbits w 0 8) (p.word 2)).filter fun i => (s.grid i).any (·.held)
      (held.foldl (fun s i => s.rewait i) s).consume p 1

/-- The frozen team that a record's index names (R292). -/
def State.frozenTeam (s : State) (ctx : Nat) (n : Word) : Option Team :=
  s.teams.find? fun t => t.ctx == ctx && t.st == .frozen && t.records.contains n.toNat

/-- RESUME_FROZEN_TEAM (R292): SCOPE 3. -/
def execResumeFrozenTeam (ctx queue : Nat) (s : State) : Host.Outcome State Fault Refusal :=
  s.serve ctx queue .resumeFrozen fun s p =>
    match s.frozenTeam ctx (p.word 2) with
    | some t =>
      if p.reserved 2 (wbits (p.word 1) 8 56 != 0) || t.nores then s.consume p 2
      else
        let s := (s.reenter t.grid false).chosen.setTeam { t with st := .saved, waitSince := s.cyc, turn := s.choice }
        match s.grid t.grid with
        | some g => (s.preemptFor g).consume p 1
        | none => s.consume p 1
    | none => s.consume p 2

/-- DISCARD_FROZEN_TEAM (R292): SCOPE 4. Its grid is discarded once every other team of it that has faulted has been saved (R283). -/
def execDiscardFrozenTeam (ctx queue : Nat) (s : State) : Host.Outcome State Fault Refusal :=
  s.serve ctx queue .discardFrozen fun s p =>
    match s.frozenTeam ctx (p.word 2) with
    | some t =>
      if p.reserved 2 (wbits (p.word 1) 8 56 != 0) then s.consume p 2
      else
        let s := s.setTeam { t with st := .gone }
        (if s.discardReady t.grid then s.discardGrid t.grid else s).consume p 1
    | none => s.consume p 2

/-! ### Device-side launches (R109, R393) -/

/-- The first entry of a core's pending-launch queue leaves it. -/
def State.popLaunch (s : State) (core : Nat) : State :=
  let c := s.core core
  s.setCore core { c with launches := c.launches.drop 1 }

/-- PENDING_LAUNCH_TAKE (R74, R91, R109, R248, R393): the scheduler takes a core's first entry, no earlier than in the 16th tower cycle after its LAUNCH (R489)
and once what it consumes and its fences name is done; a finite time later, by the choice at its issue. -/
def execPendingLaunchTake (core : Nat) (s : State) : Host.Outcome State Fault Refusal :=
  match (s.core core).launches.head? with
  | none => .next s
  | some l =>
    match s.cmd l.cmd with
    | none => .next (s.popLaunch core)
    | some c =>
      match s.team c.team, s.context c.ctx with
      | some t, some x =>
        if !s.ticks (core / 4) || t.tcyc < l.issued + 16 || s.cyc < c.notBefore || s.launchHeld c || t.freezing || core ≥ 16 then .next s
        else match s.tokenFault c with
          | some r => .next ((s.popLaunch core).commandFault c r)
          | none =>
            let s := s.popLaunch core
            let done := match s.checkLaunch x l.addr, s.grid t.grid with
              | .poisoned p, _ => s.accessRaise c.id { Raised.of .poisonConsume .access 2 with pctx := p.1, pcause := p.2 }
              | .accepted r entries copy, some g => (s.acceptGrid c.ctx g.queue g.prio l.addr r entries copy).finish c.id 0
              | _, _ => s.finish c.id 5
            .next (done.noteLaunch x l.addr)
      | _, _ => .next s

end Sys2Proof.Machine
end

