-- ==== Sys2Proof/Machine/Platform.lean ====
section
/-! DEFINITION. The platform (R60, R299 to R313): the host port's RDMA, the keep's boot, contexts, keys and job records, joining a domain, and
the thermal governor. -/

namespace Sys2Proof.Machine

/-- A report of the keep on the management VLAN. -/
def State.report (s : State) (what : String) (a b : Nat) : State := { s with out := s.out ++ [.report what a b] }

/-! ### Governor steps (R6, R60, R309 to R313) -/

/-- The towers that run at one step with some towers, by the teams placed across them (R60). -/
def State.gangJoin (s : State) (l : List Nat) : List Nat :=
  s.placedTeams.foldl (fun l t =>
    let ts := (List.range t.spans).map t.tower
    if 1 < t.spans && ts.any l.contains then (l ++ ts).eraseDups else l) l

/-- The gang of a tower: gangs that share a tower merge. -/
def State.gang (s : State) (tower : Nat) : List Nat := s.gangJoin (s.gangJoin (s.gangJoin [tower]))

/-- The step a tower is to run at: the highest that a tower of its gang requires (R60). -/
def State.gangStep (s : State) (tower : Nat) : Nat := ((s.gang tower).map fun i => (s.tower i).want).foldl max 0

/-- Whether a tower has a strand of a team in a fabric-timed section (R310). -/
def State.towerSection (s : State) (tower : Nat) : Bool :=
  s.teams.any fun t => t.onCores && s.inFabricSection t.id && ((s.live t.id).any fun x => t.strandTower x.index == tower)

/-- A tower's step changes, which the keep reports (R309, R312). -/
def State.setStep (s : State) (tower n : Nat) : State :=
  let t := s.tower tower
  if t.step = n then s.setTower tower { t with deferred := false }
  else (s.setTower tower { t with step := n, chg := (t.chg + 1) % 2 ^ 16, deferred := false }).report "governor step" tower n

/-- The steps at an aligned run of 16 CYC cy (R6, R60, R310, R311): a rise on a tower with a fabric-timed section waits for the round
boundary, but not where a tower has tripped. -/
def State.applySteps (s : State) : State :=
  (List.range 4).foldl (fun s' i =>
    let t := s.tower i
    let n := s.gangStep i
    let trip := (s.gang i).any fun j => (s.tower j).tripped
    if t.step < n && !trip && (t.deferred || (s.gang i).any s.towerSection) then s'.setTower i { s'.tower i with deferred := true }
    else s'.setStep i n) s

/-- The desired step at a temperature in units of 1/64 degree (R309): 0 below 92 degrees, then one more for each 1.5. -/
def desiredStep (t : Nat) : Nat := if t < 5888 then 0 else min 8 (1 + (t - 5888) / 96)

/-- Tmax of a tower: the hottest of its 304 sensors (R309). -/
def State.tmaxOf (s : State) (tower : Nat) : Nat := ((List.range 304).map fun n => SMap.get 0 s.sensors (304 * tower + n)).foldl max 0

/-- GOVERNOR_EVALUATE (R309, R311 to R313): the step the tower requires moves by at most one from its current step, but for a tower that has tripped
and is not at step 8 yet. An evaluation is of the sensors as they read, and of one mean power for every tower. -/
def execGovernorEvaluate (tower tmax : Nat) (overPower : Bool) (s : State) : Host.Outcome State Fault Refusal :=
  if tower < 4 && s.cyc % 2 ^ 16 = 0 && tmax = s.tmaxOf tower && s.keep.power.all (fun p => p.1 != s.cyc || p.2 == overPower) then
    let t := s.tower tower
    let d := if overPower then min 8 (max (desiredStep tmax) (t.step + 1)) else desiredStep tmax
    let want := if s.keep.coolantLow || (t.tripped && t.step != 8) then 8 else if t.step < d then t.step + 1
      else if !overPower && desiredStep (tmax + 128) < t.step then t.step - 1 else t.step
    .next ({ s with keep := { s.keep with power := some (s.cyc, overPower) } }.setTower tower { t with want, tmax := tmax % 2 ^ 16 })
  else .next s

/-- GOVSTEP_DEFERRED_RISE (R310): at the round boundary. -/
def execGovstepDeferredRise (tower : Nat) (s : State) : Host.Outcome State Fault Refusal :=
  .next (if tower < 4 && (s.tower tower).deferred && s.cyc % s.fabric.round = 0 then s.setStep tower (s.gangStep tower) else s)

/-- Changes every tower. -/
def State.mapTowers (s : State) (f : Tower → Tower) : State := { s with towers := s.towers.map f }

/-- COOLANT_FLOW_LOW (R313). -/
def execCoolantFlowLow (s : State) : Host.Outcome State Fault Refusal :=
  .next ({ s with keep := { s.keep with coolantLow := true } }.mapTowers fun t => { t with want := 8 })

/-- COOLANT_FLOW_RESTORED (R313): the next evaluations bring the steps down. -/
def execCoolantFlowRestored (s : State) : Host.Outcome State Fault Refusal :=
  .next { s with keep := { s.keep with coolantLow := false } }

/-- THERMAL TRIP of a team (R280, R282, R311): the lowest of its live strands on the tower. A team still loading has nothing to save. -/
def State.tripTeam (s : State) (tower detail : Nat) (t : Team) : State :=
  let r := Raised.of .thermalTrip .outside detail
  let l := (s.live t.id).filter fun x => t.strandTower x.index = tower
  match l with
  | [] => s
  | x :: _ =>
    if t.st == .loading then
      let p : PendingRecord := { team := some t.id, grid := some t.grid, strand := x.index, words := s.strandRecord t x.index x.pc r 0
                                 ready := false, keep := false }
      (s.addRecord t.ctx p).setTeam { t with st := .gone }
    else s.chosen.takeFault t.id (stopCycle (t.tcyc + 1) s.choice) [(x.index, x.pc, r, 0)]

/-- A reading of a sensor. -/
def State.sense (s : State) (sensor temp : Nat) : State := { s with sensors := SMap.set 0 s.sensors sensor temp }

/-- THERMAL_TRIP (R309, R311): a sensor of a tower reads a temperature. At 105 degrees or more the tower trips; from the reading on with which every
sensor of a tripped tower is below 95 degrees its cool time runs, and one at 95 or more ends it. -/
def execThermalTrip (sensor temp : Nat) (s : State) : Host.Outcome State Fault Refusal :=
  let tower := sensor / 304
  if 1216 ≤ sensor then .next s
  else if 6720 ≤ temp then
    let s := (s.sense sensor temp).placedTeams.foldl (fun s t => s.tripTeam tower (sensor + 2 ^ 11 * (temp % 2 ^ 16)) t) (s.sense sensor temp)
    .next (s.setTower tower { s.tower tower with online := false, tripped := true, want := 8, coolSince := none })
  else
    let s := s.sense sensor temp
    let t := s.tower tower
    .next (s.setTower tower { t with
      coolSince := if !t.tripped || 6080 ≤ s.tmaxOf tower then none else if t.coolSince.isSome then t.coolSince else some s.cyc })

/-- TOWER_ONLINE (R306, R311): every sensor of a tripped tower has read below 95 degrees for 2^24 cycles. A tower that bring-up took offline stays
so. -/
def execTowerOnline (tower : Nat) (s : State) : Host.Outcome State Fault Refusal :=
  let t := s.tower tower
  match t.coolSince with
  | some c => .next (if tower < 4 && t.tripped && c + 2 ^ 24 ≤ s.cyc then
      s.setTower tower { t with online := !t.failed, tripped := false, coolSince := none } else s)
  | none => .next s

/-! ### Boot and bring-up (R301, R305, R306) -/

/-- SHAKE256 of bytes as a 512-bit number (R301). -/
def hash512 (bs : List Byte) : BitVec 512 := BitVec.ofNat 512 (natOf (Config.shake256 64 bs))

/-- The measurement register extended with a component (R301). -/
def extendMeasure (m : BitVec 512) (bs : List Byte) : BitVec 512 := hash512 (bytesOf 64 m.toNat ++ bytesOf 64 (hash512 bs).toNat)

/-- The bytes of the build record: header, trim values and signature (R305). -/
def BuildRecord.bytes (b : BuildRecord) : List Byte := b.signed ++ bytesOf 1280 b.signature.toNat

/-- Whether every component verifies under the root key of a hash (R301): the firmware, the build record and the control-core firmware. -/
abbrev Flash.verified (f : Flash) (root : Word) : Prop :=
  Config.falconKey f.firmware f.firmwareSig = root ∧ Config.falconKey f.buildRecord.signed f.buildRecord.signature = root ∧
  Config.falconKey f.coreFirmware f.coreSig = root

/-- A field of the header of the build record (R305). -/
def Flash.field (f : Flash) (lo n : Nat) : Nat := bits f.buildRecord.header.toNat lo n

/-- SERIAL. -/
def Flash.serial (f : Flash) : Nat := f.field 0 64
/-- STEPPING. -/
def Flash.stepping (f : Flash) : BitVec 8 := BitVec.ofNat 8 (f.field 64 8)
/-- MGMTVLAN. -/
def Flash.mgmtVlan (f : Flash) : BitVec 12 := BitVec.ofNat 12 (f.field 72 12)
/-- The dies of a tower that failed at manufacture. -/
def Flash.fail (f : Flash) (tower : Nat) : BitVec 17 := BitVec.ofNat 17 (f.field (128 + 32 * tower) 17)
/-- IDPUB. -/
def Flash.idpub (f : Flash) : Nat := f.field 256 256

/-- The hash of the operator's Falcon-1024 public key, which the build record names (R303): where it stands among the trim values is the model's
choice (log 98). -/
def Flash.operatorKey (f : Flash) : Word := f.buildRecord.trim.extractLsb' 0 64

/-- A tower after bring-up by the dies that fail (R13, R14, R25, R306). DESIGN CHOICE (log 99): an offline tower with two or more failed dies shows
SPARE 16, and SPAREOK as die 16 is sound or not. -/
def Tower.brought (dies : BitVec 17) (domeFails : Bool) : Tower :=
  match (List.range 17).filter dies.getLsbD with
  | [] => { Tower.cold with online := !domeFails, failed := domeFails }
  | [d] => { Tower.cold with online := !domeFails, failed := domeFails, spare := d, spareOk := false }
  | _ => { Tower.cold with online := false, failed := true, spareOk := !dies.getLsbD 16 }

/-- DEVICE_RESET (R26, R86, R301, R305, R306, R307): everything but the flash is as at power-on, the incarnation advances, and the keep verifies
its components under the root key and brings the device up, or halts. The association keys of the host port are those of before (log 98). -/
def execDeviceReset (s : State) : Host.Outcome State Fault Refusal :=
  let f := { s.flash with incarn := s.flash.incarn + 1 }
  let fresh : State := { State.reset with
    flash := f, sensors := s.sensors, inbox := s.inbox, frames := s.frames, agenda := s.agenda, choices := s.choices, fresh := s.fresh, out := s.out, phase := s.phase
    fabric := { Fabric.cold with incarn := f.incarn, stepping := f.stepping }
    keep := { Keep.cold with rootHash := s.keep.rootHash, cak := s.keep.cak, sak := s.keep.sak, rseq := s.keep.rseq, store := s.keep.store } }
  .next (if f.verified s.keep.rootHash then
    let towers := Vector.ofFn fun (i : Fin 4) => Tower.brought (f.fail i.val ||| f.selfTestFail.get i) (f.domeFail.getLsbD i.val)
    let down := f.linkFail.foldl (fun m l => SMap.set false m (4 * l.1 + l.2) true) ([] : SMap Bool)
    let dead := (List.range 16).any fun p => (List.range 4).all fun l => SMap.get false down (4 * p + l)
    let halts := (towers.toList.all fun t => !t.online) || f.stackFail != 0 || dead
    { fresh with
      towers
      fabric := { fresh.fabric with down }
      keep := { fresh.keep with
        boot := if halts then .halted else .running
        measure := [f.firmware, f.buildRecord.bytes, f.coreFirmware].foldl extendMeasure 0
        identity := f.wrappedIdentity } }
  else { fresh with keep := { fresh.keep with boot := .halted } })

/-- A frame at the host port (R299): one that fails MACsec validation is dropped and counted. -/
def State.frame (s : State) (f : Frame) (act : State → State) : State :=
  if f.sak = s.keep.sak then act s else { s with keep := { s.keep with dropped := s.keep.dropped + 1 } }

/-- Takes the first management frame that waits (R299), and does what its request asks for where the frame is valid and of the management VLAN.
The operations of the keep and their frames wait side by side, each in the order of arrival (log 63). -/
def State.onFrame (s : State) (act : State → Mgmt → State) : Host.Outcome State Fault Refusal :=
  match s.frames with
  | [] => .next s
  | m :: rest =>
    let s : State := { s with frames := rest }
    .next (s.frame m.frame fun s => if m.frame.vlan = s.flash.mgmtVlan then act s m else s)

/-- Whether a management request comes within the operator's session and with the operator's signature (R303). -/
def State.authentic (s : State) (m : Mgmt) : Bool := (m.opens || s.keep.session == some m.session) && m.signer == s.flash.operatorKey

/-- STATUS_REQUEST (R301, R303): a management request like the others of a keep that runs. One that has verified nothing, or has halted, holds no
session and no operator's key, and answers any such request on the management VLAN (log 98). -/
def execStatusRequest (s : State) : Host.Outcome State Fault Refusal :=
  s.onFrame fun s m =>
    let answer (s : State) : State := s.report "status" (match s.keep.boot with | .reset => 0 | .running => 1 | .halted => 2) 0
    if s.keep.boot != .running then answer s
    else if s.authentic m then answer { s with keep := { s.keep with session := some m.session } }
    else s.report "not authentic" m.session 0

/-- An operation of the keep (R299, R301, R303): the request comes on the management VLAN, within the operator's session and signed with the
operator's key; a keep that has halted answers a status request only. -/
def State.managed (s : State) (f : State → State) : Host.Outcome State Fault Refusal :=
  s.onFrame fun s m =>
    if s.keep.boot != .running then s
    else if s.authentic m then f { s with keep := { s.keep with session := some m.session } }
    else s.report "not authentic" m.session 0

/-- IDENTITY_QUERY (R26, R305): the serial number and the hash of the identity key. -/
def execIdentityQuery (s : State) : Host.Outcome State Fault Refusal :=
  s.managed fun s => s.report "identity" s.flash.serial s.flash.idpub

/-- QUOTE (R303): M, the hash of the build record and the host's nonce, signed with the identity key. -/
def execQuote (nonce : BitVec 256) (s : State) : Host.Outcome State Fault Refusal :=
  s.managed fun s =>
    let br := Config.shake256 32 s.flash.buildRecord.bytes
    let msg := bytesOf 64 s.keep.measure.toNat ++ br ++ bytesOf 32 nonce.toNat
    { s with out := s.out ++ [.quote s.keep.measure br nonce (Config.falconSign s.keep.identity msg)] }

/-! ### Contexts (R94, R95, R121, R122, R302 to R304) -/

/-- Writes pieces of memory at physical byte addresses; none where a piece lies outside the 4 TiB of HBM (R15). -/
def writePieces : List Host.Cell → List (Nat × List Byte) → Option (List Host.Cell)
  | m, [] => some m
  | m, (a, bs) :: l => if 2 ^ 42 < a + bs.length then none else writePieces (Memory.writeBytes m a bs) l

/-- The granules that pieces of memory touch. -/
def pieceGranules (l : List (Nat × List Byte)) : List Nat :=
  l.flatMap fun p => if p.2.isEmpty then [] else (List.range ((p.1 + p.2.length - 1) / 64 - p.1 / 64 + 1)).map fun i => p.1 / 64 + i

/-- A queue from its entry of the queue table (R95, R96). -/
def State.queueOf (s : State) (x : Context) (e : Nat) : Queue :=
  let idx := BitVec.ofNat 64 (bits e 64 64)
  { slots := BitVec.ofNat 64 (bits e 0 64), idx, szlog := bits e 128 5, prio := bits e 133 2, enabled := bits e 135 1 == 1
    ridx := s.deviceRead x (structPlus idx 8) 8, seen := s.deviceRead x (structPlus idx 8) 8, known := s.deviceRead x (structPlus idx 8) 8, next := 0
    hold := .none, open_ := [], grids := [] }

/-- Whether an entry of the queue table is malformed (R95). -/
def State.queueBad (s : State) (x : Context) (e : Nat) : Bool :=
  bits e 128 5 < 4 || 16 < bits e 128 5 || bits e 136 120 != 0 || !s.structOk x (BitVec.ofNat 64 (bits e 0 64)) (64 * 2 ^ bits e 128 5) 64 ||
  !s.structOk x (BitVec.ofNat 64 (bits e 64 64)) 64 64

/-- The context a specification asks for, its queues and groups apart. DESIGN CHOICE (log 100): NDESC of the table header binds as it stands at
creation; a later change of the header has no effect. -/
def contextOf (c : ContextSpec) (gen ndesc tkey : Nat) : Context :=
  let r := c.record.toNat
  { num := c.ctx, gen, ttab := bits r 20 44, ndesc, tblt := bits r 344 20, tkey, gtab := BitVec.ofNat 64 (bits r 64 64)
    qtab := BitVec.ofNat 64 (bits r 128 64), fq := BitVec.ofNat 64 (bits r 192 64), quantum := bits r 256 40, swpdef := bits r 304 40
    mtab := BitVec.ofNat 64 (bits r 384 64), migBudget := bits r 448 16, peerPull := bits r 464 1 == 1, migUsed := 0, queues := [], groups := []
    handles := [], keys := c.keys, imageKeys := c.imageKeys, verified := [], exportTable := c.exportTable, windows := c.windows, auditn := c.auditn
    collCount := [], watches := [], records := [], fwidx := 0, destroying := false }

/-- Whether a context record is malformed by itself, and the tensor table it names by its header (R94, R121, R149). -/
def recordFieldsBad (r header : Nat) : Bool :=
  bits r 0 20 != 0 || bits r 20 44 % 65536 != 0 || 2 ^ 42 ≤ bits r 20 44 || bits r 296 7 < 1 || 64 < bits r 296 7 || bits r 303 1 != 0 ||
  bits r 364 20 != 0 || bits r (384 + 81) 47 != 0 || bits header 0 21 < 1 || 2 ^ 20 < bits header 0 21 || bits header 21 491 != 0

/-- Whether the structures a context record names are malformed (R93 to R95, R122, R149, R285). -/
def State.structuresBad (s : State) (x : Context) (nq : Nat) : Bool :=
  let t := descFields (s.descBits x 0 x.tblt)
  let h := s.deviceRead x x.fq 64
  (s.plainDesc x 0 x.tblt).isNone || t.rank != 1 || t.fmt != 9 ||
  !((List.range ((64 * x.ndesc + 65535) / 65536)).all fun i => s.inTables x (16 * (x.ttab / 65536 + i))) ||
  !s.structOk x x.gtab 8192 64 || !s.structOk x x.qtab (32 * nq) 64 || !s.structOk x x.fq 64 64 ||
  !(x.mtab == 0 || s.structOk x x.mtab 2112 64) ||
  bits h 64 5 < 4 || 16 < bits h 64 5 || bits h 69 59 != 0 || bits h 288 224 != 0 ||
  !s.structOk x (BitVec.ofNat 64 (bits h 0 64)) (64 * 2 ^ bits h 64 5) 64 ||
  (digits 256 nq (s.deviceRead x x.qtab (32 * nq))).any (s.queueBad x)

/-- A context is created (R88, R94, R95, R121, R122): the tables are written under the table tensor's key, the record and what it names are checked,
and the scheduler takes its copy of the group table; a malformed one is refused, and nothing changes. `hbm` holds the tables. -/
def State.createContext (s : State) (c : ContextSpec) (hbm : List Host.Cell) : State :=
    let r := c.record.toNat
    let raw (a : Nat) : Nat := natOf (Memory.readBytes hbm a 64)
    let base := bits r 20 44
    let header := raw base
    let tkey := (descFields (raw (base + 64 * bits r 344 20))).keyid
    let s' : State := (pieceGranules c.tables).foldl (fun s g => s.setGranule g { pois := none, key := some (c.ctx, 16 * s.nextId + tkey) })
      { s with hbm, nextId := s.nextId + 1 }
    let x := contextOf c s.nextId (bits header 0 21) tkey
    let s' : State := { s' with contexts := s'.contexts ++ [x] }
    let nq := bits r 296 7
    if 256 ≤ c.ctx || (s.context c.ctx).isSome || recordFieldsBad r header || s'.structuresBad x nq then
      s.report "context refused" c.ctx 0
    else match s'.schedRead x x.gtab 8192 64 with
      | .error _ => s.report "context refused" c.ctx 0
      | .ok g =>
        match g.pois, s'.groupsWith x 0 ((digits 256 256 g.val).map (BitVec.ofNat 256)) with
        | none, some groups =>
          let queues := (digits 256 nq (s'.deviceRead x x.qtab (32 * nq))).map (s'.queueOf x)
          let fwidx := bits (s'.deviceRead x x.fq 64) 128 64
          (((s'.setContext { x with groups, queues, fwidx }).deviceNotes x [(x.gtab, 8192), (x.qtab, 32 * nq), (x.fq, 64)]).report
            "context created" c.ctx 0)
        | _, _ => s.report "context refused" c.ctx 0

/-- Whether the keep performs what a management request asks for (R299, R301, R303). -/
def State.obeys (s : State) (m : Mgmt) : Bool :=
  m.frame.sak == s.keep.sak && m.frame.vlan == s.flash.mgmtVlan && s.keep.boot == .running && s.authentic m

/-- CREATE_CONTEXT (R94, R303). -/
def execCreateContext (c : ContextSpec) (s : State) : Host.Outcome State Fault Refusal :=
  match writePieces s.hbm c.tables with
  | none => if s.frames.head?.any s.obeys then .fault .noSuchAddress else s.managed id
  | some hbm => s.managed fun s => s.createContext c hbm

/-- Whether a team of a context that is destroyed has stopped (R304). -/
def Team.stopped (t : Team) : Bool :=
  match t.st with
  | .stopping a _ => a ≤ t.tcyc
  | .resident => false
  | _ => true

/-- DESTROY_CONTEXT (R304): steps 1 to 3. No further step of a command of the context runs; what has left for a peer is awaited. Every grid of the
context that has no job record yet will get one with OUTCOME 1 and this cycle as its END, one that has completed too. -/
def execDestroyContext (ctx : Nat) (s : State) : Host.Outcome State Fault Refusal :=
  s.managed fun s =>
    match s.context ctx with
    | none => s.report "no such context" ctx 0
    | some x =>
      if x.destroying then s
      else
        let s := s.setContext { x with destroying := true, records := [], watches := [] }
        let s := (s.teams.filter (·.ctx == ctx)).foldl (fun s t => s.dropLaunches t.id) s
        let s := (s.teams.filter fun t => t.ctx == ctx && !t.onCores).foldl (fun s t => s.dropTeam t) s
        let stop (t : Team) : Team := if t.ctx == ctx then
            { t with st := match t.st with | .stopping a _ => .stopping a true | _ => .stopping (stopCycle (t.tcyc + 1) s.choice) true } else t
        let s : State := { s.chosen with
          teams := s.teams.map stop
          cmds := s.cmds.filter fun c => c.ctx != ctx || c.packet.isNone
          grids := s.grids.map fun g => if g.ctx == ctx then
            { g with live := false, closing := false, outcome := 1, end_ := s.cyc, keys := x.keys } else g
          fabric := { s.fabric with
            outstanding := s.fabric.outstanding.filter fun o => o.ctx != ctx || o.sent
            nextOwner := if s.fabric.owner == some ctx then some none else s.fabric.nextOwner } }
        let s : State := { s with reports := s.reports.filter (·.ctx != ctx) }
        if s.migration.ctx = ctx then
          { s with forward := SMap.set 0 s.forward s.migration.oldPage 0, migration := Migration.idle } else s

/-- Step 5 of R304: keys, handles, reservations, queue pairs, the export table and the tags of resident streams are cleared. -/
def State.clearContext (s : State) (x : Context) : State :=
  let s := (s.teams.filter (·.ctx == x.num)).foldl (fun s t => (s.withdrawAll fun c => c.team == t.id && c.packet.isNone).dropTeam t) s
  let s := s.setContext { x with keys := 0, handles := [], exportTable := 0, windows := 0, queues := [], groups := [] }
  { s with
    memStacks := s.memStacks.map fun k => { k with owners := k.owners.filter fun e => e.2 != x.num + 1 }
    keep := { s.keep with qps := s.keep.qps.filter fun e => e.2.all fun q => q.ctx != x.num }
    cached := s.cached.filter (·.ctx != x.num)
    cores := s.cores.map fun c => match c.resident with
      | some (_, _, n) => if n = x.num then { c with resident := none } else c
      | none => c }

/-- Whether every access of a context that is destroyed has performed (R304): its teams have stopped, no write of theirs is on its way to the ring, the
cube has no step or load of theirs, and no request of it is out. -/
def State.quiet (s : State) (ctx : Nat) : Bool :=
  ((s.teams.filter (·.ctx == ctx)).all fun t => t.stopped && !(s.ringQueue.any fun w => w.team == t.id)) &&
  (s.cmds.all fun c => c.ctx != ctx || (c.fed.isEmpty && !(c.op.loads && c.st == .running))) && !s.fabric.outstanding.any (·.ctx == ctx)

/-- CONTEXT_DESTROY_DRAINED (R304): steps 4 to 6; the number is free once the last job record of the context is out. -/
def execContextDestroyDrained (ctx : Nat) (s : State) : Host.Outcome State Fault Refusal :=
  match s.context ctx with
  | none => .next s
  | some x =>
    if !x.destroying then .next s
    else if x.queues.isEmpty then
      .next (if s.grids.any (·.ctx == ctx) then s
        else { s with contexts := s.contexts.filter (·.num != ctx) }.report "context destroyed" ctx 0)
    else .next (if s.quiet ctx then s.clearContext x else s)

/-- CREATE_KEYS (R141, R302). -/
def execCreateKeys (ctx : Nat) (keys : BitVec 16) (s : State) : Host.Outcome State Fault Refusal :=
  s.managed fun s => match s.context ctx with
    | some x => if x.destroying then s else s.setContext { x with keys := x.keys ||| keys }
    | none => s

/-- BIND_QUEUE_PAIR (R300): a queue pair is bound to one context when it is created. DESIGN CHOICE (log 101): its first request has PSN 0. -/
def execBindQueuePair (qp ctx : Nat) (s : State) : Host.Outcome State Fault Refusal :=
  s.managed fun s =>
    if qp < 256 && (s.context ctx).any (fun x => !x.destroying) && (SMap.get none s.keep.qps qp).isNone then
      { s with keep := { s.keep with qps := SMap.set none s.keep.qps qp (some { ctx, psn := 0 }) } } else s.report "refused" qp ctx

/-- SET_EXPORT_TABLE (R271). -/
def execSetExportTable (ctx : Nat) (table : BitVec 64) (windows : Nat) (s : State) : Host.Outcome State Fault Refusal :=
  s.managed fun s => match s.context ctx with
    | some x => if x.destroying then s else (s.setContext { x with exportTable := table, windows }).report "export table" ctx windows
    | none => s

/-- NAME_TIMED_OWNER (R261): it takes effect at the next round boundary. -/
def execNameTimedOwner (owner : Option Nat) (s : State) : Host.Outcome State Fault Refusal :=
  s.managed fun s =>
    if owner.all fun o => (s.context o).any fun x => !x.destroying then { s with fabric := { s.fabric with nextOwner := some owner } }
    else s.report "refused" (owner.getD 0) 0

/-- RESERVE_TIMED_CHANNELS (R144): at most four groups of a stack, each with one owner. -/
def execReserveTimedChannels (ctx stack : Nat) (groups : BitVec 24) (s : State) : Host.Outcome State Fault Refusal :=
  s.managed fun s =>
    let k := s.memStacks.toList.getD stack Stack.cold
    let l := (List.range 24).filter groups.getLsbD
    let owners := l.foldl (fun m g => SMap.set 0 m g (ctx + 1)) k.owners
    if stack < 32 && (s.context ctx).any (fun x => !x.destroying) && owners.length ≤ 4 &&
        l.all fun g => SMap.get 0 k.owners g == 0 || SMap.get 0 k.owners g == ctx + 1 then
      { s with memStacks := s.memStacks.setIfInBounds stack { k with owners } }
    else s.report "refused" ctx stack

/-- SET_AUDITN (R294). -/
def execSetAuditn (ctx : Nat) (value : BitVec 6) (s : State) : Host.Outcome State Fault Refusal :=
  s.managed fun s => match s.context ctx with
    | some x => s.setContext { x with auditn := value }
    | none => s

/-- SET_SAMPLING_INTERVAL (R148): an exponent from 20 to 30. -/
def execSetSamplingInterval (n : Nat) (s : State) : Host.Outcome State Fault Refusal :=
  s.managed fun s => if 20 ≤ n && n ≤ 30 then { s with keep := { s.keep with sampling := n } } else s.report "refused" n 0

/-! ### The domain (R26, R278, R306) -/

/-- The pair keys that a join agrees with every peer (R302): each agreement makes a key of its own. -/
def State.agree (s : State) (devid qlog : Nat) : SMap Nat :=
  ((List.range (16 * 2 ^ qlog)).filter (· != devid)).foldl (fun m d => SMap.set 0 m d (s.nextId + d)) []

/-- JOIN_DOMAIN (R26, R255, R278, R302, R306): refused where a flight time of the round's 16 Q paths is missing or above 64 CYC cy, and after the
device has been in a domain, until a device reset. -/
def execJoinDomain (devid qlog : Nat) (flight : List Nat) (s : State) : Host.Outcome State Fault Refusal :=
  s.managed fun s =>
    if !s.fabric.joined && !s.fabric.spent && qlog ≤ 4 && devid < 16 * 2 ^ qlog && flight.length = 16 * 2 ^ qlog &&
        flight.all (· ≤ 64) then
      { s with
        fabric := { s.fabric with joined := true, spent := true, devid, qlog, flight, pairKeys := s.agree devid qlog }
        nextId := s.nextId + 16 * 2 ^ qlog }
    else s.report "refused" devid qlog

/-- LEAVE_DOMAIN (R26, R303): pending fabric commands end as at a loss of alignment (R278). -/
def execLeaveDomain (s : State) : Host.Outcome State Fault Refusal :=
  s.managed fun s =>
    if s.fabric.joined then ({ s with fabric := { s.fabric with joined := false, replies := [] } }.withdrawAll fun _ => true).resetTraffic none
    else s

/-! ### Job records (R307, R308) -/

/-- The body of a grid's job record (R307). -/
def State.jobBody (s : State) (g : Grid) : BitVec 2048 :=
  let h (bs : List Byte) : Nat := natOf (Config.shake256 32 bs)
  BitVec.ofNat 2048 (packFields
    [(64, s.keep.rseq), (8, g.ctx), (1, g.outcome), (7, 0), (16, s.fabric.incarn.toNat), (16, g.keys.toNat), (16, 0), (64, g.launch.hash.toNat),
     (64, g.lrec.toNat), (64, g.start), (64, g.end_), (16, g.launch.teams), (16, 0), (32, g.zfill), (32, g.pcons), (32, g.sampled),
     (32, g.skipped), (32, g.mismatch), (64, g.fqidx), (256, h s.flash.firmware), (256, h s.flash.coreFirmware), (256, h s.flash.buildRecord.bytes),
     (256, s.flash.idpub), (384, 0)])

/-- JOB_RECORD_EMIT (R304, R307, R308): after the grid's last audit record, where the store has room; of a context that is destroyed, after step 5. -/
def execJobRecordEmit (grid : Nat) (s : State) : Host.Outcome State Fault Refusal :=
  match s.grid grid with
  | none => .next s
  | some g =>
    if !g.live && s.keep.store.length < 65536 && (s.teams.all fun t => t.grid != grid) &&
        !((s.context g.ctx).any fun x => x.destroying && !x.queues.isEmpty) &&
        s.towers.toList.all fun t => match t.sample with | some x => x.grid != grid | none => true then
      let body := s.jobBody g
      let sig := Config.falconSign s.keep.identity (bytesOf 256 body.toNat)
      .next { s with
        grids := s.grids.filter (·.id != grid)
        keep := { s.keep with rseq := s.keep.rseq + 1, store := s.keep.store ++ [{ rseq := s.keep.rseq, body, signature := sig }] }
        out := s.out ++ [.jobRecord s.keep.rseq body sig] }
    else .next s

/-- ACKNOWLEDGE_JOB_RECORDS (R308). -/
def execAcknowledgeJobRecords (rseq : Nat) (s : State) : Host.Outcome State Fault Refusal :=
  s.managed fun s =>
    if rseq < s.keep.rseq then { s with keep := { s.keep with store := s.keep.store.filter fun r => rseq < r.rseq } }
    else s.report "refused" rseq 0

/-- JOB_RECORD_RESEND (R308). -/
def execJobRecordResend (rseq : Nat) (s : State) : Host.Outcome State Fault Refusal :=
  s.managed fun s => match s.keep.store.find? (·.rseq == rseq) with
    | some r => { s with out := s.out ++ [.jobRecord r.rseq r.body r.signature] }
    | none => s.report "refused" rseq 0

/-! ### The host port (R299, R300) -/

/-- A NAK of a request: 0 invalid request, 1 remote access error, 2 remote operational error. -/
def State.nak (s : State) (qp kind : Nat) : State := { s with out := s.out ++ [.rdmaNak qp kind] }

/-- The context whose window a request names (R300): the queue pair's, if the R_Key names it and it is not being destroyed. -/
def State.rdmaContext (s : State) (ctx : Nat) (r : RdmaRequest) : Option Context :=
  match s.context ctx with
  | some x => if (r.rkey.extractLsb' 16 8).toNat = ctx && !x.destroying then some x else none
  | none => none

/-- Window number of an R_Key. -/
def rdmaWindow (r : RdmaRequest) : Nat := (r.rkey.extractLsb' 0 16).toNat

/-- Packets of the path MTU that bytes fill (R300). -/
def packetCount (n : Nat) : Nat := max 1 ((n + 4095) / 4096)

/-- Answers a request, a packet of the path MTU at a time. -/
def State.rdmaAnswer (s : State) (qp : Nat) (data : List Byte) : State :=
  { s with out := s.out ++ (List.range (packetCount data.length)).map fun i => .rdmaReply qp ((data.drop (4096 * i)).take 4096) }

/-- A RoCEv2 request (R299, R300): on a valid frame that is not of the management VLAN, on a queue pair, in its PSN order; `n` is how many bytes its
packets carry. A request out of that order is not performed, and no answer is modelled (log 101). -/
def State.onPair (s : State) (r : RdmaRequest) (n : Nat) (f : State → QueuePair → State) : Host.Outcome State Fault Refusal :=
  .next (s.frame r.frame fun s =>
    if s.keep.boot != .running || r.frame.vlan = s.flash.mgmtVlan then s
    else match SMap.get none s.keep.qps r.qp with
      | none => s
      | some q =>
        if r.psn ≠ q.psn then s
        else f { s with keep := { s.keep with
            qps := SMap.set none s.keep.qps r.qp (some { q with psn := (q.psn + packetCount n) % 2 ^ 24 }) } } q)

/-- A request on a window of the queue pair's context. -/
def State.rdma (s : State) (r : RdmaRequest) (n : Nat) (f : State → Context → State) : Host.Outcome State Fault Refusal :=
  s.onPair r n fun s q => match s.rdmaContext q.ctx r with
    | none => s.nak r.qp 1
    | some x => f s x

/-- RDMA_WRITE (R300). -/
def execRdmaWrite (r : RdmaRequest) (s : State) : Host.Outcome State Fault Refusal :=
  s.rdma r r.data.length fun s x =>
    match s.windowWrite x (rdmaWindow r) r.va.toNat 1 none r.data (wholeMask r.data.length) (fun _ => false) with
    | .error _ => s.nak r.qp 1
    | .ok s' => s'.rdmaAnswer r.qp []

/-- RDMA_READ (R300): a poisoned granule under FAULT is an operational error. -/
def execRdmaRead (r : RdmaRequest) (s : State) : Host.Outcome State Fault Refusal :=
  s.rdma r r.len fun s x =>
    match s.windowRead x (rdmaWindow r) r.va.toNat r.len 0 none with
    | .error _ => s.nak r.qp 1
    | .ok g =>
      if g.pois.any id then (s.nak r.qp 2).report "poisoned read" r.qp r.va.toNat
      else (s.noteForeign x g.touched).rdmaAnswer r.qp (bytesOf r.len g.val)

/-- An RDMA atomic with the operation of a FATOM (R273, R300). -/
def State.rdmaAtomic (s : State) (r : RdmaRequest) (op : Nat) : Host.Outcome State Fault Refusal :=
  if r.va.toNat % 8 ≠ 0 then s.onPair r 8 fun s _ => s.nak r.qp 0
  else s.rdma r 8 fun s x =>
    match s.windowAtomic x (rdmaWindow r) r.va.toNat op none r.x r.cmp with
    | .error _ => s.nak r.qp 1
    | .ok (_, none) => (s.nak r.qp 2).report "poisoned atomic" r.qp r.va.toNat
    | .ok (s', some old) => s'.rdmaAnswer r.qp (bytesOf 8 old.toNat)

/-- ATOMIC_FETCH_ADD (R300). -/
def execAtomicFetchAdd (r : RdmaRequest) (s : State) : Host.Outcome State Fault Refusal := s.rdmaAtomic r 0

/-- ATOMIC_CMP_SWAP (R300). -/
def execAtomicCmpSwap (r : RdmaRequest) (s : State) : Host.Outcome State Fault Refusal := s.rdmaAtomic r 2

/-- ROCE_INVALID_REQUEST (R300): an opcode the engine does not support. -/
def execRoceInvalidRequest (r : RdmaRequest) (s : State) : Host.Outcome State Fault Refusal := s.onPair r 0 fun s _ => s.nak r.qp 0

end Sys2Proof.Machine
end

