-- ==== Sys2Proof/Machine/Resolve.lean ====
section
/-! DEFINITION. The bundles of one cycle together (R61 to R66, R70 to R76, R157, R280 to R283, R347, R355, R460, R484): which are held
before they issue, the checks that look across slots and strands, the cancelling of a team's bundles, and what an issued bundle does to
its strand and team. -/

namespace Sys2Proof.Machine

/-! ### The bundles of a cycle -/

/-- The bundles that a team's strands issue in this cycle, in order of strand. -/
def State.teamBundles (s : State) (team : Nat) : List Issue :=
  (List.range 16).flatMap fun i => s.bundles.filter fun b => b.tm.id == team && b.st.index == i

/-- What holds a bundle before its issue (R64, R75): an entry of DQ, or tokenless entries. -/
def Issue.held (b : Issue) : Option Wait :=
  b.effects.findSome? fun e => match e.2 with
    | .hold .queue => some .queue
    | .hold (.tokenless n) => some (.tokenless n)
    | _ => none

/-- The slot and value of a TIMED of a bundle. -/
def Issue.timedEntry (b : Issue) : Option (Nat × Nat) :=
  b.effects.findSome? fun e => match e.2 with
    | .timed v => some (e.1, v)
    | _ => none

/-- Whether a bundle holds an effect of a kind. -/
def Issue.does (b : Issue) (p : Effect → Bool) : Bool := b.effects.any fun e => p e.2

/-- Whether an effect is a team barrier. -/
def Effect.isBarrier : Effect → Bool
  | .barrier => true
  | _ => false

/-- Whether an effect halts fetch. -/
def Effect.isHalt : Effect → Bool
  | .halt => true
  | _ => false

/-- Whether an effect advances SRCTR by itself. -/
def Effect.isStochastic : Effect → Bool
  | .stochastic => true
  | _ => false

/-- The pending entry value, or the one the lowest strand sets in this cycle (R63). -/
def State.entryValue (s : State) (t : Team) : Option Nat :=
  match t.pending with
  | some v => some v
  | none => ((s.teamBundles t.id).filter fun b => b.held.isNone).findSome? fun b => b.timedEntry.map (·.2)

/-- Whether a team issues bundles in this cycle (R113). -/
def Team.issues (t : Team) : Bool := t.before

/-- A read-stage fault of a slot. -/
def readFault (cause : Cause) (slot detail : Nat) : Raised := { Raised.of cause .read detail with slot }

/-- Whether a strand has issued its TIMED of the rendezvous, in an earlier cycle or in this one. -/
def State.hasEntered (s : State) (t : Team) (x : Strand) : Bool :=
  t.joined.contains x.index ||
  (s.teamBundles t.id).any fun b => b.st.index == x.index && b.held.isNone && b.timedEntry.isSome

/-- A bundle of this cycle with one more fault; where the strand issues none, a bundle that only faults. -/
def State.raiseOn (s : State) (t : Team) (x : Strand) (r : Raised) : State :=
  let mine (b : Issue) : Bool := b.tm.id == t.id && b.st.index == x.index
  if s.bundles.any fun b => mine b && b.held.isNone then
    { s with bundles := s.bundles.map fun b => if mine b then { b with raised := b.raised ++ [r] } else b }
  else { s with bundles := s.bundles.filter (fun b => !mine b) ++ [{ Issue.blank with st := x, tm := t, pc := x.pc, raised := [r] }] }

/-- TIMED_RDV_DEADLINE (R63, R375): team cycle V - 16, and a strand that takes part has not issued its TIMED. -/
def execTimedRdvDeadline (team : Nat) (s : State) : Host.Outcome State Fault Refusal :=
  match s.team team with
  | none => .next s
  | some t =>
    match s.entryValue t with
    | none => .next s
    | some v =>
      if t.issues && v == t.tcyc + 16 && s.phase == .resolve then
        .next (((s.partners team).filter fun x => !s.hasEntered t x).foldl (fun s x => s.raiseOn t x (readFault .scheduleRdv 0 v)) s)
      else .next s

/-! ### Checks across slots and strands -/

/-- The rows that the slots of a bundle write, with their slots. -/
def Issue.rowsWritten (b : Issue) : List (Nat × Nat) :=
  b.effects.filterMap fun e => match e.2 with
    | .result _ (.row rho _ _ _) => some (e.1, rho)
    | .result _ (.tap rho _ _) => some (e.1, rho)
    | .load _ (.load (.row rho) _ _ _ _) => some (e.1, rho)
    | _ => none

/-- ILLEGAL OPERAND of a slot (R287). -/
def Issue.badOperand (b : Issue) (slot : Nat) : Raised := readFault .illegalOperand slot (b.words.getD slot 0).toNat

/-- Two slots of one bundle that write one accumulator row (R347): the later slot faults. -/
def Issue.rowClash (b : Issue) : List Raised :=
  let l := b.rowsWritten
  (l.filter fun e => l.any fun f => f.2 == e.2 && f.1 < e.1).map fun e => b.badOperand e.1

/-- The banks a ring store writes (R152, R157): team tower, station and bank. -/
def RingStore.banks (w : RingStore) : List (Nat × Nat × Nat) :=
  (List.range ((w.size + 63) / 64)).map fun i =>
    (eaTwi w.ea, eaStn w.ea, accessOffset (eaOff w.ea) w.diag (64 * i) / 64 % 16)

/-- The ring stores of a bundle, with their slots. -/
def Issue.ringStores (b : Issue) : List (Nat × RingStore) :=
  b.effects.filterMap fun e => match e.2 with
    | .store w => some (e.1, w)
    | _ => none

/-- The banks that bundles write: strand, slot and bank. -/
def bankWrites (l : List Issue) : List (Nat × Nat × (Nat × Nat × Nat)) :=
  l.flatMap fun b => b.ringStores.flatMap fun e => e.2.banks.map fun k => (b.st.index, e.1, k)

/-- SCHEDULE BANK of a bundle, where a bank it writes takes a second write of the team in this cycle (R157). -/
def Issue.bankClash (b : Issue) (all : List (Nat × Nat × (Nat × Nat × Nat))) : List Raised :=
  ((bankWrites [b]).filter fun e => all.any fun f => f.2.2 == e.2.2 && (f.1 != e.1 || f.2.1 != e.2.1)).map fun e =>
    readFault .scheduleBank e.2.1 (packFields [(4, e.2.2.2.2), (5, e.2.2.2.1), (2, e.2.2.1)])

/-- SCHEDULE RDV of a TIMED that names another value than the pending one, or comes late (R63). -/
def Issue.rdvClash (b : Issue) (entry : Option Nat) : List Raised :=
  match b.timedEntry with
  | some (slot, v) => if entry != some v || v < b.tm.tcyc + 16 then [readFault .scheduleRdv slot v] else []
  | none => []

/-- Whether a teammate issues its `n`-th team barrier in this cycle or, paced, is held at it (R355). -/
def atBarrier (l : List Issue) (x : Strand) (n : Nat) : Bool :=
  x.waits.contains (.barrier n) || l.any fun b => b.st.index == x.index && b.does Effect.isBarrier && b.st.barrCount + 1 == n

/-- SCHEDULE WAIT of a timed BARR that not every teammate that takes part issues in this cycle (R355, R375). -/
def State.barrClash (s : State) (l : List Issue) (b : Issue) : List Raised :=
  match b.effects.find? fun e => e.2.isBarrier with
  | some e =>
    if b.st.mode == .timed && !((s.partners b.tm.id).all fun x => atBarrier l x (b.st.barrCount + 1)) then [readFault .scheduleWait e.1 3]
    else []
  | none => []

/-- Every fault of a bundle, with those that only its team's bundles together show. -/
def State.faultsOf (s : State) (l : List Issue) (entry : Option Nat) (b : Issue) : List Raised :=
  b.raised ++ b.rowClash ++ b.bankClash (bankWrites l) ++ b.rdvClash entry ++ s.barrClash l b

/-! ### Cancelling (R281, R283) -/

/-- Poisons the accumulator rows whose check failed (R177). -/
def State.poisonRows (s : State) (l : List Raised) : State :=
  l.foldl (fun s r => match r.badRow with
    | some k => s.setAccRow k { s.accRow k with pois := 0xFF }
    | none => s) s

/-- The team's bundles are cancelled; each faulting strand records its first fault (R280, R281, R283). -/
def State.cancelTeam (s : State) (t : Team) (l : List (Issue × List Raised)) : State :=
  let s := s.poisonRows (l.flatMap (·.2))
  let s : State := { s with bundles := s.bundles.filter fun b => b.tm.id != t.id }
  s.takeFault t.id t.tcyc (l.filterMap fun e => (firstFault e.2).map fun r => (e.1.st.index, e.1.pc, r, 0))

/-! ### Held bundles -/

/-- Whether a QPOP of a bundle holds it. -/
def Issue.popHolds (b : Issue) : Bool := b.effects.any fun e => e.2 == .hold .queue

/-- A strand whose bundle is held before its issue (R64); a QPOP that holds counts where both banks are empty (R238, R486). -/
def Strand.holdBundle (st : Strand) (w : Wait) (pop : Bool) : Strand :=
  let dry := pop && st.aq.all fun e => e.place != .queued
  { st with
    st := .wait, waits := [w]
    qlossEvents := if dry && !st.qlossHeld then (st.qlossEvents + 1) % 2 ^ 32 else st.qlossEvents
    qlossCycles := if dry then (st.qlossCycles + 1) % 2 ^ 32 else st.qlossCycles
    qlossHeld := st.qlossHeld || dry }

/-- Holds a bundle of this cycle. -/
def State.holdIssue (s : State) (b : Issue) (w : Wait) : State :=
  match s.strand b.tm.id b.st.index with
  | some st => { s.setStrand (st.holdBundle w b.popHolds) with bundles := s.bundles.filter fun x => !(x.tm.id == b.tm.id && x.st.index == b.st.index) }
  | none => s

/-! ### An issued bundle -/

/-- The strand's place after a bundle: its loops, its LC values and where it issues next (R61, R70, R71). -/
def Strand.follow (st : Strand) (b : Issue) : Strand :=
  let e := b.pc + 4 * b.words.length
  let at_ (x : Nat × List LoopFrame × Vector (BitVec 32) 4) : Strand := { st with pc := x.1, loops := x.2.1, lc := x.2.2 }
  let st := match b.effects.findSome? fun f => match f.2 with
      | .jump t => some ({ st with pc := t, loops := loopsAt st.loops t } : Strand)
      | .skip t => some (at_ (loopEnd st.loops t st.lc))
      | .openLoop f => some { st with pc := f.first, loops := f :: st.loops, lc := st.lc.setIfInBounds f.lc 0 }
      | .emptyLoop k after v => some (at_ (loopEnd st.loops after (st.lc.setIfInBounds k (BitVec.ofNat 32 v))))
      | _ => none with
    | some x => x
    | none => at_ (loopEnd st.loops e st.lc)
  { st with st := .run, waits := [], back := none, qlossHeld := false, nextIssue := b.tm.tcyc + 1 + b.idle, nulls := st.nulls - 1 }

/-- The strand is held by an explicit wait (R64): its bundle would issue again after a pre-emption (R113). -/
def Strand.holdAt (st : Strand) (b : Issue) (w : Wait) : Strand :=
  { st with
    st := .wait, waits := st.waits ++ [w]
    back := some { pc := b.pc, loops := b.st.loops, lc := b.st.lc, mode := b.st.mode, nulls := b.st.nulls,
                   next := if b.does Effect.isHalt then .drain else .run } }

/-- QSEL (R237, R437): the open group keeps one bank's entries. -/
def Strand.selectBank (st : Strand) (first : Bool) : Strand :=
  { st with aq := (st.aq.filter fun e => !e.open_ || e.bank == (if first then 0 else 1)).map fun e => { e with open_ := false } }

/-- What an effect of an issued bundle does to its strand. -/
def Strand.takeEffect (st : Strand) (b : Issue) (e : Effect) : Strand :=
  let tc := b.tm.tcyc
  match e with
  | .result l r =>
    let p := match r with | .tap _ _ _ => tc + 3 | _ => tc
    { st with inflight := st.inflight ++ [{ issued := tc, perform := p, commit := tc + l - 1, what := r }] }
  | .load l r => { st with inflight := st.inflight ++ [{ issued := tc, perform := tc + 3, commit := tc + l - 1, what := r }] }
  | .store w => { st with stores := st.stores ++ [w] }
  | .lane v => { st with lanes := st.lanes ++ [v] }
  | .setMask l => { st with masks := l }
  | .nulls n => { st with nulls := n }
  | .timed v => { st with mode := .timed, nextIssue := v }
  | .paced => { st with mode := .paced }
  | .halt => { st with st := if st.st == .run then .drain else st.st, loops := [] }
  | .barrier =>
    let st := { st with barrCount := st.barrCount + 1 }
    if b.st.mode == .timed then st else st.holdAt b (.barrier st.barrCount)
  | .hold w => st.holdAt b w
  | .skipped n => st.setToken n { st := .done, status := 1 }
  | .push e => { st with aq := st.aq ++ [e] }
  | .pop => { st with aq := st.aq.drop 1 }
  | .select k => st.selectBank k
  | .audit _ => { st with auditMark := true }
  | _ => st

/-! ### Commands -/

/-- A cross-device barrier (R355): the strand counts its arrival and is held; its members are those of the group as the bundle reads it
(R88). -/
def Strand.enterCross (st : Strand) (b : Issue) (g : Nat) (members : List Nat) : Strand :=
  let n := SMap.get 0 st.xbarrCount g + 1
  ({ st with xbarrCount := SMap.set 0 st.xbarrCount g n } : Strand).holdAt b (.crossBarrier g n members)

/-- Whether the start of a command may come later than the first cycle that allows it: a choice (R91, R263, R383); of a LAUNCH, when the
scheduler takes it. -/
def CmdOp.delayed : CmdOp → Bool
  | .cube | .cubeh | .wld | .wldSp | .wswap | .lease | .unlease => false
  | _ => true

/-- The delay in CYC cycles that a choice gives: FSEND and FRECV start within 64 of their issue (R263, R383). -/
def CmdOp.delay (op : CmdOp) (k : Nat) : Nat :=
  match op with
  | .fsend | .frecv => k % 48
  | _ => k

/-- The lease a timed LEASE finds held: the command completes at once (R401). -/
def Team.leaseHeld (t : Team) (c : Cmd) : Bool :=
  match t.claimOf c.strand c.w0 with
  | some i => (t.claims[i]?).any fun k => k.heldAt t.tcyc
  | none => false

/-- A LAUNCH enters its core's queue, or finds it full (R109, R393). -/
def State.enterLaunch (s : State) (c : Cmd) : State :=
  let k := s.core c.core
  if 4 ≤ k.launches.length then s.finish c.id 2
  else (s.setCore c.core { k with launches := k.launches ++ [{ cmd := c.id, addr := c.w0, issued := c.issuedTc }] }).setCmd { c with st := .running }

/-- A new command takes its token, or a tokenless entry (R75, R76), and the strand's audit mark (R353). -/
def Strand.giveToken (st : Strand) (c : Cmd) : Strand :=
  let st := if c.token = 0 then { st with tokenless := st.tokenless + 1 }
    else st.setToken c.token { st.token c.token with st := .pending }
  if c.op == .cube || c.op == .cubeh then { st with auditMark := false } else st

/-- An engine command of an issued bundle (R73 to R76): a new one, or the continuation of the one its bundle issued before a stop. A LEASE makes its
request (R197, R401); an FSEND or FRECV opens a fabric-timed section, which puts off a stop for a pre-emption (R112, R269). -/
def State.enterCommand (s : State) (c : Cmd) : State :=
  match s.cmds.find? fun o => o.team == c.team && o.strand == c.strand && o.packet.isNone && o.again && o.op == c.op && o.token == c.token &&
      o.pc == c.pc && o.slot == c.slot with
  | some o =>
    let o := { o with st := .queued, again := false, issuedTc := c.issuedTc, issuedCyc := c.issuedCyc, timed := c.timed, notBefore := 0, core := c.core }
    if c.op == .lease then (s.setCmd o).leaseRequest o else s.setCmd o
  | none =>
    match s.strand c.team c.strand with
    | none => s
    | some st =>
      let k := if c.op.delayed then c.op.delay s.choice else 0
      let c := { c with id := s.nextId, notBefore := s.cyc + k, audited := st.auditMark && (c.op == .cube || c.op == .cubeh) }
      let s : State := (if c.op.delayed then s.chosen else s).setStrand (st.giveToken c)
      let s : State := { s with cmds := s.cmds ++ [c], nextId := s.nextId + 1 }
      match c.op with
      | .launch => s.enterLaunch c
      | .lease => if c.timed && (s.tokenFault c).isNone && (s.team c.team).any fun t => t.leaseHeld c then s.finish c.id 0 else s.leaseRequest c
      | .fsend | .frecv => match s.team c.team with
        | some t => s.setTeam t.deferStop
        | none => s
      | _ => s

/-- A FENCE (R248, R381): later held commands of the strand wait for its commands so far, those of this bundle included. -/
def State.fenceStrand (s : State) (st : Strand) : State :=
  s.setStrand { st with fences := (s.cmds.filter fun c =>
    c.team == st.team && c.strand == st.index && c.packet.isNone && c.st != .faulted).map (·.id) }

/-! ### Effects on the team -/

/-- A TIMED joins its team's rendezvous (R63, R108). -/
def Team.join (t : Team) (strand v : Nat) (paced : Bool) : Team :=
  { t with pending := some v, joined := t.joined ++ [strand], entering := t.entering || paced }

/-- The budget a YIELD gives (R108, R484). -/
def Team.yieldBudget (t : Team) (timed : Bool) : Budget := if timed then .timed (t.tcyc + t.tlen) else .fresh t.tcyc

/-- YIELD of a strand (R107, R484). A timed one that meets a conflicting request suspends the team: it stops in the next cycle, and its held leases
are requests from now on, of the core of the strand that yields (R197; log 92). -/
def State.yieldTeam (s : State) (t : Team) (strand : Nat) (timed : Bool) : State :=
  let held (k : Claim) : Bool := k.heldAt t.tcyc
  let fresh (k : Claim) : Claim := if held k then { k with budget := t.yieldBudget timed } else k
  let clash (k : Claim) : Bool := held k && s.yieldConflict t k
  if s.inFabricSection t.id then s.setTeam { t with claims := t.claims.map fresh }
  else if timed && t.claims.any clash then
    let T := match t.st with | .stopping a _ => min a (t.tcyc + 1) | _ => t.tcyc + 1
    s.setTeam { t with st := .stopping T t.freezing, yieldAt := some (s.cyc, t.physCore strand), claims := t.claims.map fresh }
  else s.setTeam { t with claims := t.claims.map fun k => if clash k then { k with st := .expired } else fresh k }

/-- What an effect of an issued bundle does beyond its strand's own registers. -/
def State.takeEffect (s : State) (b : Issue) (e : Effect) : State :=
  match s.team b.tm.id, s.strand b.tm.id b.st.index with
  | some t, some st =>
    match e with
    | .command c => s.enterCommand c
    | .push q => { s.chosen.setStrand (st.takeEffect b (.push { q with id := s.nextId, ready := q.pushed + 64 + s.choice })) with nextId := s.nextId + 1 }
    | .timed v => (s.setStrand (st.takeEffect b e)).setTeam (t.join b.st.index v (b.st.mode == .paced))
    | .barrier =>
      let s := s.setStrand (st.takeEffect b e)
      if b.st.mode == .timed then s.acquireTeam t st.index t.tcyc else s
    | .crossBarrier g => s.setStrand (st.enterCross b g (groupMembers (s.groupOf t.ctx g)))
    | .acquire all => s.acquire t st.index t.tcyc all
    | .tagEdge => s.acquire t st.index (t.tcyc - 1) true
    | .hold (.counter a _ _ _ _ _) => (s.forgetPoll t.ctx a).setStrand (st.takeEffect b e)
    | .viewj => s.setTeam { t with viewj := t.viewj ++ [(b.st.index / 4, t.tcyc)] }
    | _ => s.setStrand (st.takeEffect b e)
  | _, _ => s

/-- Whether a bundle advances SRCTR (R40): a stochastic vector or cube slot, or a COPY or LAYOUT that converts. -/
def State.advancesCounter (s : State) (b : Issue) : Bool :=
  b.does fun e => match e with
    | .command c => s.convertsAtIssue b.tm c
    | _ => e.isStochastic

/-- An issued bundle: the strand goes on, its slots act in order, SRCTR advances and its fences stand. -/
def State.applyBundle (s : State) (b : Issue) : State :=
  match s.strand b.tm.id b.st.index with
  | none => s
  | some st =>
    let sr := s.advancesCounter b
    let s := s.setStrand (st.follow b)
    let s := b.effects.foldl (fun s e => s.takeEffect b e.2) s
    match s.strand b.tm.id b.st.index with
    | none => s
    | some st =>
      let s := s.setStrand { st with srctr := if sr then st.srctr + 1 else st.srctr }
      if b.does fun e => match e with | .fence _ => true | _ => false then
        match s.strand b.tm.id b.st.index with
        | some st => s.fenceStrand st
        | none => s
      else s

/-- The TRAPs of bundles (R291, R461). -/
def trapFaults (l : List Issue) : List (Nat × Nat × Raised × Word) :=
  l.flatMap fun b => b.effects.filterMap fun e => match e.2 with
    | .trap code => some (b.st.index, b.pc, readFault .trap e.1 code, 0)
    | _ => none

/-- The faults that a bundle's accesses meet after its issue (R479), and those of the timed LEASEs of a bundle (R74). -/
def lateFaults (l : List Issue) : List (Nat × Nat × Raised × Word) :=
  l.flatMap fun b => b.effects.filterMap fun e => match e.2 with
    | .lateFault r => some (b.st.index, b.pc, r, 0)
    | _ => none

/-- The YIELD of a team, once a cycle (R483, R484): the lowest strand that issues one, and whether its mode, which decides, is timed. -/
def teamYield (l : List Issue) : Option (Nat × Bool) :=
  (l.find? fun b => b.does fun e => match e with | .yield => true | _ => false).map fun b => (b.st.index, b.st.mode == .timed)

/-- The bundles of a team that no fault cancels. -/
def State.applyTeam (s : State) (id : Nat) (l : List Issue) : State :=
  let s := l.foldl (fun s b => s.applyBundle b) s
  let s := match teamYield l, s.team id with
    | some (i, timed), some t => s.yieldTeam t i timed
    | _, _ => s
  let s := match trapFaults l, s.team id with
    | [], _ => s
    | fs, some t => s.takeFault id (t.tcyc + 1) fs
    | _, none => s
  match lateFaults l, s.team id with
  | [], _ => s
  | fs, some t => s.chosen.takeFault id (stopCycle (t.tcyc + 1) s.choice) fs
  | _, none => s

/-- Resolves the bundles of one team: held ones stay, a fault of any cancels them all, else each does what its slots do. -/
def State.resolveTeam (s : State) (t : Team) : State :=
  let all := s.teamBundles t.id
  let entry := s.entryValue t
  let s := all.foldl (fun s b => match b.held with | some w => s.holdIssue b w | none => s) s
  let l := all.filter fun b => b.held.isNone
  let judged := l.map fun b => (b, s.faultsOf l entry b)
  if judged.any fun e => !e.2.isEmpty then s.cancelTeam t judged else s.applyTeam t.id l

/-- Resolves the bundles of the cycle, team by team. -/
def State.resolveAll (s : State) : State := s.teams.foldl (fun s t => s.resolveTeam t) s

end Sys2Proof.Machine
end

