-- ==== Sys2Proof/Machine/Perform.lean ====
section
/-! DEFINITION. What performs and commits in a cycle (R65, R66, R156, R157, R165, R166, R194, R239 to R244, R250, R251, R326, R399): core
accesses of the ring, results, control registers, mailboxes, handles and tokens, and the passing of time (R5, R6, R59, R63, R108). -/

namespace Sys2Proof.Machine

/-! ### Ring reads of the cores (R156, R242, R244) -/

/-- Whether a write may still be missed by strand `st`'s read of `n` bytes at byte `o` of its chunk in this team cycle (R241, R244): it performed in
an earlier one, no earlier read of these bytes in the view, and none of a command that the strand has waited for, has found it, and no wait of
the strand has joined it. -/
def Unjoined.missable (u : Unjoined) (st : Strand) (tc o n : Nat) : Bool :=
  u.w < tc && !(u.gone.any fun g => g.1 < tc && g.2.1 < o + n && o < g.2.1 + g.2.2) &&
  !(u.seen.any fun g => g.2.2.1 < o + n && o < g.2.2.1 + g.2.2.2 && st.joins.any fun j => j.1 == g.1 && g.2.1 + 3 ≤ j.2.1 && j.2.2 ≤ tc) &&
  !(st.joins.any fun j => j.1 == u.strand && u.w ≤ j.2.1 && j.2.2 ≤ tc)

/-- The writes in the other view that a strand's read of `n` bytes of a chunk may still miss, oldest first. -/
def Team.missable (t : Team) (st : Strand) (ea : BitVec 28) (off n : Nat) (diag : Bool) : List Unjoined :=
  t.unjoined.filter fun u => u.twi == eaTwi ea && u.stn == eaStn ea && u.off == off / 64 * 64 && u.diag != diag && u.missable st t.tcyc (off % 64) n

/-- A read of `n` bytes at byte `o` of a chunk has found the writes of `l`: no later one finds what stood before them (R241). -/
def Team.found (t : Team) (l : List Unjoined) (o n : Nat) : Team :=
  { t with unjoined := t.unjoined.map fun u => if l.contains u then { u with gone := u.gone ++ [(t.tcyc, o, n)] } else u }

/-- The `n` bytes of the `m`-th 64-byte part of a core read: those that stand, or those an earlier write in the other view found, by
choice. -/
def State.readPart (s : State) (t : Team) (st : Strand) (ea : BitVec 28) (diag : Bool) (m n : Nat) : Nat × State :=
  let o := accessOffset (eaOff ea) diag (64 * m)
  let now := natOf ((List.range n).map fun i => Memory.read s.ring (t.beltKey (eaTwi ea) (eaStn ea) (o + i)))
  let u := (s.team t.id).getD t
  match u.missable st ea o n diag with
  | [] => (now, s)
  | l =>
    let k := s.choice % (l.length + 1)
    (match l[k]? with
      | some w => bits w.old.toNat (8 * (o % 64)) (8 * n)
      | none => now, s.chosen.setTeam (u.found (l.take k) (o % 64) n))

/-- The bytes of a core read, part by part. -/
def State.readParts (s : State) (t : Team) (st : Strand) (ea : BitVec 28) (diag : Bool) (n : Nat) : List Nat → List Nat × State
  | [] => ([], s)
  | m :: l =>
    let (v, s1) := s.readPart t st ea diag m n
    let (vs, s2) := State.readParts s1 t st ea diag n l
    (v :: vs, s2)

/-- The value that stands on a lane at a strand's station (R165, R166). -/
def State.laneValue (s : State) (t : Team) (st : Strand) (anti : Bool) (lane : Nat) : Row × BitVec 8 :=
  let own := 8 * (st.index % 4)
  let stands (v : LaneValue) : Bool :=
    v.anti == anti && v.lane == lane && v.twi == st.index / 4 && v.p < t.tcyc && t.tcyc ≤ v.p + 16 &&
    (if anti then (v.stn + 32 - (t.tcyc - v.p)) % 32 else (v.stn + (t.tcyc - v.p)) % 32) == own
  match ((s.teamStrands t.id).flatMap (·.lanes)).find? stands with
  | some v => (v.data, v.pois)
  | none => (0, 0)

/-- A result whose access performs in this cycle. -/
def State.performRead (s : State) (t : Team) (st : Strand) (f : InFlight) : InFlight × State :=
  match f.what with
  | .load dst ea size diag none =>
    let (l, s') := s.readParts t st ea diag (min size 64) (List.range ((size + 63) / 64))
    ({ f with what := .load dst ea size diag (some (BitVec.ofNat 4096 (undigits 512 l), s.ringPois (t.accessKeys ea size diag))) }, s')
  | .tap rho anti lane =>
    let (d, p) := s.laneValue t st anti lane
    ({ f with what := .row rho d (BitVec.allOnes 512) p }, s)
  | _ => (f, s)

/-- The results of a list, those that perform now with what they read. -/
def State.performReads (s : State) (t : Team) (st : Strand) : List InFlight → List InFlight × State
  | [] => ([], s)
  | f :: l =>
    let (f', s1) := if f.perform = t.tcyc then s.performRead t st f else (f, s)
    let (l', s2) := State.performReads s1 t st l
    (f' :: l', s2)

/-- The reads of a strand that perform in this cycle. -/
def State.strandReads (s : State) (t : Team) (i : Nat) : State :=
  match s.strand t.id i with
  | some st =>
    let (l, s') := s.performReads t st st.inflight
    s'.setStrand { st with inflight := l }
  | none => s

/-! ### Ring writes of the cores -/

/-- A chunk with `n` bytes from byte `at_` on replaced by those of a number. -/
def patchChunk (c : Chunk) (at_ n v : Nat) : Chunk :=
  let m := (2 ^ (8 * n) - 1) * 2 ^ (8 * at_)
  BitVec.ofNat 512 (Nat.lor (c.toNat - Nat.land c.toNat m) (v % 2 ^ (8 * n) * 2 ^ (8 * at_)))

/-- What R244 keeps of one 64-byte part of a core write: the chunk before it, for reads in the other view; and reads in its own view that may
still miss an earlier write in the other one see this write all the same. -/
def State.noteWrite (s : State) (t : Team) (strand : Nat) (w : RingStore) (u : Team) (m : Nat) : Team :=
  let o := accessOffset (eaOff w.ea) w.diag (64 * m)
  let n := min w.size 64
  let base := o / 64 * 64
  let old : Chunk := BitVec.ofNat 512 (natOf ((List.range 64).map fun i => Memory.read s.ring (t.beltKey (eaTwi w.ea) (eaStn w.ea) (base + i))))
  let patch (x : Unjoined) : Unjoined :=
    if x.twi == eaTwi w.ea && x.stn == eaStn w.ea && x.off == base && x.diag != w.diag then
      { x with old := patchChunk x.old (o % 64) n (bits w.data.toNat (512 * m) (8 * n)) } else x
  { u with unjoined := u.unjoined.map patch ++ [{ twi := eaTwi w.ea, stn := eaStn w.ea, off := base, diag := w.diag, w := t.tcyc, old, strand, gone := [], seen := [] }] }

/-- A core store of a strand that performs in this cycle. -/
def State.storeNow (s : State) (t : Team) (strand : Nat) (w : RingStore) : State :=
  let u := (List.range ((w.size + 63) / 64)).foldl (fun u m => s.noteWrite t strand w u m) ((s.team t.id).getD t)
  (s.setTeam u).performStore t w

/-- The stores of a strand that perform in this cycle. -/
def State.strandWrites (s : State) (t : Team) (i : Nat) : State :=
  match s.strand t.id i with
  | some st =>
    (st.stores.filter fun w => w.perform == t.tcyc).foldl (fun s w => s.storeNow t i w)
      (s.setStrand { st with stores := st.stores.filter fun w => w.perform != t.tcyc })
  | none => s

/-- The writes that a VIEWJ has joined to the other view are forgotten, and so are VIEWJs that join no later write (R244). -/
def Team.joinViews (t : Team) : Team :=
  { t with
    unjoined := t.unjoined.filter fun u => !(t.viewj.any fun v => v.1 == u.twi && u.w ≤ v.2 + 3 && v.2 + 3 < t.tcyc)
    viewj := t.viewj.filter fun v => t.tcyc ≤ v.2 + 3 }

/-- The teams on their cores whose towers' clocks run in this cycle. -/
def State.running (s : State) : List Team := s.teams.filter fun t => t.onCores && s.ticks t.t0

/-- The core accesses of the ring that perform in this cycle: reads before writes (R242). -/
def State.performCores (s : State) : State :=
  let s := s.running.foldl (fun s t => s.setTeam t.joinViews) s
  let s := s.running.foldl (fun s t => (List.range t.width).foldl (fun s i => s.strandReads t i) s) s
  s.running.foldl (fun s t => (List.range t.width).foldl (fun s i => s.strandWrites t i) s) s

/-! ### Results commit (R65, R66) -/

/-- A row written by a result; in a cycle in which the cube commits to it the cube's value stays (R194). A sample of the strand's that has begun on
the tile is of no use for it any more (R297). -/
def State.writeRow (s : State) (t : Team) (st : Strand) (rho : Nat) (data : Row) (m : Mask) (pois : BitVec 8) : State :=
  let k := rowKey t st rho
  if (s.tower (t.strandTower st.index)).committed.contains k then s
  else (s.setAccRow k ((s.accRow k).write (st.rowType rho) data m pois)).mapSamples fun x => x.disturb t.id st.index (rho / 128)

/-- A line after an LDT (R169, R399): `nb` bytes of it, with zero above. -/
def loadedLine (data : Row) (m nb : Nat) (oddNibble : Bool) : Line :=
  let v := bits data.toNat (1024 * m) (8 * nb)
  BitVec.ofNat 1024 (if oddNibble then v % 2 ^ (8 * nb - 4) else v)

/-- A load's bytes go to their destination. -/
def State.placeLoad (s : State) (t : Team) (st : Strand) (dst : LoadDst) (data : Row) (pois : BitVec 8) : State :=
  match dst with
  | .sreg d => match s.strand t.id st.index with
    | some x => s.setStrand (x.setSreg d (data.extractLsb' 0 64) (pois.getLsbD 0))
    | none => s
  | .row rho => s.writeRow t st rho data (BitVec.allOnes 512) pois
  | .lines tile line nb rows odd =>
    (List.range 4).foldl (fun (s : State) m =>
      let k := tileKey (t.strandTower st.index) (st.tile tile) (line + m)
      let v : TileLine := if line + m < rows then
          { data := loadedLine data m nb odd, pois := pois.getLsbD (2 * m) || pois.getLsbD (2 * m + 1) } else { data := 0, pois := false }
      { s.setLine k v with scales := SMap.set (0 : Word) s.scales k 0 }) s
  | .plane tile ch isMeta =>
    let n := if isMeta then 8 else 64
    (List.range n).foldl (fun (s : State) i =>
      let k := tileKey (t.strandTower st.index) (st.tile tile) (n * ch + i)
      let s : State := if isMeta then { s with metas := SMap.set (0 : Chunk) s.metas k (rowChunk data i) }
        else { s with scales := SMap.set (0 : Word) s.scales k (data.extractLsb' (64 * i) 64) }
      if pois.getLsbD (if isMeta then i else i / 8) then s.setLine k { s.line k with pois := true } else s) s

/-- A result commits. -/
def State.commitResult (s : State) (t : Team) (st : Strand) (r : Result) : State :=
  match r, s.strand t.id st.index with
  | .sreg d v p, some x => s.setStrand (x.setSreg d v p)
  | .preg d v, some x => s.setStrand (x.setPreg d v)
  | .row rho data m pois, _ => s.writeRow t st rho data m pois
  | .load dst _ _ _ (some (data, pois)), _ => s.placeLoad t st dst data pois
  | _, _ => s

/-- The scalar register a result writes. -/
def Result.scalar : Result → Option Nat
  | .sreg d _ _ => some d.toNat
  | .load (.sreg d) _ _ _ _ => some d.toNat
  | _ => none

/-- The mailboxes of a strand at the end of a tower cycle (R250, R251): `own` are the scalar registers its own results have written in it. -/
def Strand.settleMailboxes (st : Strand) (own : List Nat) : Strand :=
  let st' := (List.range 8).foldl (fun (x : Strand) m =>
    let l := st.mbxIn.filter fun e => e.1 == m
    let best := l.foldl (fun (b : Option (Nat × Nat × Word × Bool)) e => match b with
      | some q => if q.2.1 ≤ e.2.1 then some e else b
      | none => some e) none
    match best with
    | none => x
    | some (_, _, v, p) =>
      if own.contains (56 + m) then { x with mbxst := x.mbxst ||| BitVec.ofNat 64 (2 ^ m) }
      else
        let y := x.setSreg (BitVec.ofNat 6 (56 + m)) v p
        { y with mbxst := y.mbxst ||| BitVec.ofNat 64 (if l.length = 1 then 2 ^ (8 + m) else 2 ^ m) }) st
  { st' with mbxIn := [] }

/-- The control registers that a bundle of this cycle writes (R326). -/
def State.commitControls (s : State) (t : Team) (i : Nat) : State :=
  (s.bundles.filter fun b => b.tm.id == t.id && b.st.index == i).foldl (fun s b => b.effects.foldl (fun s e =>
    match e.2, s.strand t.id i with
    | .control r v, some st =>
      let st' := st.setControl (s.tower (t.strandTower i)).time r v
      let s := s.setStrand st'
      if 0x0C0 ≤ r && r < 0x0D0 then s.retype t st' (r - 0x0C0) else s
    | _, _ => s) s) s

/-- The results of a strand that commit at the end of this cycle; none from the stop cycle on (R113, R281), and the lanes keep what stands on them
(R167). -/
def State.commitStrand (s : State) (t : Team) (i : Nat) : State :=
  match s.strand t.id i with
  | none => s
  | some st =>
    let due := if t.before then st.inflight.filter fun f => f.commit == t.tcyc else []
    let s := due.foldl (fun s f => s.commitResult t st f.what) s
    let s := s.commitControls t i
    match s.strand t.id i with
    | none => s
    | some x =>
      let x := x.settleMailboxes (due.filterMap fun f => f.what.scalar)
      s.setStrand { x with
        inflight := if t.before then x.inflight.filter fun f => f.commit != t.tcyc else x.inflight
        lanes := if t.before then x.lanes.filter fun v => t.tcyc < v.p + 16 else x.lanes }

/-- The results, control registers and mailboxes of every strand. -/
def State.commitStrands (s : State) : State :=
  s.running.foldl (fun s t => (List.range t.width).foldl (fun s i => s.commitStrand t i) s) s

/-! ### Handles and tokens -/

/-- HSETs in issue order (R223). -/
def insertHset (c : Cmd) : List Cmd → List Cmd
  | [] => [c]
  | d :: l => if d.issuedCyc < c.issuedCyc || (d.issuedCyc == c.issuedCyc && (d.core < c.core || (d.core == c.core && d.id ≤ c.id)))
    then d :: insertHset c l else c :: d :: l

/-- An HSET takes effect (R222, R224). -/
def State.applyHset (s : State) (c : Cmd) : State :=
  match s.context c.ctx with
  | some x =>
    let h := wbits c.w0 0 8
    let (v, rejected) := (SMap.get Handle.fresh x.handles h).hset c.w0
    (s.setContext { x with handles := SMap.set Handle.fresh x.handles h v }).finish c.id (if rejected then 5 else 0)
  | none => s.finish c.id 5

/-- The transitions that the bytes of this cycle cause (R222), which release (R245). -/
def State.settle (s : State) : State :=
  { (s.cmds.filter s.settlesFor).foldl State.releaseCmd s with contexts := s.contexts.map Context.settleHandles }

/-- The transitions that the bytes of this cycle cause (R222), and then its HSETs (R223). -/
def State.applyHsets (s : State) : State :=
  ((s.cmds.filter fun c => c.op == .hset && c.st == .running && c.xpc == 1).foldl (fun l c => insertHset c l) []).foldl
    (fun s c => s.applyHset c) s.settle

/-- A command that is done (R75 to R77, R100): its token goes DONE with its status, its tokenless entry is free, and a packet's counter
advances. -/
def State.retireCmd (s : State) (c : Cmd) (status : BitVec 4) : State :=
  let s := (s.releaseCmd c).dropCmd c.id
  match c.packet with
  | some _ => s.counterAdd c.ctx c.counter c.increment.toNat
  | none => match s.strand c.team c.strand with
    | some st =>
      s.setStrand (if c.token = 0 then { st with tokenless := st.tokenless - 1 } else st.setToken c.token { st := .done, status })
    | none => s

/-- The commands that are done in this cycle: those that have finished, and whose writes of the ring have all performed. -/
def State.retireCmds (s : State) : State :=
  s.cmds.foldl (fun s c => match c.st with
    | .finishing n => if s.ringQueue.any (·.cmd == c.id) then s else s.retireCmd c n
    | _ => s) s

/-! ### Time -/

/-- The rendezvous whose entry value the team cycle has reached (R63, R108): it clears, and an entering one gives every lease held a timed
budget. -/
def Team.reachEntry (t : Team) : Team :=
  if t.pending = some t.tcyc && t.before then
    let take (k : Claim) : Claim := if t.entering && k.heldAt t.tcyc then { k with budget := .timed (t.tcyc + t.tlen) } else k
    { t with pending := none, joined := [], entering := false, claims := t.claims.map take }
  else t

/-- A loading team whose strands are ready starts its next cycle (R59, R118); the first team of a grid to be admitted gives it its start (R307). -/
def State.startTeams (s : State) : State :=
  s.teams.foldl (fun s t =>
    if s.ready t then
      let s := s.setTeam (({ t with st := .resident } : Team).reachEntry)
      match s.grid t.grid with
      | some g => if g.started || g.placed.head? != some t.index then s else s.setGrid { g with start := s.cyc + 1, started := true }
      | none => s
    else s) s

/-- A team's next cycle; the strands of a faulted team freeze in its stop cycle (R83, R282). -/
def State.advanceTeam (s : State) (t : Team) : State :=
  let t := ({ t with tcyc := t.tcyc + 1 } : Team).reachEntry
  if t.faulted && !t.before then (s.setTeam t).freezeStrands t.id else s.setTeam t

/-- Team cycles advance with the towers' clocks (R59, R60). -/
def State.advanceTeams (s : State) : State :=
  s.running.foldl (fun s t => match s.team t.id with
    | some t => s.advanceTeam t
    | none => s) s

/-- Requests of the address generators that leave their bank (R236, R486). -/
def State.sendQueues (s : State) : State :=
  s.running.foldl (fun s t => (List.range t.width).foldl (fun s i => s.sendQueue t i) s) s

/-- Tower times advance (R6). -/
def State.advanceTowers (s : State) : State :=
  (List.range 4).foldl (fun s' i =>
    let t := s'.tower i
    s'.setTower i { t with time := if s.ticks i then t.time + 1 else t.time, committed := [] }) s

/-- The explicit waits to look at when the next cycle begins (R64). -/
def State.releases (s : State) : List Instr :=
  (s.strands.filter fun st => st.st == .wait && st.back.isSome && (s.team st.team).any fun t => s.ticks (t.strandTower st.index)).map fun st =>
    .waitRelease st.team st.index

/-- What the fabric does of itself at the end of a cycle (R254, R259, R274, R275, R278): flits to be replayed are, and requests and responses that
may leave do; in the middle of a guard interval each port sends a beacon and acknowledgements; at the end of a turn timed flits that were not
replayed are lost, and failed links are down. -/
def State.fabricTick (s : State) : State :=
  let s := s.replays.pumpAll
  if s.cyc % 4096 = 48 && s.fabric.joined then { s with out := s.out ++ s.guardFlits }
  else if s.cyc % 4096 = 4095 then ({ s with fabric := s.fabric.endTurn } : State).markDown
  else s

/-- The next cycle begins; records whose cycle is over are written (R285). -/
def State.nextCycle (s : State) : State :=
  let s : State := { s with cyc := s.cyc + 1, phase := .issue 0 0, bundles := [], iss := Issue.blank, busy := []
                            recent := s.recent.filter fun e => s.cyc + 1 < e.2.1 + 256 }
  let s := s.contexts.foldl (fun s x => if x.records.isEmpty then s else s.flushRecords x.num) s
  { s with agenda := s.releases }

/-- The end of a cycle. -/
def State.endCycle (s : State) : State :=
  let s := s.commitStrands.applyHsets.retireCmds.sendQueues.watchQueues.fabricTick.advanceTeams.startTeams.advanceTowers
  (if s.cyc % 16 = 15 then s.applySteps else s).nextCycle

end Sys2Proof.Machine
end

