-- ==== Sys2Proof/Machine/Cycle.lean ====
section
/-! DEFINITION. The micro-schedule of one CYC cycle (log 2): each core in turn issues the bundle that is due on it, slot by slot; the team's
bundles are resolved together; core accesses perform; the events that are due and those that wait in the inbox happen one by one; the
cycle ends. `nextWork` says what the next step is: an instruction or event to run, or a move of the schedule. -/

namespace Sys2Proof.Machine

/-- What a step does: run an instruction in a state, or only move the schedule on. -/
inductive Work where
  | run (i : Instr) (s : State)
  | move (s : State)

/-! ### Issue -/

/-- Whether a strand may issue a bundle: it runs, or a bundle of it is held before its issue and is tried again each cycle (R64, R75). -/
def Strand.mayIssue (st : Strand) : Bool := st.st == .run || (st.st == .wait && st.back.isNone)

/-- The team and strand whose bundle is due on a core in this cycle (R61, R201). -/
def State.dueOn (s : State) (core : Nat) : Option (Team × Strand) :=
  match (s.core core).occupant with
  | none => none
  | some (id, i) =>
    match s.team id, s.strand id i with
    | some t, some st =>
      if t.issues && s.ticks (t.strandTower i) && st.mayIssue && st.nextIssue ≤ t.tcyc then some (t, st) else none
    | _, _ => none

/-- POISON FETCH of the slots of a bundle that have an uncorrectable error (R290). -/
def State.fetchPoison (s : State) (core pc n : Nat) : List Raised :=
  ((List.range n).filter fun k => SMap.get false s.slotErrors (65536 * core + (pc / 4 + k))).map fun k =>
    { Raised.of .poisonFetch .fetch 0 with slot := k }

/-- The bundle of a strand as it is fetched and decoded (R315, R335). Of one that VSKIP nulls no operand is checked (R72; log 48). -/
def State.openBundle (s : State) (core : Nat) (t : Team) (st : Strand) : Issue :=
  let (ws, stop) := s.fetchWords core st.len st.pc 8
  let faults := (decodeFaults ws stop).filter fun r => st.nulls = 0 || r.cause != .illegalOperand
  { Issue.blank with
    st, tm := t, core, pc := st.pc, words := ws, idle := idleCount ws, raised := s.fetchPoison core st.pc ws.length ++ faults }

/-- The TIMED rendezvous whose deadline is in this cycle (R63). -/
def State.deadlines (s : State) : List Instr :=
  (s.teams.filter fun t => t.issues && s.ticks t.t0 && s.entryValue t == some (t.tcyc + 16)).map fun t => .timedRdvDeadline t.id

/-- The next core, or the bundles' resolution. -/
def State.nextCore (s : State) (core : Nat) : State :=
  if core + 1 < 16 then { s with phase := .issue (core + 1) 0 }
  else
    let s := { s with phase := .resolve }
    { s with agenda := s.deadlines }

/-- The bundle being issued is among those of the cycle. -/
def State.closeBundle (s : State) (core : Nat) : State :=
  ({ s with bundles := s.bundles ++ [s.iss], iss := Issue.blank } : State).nextCore core

/-- Slot `k` of the bundle being issued: its instruction runs. A slot with a reserved field that is checked in the read stage (R335) only
faults. -/
def State.slotWork (s : State) (core k : Nat) (w : BitVec 32) : Work :=
  let s' : State := { s with phase := .issue core (k + 1), iss := { s.iss with slot := k } }
  match decodeInstr (wordOpcode w) (wordOpnd w) with
  | .ok i => .run i s'
  | .error _ => .move (s'.slotDone [s'.badOperand] [] [])

/-- The first slot of the bundle due on a core, or the next core. -/
def State.openWork (s : State) (core : Nat) : Work :=
  match s.dueOn core with
  | none => .move (s.nextCore core)
  | some (t, st) =>
    let s : State := { s with iss := s.openBundle core t st }
    match s.iss.words, s.iss.raised, st.nulls with
    | w :: _, [], 0 => s.slotWork core 0 w
    | _, _, _ => .move (s.closeBundle core)

/-- Issue on a core from slot `k` on. -/
def State.issueWork (s : State) (core k : Nat) : Work :=
  match k with
  | 0 => match s.agenda with
    | i :: l => .run i { s with agenda := l }
    | [] => s.openWork core
  | k + 1 => match s.iss.words[k + 1]? with
    | some w => s.slotWork core (k + 1) w
    | none => .move (s.closeBundle core)

/-! ### What is due -/

/-- The events that are due for a cube command: a command that starts feeds its first step in the same cycle (R193). -/
def Cmd.cubeEvents (c : Cmd) : List Instr :=
  match c.st with
  | .queued => .cubeCommandStart c.id :: (if c.op.loads then [] else [.cubeStepFeed c.id])
  | .running => if c.op.loads then [.wldComplete c.id] else if c.xpc < c.steps then [.cubeStepFeed c.id] else []
  | _ => []

/-- The events that are due for a collective. -/
def Cmd.collEvents (c : Cmd) : List Instr :=
  (List.range (collBuckets c.w1)).flatMap fun b =>
    if !c.slots.contains b then [.collBucketStart c.id b] else if !c.done_.contains b then [.collBucketComplete c.id b] else []

/-- The events that are due for a command of another engine. -/
def Cmd.engineEvents (c : Cmd) (cyc : Nat) : List Instr :=
  match c.st, c.op with
  | .queued, .launch => []
  | .queued, _ => [.engineCommandStart c.id]
  | .running, .hset => [.hsetTakeEffect c.id]
  | .running, .coll => c.collEvents
  | .running, .fsend =>
    (if c.sent.isNone then [.fsendFlitDeparture c.id] else []) ++ (if cyc % 4096 = 4095 then [.fsendTurnEnd c.id] else [])
  | .running, .frecv | .running, .launch | .running, .lease => []
  | .running, _ => if c.xpc < c.steps then [.engineStep c.id] else [.engineCommandComplete c.id]
  | _, _ => []

/-- The cube commands with a step that commits, in track order (R186). -/
def State.commitEvents (s : State) : List Instr :=
  (List.range 4).flatMap fun trk =>
    (s.cmds.filter fun c => c.op.onTrack && bandTrk c.w1 == trk && !c.fed.isEmpty).map fun c => .cubeStepCommit c.id

/-- The receives whose turn and guard interval end in this cycle, in port order (R252, R265). -/
def State.expiryEvents (s : State) : List Instr :=
  if s.cyc % 4096 ≠ 95 then []
  else (List.range 16).flatMap fun p =>
    (s.cmds.filter fun c => c.op == .frecv && c.st == .running && fabPort c.w0 == p).map fun c => .frecvKeyExpiry c.id

/-- The events that are due for the leases of a team: budgets that end; requests in the order of R197; replays. -/
def State.leaseEvents (s : State) (f : Nat → Claim → Team → Option Instr) : List Instr :=
  (s.teams.filter Team.before).flatMap fun t => t.claims.zipIdx.filterMap fun e => f e.2 e.1 t

/-- The events that are due for a strand. -/
def State.strandEvents (s : State) (st : Strand) : List Instr :=
  match s.team st.team with
  | none => []
  | some t =>
    let now := (s.tower (t.strandTower st.index)).time
    ((List.range 4).filterMap fun m => match (st.qv.get (Fin.ofNat 4 m)).readAt with
      | some r => if r < now then some (.qvViewRead st.team st.index m) else none
      | none => none) ++
    (if st.aq.any (s.entryDue now) then [.dqEntryArrive st.team st.index] else []) ++
    (if st.st == .drain then [.strandRetire st.team st.index] else []) ++
    (if st.waits.isEmpty then [] else [.swapOut st.team st.index])

/-- The events that are due for a team. -/
def Team.events (t : Team) : List Instr :=
  match t.st with
  | .loading => [.streamsLoaded t.id]
  | .resident => .quantumExpiry t.id :: (if t.stopAsked then [.preemptStop t.id] else [])
  | .stopping _ _ => [.teamSave t.id]
  | .swapped _ _ => [.swappedCounterReached t.id]
  | .gone => [.gridDiscard t.grid]
  | _ => []

/-- The team that the scheduler admits or resumes now, if any (R103, R104). -/
def State.admitEvents (s : State) : List Instr :=
  match s.nextGrid with
  | none => []
  | some g => match s.nextTeam g with
    | some none => [.teamAdmit g.id]
    | some (some t) => [.teamResume t.id]
    | none => []

/-- The events that are due for a grid. -/
def State.gridEvents (s : State) (g : Grid) : List Instr :=
  (if !g.live then [.jobRecordEmit g.id] else []) ++ (if g.closing then [.gridDiscard g.id] else []) ++ (if g.zeroSince.isSome && !g.due then [.gridDue g.id] else []) ++
  (if g.live && g.waitSince < s.cyc && (s.cyc - g.waitSince) % Config.agingInterval = 0 then [.gridPriorityRise g.id] else [])

/-- The event of a packet. -/
def PacketType.event (k : PacketType) (ctx q : Nat) : Instr :=
  match k with
  | .nop => .nopPacket ctx q
  | .launch => .launchPacket ctx q
  | .copy => .copyPacket ctx q
  | .layout => .layoutPacket ctx q
  | .signal => .signalPacket ctx q
  | .wait => .waitPacket ctx q
  | .preempt => .preemptPacket ctx q
  | .resume => .resumePacket ctx q
  | .resumeFrozen => .resumeFrozenTeam ctx q
  | .discardFrozen => .discardFrozenTeam ctx q
  | .fence => .fencePacket ctx q

/-- The event that is due for a queue: its hold, or its next packet (R96, R98, R100). -/
def State.queueEvents (s : State) (x : Context) (q : Nat) (k : Queue) : List Instr :=
  match k.hold with
  | .wait _ _ => [.waitPacketSatisfied x.num q]
  | .fence _ _ _ => [.fencePacketComplete x.num q]
  | .none => match s.packetAt x.num q with
    | none => []
    | some p => [if p.pois.isSome then .nopPacket x.num q else p.kind.event x.num q]

/-- The events that are due for a context. -/
def State.contextEvents (s : State) (x : Context) : List Instr :=
  (x.queues.zipIdx.flatMap fun e => s.queueEvents x e.2 e.1) ++ (if x.records.any (·.ready) then [.faultQueueRoom x.num] else []) ++
  (if x.destroying then [.contextDestroyDrained x.num] else [])

/-- The replays of the auditor that end of themselves: a replay that agrees, 2^12 CYC cy after its command, or a second one 2^13 after (log 12). -/
def State.auditEvents (s : State) : List Instr :=
  (List.range 4).filterMap fun i => match (s.tower i).sample with
    | some x =>
      if !x.complete then none
      else if x.bad1.isNone then (if x.doneCyc + 2 ^ 12 ≤ s.cyc then some (.auditReplayComplete i 0 0) else none)
      else if x.doneCyc + 2 ^ 13 ≤ s.cyc then some (.auditSecondReplayComplete i 0) else none
    | none => none

/-- The end of a sampling interval (R148): it comes before the accesses of its cycle, which count in the next one. -/
def State.samplingEvents (s : State) : List Instr := if 0 < s.cyc && s.cyc % 2 ^ s.keep.sampling = 0 then [.samplingIntervalEnd] else []

/-- The events that are due for memory (R142, R151). -/
def State.memoryEvents (s : State) : List Instr :=
  (s.shortPages.filterMap fun e => match e.2 with
    | some p => if (p.deadline.any fun d => d ≤ s.cyc) then some (.shortPageDeadline e.1) else none
    | none => none) ++
  (match s.migration.st with
    | .copy => [.migrationCopyComplete]
    | .shoot => [.migrationShootComplete]
    | .idle => [])

/-- The untimed flits held for a pair whose destination this device meets leave where the turn has slots for them (R275). -/
def State.relayEvents (s : State) : List Instr :=
  (s.fabric.untimedRelay.filter fun r => s.fabric.meets s.cyc r.dst && s.fabric.roomFor (s.fabric.portTo r.dst) s.cyc r.flits.length).map fun r =>
    .untimedRelayForward { r with credit := true }

/-- The events that are due for the fabric (R261, R263, R265, R267, R275, R276, R278, R310). -/
def State.fabricEvents (s : State) : List Instr :=
  s.expiryEvents ++ s.relayEvents ++
  (if s.cyc % 4096 = 96 then (List.range 16).map fun p => .relayForward p else []) ++
  ((s.fabric.outstanding.filter fun o => o.deadline < s.cyc).map fun o => .untimedTimeout o.id false) ++
  (if s.cyc % s.fabric.round = 0 then
    (if s.fabric.nextOwner.isSome then [.timedOwnerCutover] else []) ++
    ((List.range 4).filter fun i => (s.tower i).deferred).map fun i => .govstepDeferredRise i else []) ++
  (if s.fabric.joined && (s.cyc + 1) % s.fabric.round = 0 then [.roundEnd] else [])

/-- The governor's evaluations (R309), of one mean power for all towers, by choice; and the towers that have been cool long enough (R311). -/
def State.governorEvents (s : State) : List Instr :=
  (if 0 < s.cyc && s.cyc % 2 ^ 16 = 0 then (List.range 4).map fun i => .governorEvaluate i (s.tmaxOf i) (s.choice % 2 == 1) else []) ++
  ((List.range 4).filter fun i => (s.tower i).tripped && (s.tower i).coolSince.any fun c => c + 2 ^ 24 ≤ s.cyc).map .towerOnline

/-- Everything that may happen of itself in this cycle, in order. Each event acts only where its rules let it. An UNLEASE comes last, so that what it
frees is granted in the next cycle (R197, R466). -/
def State.dueEvents (s : State) : List Instr :=
  s.samplingEvents ++
  s.leaseEvents (fun i k t => if k.st == .held && !k.heldAt t.tcyc then some (.leaseBudgetExpiry t.id i) else none) ++
  (s.cmds.filter (·.op.onTrack)).flatMap Cmd.cubeEvents ++ s.commitEvents ++
  (s.cmds.filter fun c => !c.op.onTrack && c.op != .unlease).flatMap (fun c => c.engineEvents s.cyc) ++
  s.leaseEvents (fun i k t => if k.st == .waiting then some (.leaseGrant t.id i) else none) ++
  s.leaseEvents (fun i k t => if k.st == .replaying then some (.leaseReplayComplete t.id i) else none) ++
  s.strands.flatMap s.strandEvents ++
  ((List.range 16).filter fun p => !(s.core p).launches.isEmpty).map (fun p => .pendingLaunchTake p) ++
  s.teams.flatMap Team.events ++ s.grids.flatMap s.gridEvents ++ s.contexts.flatMap s.contextEvents ++ s.admitEvents ++
  s.auditEvents ++ s.governorEvents ++ s.memoryEvents ++ s.fabricEvents ++ (s.cmds.filter (·.op == .unlease)).flatMap (fun c => c.engineEvents s.cyc)

/-! ### The phases -/

/-- Parcel tags are set, by parcel and tag. Where two commands set one parcel's tag in a cycle, which of the two tags stands is a choice (R8, R160;
log 4); `done_` are the parcels whose tag stands. -/
def State.setTagList : List (Nat × BitVec 16) → List Nat → State → State
  | [], _, s => s
  | e :: l, done_, s =>
    let twice := done_.contains e.1
    let keep := twice && s.choice % 2 = 1
    let s := if twice then s.chosen else s
    State.setTagList l (e.1 :: done_) (if keep then s else { s with tags := SMap.set 0 s.tags e.1 e.2 })

/-- The parcel tags whose cycle has come (R160): those of the towers whose clocks run. What performs in this cycle finds them. -/
def State.setTags (s : State) : State :=
  State.setTagList (s.newTags.filter fun e => s.ticks (e.1 / 2 ^ 14)) []
    { s with newTags := s.newTags.filter fun e => !s.ticks (e.1 / 2 ^ 14) }

/-- The banks that the accesses of a strand's bundles take in this cycle (R157). -/
def Strand.coreBanks (st : Strand) (t : Team) : List Nat :=
  (st.stores.flatMap fun w => if w.perform = t.tcyc then t.accessBanks w.ea w.size w.diag else []) ++
  st.inflight.flatMap fun f => match f.what with
    | .load _ ea size diag none => if f.perform = t.tcyc then t.accessBanks ea size diag else []
    | _ => []

/-- The banks that core accesses take in this cycle. -/
def State.coreBanks (s : State) : List Nat := s.running.flatMap fun t => (s.teamStrands t.id).flatMap fun st => st.coreBanks t

/-- What performs in the ring in a cycle: tags that are set, core accesses, and engine writes at the banks that are free. -/
def State.performRings (s : State) : State :=
  let s := s.setTags
  ({ s with busy := s.coreBanks } : State).performCores.drainRing

/-- The bundles are resolved, the ring's accesses perform, and the agenda of the cycle is drawn up: what is due, then what has come in (log 4). A
report of a work queue is served first (R96). -/
def State.openAgenda (s : State) : State :=
  let s := s.serveReport.resolveAll.performRings
  { s with phase := .agenda, agenda := s.dueEvents ++ s.inbox.filter Instr.wellFormed, inbox := [] }

/-- The next step of the machine. -/
def State.nextWork (s : State) : Work :=
  match s.phase with
  | .issue core k => s.issueWork core k
  | .resolve => match s.agenda with
    | i :: l => .run i { s with agenda := l }
    | [] => .move s.openAgenda
  | .agenda => match s.agenda with
    | i :: l => .run i { s with agenda := l, fresh := s.fresh + 1 }
    | [] => .move { s with phase := .commit }
  | .commit => .move s.endCycle

end Sys2Proof.Machine
end

