-- ==== Sys2Proof/Machine/Scalar.lean ====
section
/-! DEFINITION. Class SCL (R328): the meanings of the scalar instructions, one definition each over two shared forms. A result is
written at the end of cycle c + L - 1 (R65); there are no flags and no traps beyond those of R335 and R289. -/

namespace Sys2Proof.Machine

/-- A scalar result with no poison. -/
def sregResult (latency : Nat) (d : BitVec 6) (v : Word) : Effect := .result latency (.sreg d v false)

/-- The form of a scalar instruction: a result in S`d` after `latency` cycles; the sources in `srcs` are consumed (R289). -/
def State.scalarOp (s : State) (latency : Nat) (d : BitVec 6) (srcs : List (BitVec 6)) (v : Word) :
    Host.Outcome State Fault Refusal :=
  .next (s.slotDone (s.poisonChecks srcs) [] [sregResult latency d v])

/-- The form of a comparison: a result in P`p`, latency 1 (R363). -/
def State.compareOp (s : State) (p : BitVec 3) (srcs : List (BitVec 6)) (v : Bool) : Host.Outcome State Fault Refusal :=
  .next (s.slotDone (s.poisonChecks srcs) [] [.result 1 (.preg p v)])

/-- The value of S`a` in the bundle being issued. -/
def State.srcA (s : State) (a : BitVec 6) : Word := s.iss.st.sreg a

/-- The low six bits of a shift count (R446). -/
def shiftCount (w : Word) : Nat := wbits w 0 6

/-- The comparisons of R328, by their code. -/
def condHolds (c : BitVec 3) (x y : Word) : Bool :=
  match c.toNat with
  | 0 => x == y
  | 1 => x != y
  | 2 => x.slt y
  | 3 => !x.slt y
  | 4 => x.ult y
  | _ => !x.ult y

/-- The high 64 bits of a signed 128-bit product (R415). -/
def mulHigh (x y : Word) : Word := BitVec.ofInt 64 (x.toInt * y.toInt / 2 ^ 64)

/-- The high 64 bits of an unsigned 128-bit product (R415). -/
def mulHighU (x y : Word) : Word := BitVec.ofNat 64 (x.toNat * y.toNat / 2 ^ 64)

/-- Signed division with its defined corners (R373). -/
def divSigned (x y : Word) : Word :=
  if y = 0 then BitVec.allOnes 64 else BitVec.ofInt 64 (x.toInt.tdiv y.toInt)

/-- Unsigned division (R373). -/
def divUnsigned (x y : Word) : Word := if y = 0 then BitVec.allOnes 64 else BitVec.ofNat 64 (x.toNat / y.toNat)

/-- Signed remainder (R441). -/
def remSigned (x y : Word) : Word := if y = 0 then x else BitVec.ofInt 64 (x.toInt.tmod y.toInt)

/-- Unsigned remainder (R441). -/
def remUnsigned (x y : Word) : Word := if y = 0 then x else BitVec.ofNat 64 (x.toNat % y.toNat)

/-- Number of leading zero bits (R361). -/
def leadingZeros (x : Word) : Nat := if x = 0 then 64 else 63 - Nat.log2 x.toNat

/-- Number of one bits (R428). -/
def onesCount (x : Word) : Nat := (digits 1 64 x.toNat).foldl (· + ·) 0

/-- ADD (R349). -/
def execAdd (d a b : BitVec 6) (s : State) : Host.Outcome State Fault Refusal :=
  s.scalarOp 1 d [a, b] (s.srcA a + s.srcA b)
/-- SUB (R457). -/
def execSub (d a b : BitVec 6) (s : State) : Host.Outcome State Fault Refusal :=
  s.scalarOp 1 d [a, b] (s.srcA a - s.srcA b)
/-- MUL (R415). -/
def execMul (d a b : BitVec 6) (s : State) : Host.Outcome State Fault Refusal :=
  s.scalarOp 3 d [a, b] (s.srcA a * s.srcA b)
/-- MULH (R415). -/
def execMulh (d a b : BitVec 6) (s : State) : Host.Outcome State Fault Refusal :=
  s.scalarOp 4 d [a, b] (mulHigh (s.srcA a) (s.srcA b))
/-- MULHU (R415). -/
def execMulhu (d a b : BitVec 6) (s : State) : Host.Outcome State Fault Refusal :=
  s.scalarOp 4 d [a, b] (mulHighU (s.srcA a) (s.srcA b))
/-- DIV (R373). -/
def execDiv (d a b : BitVec 6) (s : State) : Host.Outcome State Fault Refusal :=
  s.scalarOp 24 d [a, b] (divSigned (s.srcA a) (s.srcA b))
/-- DIVU (R373). -/
def execDivu (d a b : BitVec 6) (s : State) : Host.Outcome State Fault Refusal :=
  s.scalarOp 24 d [a, b] (divUnsigned (s.srcA a) (s.srcA b))
/-- REM (R441). -/
def execRem (d a b : BitVec 6) (s : State) : Host.Outcome State Fault Refusal :=
  s.scalarOp 24 d [a, b] (remSigned (s.srcA a) (s.srcA b))
/-- REMU (R441). -/
def execRemu (d a b : BitVec 6) (s : State) : Host.Outcome State Fault Refusal :=
  s.scalarOp 24 d [a, b] (remUnsigned (s.srcA a) (s.srcA b))
/-- AND (R349). -/
def execAnd (d a b : BitVec 6) (s : State) : Host.Outcome State Fault Refusal :=
  s.scalarOp 1 d [a, b] (s.srcA a &&& s.srcA b)
/-- OR (R425). -/
def execOr (d a b : BitVec 6) (s : State) : Host.Outcome State Fault Refusal :=
  s.scalarOp 1 d [a, b] (s.srcA a ||| s.srcA b)
/-- XOR (R482). -/
def execXor (d a b : BitVec 6) (s : State) : Host.Outcome State Fault Refusal :=
  s.scalarOp 1 d [a, b] (s.srcA a ^^^ s.srcA b)
/-- SHL (R446). -/
def execShl (d a b : BitVec 6) (s : State) : Host.Outcome State Fault Refusal :=
  s.scalarOp 1 d [a, b] (s.srcA a <<< shiftCount (s.srcA b))
/-- SHR (R446). -/
def execShr (d a b : BitVec 6) (s : State) : Host.Outcome State Fault Refusal :=
  s.scalarOp 1 d [a, b] (s.srcA a >>> shiftCount (s.srcA b))
/-- SAR (R446). -/
def execSar (d a b : BitVec 6) (s : State) : Host.Outcome State Fault Refusal :=
  s.scalarOp 1 d [a, b] ((s.srcA a).sshiftRight (shiftCount (s.srcA b)))
/-- MIN (R405). -/
def execMin (d a b : BitVec 6) (s : State) : Host.Outcome State Fault Refusal :=
  s.scalarOp 1 d [a, b] (if (s.srcA b).slt (s.srcA a) then s.srcA b else s.srcA a)
/-- MAX (R405). -/
def execMax (d a b : BitVec 6) (s : State) : Host.Outcome State Fault Refusal :=
  s.scalarOp 1 d [a, b] (if (s.srcA a).slt (s.srcA b) then s.srcA b else s.srcA a)
/-- MINU (R405). -/
def execMinu (d a b : BitVec 6) (s : State) : Host.Outcome State Fault Refusal :=
  s.scalarOp 1 d [a, b] (if (s.srcA b).ult (s.srcA a) then s.srcA b else s.srcA a)
/-- MAXU (R405). -/
def execMaxu (d a b : BitVec 6) (s : State) : Host.Outcome State Fault Refusal :=
  s.scalarOp 1 d [a, b] (if (s.srcA a).ult (s.srcA b) then s.srcA b else s.srcA a)
/-- CLZ (R361). -/
def execClz (d a : BitVec 6) (s : State) : Host.Outcome State Fault Refusal :=
  s.scalarOp 1 d [a] (BitVec.ofNat 64 (leadingZeros (s.srcA a)))
/-- POPC (R428). -/
def execPopc (d a : BitVec 6) (s : State) : Host.Outcome State Fault Refusal :=
  s.scalarOp 1 d [a] (BitVec.ofNat 64 (onesCount (s.srcA a)))
/-- ADDI (R351). -/
def execAddi (d a i : BitVec 6) (s : State) : Host.Outcome State Fault Refusal :=
  s.scalarOp 1 d [a] (s.srcA a + s.imm6 i)
/-- ANDI (R351). -/
def execAndi (d a i : BitVec 6) (s : State) : Host.Outcome State Fault Refusal :=
  s.scalarOp 1 d [a] (s.srcA a &&& s.imm6 i)
/-- ORI (R425). -/
def execOri (d a i : BitVec 6) (s : State) : Host.Outcome State Fault Refusal :=
  s.scalarOp 1 d [a] (s.srcA a ||| s.imm6 i)
/-- XORI (R482). -/
def execXori (d a i : BitVec 6) (s : State) : Host.Outcome State Fault Refusal :=
  s.scalarOp 1 d [a] (s.srcA a ^^^ s.imm6 i)
/-- SHLI (R446). -/
def execShli (d a k : BitVec 6) (s : State) : Host.Outcome State Fault Refusal :=
  s.scalarOp 1 d [a] (s.srcA a <<< k.toNat)
/-- SHRI (R446). -/
def execShri (d a k : BitVec 6) (s : State) : Host.Outcome State Fault Refusal :=
  s.scalarOp 1 d [a] (s.srcA a >>> k.toNat)
/-- SARI (R446). -/
def execSari (d a k : BitVec 6) (s : State) : Host.Outcome State Fault Refusal :=
  s.scalarOp 1 d [a] ((s.srcA a).sshiftRight k.toNat)
/-- MOVI (R413). -/
def execMovi (d : BitVec 6) (i : BitVec 12) (s : State) : Host.Outcome State Fault Refusal :=
  s.scalarOp 1 d [] (s.imm i.toNat 12 true true)
/-- MOVHI (R413): the immediate in the high half, the old low half; an immediate of 2^32 or more is an ILLEGAL OPERAND (R320). -/
def execMovhi (d : BitVec 6) (i : BitVec 12) (s : State) : Host.Outcome State Fault Refusal :=
  let v := s.imm i.toNat 12 false false
  .next (s.slotDone (failed [(2 ^ 32 ≤ v.toNat, s.badOperand)] ++ s.poisonChecks [d]) []
    [sregResult 1 d (v.extractLsb' 0 32 ++ (s.srcA d).extractLsb' 0 32)])
/-- CMP (R363). -/
def execCmp (c p : BitVec 3) (a b : BitVec 6) (s : State) : Host.Outcome State Fault Refusal :=
  s.compareOp p [a, b] (condHolds c (s.srcA a) (s.srcA b))
/-- CMPI (R363). -/
def execCmpi (c p : BitVec 3) (a i : BitVec 6) (s : State) : Host.Outcome State Fault Refusal :=
  s.compareOp p [a] (condHolds c (s.srcA a) (s.imm6 i))
/-- SEL (R449): the chosen register, with its poison. -/
def execSel (n : BitVec 3) (d a b : BitVec 6) (s : State) : Host.Outcome State Fault Refusal :=
  let r := if s.iss.st.preg n then a else b
  .next (s.slotDone [] [] [.result 1 (.sreg d (s.srcA r) (s.iss.st.spoisoned r))])

end Sys2Proof.Machine
end

