-- ==== Sys2Proof/Machine/Dispatch.lean ====
section
/-! DEFINITION. The dispatch: one arm for each constructor of Instr, a direct call of its meaning. -/

namespace Sys2Proof.Machine

/-- What an instruction or event does in a state. -/
def exec (i : Instr) (s : State) : Host.Outcome State Fault Refusal :=
  match i with
  | .add d a b => Sys2Proof.Machine.execAdd d a b s
  | .sub d a b => Sys2Proof.Machine.execSub d a b s
  | .mul d a b => Sys2Proof.Machine.execMul d a b s
  | .mulh d a b => Sys2Proof.Machine.execMulh d a b s
  | .mulhu d a b => Sys2Proof.Machine.execMulhu d a b s
  | .div d a b => Sys2Proof.Machine.execDiv d a b s
  | .divu d a b => Sys2Proof.Machine.execDivu d a b s
  | .rem d a b => Sys2Proof.Machine.execRem d a b s
  | .remu d a b => Sys2Proof.Machine.execRemu d a b s
  | .and d a b => Sys2Proof.Machine.execAnd d a b s
  | .or d a b => Sys2Proof.Machine.execOr d a b s
  | .xor d a b => Sys2Proof.Machine.execXor d a b s
  | .shl d a b => Sys2Proof.Machine.execShl d a b s
  | .shr d a b => Sys2Proof.Machine.execShr d a b s
  | .sar d a b => Sys2Proof.Machine.execSar d a b s
  | .min d a b => Sys2Proof.Machine.execMin d a b s
  | .max d a b => Sys2Proof.Machine.execMax d a b s
  | .minu d a b => Sys2Proof.Machine.execMinu d a b s
  | .maxu d a b => Sys2Proof.Machine.execMaxu d a b s
  | .clz d a => Sys2Proof.Machine.execClz d a s
  | .popc d a => Sys2Proof.Machine.execPopc d a s
  | .addi d a imm => Sys2Proof.Machine.execAddi d a imm s
  | .andi d a imm => Sys2Proof.Machine.execAndi d a imm s
  | .ori d a imm => Sys2Proof.Machine.execOri d a imm s
  | .xori d a imm => Sys2Proof.Machine.execXori d a imm s
  | .shli d a k => Sys2Proof.Machine.execShli d a k s
  | .shri d a k => Sys2Proof.Machine.execShri d a k s
  | .sari d a k => Sys2Proof.Machine.execSari d a k s
  | .movi d imm => Sys2Proof.Machine.execMovi d imm s
  | .movhi d imm => Sys2Proof.Machine.execMovhi d imm s
  | .cmp c p a b => Sys2Proof.Machine.execCmp c p a b s
  | .cmpi c p a imm => Sys2Proof.Machine.execCmpi c p a imm s
  | .sel n d a b => Sys2Proof.Machine.execSel n d a b s
  | .br n p o => Sys2Proof.Machine.execBr n p o s
  | .jal d imm => Sys2Proof.Machine.execJal d imm s
  | .jind n p d a => Sys2Proof.Machine.execJind n p d a s
  | .loop a m => Sys2Proof.Machine.execLoop a m s
  | .loopi imm m => Sys2Proof.Machine.execLoopi imm m s
  | .timedImm imm => Sys2Proof.Machine.execTimedImm imm s
  | .timedReg a => Sys2Proof.Machine.execTimedReg a s
  | .barr x g => Sys2Proof.Machine.execBarr x g s
  | .twait a b c => Sys2Proof.Machine.execTwait a b c s
  | .hwait e h => Sys2Proof.Machine.execHwait e h s
  | .waitc a b => Sys2Proof.Machine.execWaitc a b s
  | .vadd d a b => Sys2Proof.Machine.execVadd d a b s
  | .vsub d a b => Sys2Proof.Machine.execVsub d a b s
  | .vmul d a b => Sys2Proof.Machine.execVmul d a b s
  | .vfma d a b => Sys2Proof.Machine.execVfma d a b s
  | .vmin d a b => Sys2Proof.Machine.execVmin d a b s
  | .vmax d a b => Sys2Proof.Machine.execVmax d a b s
  | .vabs d a => Sys2Proof.Machine.execVabs d a s
  | .vneg d a => Sys2Proof.Machine.execVneg d a s
  | .vand d a b => Sys2Proof.Machine.execVand d a b s
  | .vor d a b => Sys2Proof.Machine.execVor d a b s
  | .vxor d a b => Sys2Proof.Machine.execVxor d a b s
  | .vshl d a k => Sys2Proof.Machine.execVshl d a k s
  | .vshr d a k => Sys2Proof.Machine.execVshr d a k s
  | .vsar d a k => Sys2Proof.Machine.execVsar d a k s
  | .vsel d m a => Sys2Proof.Machine.execVsel d m a s
  | .vmov d a => Sys2Proof.Machine.execVmov d a s
  | .vbcast d a => Sys2Proof.Machine.execVbcast d a s
  | .vextr d a b => Sys2Proof.Machine.execVextr d a b s
  | .vclamp d a b => Sys2Proof.Machine.execVclamp d a b s
  | .vcmpEq d a b => Sys2Proof.Machine.execVcmpEq d a b s
  | .vcmpNe d a b => Sys2Proof.Machine.execVcmpNe d a b s
  | .vcmpLt d a b => Sys2Proof.Machine.execVcmpLt d a b s
  | .vcmpLe d a b => Sys2Proof.Machine.execVcmpLe d a b s
  | .vperm d a b => Sys2Proof.Machine.execVperm d a b s
  | .vredsSum d a => Sys2Proof.Machine.execVredsSum d a s
  | .vredsMax d a => Sys2Proof.Machine.execVredsMax d a s
  | .vredsMin d a => Sys2Proof.Machine.execVredsMin d a s
  | .vcvt d a => Sys2Proof.Machine.execVcvt d a s
  | .vscale d a b => Sys2Proof.Machine.execVscale d a b s
  | .mpush a => Sys2Proof.Machine.execMpush a s
  | .vskip n => Sys2Proof.Machine.execVskip n s
  | .vdot4 t u w d a b => Sys2Proof.Machine.execVdot4 t u w d a b s
  | .vdot8 t u w d a b => Sys2Proof.Machine.execVdot8 t u w d a b s
  | .sfexp d a => Sys2Proof.Machine.execSfexp d a s
  | .sflog d a => Sys2Proof.Machine.execSflog d a s
  | .sfrcp d a => Sys2Proof.Machine.execSfrcp d a s
  | .sfrsq d a => Sys2Proof.Machine.execSfrsq d a s
  | .sfsqrt d a => Sys2Proof.Machine.execSfsqrt d a s
  | .sfsin d a => Sys2Proof.Machine.execSfsin d a s
  | .sfcos d a => Sys2Proof.Machine.execSfcos d a s
  | .sftanh d a => Sys2Proof.Machine.execSftanh d a s
  | .sfsigm d a => Sys2Proof.Machine.execSfsigm d a s
  | .sferf d a => Sys2Proof.Machine.execSferf d a s
  | .rngc d a b => Sys2Proof.Machine.execRngc d a b s
  | .lds d a o => Sys2Proof.Machine.execLds d a o s
  | .ldsChk d a o => Sys2Proof.Machine.execLdsChk d a o s
  | .sts d a o => Sys2Proof.Machine.execSts d a o s
  | .ldv d a o => Sys2Proof.Machine.execLdv d a o s
  | .ldvChk d a o => Sys2Proof.Machine.execLdvChk d a o s
  | .stv d a o => Sys2Proof.Machine.execStv d a o s
  | .ldvd d a o => Sys2Proof.Machine.execLdvd d a o s
  | .ldvdChk d a o => Sys2Proof.Machine.execLdvdChk d a o s
  | .stvd d a o => Sys2Proof.Machine.execStvd d a o s
  | .ldt d a b => Sys2Proof.Machine.execLdt d a b s
  | .ldtChk d a b => Sys2Proof.Machine.execLdtChk d a b s
  | .ldtm d a b => Sys2Proof.Machine.execLdtm d a b s
  | .ldtmChk d a b => Sys2Proof.Machine.execLdtmChk d a b s
  | .stt d a b => Sys2Proof.Machine.execStt d a b s
  | .tap d r l => Sys2Proof.Machine.execTap d r l s
  | .put a r l => Sys2Proof.Machine.execPut a r l s
  | .qpush e n m a => Sys2Proof.Machine.execQpush e n m a s
  | .qpop d m => Sys2Proof.Machine.execQpop d m s
  | .qsel p => Sys2Proof.Machine.execQsel p s
  | .accld d a o => Sys2Proof.Machine.execAccld d a o s
  | .accldChk d a o => Sys2Proof.Machine.execAccldChk d a o s
  | .accst d a o => Sys2Proof.Machine.execAccst d a o s
  | .cube t a b => Sys2Proof.Machine.execCube t a b s
  | .cubeh t a b => Sys2Proof.Machine.execCubeh t a b s
  | .wld t a b => Sys2Proof.Machine.execWld t a b s
  | .wldSp t a b => Sys2Proof.Machine.execWldSp t a b s
  | .wswap t a b => Sys2Proof.Machine.execWswap t a b s
  | .lease t a => Sys2Proof.Machine.execLease t a s
  | .unlease t a => Sys2Proof.Machine.execUnlease t a s
  | .copy t a b => Sys2Proof.Machine.execCopy t a b s
  | .ccopy t a b => Sys2Proof.Machine.execCcopy t a b s
  | .layout t a b => Sys2Proof.Machine.execLayout t a b s
  | .scat t a b => Sys2Proof.Machine.execScat t a b s
  | .nmred t a b => Sys2Proof.Machine.execNmred t a b s
  | .nmcas t a b => Sys2Proof.Machine.execNmcas t a b s
  | .nmsac t a b => Sys2Proof.Machine.execNmsac t a b s
  | .probe t a => Sys2Proof.Machine.execProbe t a s
  | .probeReq t a => Sys2Proof.Machine.execProbeReq t a s
  | .fsend t a b => Sys2Proof.Machine.execFsend t a b s
  | .frecv t a b => Sys2Proof.Machine.execFrecv t a b s
  | .fld t a b => Sys2Proof.Machine.execFld t a b s
  | .fst t a b => Sys2Proof.Machine.execFst t a b s
  | .fatom t a b => Sys2Proof.Machine.execFatom t a b s
  | .coll t a b => Sys2Proof.Machine.execColl t a b s
  | .sig t a b => Sys2Proof.Machine.execSig t a b s
  | .launch t a => Sys2Proof.Machine.execLaunch t a s
  | .hset t a => Sys2Proof.Machine.execHset t a s
  | .deps a b c => Sys2Proof.Machine.execDeps a b c s
  | .pfx imm => Sys2Proof.Machine.execPfx imm s
  | .pfxG n p => Sys2Proof.Machine.execPfxG n p s
  | .mfc d r => Sys2Proof.Machine.execMfc d r s
  | .mtc a r => Sys2Proof.Machine.execMtc a r s
  | .mtcMbxst a => Sys2Proof.Machine.execMtcMbxst a s
  | .mtcQv a m => Sys2Proof.Machine.execMtcQv a m s
  | .mtcTcfg a n => Sys2Proof.Machine.execMtcTcfg a n s
  | .mtcAcfg a n => Sys2Proof.Machine.execMtcAcfg a n s
  | .fence e => Sys2Proof.Machine.execFence e s
  | .trap imm => Sys2Proof.Machine.execTrap imm s
  | .tshoot t a => Sys2Proof.Machine.execTshoot t a s
  | .timedRdvDeadline team => Sys2Proof.Machine.execTimedRdvDeadline team s
  | .waitRelease team strand => Sys2Proof.Machine.execWaitRelease team strand s
  | .engineCommandStart cmd => Sys2Proof.Machine.execEngineCommandStart cmd s
  | .engineStep cmd => Sys2Proof.Machine.execEngineStep cmd s
  | .engineCommandComplete cmd => Sys2Proof.Machine.execEngineCommandComplete cmd s
  | .cubeCommandStart cmd => Sys2Proof.Machine.execCubeCommandStart cmd s
  | .cubeStepFeed cmd => Sys2Proof.Machine.execCubeStepFeed cmd s
  | .cubeStepCommit cmd => Sys2Proof.Machine.execCubeStepCommit cmd s
  | .wldComplete cmd => Sys2Proof.Machine.execWldComplete cmd s
  | .auditReplayComplete tower row flip => Sys2Proof.Machine.execAuditReplayComplete tower row flip s
  | .auditSecondReplayComplete tower flip => Sys2Proof.Machine.execAuditSecondReplayComplete tower flip s
  | .hsetTakeEffect cmd => Sys2Proof.Machine.execHsetTakeEffect cmd s
  | .collBucketStart cmd bucket => Sys2Proof.Machine.execCollBucketStart cmd bucket s
  | .collBucketComplete cmd bucket => Sys2Proof.Machine.execCollBucketComplete cmd bucket s
  | .collectiveRequest r => Sys2Proof.Machine.execCollectiveRequest r s
  | .qvViewRead team strand slot => Sys2Proof.Machine.execQvViewRead team strand slot s
  | .dqEntryArrive team strand => Sys2Proof.Machine.execDqEntryArrive team strand s
  | .strandRetire team strand => Sys2Proof.Machine.execStrandRetire team strand s
  | .nopPacket ctx queue => Sys2Proof.Machine.execNopPacket ctx queue s
  | .launchPacket ctx queue => Sys2Proof.Machine.execLaunchPacket ctx queue s
  | .copyPacket ctx queue => Sys2Proof.Machine.execCopyPacket ctx queue s
  | .layoutPacket ctx queue => Sys2Proof.Machine.execLayoutPacket ctx queue s
  | .signalPacket ctx queue => Sys2Proof.Machine.execSignalPacket ctx queue s
  | .waitPacket ctx queue => Sys2Proof.Machine.execWaitPacket ctx queue s
  | .waitPacketSatisfied ctx queue => Sys2Proof.Machine.execWaitPacketSatisfied ctx queue s
  | .preemptPacket ctx queue => Sys2Proof.Machine.execPreemptPacket ctx queue s
  | .resumePacket ctx queue => Sys2Proof.Machine.execResumePacket ctx queue s
  | .resumeFrozenTeam ctx queue => Sys2Proof.Machine.execResumeFrozenTeam ctx queue s
  | .discardFrozenTeam ctx queue => Sys2Proof.Machine.execDiscardFrozenTeam ctx queue s
  | .fencePacket ctx queue => Sys2Proof.Machine.execFencePacket ctx queue s
  | .fencePacketComplete ctx queue => Sys2Proof.Machine.execFencePacketComplete ctx queue s
  | .pendingLaunchTake core => Sys2Proof.Machine.execPendingLaunchTake core s
  | .teamAdmit grid => Sys2Proof.Machine.execTeamAdmit grid s
  | .gridDue grid => Sys2Proof.Machine.execGridDue grid s
  | .quantumExpiry team => Sys2Proof.Machine.execQuantumExpiry team s
  | .swapOut team strand => Sys2Proof.Machine.execSwapOut team strand s
  | .swappedCounterReached team => Sys2Proof.Machine.execSwappedCounterReached team s
  | .preemptStop team => Sys2Proof.Machine.execPreemptStop team s
  | .teamSave team => Sys2Proof.Machine.execTeamSave team s
  | .teamResume team => Sys2Proof.Machine.execTeamResume team s
  | .leaseBudgetExpiry team claim => Sys2Proof.Machine.execLeaseBudgetExpiry team claim s
  | .leaseGrant team claim => Sys2Proof.Machine.execLeaseGrant team claim s
  | .leaseReplayComplete team claim => Sys2Proof.Machine.execLeaseReplayComplete team claim s
  | .shortPageDeadline page => Sys2Proof.Machine.execShortPageDeadline page s
  | .hotBandEnter stack => Sys2Proof.Machine.execHotBandEnter stack s
  | .normalBandReturn stack => Sys2Proof.Machine.execNormalBandReturn stack s
  | .uncorrectableError site => Sys2Proof.Machine.execUncorrectableError site s
  | .timedArrival a => Sys2Proof.Machine.execTimedArrival a s
  | .relayForward port => Sys2Proof.Machine.execRelayForward port s
  | .frecvKeyExpiry cmd => Sys2Proof.Machine.execFrecvKeyExpiry cmd s
  | .fsendTurnEnd cmd => Sys2Proof.Machine.execFsendTurnEnd cmd s
  | .beacon dev port sent inc => Sys2Proof.Machine.execBeacon dev port sent inc s
  | .linkControlFlit port link ack => Sys2Proof.Machine.execLinkControlFlit port link ack s
  | .linkFailure port link => Sys2Proof.Machine.execLinkFailure port link s
  | .untimedReadRequest r => Sys2Proof.Machine.execUntimedReadRequest r s
  | .untimedWriteRequest r => Sys2Proof.Machine.execUntimedWriteRequest r s
  | .untimedAtomicRequest r => Sys2Proof.Machine.execUntimedAtomicRequest r s
  | .untimedResponse r => Sys2Proof.Machine.execUntimedResponse r s
  | .barrierRequest h ctx group count => Sys2Proof.Machine.execBarrierRequest h ctx group count s
  | .untimedTimeout req replaying => Sys2Proof.Machine.execUntimedTimeout req replaying s
  | .peerIncarnationChange dev inc => Sys2Proof.Machine.execPeerIncarnationChange dev inc s
  | .gridDiscard grid => Sys2Proof.Machine.execGridDiscard grid s
  | .faultQueueRoom ctx => Sys2Proof.Machine.execFaultQueueRoom ctx s
  | .thermalTrip sensor temp => Sys2Proof.Machine.execThermalTrip sensor temp s
  | .towerOnline tower => Sys2Proof.Machine.execTowerOnline tower s
  | .governorEvaluate tower tmax overPower => Sys2Proof.Machine.execGovernorEvaluate tower tmax overPower s
  | .govstepDeferredRise tower => Sys2Proof.Machine.execGovstepDeferredRise tower s
  | .rdmaWrite r => Sys2Proof.Machine.execRdmaWrite r s
  | .rdmaRead r => Sys2Proof.Machine.execRdmaRead r s
  | .atomicFetchAdd r => Sys2Proof.Machine.execAtomicFetchAdd r s
  | .atomicCmpSwap r => Sys2Proof.Machine.execAtomicCmpSwap r s
  | .createContext c => Sys2Proof.Machine.execCreateContext c s
  | .destroyContext ctx => Sys2Proof.Machine.execDestroyContext ctx s
  | .contextDestroyDrained ctx => Sys2Proof.Machine.execContextDestroyDrained ctx s
  | .createKeys ctx keys => Sys2Proof.Machine.execCreateKeys ctx keys s
  | .bindQueuePair qp ctx => Sys2Proof.Machine.execBindQueuePair qp ctx s
  | .setExportTable ctx table windows => Sys2Proof.Machine.execSetExportTable ctx table windows s
  | .nameTimedOwner owner => Sys2Proof.Machine.execNameTimedOwner owner s
  | .reserveTimedChannels ctx stack groups => Sys2Proof.Machine.execReserveTimedChannels ctx stack groups s
  | .setAuditn ctx value => Sys2Proof.Machine.execSetAuditn ctx value s
  | .setSamplingInterval n => Sys2Proof.Machine.execSetSamplingInterval n s
  | .joinDomain devid qlog flight => Sys2Proof.Machine.execJoinDomain devid qlog flight s
  | .acknowledgeJobRecords rseq => Sys2Proof.Machine.execAcknowledgeJobRecords rseq s
  | .jobRecordResend rseq => Sys2Proof.Machine.execJobRecordResend rseq s
  | .quote nonce => Sys2Proof.Machine.execQuote nonce s
  | .jobRecordEmit grid => Sys2Proof.Machine.execJobRecordEmit grid s
  | .streamsLoaded team => Sys2Proof.Machine.execStreamsLoaded team s
  | .gridPriorityRise grid => Sys2Proof.Machine.execGridPriorityRise grid s
  | .untimedRelayForward r => Sys2Proof.Machine.execUntimedRelayForward r s
  | .fsendFlitDeparture cmd => Sys2Proof.Machine.execFsendFlitDeparture cmd s
  | .roceInvalidRequest r => Sys2Proof.Machine.execRoceInvalidRequest r s
  | .paced => Sys2Proof.Machine.execPaced s
  | .endStrand => Sys2Proof.Machine.execEndStrand s
  | .yield => Sys2Proof.Machine.execYield s
  | .minv => Sys2Proof.Machine.execMinv s
  | .mpop => Sys2Proof.Machine.execMpop s
  | .nop => Sys2Proof.Machine.execNop s
  | .audit => Sys2Proof.Machine.execAudit s
  | .viewj => Sys2Proof.Machine.execViewj s
  | .samplingIntervalEnd => Sys2Proof.Machine.execSamplingIntervalEnd s
  | .migrationCopyComplete => Sys2Proof.Machine.execMigrationCopyComplete s
  | .migrationShootComplete => Sys2Proof.Machine.execMigrationShootComplete s
  | .roundEnd => Sys2Proof.Machine.execRoundEnd s
  | .timedOwnerCutover => Sys2Proof.Machine.execTimedOwnerCutover s
  | .coolantFlowLow => Sys2Proof.Machine.execCoolantFlowLow s
  | .deviceReset => Sys2Proof.Machine.execDeviceReset s
  | .leaveDomain => Sys2Proof.Machine.execLeaveDomain s
  | .statusRequest => Sys2Proof.Machine.execStatusRequest s
  | .coolantFlowRestored => Sys2Proof.Machine.execCoolantFlowRestored s
  | .identityQuery => Sys2Proof.Machine.execIdentityQuery s

end Sys2Proof.Machine
end

