-- ==== Sys2Proof/Machine/Step.lean ====
section
/-! DEFINITION. One step of the machine, and placing one instruction where the next step fetches it. -/

namespace Sys2Proof.Machine

/-- One step: the instruction or event that is next runs, or the schedule moves on. -/
def step (s : State) : Host.Outcome State Fault Refusal :=
  match s.nextWork with
  | .run i s' => exec i s'
  | .move s' => .next s'

/-- A slot word of an instruction, with a version and a stop bit. -/
def slotOf (i : Instr) (ver : BitVec 2) (stop : Bool) : BitVec 32 := (encodeSlot { stop, ver, sc := 0, op := i }).getD 0

/-- A legal bundle that holds a slot word (R315, R318): at its start, with a slot that a prefix may stand before; where the word ends its
bundle, at its end. -/
def bundleOf (w : BitVec 32) : List (BitVec 32) :=
  let v := w.extractLsb' 29 2
  let nop := slotOf .nop v false
  if w.getLsbD 31 then [nop, nop, nop, w]
  else
    let second := match prefixRank w with
      | some 2 => slotOf (.copy 0 0 0) v false
      | some _ => slotOf (.addi 0 0 0) v false
      | none => nop
    [w, second, nop, slotOf .nop v true]

/-- The state with a slot word where the next step fetches its instruction: a team of one strand runs on core 0, and its stream is one bundle
with the word (log 18). -/
def State.withFetchWord (s : State) (_nbits w : Nat) : State :=
  let wd := BitVec.ofNat 32 w
  let ws := bundleOf wd
  let st : Strand := { Strand.initial with team := s.nextId, st := .run, len := 16 }
  let t : Team := { Team.initial with id := s.nextId, st := .resident, tsec := true, tlen := 1 }
  let s : State := (s.setTower 0 { s.tower 0 with step := 0 }).setCore 0 { s.core 0 with occupant := some (s.nextId, 0) }
  { s with
    teams := t :: s.teams, strands := st :: s.strands, nextId := s.nextId + 1, agenda := []
    istore := Memory.writeBytes (SMap.erase s.istore 0 (2 ^ 18)) 0 (ws.flatMap slotWordBytes)
    slotErrors := SMap.erase s.slotErrors 0 65536
    phase := if wd.getLsbD 31 then .issue 0 3 else .issue 0 0
    iss := if wd.getLsbD 31 then { Issue.blank with st, tm := t, words := ws } else s.iss }

end Sys2Proof.Machine
end

