-- ==== Sys2Proof/Safety.lean ====
section
/-! DEFINITION. What counts as a safe run: every one of its steps answers a next state, and the stored bytes keep their one canonical
form. -/

namespace Sys2Proof.Machine

/-- The byte memories are in canonical form: HBM, ring and instruction store. -/
def State.memoryWf (s : State) : Bool := Memory.wf s.hbm && Memory.wf s.ring && Memory.wf s.istore

/-- A step answers a next state: it neither faults nor is refused. -/
def State.goesOn (s : State) : Prop := ∃ t, step s = .next t

/-- The `k` steps from a state all answer a next state. -/
def SafeRun : Nat → State → Prop
  | 0, _ => True
  | k + 1, s => ∃ t, step s = .next t ∧ SafeRun k t

end Sys2Proof.Machine
end

