-- ==== Sys2Proof/Certificates/Slice0/Obligations.lean ====
section
/-! DEFINITION. The statements for the provers, and the words they are stated in. A slot instruction acts in two moves: `exec` of
the slot reads its operands as they stood at issue and records what the slot does and the faults it raises; the bundle's resolution and
the results' commit cycles do it. The statements on slots say what is recorded; those on resolution, commit and faults say what becomes of
it. -/

namespace Sys2Proof.Claims

open Sys2Proof.Machine

/-! ### Words of the statements -/

/-- The outcomes of this machine. -/
abbrev Out := Host.Outcome State Fault Refusal

/-- The slot being issued has run: the faults found and, at its slot number, what it does; the prefixes before it are spent. -/
def slotRan (s : State) (faults : List Raised) (acts : List Effect) : State :=
  { s with iss := { s.iss with
      raised := s.iss.raised ++ faults
      effects := s.iss.effects ++ acts.map fun e => (s.iss.slot, e)
      pfx := [], guard := true, deps := none } }

/-- A scalar register as the bundle being issued reads it: S0 is zero. -/
def reg (s : State) (a : BitVec 6) : Word := if a = 0 then 0 else s.iss.st.s.get (Fin.ofNat 64 a.toNat)

/-- Whether a register is poisoned; S0 never is. -/
def poisoned (s : State) (a : BitVec 6) : Bool := a != 0 && s.iss.st.spois.get (Fin.ofNat 64 a.toNat)

/-- A predicate as the bundle being issued reads it: P0 is true. -/
def pred (s : State) (p : BitVec 3) : Bool := p == 0 || s.iss.st.p.get (Fin.ofNat 8 p.toNat)

/-- A fault of the slot being issued, found in the read stage. -/
def readStage (s : State) (c : Cause) (detail : Nat) : Raised :=
  { cause := c, point := .read, slot := s.iss.slot, detail := BitVec.ofNat 64 detail, pctx := 0, pcause := 0, badRow := none }

/-- POISON CONSUME for each poisoned register of a list, with 4 times the register's number as DETAIL. -/
def consumed (s : State) (l : List (BitVec 6)) : List Raised :=
  (l.filter (poisoned s)).map fun a => readStage s .poisonConsume (4 * a.toNat)

/-- ILLEGAL OPERAND of the slot being issued, with the slot's word as DETAIL, if a condition holds. -/
def illegalIf (s : State) (bad : Bool) : List Raised :=
  if bad then [readStage s .illegalOperand (s.iss.words.getD s.iss.slot 0).toNat] else []

/-- The slot ran, and writes S`d` with latency `L`. -/
def writesS (s : State) (faults : List Raised) (L : Nat) (d : BitVec 6) (v : Word) : Out :=
  .next (slotRan s faults [.result L (.sreg d v false)])

/-- An immediate of own field `own` as the prefixes before the slot build it, sign-extended: the first prefix is the highest. -/
def signedImm {w : Nat} (s : State) (own : BitVec w) (v : Word) : Prop :=
  (s.iss.pfx = [] → v = own.signExtend 64) ∧
  (∀ p, s.iss.pfx = [p] → v = (p ++ own).signExtend 64) ∧
  (∀ p q, s.iss.pfx = [p, q] → v = (p ++ q ++ own).signExtend 64)

/-- The same, zero-extended. -/
def unsignedImm {w : Nat} (s : State) (own : BitVec w) (v : Word) : Prop :=
  (s.iss.pfx = [] → v = own.zeroExtend 64) ∧
  (∀ p, s.iss.pfx = [p] → v = (p ++ own).zeroExtend 64) ∧
  (∀ p q, s.iss.pfx = [p, q] → v = (p ++ q ++ own).zeroExtend 64)

end Sys2Proof.Claims

open Sys2Proof Sys2Proof.Machine Sys2Proof.Claims

/-! ### Class SCL -/

/-- R349, R405, R446, R457, R425, R482, R415 (MUL): the scalar register forms, their latencies and their consumed sources.
Where each of these completes with its own effect: add, sub, and, or, xor, shl, shr, sar, min, max, minu, maxu. -/
def Obligations.ScalarArithmetic : Prop :=
  ∀ (s : State) (d a b : BitVec 6), s.iss.guard = true →
    let x := reg s a
    let y := reg s b
    let f := consumed s [a, b]
    exec (.add d a b) s = writesS s f 1 d (x + y) ∧
    exec (.sub d a b) s = writesS s f 1 d (x - y) ∧
    exec (.and d a b) s = writesS s f 1 d (x &&& y) ∧
    exec (.or d a b) s = writesS s f 1 d (x ||| y) ∧
    exec (.xor d a b) s = writesS s f 1 d (x ^^^ y) ∧
    exec (.shl d a b) s = writesS s f 1 d (x <<< (y &&& 63#64)) ∧
    exec (.shr d a b) s = writesS s f 1 d (x >>> (y &&& 63#64)) ∧
    exec (.sar d a b) s = writesS s f 1 d (x.sshiftRight (y &&& 63#64).toNat) ∧
    exec (.min d a b) s = writesS s f 1 d (if x.sle y then x else y) ∧
    exec (.max d a b) s = writesS s f 1 d (if x.sle y then y else x) ∧
    exec (.minu d a b) s = writesS s f 1 d (if x.ule y then x else y) ∧
    exec (.maxu d a b) s = writesS s f 1 d (if x.ule y then y else x)

/-- R415: the products.
Where each of these completes with its own effect: mul, mulh, mulhu. -/
def Sys2Proof.Claims.Products : Prop :=
  ∀ (s : State) (d a b : BitVec 6), s.iss.guard = true →
    let x := reg s a
    let y := reg s b
    let f := consumed s [a, b]
    exec (.mul d a b) s = writesS s f 3 d ((x.signExtend 128 * y.signExtend 128).extractLsb' 0 64) ∧
    exec (.mulh d a b) s = writesS s f 4 d ((x.signExtend 128 * y.signExtend 128).extractLsb' 64 64) ∧
    exec (.mulhu d a b) s = writesS s f 4 d ((x.zeroExtend 128 * y.zeroExtend 128).extractLsb' 64 64)

/-- R373, R441: the quotients and remainders, with every corner.
Where each of these completes with its own effect: div, divu, rem, remu. -/
def Sys2Proof.Claims.Divisions : Prop :=
  ∀ (s : State) (d a b : BitVec 6), s.iss.guard = true →
    let x := reg s a
    let y := reg s b
    let f := consumed s [a, b]
    exec (.div d a b) s = writesS s f 24 d (if y = 0 then BitVec.allOnes 64 else x.sdiv y) ∧
    exec (.divu d a b) s = writesS s f 24 d (if y = 0 then BitVec.allOnes 64 else x / y) ∧
    exec (.rem d a b) s = writesS s f 24 d (if y = 0 then x else x.srem y) ∧
    exec (.remu d a b) s = writesS s f 24 d (if y = 0 then x else x % y) ∧
    (x = 0x8000000000000000#64 → y = BitVec.allOnes 64 →
      exec (.div d a b) s = writesS s f 24 d 0x8000000000000000#64 ∧ exec (.rem d a b) s = writesS s f 24 d 0)

/-- R361, R428: CLZ and POPC by the bits of their source.
Where each of these completes with its own effect: clz, popc. -/
def Sys2Proof.Claims.BitCounts : Prop :=
  ∀ (s : State) (d a : BitVec 6), s.iss.guard = true →
    let x := reg s a
    (∃ n, n ≤ 64 ∧ (∀ j, 64 - n ≤ j → x.getLsbD j = false) ∧ (n < 64 → x.getLsbD (63 - n) = true) ∧
      exec (.clz d a) s = writesS s (consumed s [a]) 1 d (BitVec.ofNat 64 n)) ∧
    exec (.popc d a) s =
      writesS s (consumed s [a]) 1 d (BitVec.ofNat 64 ((List.range 64).filter fun j => x.getLsbD j).length)

/-- R415, R373, R441, R361, R428: products, quotients and remainders with every corner, and the two bit counts. -/
def Obligations.IntegerProducts : Prop :=
  Claims.Products ∧ Claims.Divisions ∧ Claims.BitCounts

/-- R351, R413, R425, R446, R482, R320: the immediate forms, with no, one and two prefixes.
Where each of these completes with its own effect: addi, andi, ori, xori, shli, shri, sari, movi, movhi. -/
def Obligations.ScalarImmediates : Prop :=
  (∀ (s : State) (d a i : BitVec 6) (v : Word), s.iss.guard = true → signedImm s i v → s.iss.pfx.length ≤ 2 →
    let x := reg s a
    let f := consumed s [a]
    exec (.addi d a i) s = writesS s f 1 d (x + v) ∧
    exec (.andi d a i) s = writesS s f 1 d (x &&& v) ∧
    exec (.ori d a i) s = writesS s f 1 d (x ||| v) ∧
    exec (.xori d a i) s = writesS s f 1 d (x ^^^ v)) ∧
  (∀ (s : State) (d a k : BitVec 6), s.iss.guard = true →
    let x := reg s a
    let f := consumed s [a]
    exec (.shli d a k) s = writesS s f 1 d (x <<< k.toNat) ∧
    exec (.shri d a k) s = writesS s f 1 d (x >>> k.toNat) ∧
    exec (.sari d a k) s = writesS s f 1 d (x.sshiftRight k.toNat)) ∧
  (∀ (s : State) (d : BitVec 6) (i : BitVec 12) (v : Word), s.iss.guard = true → signedImm s i v → s.iss.pfx.length ≤ 2 →
    exec (.movi d i) s = writesS s [] 1 d v) ∧
  (∀ (s : State) (d : BitVec 6) (i : BitVec 12) (v : Word), s.iss.guard = true → unsignedImm s i v → s.iss.pfx.length ≤ 2 →
    exec (.movhi d i) s =
      writesS s (illegalIf s (decide (2 ^ 32 ≤ v.toNat)) ++ consumed s [d]) 1 d
        (v.extractLsb' 0 32 ++ (reg s d).extractLsb' 0 32))

/-- R363, R449: comparisons by their six codes, and the selection with the poison of the chosen register only.
Where each of these completes with its own effect: cmp, cmpi, sel. -/
def Obligations.CompareAndSelect : Prop :=
  (∀ (s : State) (p : BitVec 3) (a b : BitVec 6), s.iss.guard = true →
    let x := reg s a
    let y := reg s b
    let sets (v : Bool) : Out := .next (slotRan s (consumed s [a, b]) [.result 1 (.preg p v)])
    exec (.cmp 0 p a b) s = sets (x == y) ∧ exec (.cmp 1 p a b) s = sets (x != y) ∧
    exec (.cmp 2 p a b) s = sets (x.slt y) ∧ exec (.cmp 3 p a b) s = sets (y.sle x) ∧
    exec (.cmp 4 p a b) s = sets (x.ult y) ∧ exec (.cmp 5 p a b) s = sets (y.ule x)) ∧
  (∀ (s : State) (p : BitVec 3) (a i : BitVec 6) (y : Word), s.iss.guard = true → signedImm s i y → s.iss.pfx.length ≤ 2 →
    let x := reg s a
    let sets (v : Bool) : Out := .next (slotRan s (consumed s [a]) [.result 1 (.preg p v)])
    exec (.cmpi 0 p a i) s = sets (x == y) ∧ exec (.cmpi 1 p a i) s = sets (x != y) ∧
    exec (.cmpi 2 p a i) s = sets (x.slt y) ∧ exec (.cmpi 3 p a i) s = sets (y.sle x) ∧
    exec (.cmpi 4 p a i) s = sets (x.ult y) ∧ exec (.cmpi 5 p a i) s = sets (y.ule x)) ∧
  (∀ (s : State) (n : BitVec 3) (d a b : BitVec 6), s.iss.guard = true →
    let r := if pred s n then a else b
    exec (.sel n d a b) s = .next (slotRan s [] [.result 1 (.sreg d (reg s r) (poisoned s r))]))

/-! ### Class CTL -/

namespace Sys2Proof.Claims

/-- ILLEGAL INSTR of the slot being issued, if a condition holds. -/
def noInstrIf (s : State) (bad : Bool) : List Raised :=
  if bad then [readStage s .illegalInstr (s.iss.words.getD s.iss.slot 0).toNat] else []

/-- SCHEDULE WAIT of the slot being issued with its cause as DETAIL, if a condition holds. -/
def lateIf (s : State) (cause : Nat) (bad : Bool) : List Raised := if bad then [readStage s .scheduleWait cause] else []

/-- Whether the strand issues in timed mode. -/
def timed (s : State) : Bool := s.iss.st.mode == .timed

/-- The stream offset of the next bundle. -/
def nextBundle (s : State) : Nat := s.iss.pc + 4 * s.iss.words.length

/-- Whether a token is pending; token 0 names none. -/
def tokenPending (s : State) (t : BitVec 6) : Bool := t != 0 && (s.iss.st.tokens.get (Fin.ofNat 64 t.toNat)).st == .pending

/-- Whether a loop body that ends at offset `stop` reaches beyond the innermost open loop. -/
def leavesLoop (s : State) (stop : Nat) : Bool := match s.iss.st.loops with
  | f :: _ => !decide (stop ≤ f.after)
  | [] => false

end Sys2Proof.Claims

/-- R358, R391, R320: branches and jumps. The target lies in the stream, JIND's only where it is taken; the link is the offset of the
next bundle.
Where each of these completes with its own effect: br, jal, jind. -/
def Obligations.Branches : Prop :=
  (∀ (s : State) (n : BitVec 1) (p : BitVec 3) (o : BitVec 14) (v : Word), s.iss.guard = true → signedImm s o v → s.iss.pfx.length ≤ 2 →
    let t : Int := s.iss.pc + 4 * v.toInt
    exec (.br n p o) s = .next (slotRan s (illegalIf s (decide (t < 0 ∨ (s.iss.st.len : Int) ≤ t)) ++ noInstrIf s (timed s))
      (if pred s p != (n == 1#1) then [.jump t.toNat] else []))) ∧
  (∀ (s : State) (d : BitVec 6) (i : BitVec 12) (v : Word), s.iss.guard = true → signedImm s i v → s.iss.pfx.length ≤ 2 →
    let t : Int := s.iss.pc + 4 * v.toInt
    exec (.jal d i) s = .next (slotRan s (illegalIf s (decide (t < 0 ∨ (s.iss.st.len : Int) ≤ t)) ++ noInstrIf s (timed s))
      [.result 1 (.sreg d (BitVec.ofNat 64 (nextBundle s)) false), .jump t.toNat])) ∧
  (∀ (s : State) (n : BitVec 1) (p : BitVec 3) (d a : BitVec 6), s.iss.guard = true →
    let t := (reg s a).toNat
    let taken := pred s p != (n == 1#1)
    exec (.jind n p d a) s = .next (slotRan s
      (illegalIf s (taken && decide (s.iss.st.len ≤ t ∨ t % 4 ≠ 0)) ++ consumed s [a] ++ noInstrIf s (timed s))
      (if taken then [.result 1 (.sreg d (BitVec.ofNat 64 (nextBundle s)) false), .jump t] else [])))

/-- R70, R403, R320: a loop opens over the next m + 1 bundles, or is skipped where its count is 0; at most four are open, each inside the
one around it, and a count lies below 2^32.
Where each of these completes with its own effect: loop, loopi. -/
def Obligations.Loops : Prop :=
  ∀ (s : State) (m : BitVec 12), s.iss.guard = true →
    let depth := s.iss.st.loops.length
    let body := s.afterBundles s.iss.core s.iss.st.len (nextBundle s) (m.toNat + 1)
    let opens (poison : List Raised) (n : Nat) : Out := .next (slotRan s
      (illegalIf s (decide (2 ^ 32 ≤ n) || body.isNone) ++ poison ++
        illegalIf s (decide (4 ≤ depth) || leavesLoop s (body.getD 0)))
      (if n = 0 then [.emptyLoop depth (body.getD 0) 0]
       else [.openLoop { lc := depth, first := nextBundle s, after := body.getD 0, count := n, index := 0 }]))
    (∀ a : BitVec 6, exec (.loop a m) s = opens (consumed s [a]) (reg s a).toNat) ∧
    (∀ (i : BitVec 6) (v : Word), unsignedImm s i v → s.iss.pfx.length ≤ 2 → exec (.loopi i m) s = opens [] v.toNat)

/-- R70, R71: at the end of a body the innermost loop goes round again with the next index in its LC, or it ends with its count there and
the next loop out is asked; a place where no body ends changes nothing. -/
def Sys2Proof.Claims.LoopEnds : Prop :=
  ∀ (f : LoopFrame) (fs : List LoopFrame) (e : Nat) (lc : Vector (BitVec 32) 4),
    (f.after ≠ e → loopEnd (f :: fs) e lc = (e, f :: fs, lc)) ∧
    (f.after = e → f.index + 1 < f.count →
      loopEnd (f :: fs) e lc =
        (f.first, { f with index := f.index + 1 } :: fs, lc.setIfInBounds f.lc (BitVec.ofNat 32 (f.index + 1)))) ∧
    (f.after = e → f.count ≤ f.index + 1 →
      loopEnd (f :: fs) e lc = loopEnd fs e (lc.setIfInBounds f.lc (BitVec.ofNat 32 f.count)))

/-- R71: from its opening, a loop of count n goes back to its first bundle exactly n - 1 times, and then ends. -/
def Sys2Proof.Claims.LoopCounts : Prop :=
  ∀ (f : LoopFrame) (lc : Vector (BitVec 32) 4) (k : Nat), f.index = 0 → k < f.count →
    let round (x : Nat × List LoopFrame × Vector (BitVec 32) 4) : Nat × List LoopFrame × Vector (BitVec 32) 4 :=
      loopEnd x.2.1 f.after x.2.2
    (round^[k] (f.first, [f], lc)).2.1 = [{ f with index := k }] ∧
    (round^[f.count] (f.first, [f], lc)).2.1 = [] ∧ (round^[f.count] (f.first, [f], lc)).1 = f.after

/-- R70, R71: what happens where a loop body ends, and how often a body runs. -/
def Obligations.LoopRounds : Prop :=
  Claims.LoopEnds ∧ Claims.LoopCounts

/-- R63, R108, R460, R426, R375, R484, R355, R356: TIMED, PACED, END, YIELD and BARR.
Where each of these completes with its own effect: paced, endStrand, yield, timedImm, timedReg, barr. -/
def Obligations.ModesAndBarriers : Prop :=
  ∀ s : State, s.iss.guard = true →
    exec .paced s = .next (slotRan s [] [.paced]) ∧
    exec .endStrand s = .next (slotRan s [] [.halt]) ∧
    exec .yield s = .next (slotRan s [] [.yield]) ∧
    (∀ (i : BitVec 18) (v : Word), unsignedImm s i v → s.iss.pfx.length ≤ 2 →
      exec (.timedImm i) s = .next (slotRan s (noInstrIf s (!s.iss.tm.tsec)) [.timed v.toNat])) ∧
    (∀ a : BitVec 6, exec (.timedReg a) s =
      .next (slotRan s (consumed s [a] ++ noInstrIf s (!s.iss.tm.tsec)) [.timed (reg s a).toNat])) ∧
    (∀ g : BitVec 8, exec (.barr 0 g) s = .next (slotRan s [] [.barrier])) ∧
    (∀ g : BitVec 8, exec (.barr 1 g) s = .next (slotRan s
      (illegalIf s (timed s) ++ (if s.groupOf s.iss.tm.ctx g.toNat == 0 then [readStage s .engGroup 0] else []))
      [.crossBarrier g.toNat]))

/-- R62, R64, R464, R389: TWAIT and HWAIT pass where their condition holds; else a paced strand is held from the bundle on, and in timed
code the check fails. A wait that passes acquires what came before it (R246; HWAIT the other strands' stores too).
Where each of these completes with its own effect: twait, hwait. -/
def Sys2Proof.Claims.TokenAndHandleWaits : Prop :=
  ∀ s : State, s.iss.guard = true →
    (∀ a b c : BitVec 6,
      let pending := tokenPending s a || tokenPending s b || tokenPending s c
      exec (.twait a b c) s = .next (slotRan s (lateIf s 0 (timed s && pending))
        (if pending then [.hold (.tokens a.toNat b.toNat c.toNat)] else [.acquire false]))) ∧
    (∀ (e : BitVec 2) (h : BitVec 8),
      let unmet := (s.handle s.iss.tm.ctx h.toNat).st.code != e.toNat
      exec (.hwait e h) s = .next (slotRan s (lateIf s 1 (timed s && unmet))
        (if unmet then [.hold (.handle h.toNat e.toNat)] else [.acquire true])))

/-- R479: WAITC. A paced strand waits for the report of its counter, and captures the CYCLES of SWPTH; a timed one goes on where the counter had
reached its target 256 cycles before, by the model's choice where it has since (log 16), and a fault of the access is one of R282.
Where each of these completes with its own effect: waitc. -/
def Sys2Proof.Claims.CounterWaits : Prop :=
  ∀ (s : State) (a b : BitVec 6), s.iss.guard = true →
    let f := illegalIf s (wbits (reg s a) 20 44 % 8 != 0) ++ consumed s [a, b]
    (timed s = false →
      exec (.waitc a b) s = .next (slotRan s f
        [.hold (.counter (reg s a) (reg s b) s.cyc (s.iss.st.swpth.extractLsb' 0 40) s.iss.slot none)])) ∧
    (timed s = true → ∀ met, s.counterPasses s.iss.tm.ctx (reg s a) (reg s b) = .ok met →
      exec (.waitc a b) s = .next (slotRan s (f ++ lateIf s 2 (!met)) [.acquire true])) ∧
    (timed s = true → ∀ r, s.counterPasses s.iss.tm.ctx (reg s a) (reg s b) = .error r →
      exec (.waitc a b) s = .next (slotRan s f [.lateFault { r with slot := s.iss.slot }])) ∧
    (∀ g v, s.counterPlace s.iss.tm.ctx (reg s a) = .ok (.page g v) → (∀ e ∈ s.recent, e.1 ≠ g) →
      s.counterPasses s.iss.tm.ctx (reg s a) (reg s b) = .ok (decide ((reg s b).toNat ≤ counterWord (reg s a) v)))

/-- R62, R64, R389, R464, R479: TWAIT, HWAIT and WAITC.
What in it rests on the model's own readings is in the assumption log: log 16. -/
def Obligations.Waits : Prop :=
  Claims.TokenAndHandleWaits ∧ Claims.CounterWaits

/-- R72, R476: VSKIP over the next n + 1 bundles acts where the mask's top has no element of V0's type on: a paced strand skips the region,
and a timed one issues its bundles with no effect.
Where each of these completes with its own effect: vskip. -/
def Sys2Proof.Claims.Vskip : Prop :=
  ∀ (s : State) (n : BitVec 12) (stop : Nat), s.iss.guard = true →
    s.afterBundles s.iss.core s.iss.st.len (nextBundle s) (n.toNat + 1) = some stop →
    s.vrow 0 < 128 * s.iss.tm.nacc →
    s.loopPast s.iss.core s.iss.st.len stop (nextBundle s) (n.toNat + 1) = false → leavesLoop s stop = false →
    let off := decide (∀ e, e < (s.vtype 0).count → s.iss.st.maskTop.getLsbD e = false)
    exec (.vskip n) s =
      .next (slotRan s [] (if off then (if timed s then [.nulls (n.toNat + 1)] else [.skip stop]) else []))

/-! ### Classes VEC, VMX and SFN -/

namespace Sys2Proof.Claims

/-- Element `e` of a row of a type. -/
def elem (ty : Fmt) (r : Row) (e : Nat) : Nat := r.toNat / 2 ^ (ty.width * e) % 2 ^ ty.width

/-- A row register names a row of the strand's claim. -/
def rowClaimed (s : State) (n : BitVec 6) : Prop := s.vrow n < 128 * s.iss.tm.nacc

/-- The checksum of the row a register names agrees (R177). -/
def rowSound (s : State) (n : BitVec 6) : Prop :=
  rowOk (s.vtype n) (s.vget n).data (s.vget n).ck (s.iss.st.acktol.extractLsb' 0 32) = true

/-- A source row that a vector slot consumes is in order: in the claim, of the wanted type, clean and sound. -/
def source (s : State) (ty : Fmt) (n : BitVec 6) : Prop :=
  rowClaimed s n ∧ s.vtype n = ty ∧ (s.vget n).pois = 0 ∧ rowSound s n

/-- The slot ran without a fault, and writes the row V`d` names with latency `L`: the bytes of the elements below `n` that the mask leaves on,
element e holding `f e`. -/
def writesRow (s : State) (i : Instr) (L : Nat) (d : BitVec 6) (n : Nat) (pois : BitVec 8) (more : List Effect) (f : Nat → Nat) : Prop :=
  ∃ data : Row,
    exec i s = .next (slotRan s []
      (.result L (.row (s.vrow d) data (maskBytes (maskBelow s.iss.st.maskTop n) (s.vtype d)) pois) :: more)) ∧
    ∀ e, e < n → elem (s.vtype d) data e = f e % 2 ^ (s.vtype d).width

/-- The draw of stochastic rounding for an element: 0 in the other modes. -/
def drawOf (s : State) (e : Nat) : Nat := if s.iss.st.roundMode = .sr then s.draw e else 0

/-- The value of element `e` of a row register in a type. -/
def val (s : State) (ty : Fmt) (n : BitVec 6) (e : Nat) : Machine.Num := ty.decode (elem ty (s.vget n).data e)

end Sys2Proof.Claims

/-- R40, R51, R467, R469, R474: VADD, VSUB, VMUL, VFMA and VSCALE round each element once; VABS and VNEG.
Where each of these completes with its own effect: vabs, vneg, vscale, vadd, vsub, vmul, vfma. -/
def Obligations.VectorArithmetic : Prop :=
  ∀ (s : State) (d a b : BitVec 6), s.iss.guard = true → rowClaimed s d →
    let ty := s.vtype d
    let m := s.iss.st.roundMode
    let w := ty.width
    source s ty a →
    writesRow s (.vabs d a) 2 d ty.count 0 [] (fun e =>
      let x := elem ty (s.vget a).data e
      if ty.isFloat then x % 2 ^ (w - 1) else intResult w s.iss.st.satBit (signed w x).natAbs) ∧
    writesRow s (.vneg d a) 2 d ty.count 0 [] (fun e =>
      let x := elem ty (s.vget a).data e
      if ty.isFloat then x ^^^ 2 ^ (w - 1) else intResult w s.iss.st.satBit (-(signed w x))) ∧
    (poisoned s b = false → writesRow s (.vscale d a b) 3 d ty.count 0 s.srEffect fun e =>
      s.arith d (drawOf s e) ((val s ty a e).scale (scalePower (reg s b)))) ∧
    (source s ty b →
      writesRow s (.vadd d a b) 4 d ty.count 0 s.srEffect (fun e =>
        s.arith d (drawOf s e) (Machine.Num.sum m [val s ty a e, val s ty b e])) ∧
      writesRow s (.vsub d a b) 4 d ty.count 0 s.srEffect (fun e =>
        s.arith d (drawOf s e) (Machine.Num.sum m [val s ty a e, (val s ty b e).neg])) ∧
      writesRow s (.vmul d a b) 4 d ty.count 0 s.srEffect (fun e => s.arith d (drawOf s e) ((val s ty a e).mul (val s ty b e))) ∧
      (source s ty d → writesRow s (.vfma d a b) 5 d ty.count 0 s.srEffect fun e =>
        s.arith d (drawOf s e) (Machine.Num.sum m [(val s ty a e).mul (val s ty b e), val s ty d e])))

/-- R467, R469: VAND, VOR, VXOR, VSHL, VSHR and VSAR element by element.
Where each of these completes with its own effect: vshl, vshr, vsar, vand, vor, vxor. -/
def Sys2Proof.Claims.VectorLogic : Prop :=
  ∀ (s : State) (d a b k : BitVec 6), s.iss.guard = true → rowClaimed s d →
    let ty := s.vtype d
    let x (e : Nat) : Nat := elem ty (s.vget a).data e
    let y (e : Nat) : Nat := elem ty (s.vget b).data e
    source s ty a →
    writesRow s (.vshl d a k) 4 d ty.count 0 [] (fun e => x e * 2 ^ k.toNat) ∧
    writesRow s (.vshr d a k) 4 d ty.count 0 [] (fun e => x e / 2 ^ k.toNat) ∧
    writesRow s (.vsar d a k) 4 d ty.count 0 [] (fun e => wrap ty.width (signed ty.width (x e) / 2 ^ k.toNat)) ∧
    (source s ty b →
      writesRow s (.vand d a b) 2 d ty.count 0 [] (fun e => x e &&& y e) ∧
      writesRow s (.vor d a b) 2 d ty.count 0 [] (fun e => x e ||| y e) ∧
      writesRow s (.vxor d a b) 2 d ty.count 0 [] (fun e => x e ^^^ y e))

/-- R47, R469, R471: VMIN, VMAX and VCLAMP choose elements, and the comparisons give all ones or zero; a NaN compares as R471 says.
Where each of these completes with its own effect: vmin, vmax, vcmpEq, vcmpNe, vcmpLt, vcmpLe, vclamp. -/
def Sys2Proof.Claims.VectorComparisons : Prop :=
  ∀ (s : State) (d a b : BitVec 6), s.iss.guard = true → rowClaimed s d →
    let ty := s.vtype d
    let x (e : Nat) : Nat := elem ty (s.vget a).data e
    let y (e : Nat) : Nat := elem ty (s.vget b).data e
    let ones (c : Bool) : Nat := if c then 2 ^ ty.width - 1 else 0
    source s ty a → source s ty b →
    writesRow s (.vmin d a b) 4 d ty.count 0 [] (fun e => elemPick ty Machine.Num.min (x e) (y e)) ∧
    writesRow s (.vmax d a b) 4 d ty.count 0 [] (fun e => elemPick ty Machine.Num.max (x e) (y e)) ∧
    writesRow s (.vcmpEq d a b) 3 d ty.count 0 [] (fun e => ones ((val s ty a e).eq (val s ty b e))) ∧
    writesRow s (.vcmpNe d a b) 3 d ty.count 0 [] (fun e => ones (!(val s ty a e).eq (val s ty b e))) ∧
    writesRow s (.vcmpLt d a b) 3 d ty.count 0 [] (fun e => ones ((val s ty a e).lt false (val s ty b e))) ∧
    writesRow s (.vcmpLe d a b) 3 d ty.count 0 [] (fun e =>
      ones ((val s ty a e).lt false (val s ty b e) || (val s ty a e).eq (val s ty b e))) ∧
    (source s ty d → writesRow s (.vclamp d a b) 4 d ty.count 0 [] fun e =>
      elemPick ty Machine.Num.min (elemPick ty Machine.Num.max (elem ty (s.vget d).data e) (x e)) (y e))

/-- R47, R467, R469, R471: the vector forms that act on bits and those that compare and choose. -/
def Obligations.VectorLogicAndComparisons : Prop :=
  Claims.VectorLogic ∧ Claims.VectorComparisons

/-- R289, R470, R472: VMOV, VBCAST, VSEL and VPERM move elements bit for bit, and poison travels with them by the chunk.
Where each of these completes with its own effect: vbcast, vmov, vperm, vsel. -/
def Sys2Proof.Claims.VectorMoves : Prop :=
  ∀ (s : State) (d m a b : BitVec 6), s.iss.guard = true → rowClaimed s d →
    let ty := s.vtype d
    let top := s.iss.st.maskTop
    let per := ty.count / 8
    let bit (n : BitVec 6) (j : Nat) : Bool := (s.vget n).pois.getLsbD (j / per)
    (writesRow s (.vbcast d b) 2 d ty.count (if poisoned s b then BitVec.allOnes 8 else 0) [] fun _ => (reg s b).toNat) ∧
    (rowClaimed s a → s.vtype a = ty → rowSound s a →
      (∃ p : BitVec 8, writesRow s (.vmov d a) 2 d ty.count p [] (fun e => elem ty (s.vget a).data e) ∧
        ∀ k, k < 8 → p.getLsbD k = decide (∃ i, i < per ∧ top.getLsbD (per * k + i) = true ∧ bit a (per * k + i) = true)) ∧
      (source s ty b →
        let from_ (e : Nat) : Nat := elem ty (s.vget b).data e % ty.count
        ∃ p : BitVec 8, writesRow s (.vperm d a b) 3 d ty.count p [] (fun e => elem ty (s.vget a).data (from_ e)) ∧
          ∀ k, k < 8 → p.getLsbD k =
            decide (∃ i, i < per ∧ top.getLsbD (per * k + i) = true ∧ bit a (from_ (per * k + i)) = true)) ∧
      (rowClaimed s m → (s.vget m).pois = 0 → rowSound s m → rowSound s d →
        let chosen (e : Nat) : BitVec 6 := if elem ty (s.vget m).data e = 0 then d else a
        ∃ p : BitVec 8, writesRow s (.vsel d m a) 2 d ty.count p [] (fun e => elem ty (s.vget (chosen e)).data e) ∧
          ∀ k, k < 8 → p.getLsbD k =
            decide (∃ i, i < per ∧ top.getLsbD (per * k + i) = true ∧ bit (chosen (per * k + i)) (per * k + i) = true)))

/-- R470: VEXTR gives an element, sign-extended where it is an integer; an index beyond the row is an ILLEGAL OPERAND.
Where each of these completes with its own effect: vextr. -/
def Sys2Proof.Claims.VectorExtract : Prop :=
  ∀ (s : State) (d a b : BitVec 6), s.iss.guard = true → rowClaimed s a → rowSound s a → poisoned s b = false →
    let ty := s.vtype a
    let i := (reg s b).toNat
    (i < ty.count → exec (.vextr d a b) s = .next (slotRan s [] [.result 3 (.sreg d
      (if ty.isFloat then BitVec.ofNat 64 (elem ty (s.vget a).data i) else BitVec.ofInt 64 (signed ty.width (elem ty (s.vget a).data i)))
      ((s.vget a).pois.getLsbD (i / (ty.count / 8))))])) ∧
    (ty.count ≤ i → ∃ t, exec (.vextr d a b) s = .next t ∧ t.iss.raised = s.iss.raised ++ illegalIf s true)

/-- R289, R470, R472: the vector forms that move elements. -/
def Obligations.VectorMovesAndExtract : Prop :=
  Claims.VectorMoves ∧ Claims.VectorExtract

/-- R52, R473: the reductions. An integer sum is the sum of the signed elements the mask leaves on; a float sum is a tree of nine levels of
f32 additions, in which an element that is off counts as -0.
Where each of these completes with its own effect: vredsSum, vredsMax, vredsMin. -/
def Sys2Proof.Claims.VectorReductions : Prop :=
  ∀ (s : State) (d a : BitVec 6), s.iss.guard = true →
    let ty := s.vtype a
    let on (e : Nat) : Bool := s.iss.st.maskTop.getLsbD e
    source s ty a →
    (ty.isFloat = false → exec (.vredsSum d a) s = writesS s [] 8 d (BitVec.ofInt 64
      (((List.range ty.count).map fun e => if on e then signed ty.width (elem ty (s.vget a).data e) else 0).sum))) ∧
    (ty.isFloat = true → exec (.vredsSum d a) s = writesS s [] 8 d (BitVec.ofNat 64
      ((treeReduce f32Add 9 ((List.range ty.count).map fun e =>
        if on e then roundFloat .f32 ty .rne false 0 (val s ty a e) else 0x80000000)).headD 0))) ∧
    exec (.vredsMax d a) s = writesS s [] 8 d (s.extreme a Machine.Num.max true) ∧
    exec (.vredsMin d a) s = writesS s [] 8 d (s.extreme a Machine.Num.min false)

/-- R474: VCVT converts the elements below the smaller of the two counts; its source may have any type.
Where each of these completes with its own effect: vcvt. -/
def Sys2Proof.Claims.VectorConvert : Prop :=
  ∀ (s : State) (d a : BitVec 6), s.iss.guard = true → rowClaimed s d →
    let ty := s.vtype d
    let from_ := s.vtype a
    source s from_ a →
    writesRow s (.vcvt d a) 4 d (min ty.count from_.count) 0 s.srEffect fun e =>
      convertElem ty from_ s.iss.st.roundMode s.iss.st.satBit (drawOf s e) (elem from_ (s.vget a).data e)

/-- R475: each i32 element of a dot product is the old one plus four byte or eight nibble products, each operand signed or unsigned, wrapped or
saturated.
Where each of these completes with its own effect: vdot4, vdot8. -/
def Sys2Proof.Claims.DotProducts : Prop :=
  ∀ (s : State) (sat ua ub : BitVec 1) (d a b : BitVec 6), s.iss.guard = true →
    source s .i32 d → source s (s.vtype a) a → source s (s.vtype b) b →
    let field (w : Nat) (u : BitVec 1) (n : BitVec 6) (j : Nat) : Int :=
      let x := (s.vget n).data.toNat / 2 ^ (w * j) % 2 ^ w
      if u = 1#1 then x else signed w x
    let dot (w t e : Nat) : Int :=
      signed 32 (elem .i32 (s.vget d).data e) + ((List.range t).map fun j => field w ua a (t * e + j) * field w ub b (t * e + j)).sum
    writesRow s (.vdot4 sat ua ub d a b) 5 d 128 0 [] (fun e => intResult 32 (sat == 1#1) (dot 8 4 e)) ∧
    writesRow s (.vdot8 sat ua ub d a b) 5 d 128 0 [] (fun e => intResult 32 (sat == 1#1) (dot 4 8 e))

/-- R52, R473, R475: the reductions and the dot products. -/
def Obligations.ReductionsAndDotProducts : Prop :=
  Claims.VectorReductions ∧ Claims.DotProducts

/-- R450, R451: the ten special functions act on float rows, and on another type are an ILLEGAL OPERAND. The
values are those of stepping 0x01 (R55), whatever STEPPING the state holds: the model's choice (log 22).
Where each of these completes with its own effect: sfexp, sflog, sfrcp, sfrsq, sfsqrt, sfsin, sfcos, sftanh, sfsigm, sferf. -/
def Sys2Proof.Claims.SpecialFunctions : Prop :=
  ∀ (s : State) (d a : BitVec 6) (f : SpecialFn), s.iss.guard = true → rowClaimed s d →
    let ty := s.vtype d
    let op : Instr := match f with
      | .exp => .sfexp d a | .log => .sflog d a | .rcp => .sfrcp d a | .rsq => .sfrsq d a | .sqrt => .sfsqrt d a
      | .sin => .sfsin d a | .cos => .sfcos d a | .tanh => .sftanh d a | .sigm => .sfsigm d a | .erf => .sferf d a
    source s ty a →
    (ty.isFloat = true →
      writesRow s op 12 d ty.count 0 [] fun e => f.elem ty s.iss.st.satBit (elem ty (s.vget a).data e)) ∧
    (ty.isFloat = false → ∃ t, exec op s = .next t ∧ t.iss.raised = s.iss.raised ++ illegalIf s true)

/-- R444: RNGC fills a row with the 32 blocks of Philox output for the key S`a` and the counter S`b`, raw bits under the mask.
Where each of these completes with its own effect: rngc. -/
def Sys2Proof.Claims.Random : Prop :=
  ∀ (s : State) (d a b : BitVec 6), s.iss.guard = true → rowClaimed s d → poisoned s a = false → poisoned s b = false →
    ∃ data : Row,
      exec (.rngc d a b) s = .next (slotRan s [] [.result 10 (.row (s.vrow d) data (maskBytes s.iss.st.maskTop (s.vtype d)) 0)]) ∧
      ∀ blk i, blk < 32 → i < 4 →
        data.toNat / 2 ^ (128 * blk + 32 * i) % 2 ^ 32 =
          (philoxWords (reg s a) (wbits (reg s b) 0 32, wbits (reg s b) 32 32, blk, 0)).getD i 0 % 2 ^ 32

/-- R444, R450, R451, R474: VCVT, the special functions and RNGC.
What in it rests on the model's own readings is in the assumption log: log 22. -/
def Obligations.ConversionsAndFunctions : Prop :=
  Claims.VectorConvert ∧ Claims.SpecialFunctions ∧ Claims.Random

/-- R72, R410, R411: MPUSH pushes the row's non-zero elements under the current top, MINV inverts the top within the entry below, MPOP pops;
one of them in a bundle, at most eight entries.
Where each of these completes with its own effect: mpush, mpop, minv. -/
def Sys2Proof.Claims.MaskStack : Prop :=
  ∀ s : State, s.iss.guard = true → s.maskTwice = false →
    let sets (l : List Mask) : Out := .next (slotRan s [] [.setMask l])
    (∀ a : BitVec 6, source s (s.vtype a) a → s.iss.st.masks.length < 8 →
      ∃ m : Mask, exec (.mpush a) s = sets (m :: s.iss.st.masks) ∧ ∀ e, e < (s.vtype a).count →
        m.getLsbD e = (s.iss.st.maskTop.getLsbD e && elem (s.vtype a) (s.vget a).data e != 0)) ∧
    (∀ m l, s.iss.st.masks = m :: l →
      exec .mpop s = sets l ∧ exec .minv s = sets ((~~~m &&& l.headD (BitVec.allOnes 512)) :: l)) ∧
    (∀ a : BitVec 6, 8 ≤ s.iss.st.masks.length → source s (s.vtype a) a →
      ∃ t, exec (.mpush a) s = .next t ∧ t.iss.raised = s.iss.raised ++ illegalIf s true) ∧
    (s.iss.st.masks = [] → ∃ t u, exec .mpop s = .next t ∧ t.iss.raised = s.iss.raised ++ illegalIf s true ∧
      exec .minv s = .next u ∧ u.iss.raised = s.iss.raised ++ illegalIf s true)

/-- R72, R410, R411, R476: the mask stack and VSKIP. -/
def Obligations.MasksAndSkips : Prop :=
  Claims.MaskStack ∧ Claims.Vskip

/-! ### Class MEM -/

namespace Sys2Proof.Claims

/-- The offset of a format-M slot: zero-extended without prefixes, sign-extended with them. -/
def offsetM (s : State) (o : BitVec 6) (v : Word) : Prop :=
  (s.iss.pfx = [] → v = o.zeroExtend 64) ∧
  (∀ p, s.iss.pfx = [p] → v = (p ++ o).signExtend 64) ∧
  (∀ p q, s.iss.pfx = [p, q] → v = (p ++ q ++ o).signExtend 64)

/-- Bytes up to offset `last` from a ring address lie in the team's belt, and bits 47..28 of the address are zero. -/
def inBelt (s : State) (ea : Word) (last : Nat) : Prop :=
  wbits ea 28 20 = 0 ∧ wbits ea 26 2 < s.iss.tm.spans ∧ wbits ea 0 21 + last < s.iss.tm.belt * 1024

/-- The `size` bytes of a linear access lie in the belt and are aligned. -/
def ringOk (s : State) (ea : Word) (size : Nat) : Prop := inBelt s ea (size - 1) ∧ ea.toNat % min size 64 = 0

/-- The column of a diagonal access lies in the belt, on a chunk of the first of eight rows. -/
def columnOk (s : State) (ea : Word) : Prop := inBelt s ea (7 * 1024 + 63) ∧ ea.toNat % 64 = 0 ∧ wbits ea 10 11 % 8 = 0

/-- The expected tag of an address is not the reserved one, and every parcel the access touches has it. -/
def tagsAgree (s : State) (ea : Word) (size : Nat) (diag : Bool) : Prop :=
  ea.extractLsb' 48 16 ≠ 0xFFFF#16 ∧
  ∀ k ∈ s.iss.tm.accessKeys (ea.extractLsb' 0 28) size diag, s.tag k = ea.extractLsb' 48 16

/-- The load performs in issue + 3 and its result commits after the latency of its distance (R156). -/
def loads (s : State) (ea : Word) (size : Nat) (diag : Bool) (dst : LoadDst) : Out :=
  .next (slotRan s [] [.load (s.loadLatency ea) (.load dst (ea.extractLsb' 0 28) size diag none)])

/-- The same of a load with `.chk` that finds its tags: it acquires of the command that gave them (R240). -/
def loadsTagged (s : State) (ea : Word) (size : Nat) (diag : Bool) (dst : LoadDst) : Out :=
  .next (slotRan s [] [.load (s.loadLatency ea) (.load dst (ea.extractLsb' 0 28) size diag none), .tagEdge])

/-- The store performs in issue + 3. -/
def stores (s : State) (ea : Word) (size : Nat) (diag : Bool) (data : Row) (pois : BitVec 8) : Out :=
  .next (slotRan s [] [.store { perform := s.iss.tm.tcyc + 3, ea := ea.extractLsb' 0 28, size, diag, data, pois }])

/-- The row an ACCLD or ACCST names lies in the claim. -/
def accClaimed (s : State) (d : BitVec 6) : Prop := (reg s d).toNat < 128 * s.iss.tm.nacc

end Sys2Proof.Claims

/-- R155, R156, R162, R323, R346, R397: ring loads into scalar registers and rows, with and without the tag check.
Where each of these completes with its own effect: lds, ldsChk, ldv, ldvChk, ldvd, ldvdChk, accld, accldChk. -/
def Sys2Proof.Claims.RingLoadForms : Prop :=
  ∀ (s : State) (d a o : BitVec 6) (v : Word), s.iss.guard = true → offsetM s o v → s.iss.pfx.length ≤ 2 → poisoned s a = false →
    let e8 := reg s a + v * 8#64
    let e512 := reg s a + v * 512#64
    (ringOk s e8 8 → exec (.lds d a o) s = loads s e8 8 false (.sreg d) ∧
      (tagsAgree s e8 8 false → exec (.ldsChk d a o) s = loadsTagged s e8 8 false (.sreg d))) ∧
    (ringOk s e512 512 → rowClaimed s d → exec (.ldv d a o) s = loads s e512 512 false (.row (s.vrow d)) ∧
      (tagsAgree s e512 512 false → exec (.ldvChk d a o) s = loadsTagged s e512 512 false (.row (s.vrow d)))) ∧
    (columnOk s e512 → rowClaimed s d → exec (.ldvd d a o) s = loads s e512 512 true (.row (s.vrow d)) ∧
      (tagsAgree s e512 512 true → exec (.ldvdChk d a o) s = loadsTagged s e512 512 true (.row (s.vrow d)))) ∧
    (ringOk s e512 512 → accClaimed s d → poisoned s d = false →
      exec (.accld d a o) s = loads s e512 512 false (.row (reg s d).toNat) ∧
      (tagsAgree s e512 512 false → exec (.accldChk d a o) s = loadsTagged s e512 512 false (.row (reg s d).toNat)))

/-- R155, R162, R287: where a ring load faults: PROTECTION RING with the effective address beyond the belt, ILLEGAL OPERAND where it is not
aligned, and SCHEDULE TAG where a `.chk` load finds another tag on a parcel. -/
def Sys2Proof.Claims.RingLoadFaults : Prop :=
  ∀ (s : State) (d a o : BitVec 6) (v : Word), s.iss.guard = true → offsetM s o v → s.iss.pfx.length ≤ 2 → poisoned s a = false →
    let ea := reg s a + v * 8#64
    (¬ inBelt s ea 7 → ∃ t, exec (.lds d a o) s = .next t ∧
      t.iss.raised = s.iss.raised ++ [readStage s .protectionRing ea.toNat]) ∧
    (inBelt s ea 7 → ea.toNat % 8 ≠ 0 → ∃ t, exec (.lds d a o) s = .next t ∧ t.iss.raised = s.iss.raised ++ illegalIf s true) ∧
    (ringOk s ea 8 → ea.extractLsb' 48 16 ≠ 0xFFFF#16 →
      (∃ k ∈ s.iss.tm.accessKeys (ea.extractLsb' 0 28) 8 false, s.tag k ≠ ea.extractLsb' 48 16) →
      ∃ t r, exec (.ldsChk d a o) s = .next t ∧ t.iss.raised = s.iss.raised ++ [r] ∧ r.cause = .scheduleTag ∧ r.point = .read)

/-- R155, R156, R162, R287, R323, R346, R397: ring loads and their faults. -/
def Obligations.RingLoads : Prop :=
  Claims.RingLoadForms ∧ Claims.RingLoadFaults

/-- R155, R156, R323, R346, R455: ring stores. The poison of the stored register or row travels, that of an accumulator row to all of the store, and a
row's checksum is checked.
Where each of these completes with its own effect: sts, stv, stvd, accst. -/
def Obligations.RingStores : Prop :=
  ∀ (s : State) (d a o : BitVec 6) (v : Word), s.iss.guard = true → offsetM s o v → s.iss.pfx.length ≤ 2 → poisoned s a = false →
    let e8 := reg s a + v * 8#64
    let e512 := reg s a + v * 512#64
    (ringOk s e8 8 → exec (.sts d a o) s =
      stores s e8 8 false (BitVec.ofNat 4096 (reg s d).toNat) (if poisoned s d then 1 else 0)) ∧
    (ringOk s e512 512 → rowClaimed s d → rowSound s d →
      exec (.stv d a o) s = stores s e512 512 false (s.vget d).data (s.vget d).pois) ∧
    (columnOk s e512 → rowClaimed s d → rowSound s d →
      exec (.stvd d a o) s = stores s e512 512 true (s.vget d).data (s.vget d).pois) ∧
    (ringOk s e512 512 → accClaimed s d → poisoned s d = false →
      (let r := s.rowOf (reg s d).toNat
       rowOk (s.iss.st.rowType (reg s d).toNat) r.data r.ck (s.iss.st.acktol.extractLsb' 0 32) = true →
        exec (.accst d a o) s = stores s e512 512 false r.data (if r.pois = 0 then 0 else BitVec.allOnes 8)))

/-- R155, R399, R456: tile loads and stores: four lines from a line that is a multiple of 4, and the scale and metadata planes by chunks of 512
bytes.
Where each of these completes with its own effect: ldt, ldtChk, ldtm, ldtmChk, stt. -/
def Sys2Proof.Claims.TileTransfers : Prop :=
  ∀ (s : State) (d a b : BitVec 6), s.iss.guard = true → d.toNat < s.iss.tm.ntile → poisoned s a = false → poisoned s b = false →
    let ea := reg s a
    let l0 := (reg s b).toNat
    let cfg := s.iss.st.tileCfg d.toNat
    let width := codeWidth (cfgFmt cfg)
    ringOk s ea 512 →
    (cfgFmt cfg ≠ 0 → l0 % 4 = 0 → l0 ≤ 124 →
      let dst : LoadDst := .lines d.toNat l0 ((cfgCols cfg * width + 7) / 8) (cfgRowsm1 cfg + 1) (width == 4 && cfgCols cfg % 2 == 1)
      exec (.ldt d a b) s = loads s ea 512 false dst ∧
      (tagsAgree s ea 512 false → exec (.ldtChk d a b) s = loadsTagged s ea 512 false dst)) ∧
    (wbits (reg s b) 9 55 = 0 →
      (wbits (reg s b) 8 1 = 0 → wbits (reg s b) 0 8 ≤ 1 →
        exec (.ldtm d a b) s = loads s ea 512 false (.plane d.toNat (wbits (reg s b) 0 8) false) ∧
        (tagsAgree s ea 512 false → exec (.ldtmChk d a b) s = loadsTagged s ea 512 false (.plane d.toNat (wbits (reg s b) 0 8) false))) ∧
      (wbits (reg s b) 8 1 = 1 → wbits (reg s b) 0 8 ≤ 15 → d.toNat < 8 →
        exec (.ldtm d a b) s = loads s ea 512 false (.plane d.toNat (wbits (reg s b) 0 8) true) ∧
        (tagsAgree s ea 512 false → exec (.ldtmChk d a b) s = loadsTagged s ea 512 false (.plane d.toNat (wbits (reg s b) 0 8) true)))) ∧
    (l0 % 4 = 0 → l0 ≤ 124 → ∃ (data : Row) (pois : BitVec 8), exec (.stt d a b) s = stores s ea 512 false data pois ∧
      ∀ m, m < 4 →
        data.extractLsb' (1024 * m) 1024 = (s.line (s.lineKeyOf d.toNat (l0 + m))).data ∧
        pois.getLsbD (2 * m) = (s.line (s.lineKeyOf d.toNat (l0 + m))).pois ∧
        pois.getLsbD (2 * m + 1) = (s.line (s.lineKeyOf d.toNat (l0 + m))).pois)

/-- R165, R166, R434, R458: TAP reads a lane in issue + 3 and writes its row with latency 4; PUT drives one of its own core's four lanes of a
direction, each by one slot of a bundle.
Where each of these completes with its own effect: tap, put. -/
def Sys2Proof.Claims.Lanes : Prop :=
  ∀ (s : State) (d : BitVec 6) (r : BitVec 1) (l : BitVec 4), s.iss.guard = true → rowClaimed s d →
    exec (.tap d r l) s = .next (slotRan s [] [.result 4 (.tap (s.vrow d) (r == 1#1) l.toNat)]) ∧
    (rowSound s d → l.toNat / 4 = s.iss.st.index % 4 → s.putBefore (16 * r.toNat + l.toNat) = false →
      exec (.put d r l) s = .next (slotRan s [] [.lane
        { p := s.iss.tm.tcyc + 3, twi := s.iss.st.index / 4, stn := 8 * (s.iss.st.index % 4), anti := r == 1#1, lane := l.toNat,
          data := (s.vget d).data, pois := (s.vget d).pois }])) ∧
    (l.toNat / 4 ≠ s.iss.st.index % 4 → rowSound s d →
      ∃ t, exec (.put d r l) s = .next t ∧ t.iss.raised = s.iss.raised ++ illegalIf s true)

/-- R155, R165, R166, R399, R434, R456, R458: tile loads and stores, TAP and PUT. -/
def Obligations.TileAndLaneTransfers : Prop :=
  Claims.TileTransfers ∧ Claims.Lanes

/-- R235 to R237, R436, R437, R439: QPUSH enters a request of its view slot, QPOP takes the oldest entry of DQ into a 64-byte part of a row,
and QSEL chooses between the open group's banks. A QPOP whose entry has not come holds a paced strand and fails in timed code.
Where each of these completes with its own effect: qpush, qpop, qsel. -/
def Sys2Proof.Claims.AddressQueueSlots : Prop :=
  ∀ s : State, s.iss.guard = true →
    (∀ (e n : BitVec 1) (m : BitVec 2) (a : BitVec 6) (b : Bound), poisoned s a = false →
      (s.iss.st.qv.get (Fin.ofNat 4 m.toNat)).st = .valid b → s.iss.st.aq.length + s.earlier Effect.isPush < 2048 →
      let x := (reg s a).toNat
      let entry (src : Option (Bound × Nat)) (invalid : Bool) : Effect := .push
        { id := 0, pc := s.iss.pc, slot := s.iss.slot, bank := n.toNat, open_ := e == 1#1, spec := e == 1#1, src, invalid,
          place := .queued, pushed := s.ownTime, ready := 0, data := 0, pois := false, fetched := [] }
      (x + 64 / codeBytes b.desc.fmt ≤ b.view.count → exec (.qpush e n m a) s = .next (slotRan s [] [entry (some (b, x)) false])) ∧
      (b.view.count < x + 64 / codeBytes b.desc.fmt →
        exec (.qpush e n m a) s = .next (slotRan s (illegalIf s (e == 0#1)) [entry none true]))) ∧
    (∀ (e n : BitVec 1) (m : BitVec 2) (a : BitVec 6), poisoned s a = false → s.iss.st.aq.length + s.earlier Effect.isPush < 2048 →
      let q := (s.iss.st.qv.get (Fin.ofNat 4 m.toNat)).st
      (q = .invalid → exec (.qpush e n m a) s = .next (slotRan s (illegalIf s (e == 0#1)) [.push
        { id := 0, pc := s.iss.pc, slot := s.iss.slot, bank := n.toNat, open_ := e == 1#1, spec := e == 1#1, src := none, invalid := true,
          place := .queued, pushed := s.ownTime, ready := 0, data := 0, pois := false, fetched := [] }])) ∧
      (q = .poisoned → exec (.qpush e n m a) s = .next (slotRan s [readStage s .poisonConsume 1] []))) ∧
    (∀ (d : BitVec 6) (m : BitVec 3), rowClaimed s d →
      let k := s.earlier Effect.isPop
      (∀ q, s.iss.st.aq[k]? = some q → q.place = .arrived → q.open_ = false → q.invalid = false →
        exec (.qpop d m) s = .next (slotRan s []
          [.result 2 (.row (s.vrow d) (BitVec.ofNat 4096 (q.data.toNat * 2 ^ (512 * m.toNat)))
            (byteMask (64 * m.toNat) (64 * m.toNat + 64)) (if q.pois then BitVec.ofNat 8 (2 ^ m.toNat) else 0)), .pop])) ∧
      (∀ q, s.iss.st.aq[k]? = some q → q.place = .arrived → q.open_ = false → q.invalid = true →
        ∃ t, exec (.qpop d m) s = .next t ∧ t.iss.raised = s.iss.raised ++ [readStage s .engQueueRange 0]) ∧
      ((∀ q, s.iss.st.aq[k]? = some q → q.place ≠ .arrived ∨ q.open_ = true) →
        exec (.qpop d m) s =
          .next (if timed s then slotRan s [readStage s .scheduleWait 4] [] else slotRan s [] [.hold .queue]))) ∧
    (∀ p : BitVec 3, exec (.qsel p) s = .next (slotRan s [] [.select (pred s p)]))

/-! ### Class SYS -/

/-- R318, R319, R320, R370, R424: NOP does nothing; the prefixes only wait for the slot their run ends at.
Where each of these completes with its own effect: nop, deps, pfx, pfxG. -/
def Sys2Proof.Claims.NopAndPrefixes : Prop :=
  ∀ s : State,
    exec .nop s = .next (if s.iss.guard then slotRan s [] [] else { s with iss := { s.iss with pfx := [], guard := true, deps := none } }) ∧
    (∀ a b c : BitVec 6, exec (.deps a b c) s = .next { s with iss := { s.iss with deps := some (a, b, c) } }) ∧
    (∀ i : BitVec 18, exec (.pfx i) s = .next { s with iss := { s.iss with pfx := s.iss.pfx ++ [i] } }) ∧
    (∀ (n : BitVec 1) (p : BitVec 3),
      exec (.pfxG n p) s = .next { s with iss := { s.iss with guard := if n = 1#1 then !pred s p else pred s p } })

/-- R381, R461, R353, R477: FENCE, TRAP, AUDIT and VIEWJ.
Where each of these completes with its own effect: fence, trap, audit, viewj. -/
def Sys2Proof.Claims.SystemMarks : Prop :=
  ∀ s : State, s.iss.guard = true →
    (∀ e : BitVec 2, exec (.fence e) s = .next (slotRan s [] [.fence e.toNat])) ∧
    (∀ i : BitVec 18, exec (.trap i) s = .next (slotRan s [] [.trap i.toNat])) ∧
    exec .audit s = .next (slotRan s [] [.audit s.iss.slot]) ∧
    exec .viewj s = .next (slotRan s [] [.viewj])

/-- R318, R319, R320, R353, R370, R381, R424, R461, R477: NOP, the prefixes, FENCE, TRAP, AUDIT and VIEWJ. -/
def Obligations.PlainSystemSlots : Prop :=
  Claims.NopAndPrefixes ∧ Claims.SystemMarks

/-- R78, R119, R325, R407: MFC reads a control register as it stands at issue, with latency 1; every number is read so. A read of TOKST besides
acquires what the commands that are done have done (R246).
Where each of these completes with its own effect: mfc. -/
def Obligations.ControlReads : Prop :=
  ∀ (s : State) (d : BitVec 6), s.iss.guard = true →
    let st := s.iss.st
    let gives (r : Nat) (v : Word) : Prop := exec (.mfc d (BitVec.ofNat 12 r)) s = writesS s [] 1 d v
    (∀ r, r < 0x1000 → r ≠ 0x018 → ∃ v : Word, gives r v) ∧
    (∃ v : Word, gives 0x008 v ∧ v.getLsbD 0 = timed s ∧ v.getLsbD 1 = s.iss.tm.moved ∧ v.getLsbD 2 = s.inFabricSection s.iss.tm.id ∧
      wbits v 3 13 = 0 ∧ wbits v 16 16 = s.iss.tm.nres % 2 ^ 16 ∧ wbits v 32 32 = 0) ∧
    gives 0x000 (BitVec.ofNat 64 s.cyc) ∧ gives 0x001 (BitVec.ofNat 64 s.iss.tm.tcyc) ∧
    gives 0x002 (BitVec.ofNat 64 s.ownTime - BitVec.ofNat 64 s.iss.tm.tcyc) ∧
    (∃ v : Word, gives 0x003 v ∧ wbits v 0 4 = st.index % 16 ∧ wbits v 4 4 = (s.iss.tm.width - 1) % 16 ∧
      wbits v 8 16 = s.iss.tm.index % 2 ^ 16 ∧ wbits v 24 40 = 0) ∧
    gives 0x007 (BitVec.ofNat 64 s.iss.tm.ctx) ∧ gives 0x00B 54687#64 ∧ gives 0x00C st.auditn ∧
    (∀ k : Fin 4, gives (0x010 + k) ((st.lc.get k).zeroExtend 64)) ∧
    (∃ v : Word, exec (.mfc d 0x018) s = .next (slotRan s [] [.result 1 (.sreg d v false), .acquire false]) ∧ ∀ n : Fin 64, v.getLsbD n = (decide (n ≠ 0) && (st.tokens.get n).st == .pending)) ∧
    (∀ k : Fin 8, gives (0x080 + k) (st.arg.get k)) ∧
    gives 0x090 st.numctl ∧ gives 0x091 st.srkey ∧ gives 0x092 st.srctr ∧ gives 0x093 st.vwb ∧ gives 0x094 st.acktol ∧
    gives 0x095 st.swpth ∧ gives 0x096 st.cwgt ∧ gives 0x097 st.mbxst ∧
    (∀ k : Fin 4, gives (0x098 + k) (st.qv.get k).reg) ∧ (∀ k : Fin 32, gives (0x0A0 + k) (st.tcfg.get k)) ∧
    (∀ k : Fin 16, gives (0x0C0 + k) (st.acfg.get k))

/-- R4, R35, R41 to R43, R111, R169, R172, R173, R178, R234, R235, R251, R408: what an MTC checks, and the bits it writes in its commit cycle;
a write of a read-only register is ignored.
Where each of these completes with its own effect: mtc, mtcMbxst, mtcQv, mtcTcfg, mtcAcfg. -/
def Sys2Proof.Claims.ControlWriteSlots : Prop :=
  ∀ (s : State) (a : BitVec 6), s.iss.guard = true →
    let v := reg s a
    let f := consumed s [a]
    let sets (bad : Bool) (r : Nat) (w : Word) : Out := .next (slotRan s (illegalIf s bad ++ f) [.control r w])
    exec (.mtc a 0x090) s = sets (decide (5 ≤ wbits v 0 3)) 0x090 (v &&& 0xF#64) ∧
    exec (.mtc a 0x091) s = sets false 0x091 v ∧ exec (.mtc a 0x092) s = sets false 0x092 v ∧
    exec (.mtc a 0x093) s = sets false 0x093 (v &&& 0x7FF#64) ∧
    exec (.mtc a 0x094) s = sets (wbits v 23 8 == 255 || (wbits v 31 1 == 1 && wbits v 0 31 != 0)) 0x094 (v &&& 0xFFFFFFFF#64) ∧
    exec (.mtc a 0x095) s = sets false 0x095 (v &&& 0xFFFFFFFFFF#64) ∧
    exec (.mtc a 0x096) s = sets false 0x096 (v &&& 0xF#64) ∧
    (∀ r : BitVec 12, r.toNat < 0x090 → exec (.mtc a r) s = .next (slotRan s f [])) ∧
    exec (.mtcMbxst a) s = sets false 0x097 v ∧
    (∀ m : BitVec 2, exec (.mtcQv a m) s = sets false (0x098 + m.toNat) (v &&& 0xFFFFFFF#64)) ∧
    (∀ n : BitVec 5, exec (.mtcTcfg a n) s =
      sets (tcfgBad v || decide (s.iss.tm.ntile ≤ n.toNat)) (0x0A0 + n.toNat) (v &&& 0x1FF7FFF#64)) ∧
    (∀ n : BitVec 4, exec (.mtcAcfg a n) s =
      sets (decide (wbits v 0 8 ∉ [1, 2, 3, 7, 8, 9]) || decide (s.iss.tm.nacc ≤ n.toNat)) (0x0C0 + n.toNat) (v &&& 0xFF#64))

/-- R235, R251, R326: a committed MTC: MBXST clears where a 1 is written, a QV slot waits for its view to be read, every other register holds
the value, and no other register of the strand changes. -/
def Sys2Proof.Claims.ControlCommits : Prop :=
  ∀ (st : Strand) (time : Nat) (v : Word),
    st.setControl time 0x090 v = { st with numctl := v } ∧ st.setControl time 0x091 v = { st with srkey := v } ∧
    st.setControl time 0x092 v = { st with srctr := v } ∧ st.setControl time 0x093 v = { st with vwb := v } ∧
    st.setControl time 0x094 v = { st with acktol := v } ∧ st.setControl time 0x095 v = { st with swpth := v } ∧
    st.setControl time 0x096 v = { st with cwgt := v } ∧ st.setControl time 0x097 v = { st with mbxst := st.mbxst &&& ~~~ v } ∧
    (∀ k : Fin 4, st.setControl time (0x098 + k) v = { st with qv := st.qv.set k { reg := v, readAt := some time, st := .invalid } }) ∧
    (∀ k : Fin 32, st.setControl time (0x0A0 + k) v = { st with tcfg := st.tcfg.set k v }) ∧
    (∀ k : Fin 16, st.setControl time (0x0C0 + k) v = { st with acfg := st.acfg.set k v })

/-- R4, R235, R251, R326, R408: MTC as it issues and as it commits. -/
def Obligations.ControlWrites : Prop :=
  Claims.ControlWriteSlots ∧ Claims.ControlCommits

/-! ### Class ENG, and the commands of class SYS -/

namespace Sys2Proof.Claims

/-- The produced token of an engine command's slot. -/
def engineToken : Instr → Option (BitVec 6)
  | .cube t _ _ | .cubeh t _ _ | .wld t _ _ | .wldSp t _ _ | .wswap t _ _ | .lease t _ | .unlease t _ | .copy t _ _
  | .ccopy t _ _ | .layout t _ _ | .scat t _ _ | .nmred t _ _ | .nmcas t _ _ | .nmsac t _ _ | .probe t _ | .probeReq t _
  | .fsend t _ _ | .frecv t _ _ | .fld t _ _ | .fst t _ _ | .fatom t _ _ | .coll t _ _ | .sig t _ _ | .launch t _
  | .hset t _ | .tshoot t _ => some t
  | _ => none

/-- The produced token is free: no bundle continues a command here, the token is not pending and not one that DEPS names, and token 0 finds
one of the 64 tokenless places. -/
def tokenFree (s : State) (op : CmdOp) (t : BitVec 6) : Prop :=
  s.continued op t.toNat = none ∧ tokenPending s t = false ∧
  (t ≠ 0 → ∀ a b c, s.iss.deps = some (a, b, c) → t ≠ a ∧ t ≠ b ∧ t ≠ c) ∧
  (t = 0 → s.iss.st.tokenless + s.tokenlessNeed ≤ 64)

/-- The slot ran with a command in its words. -/
def issues (s : State) (op : CmdOp) (t : BitVec 6) (w0 w1 w2 : Word) (faults : List Raised) (more : List Effect) : Out :=
  .next (slotRan s faults (.command (s.newCmd op t.toNat w0 w1 w2) :: more))

end Sys2Proof.Claims

/-- R73 to R76, R182, R369, R480, R481: the cube commands issue with their command word and band word. A CUBE or CUBEH in stochastic rounding
advances the counter.
Where each of these completes with its own effect: cube, cubeh, wld, wldSp, wswap. -/
def Sys2Proof.Claims.CubeCommandsIssue : Prop :=
  ∀ (s : State) (t a b : BitVec 6), s.iss.guard = true →
    let w := reg s a
    let v := reg s b
    let sr : List Effect := if wbits w 27 3 = 4 then [.stochastic] else []
    let f (op : CmdOp) : List Raised := s.cubeChecks op w v ++ consumed s [a, b]
    (tokenFree s .cube t → exec (.cube t a b) s = issues s .cube t w v 0 (f .cube) sr) ∧
    (tokenFree s .cubeh t → exec (.cubeh t a b) s = issues s .cubeh t w v 0 (f .cubeh) sr) ∧
    (tokenFree s .wld t → exec (.wld t a b) s = issues s .wld t w v 0 (f .wld) []) ∧
    (tokenFree s .wldSp t → exec (.wldSp t a b) s = issues s .wldSp t w v 0 (f .wldSp) []) ∧
    (tokenFree s .wswap t → exec (.wswap t a b) s = issues s .wswap t w v 0 (f .wswap) [])

/-- R73 to R76 and the word formats of R202, R216, R224, R227, R230, R359, R417, R421, R452, R462: the transfer, near-memory, collective and
handle commands issue with their words; a reserved bit or an operand out of range is an ILLEGAL OPERAND.
Where each of these completes with its own effect: copy, ccopy, layout, scat, nmred, nmsac, nmcas, sig, coll, hset, tshoot, launch, probeReq,
probe. -/
def Obligations.TransferCommandsIssue : Prop :=
  ∀ (s : State) (t a b : BitVec 6), s.iss.guard = true →
    let w := reg s a
    let v := reg s b
    let f (bad : Bool) : List Raised := illegalIf s bad ++ consumed s [a, b]
    let f1 (bad : Bool) : List Raised := illegalIf s bad ++ consumed s [a]
    (tokenFree s .copy t → exec (.copy t a b) s =
      issues s .copy t w v 0 (f (wbits w 62 2 != 0 || wbits w 0 8 != 0 || wbits v 9 55 != 0)) []) ∧
    (tokenFree s .ccopy t → exec (.ccopy t a b) s = issues s .ccopy t w v 0 (f (wbits w 62 2 != 0 || wbits w 0 8 != 0)) []) ∧
    (tokenFree s .layout t → exec (.layout t a b) s = issues s .layout t w v (reg s (a + 1))
      (illegalIf s (a.toNat % 2 == 1 || wbits v 40 24 != 0 || wbits v 0 8 != 0) ++ consumed s [a, a + 1, b]) []) ∧
    (tokenFree s .scat t → ∃ bad, exec (.scat t a b) s = issues s .scat t w v 0 (f bad) [] ∧
      (bad = false ↔ wbits w 56 3 < 3 ∧ wbits w 59 2 ≠ 3 ∧ wbits w 62 2 = 0 ∧ wbits w 0 28 % 4 = 0 ∧
        wbits w 28 28 % codeBytes (scatFmt w) = 0)) ∧
    (tokenFree s .nmred t → exec (.nmred t a b) s = issues s .nmred t w v 0
      (f (wbits w 30 34 != 0 || wbits w 28 2 == 3 || wbits w 0 6 != 0 || wbits v 28 36 != 0 || wbits v 0 6 != 0)) []) ∧
    (tokenFree s .nmsac t → exec (.nmsac t a b) s = issues s .nmsac t w v 0
      (f (wbits w 28 4 != 0 || wbits w 0 6 != 0 || wbits v 28 36 != 0 || wbits v 0 6 != 0)) []) ∧
    (tokenFree s .nmcas t → exec (.nmcas t a b) s = issues s .nmcas t w v 0
      (f (wbits w 32 32 != 0 || wbits w 0 4 != 0 || wbits v 20 3 != 0)) []) ∧
    (tokenFree s .sig t → exec (.sig t a b) s = issues s .sig t w v 0 (f (wbits w 20 3 != 0 || wbits w 0 20 == 0)) []) ∧
    (tokenFree s .coll t → exec (.coll t a b) s = issues s .coll t w v 0
      (f (wbits w 28 36 != 0 || wbits w 0 8 != 0 || decide (4 ≤ wbits v 8 3) || wbits v 11 2 == 3 || wbits v 34 30 != 0)) []) ∧
    (tokenFree s .hset t → exec (.hset t a) s = issues s .hset t w 0 0
      (f1 (wbits w 0 8 == 0 || decide (2 ≤ wbits w 8 2) || wbits w 12 20 != 0 || (wbits w 8 2 == 0 && wbits w 32 32 == 0))) []) ∧
    (tokenFree s .tshoot t → exec (.tshoot t a) s = issues s .tshoot t w 0 0 (f1 (wbits w 20 44 != 0)) []) ∧
    (tokenFree s .launch t → exec (.launch t a) s = issues s .launch t w 0 0 (consumed s [a]) []) ∧
    (tokenFree s .probeReq t → exec (.probeReq t a) s = issues s .probeReq t w 0 0 (f1 (wbits w 28 36 != 0 || wbits w 0 6 != 0)) []) ∧
    (tokenFree s .probe t → timed s = false → s.probeOther = none →
      exec (.probe t a) s = issues s .probe t w 0 0 (f1 (wbits w 28 36 != 0 || wbits w 0 6 != 0)) [])

/-- R262 to R264, R377, R383, R385, R400, R401, R465: the fabric commands and the leases issue; an FSEND whose departure is less than 512 cycles
away is a SCHEDULE DEPART, and a LEASE that is not held holds a paced strand and fails in timed code.
Where each of these completes with its own effect: fsend, frecv, fld, fst, fatom, unlease, lease. -/
def Sys2Proof.Claims.FabricAndLeaseCommandsIssue : Prop :=
  ∀ (s : State) (t a b : BitVec 6), s.iss.guard = true →
    let w := reg s a
    let v := reg s b
    let f (bad : Bool) : List Raised := illegalIf s bad ++ consumed s [a, b]
    let badBand := wbits w 18 46 != 0 || wbits w 0 16 == 0
    (tokenFree s .fsend t → exec (.fsend t a b) s = issues s .fsend t w v 0
      (f (wbits w 45 1 != 0 || wbits w 60 4 != 0 || decide (15750 < wbits w 46 14 + 1) || wbits w 0 6 != 0) ++
        (if v.toNat < s.cyc + 512 then [readStage s .scheduleDepart v.toNat] else [])) []) ∧
    (tokenFree s .frecv t → exec (.frecv t a b) s = issues s .frecv t w v 0 (f (wbits w 52 12 != 0 || wbits w 0 6 != 0)) []) ∧
    (tokenFree s .fld t → exec (.fld t a b) s = issues s .fld t w v 0 (f (requestBad .fld w v)) []) ∧
    (tokenFree s .fst t → exec (.fst t a b) s = issues s .fst t w v 0 (f (requestBad .fst w v)) []) ∧
    (tokenFree s .fatom t → exec (.fatom t a b) s = issues s .fatom t w v 0 (f (requestBad .fatom w v)) []) ∧
    (tokenFree s .unlease t → exec (.unlease t a) s = issues s .unlease t w 0 0 (illegalIf s badBand ++ consumed s [a]) []) ∧
    (tokenFree s .lease t →
      let claim := s.iss.tm.claimOf s.iss.st.index w
      let unheld : Bool := match claim with
        | some i => !((s.iss.tm.claims[i]?).any fun k => k.heldAt s.iss.tm.tcyc)
        | none => false
      exec (.lease t a) s = issues s .lease t w 0 0 (illegalIf s badBand ++ consumed s [a] ++ lateIf s 5 (timed s && unheld))
        (if unheld then [.hold (.lease (claim.getD 0))] else []))

/-- R73 to R76, R182, R262 to R264, R377, R400, R401, R465, R480, R481: the issue of cube, fabric and lease commands. -/
def Obligations.CubeFabricAndLeaseIssue : Prop :=
  Claims.CubeCommandsIssue ∧ Claims.FabricAndLeaseCommandsIssue

/-- R76, R371: a produced token that is pending, where the bundle does not continue its command, and one that the slot's own DEPS names, are
ILLEGAL OPERANDs of every engine command. -/
def Sys2Proof.Claims.TokenBusy : Prop :=
  ∀ (s : State) (i : Instr) (t : BitVec 6), s.iss.guard = true → engineToken i = some t → t ≠ 0 → (∀ op, s.continued op t.toNat = none) →
    (tokenPending s t = true ∨ ∃ a b c, s.iss.deps = some (a, b, c) ∧ (t = a ∨ t = b ∨ t = c)) →
    ∃ u, exec i s = .next u ∧ ∃ r ∈ u.iss.raised, r.cause = .illegalOperand ∧ r.slot = s.iss.slot

/-- R75, R76, R112, R269: an issued command is the newest of the device, in state queued, and its token is pending or one more of the strand's
places is taken; nothing else of the strand changes, but that a CUBE or CUBEH takes its audit mark; and only an FSEND or FRECV changes its team: it
puts off a stop for a pre-emption. (A LAUNCH goes on to its core's queue, and a LEASE makes its request, or completes at once where a timed one is
held.) A command that goes on after a pre-emption takes its place again. -/
def Sys2Proof.Claims.CommandEntry : Prop :=
  (∀ (s : State) (c : Cmd) (st : Strand), s.strand c.team c.strand = some st → c.op ≠ .launch → c.op ≠ .lease →
    (∀ o ∈ s.cmds, o.again = false) →
    let u := s.enterCommand c
    (∃ d, u.cmds = s.cmds ++ [d] ∧ d.id = s.nextId ∧ d.op = c.op ∧ d.token = c.token ∧ d.w0 = c.w0 ∧ d.w1 = c.w1 ∧ d.st = c.st ∧
      s.cyc ≤ d.notBefore) ∧ u.nextId = s.nextId + 1 ∧
    (∃ x, u.strand c.team c.strand = some x ∧
      x = { st with tokens := x.tokens, tokenless := x.tokenless, auditMark := st.auditMark && c.op != .cube && c.op != .cubeh } ∧
      (c.token = 0 → x.tokenless = st.tokenless + 1 ∧ x.tokens = st.tokens) ∧
      (c.token ≠ 0 → x.tokenless = st.tokenless ∧ x.token c.token = { st.token c.token with st := .pending } ∧
        ∀ k : Fin 64, k.val ≠ c.token % 64 → x.tokens.get k = st.tokens.get k)) ∧
    u.ring = s.ring ∧ u.hbm = s.hbm ∧
    (c.op ≠ .fsend → c.op ≠ .frecv → u.teams = s.teams) ∧
    (c.op = .fsend ∨ c.op = .frecv → ∀ t, s.team c.team = some t → u.teams = (s.setTeam t.deferStop).teams)) ∧
  (∀ (s : State) (c o : Cmd), c.op ≠ .lease →
    (s.cmds.find? fun o => o.team == c.team && o.strand == c.strand && o.packet.isNone && o.again && o.op == c.op && o.token == c.token &&
      o.pc == c.pc && o.slot == c.slot) = some o →
    s.enterCommand c = s.setCmd { o with st := .queued, again := false, issuedTc := c.issuedTc, issuedCyc := c.issuedCyc, timed := c.timed
                                         notBefore := 0, core := c.core })

/-- R75, R76, R371: a busy token, and what an issued command leaves. -/
def Obligations.CommandsEnter : Prop :=
  Claims.TokenBusy ∧ Claims.CommandEntry

/-! ### Decoding, and the step -/

namespace Sys2Proof.Claims

/-- Whether an instruction is a prefix, which belongs to the slot after it. -/
def isPrefix : Instr → Bool
  | .deps _ _ _ | .pfx _ | .pfxG _ _ => true
  | _ => false

end Sys2Proof.Claims

/-- R314, R321, R328 to R333: decoding the word of a well-formed slot gives the slot back, with its stop, version and scheduling bits; and a word
stored as bytes, lowest first, decodes as it stands. -/
def Obligations.DecodeOfEncode : Prop :=
  (∀ (x : Slot) (w : BitVec 32), x.op.wellFormed = true → encodeSlot x = some w → decodeSlot w = .ok x) ∧
  (∀ (w : BitVec 32) (rest : List Byte), decodeBytes (slotWordBytes w ++ rest) = some (decodeSlot w, rest))

/-- R4, R314, R335: a word has one meaning: the word of what a word decodes to is that word, so that no bit of it is dropped. -/
def Obligations.EncodeOfDecode : Prop :=
  ∀ (x : Slot) (w : BitVec 32), decodeSlot w = .ok x → encodeSlot x = some w

/-- Words written out from the encodings of the reference entries decode to the instructions they stand for. -/
def Obligations.DecodeKnownWords : Prop :=
  let is (w : BitVec 32) (i : Instr) : Prop := decodeSlot w = .ok { stop := false, ver := 0, sc := 0, op := i }
  is 0x016051A4 (.addi 5 6 36) ∧ is 0x0201114A (.cmpi 2 1 5 10) ∧ is 0x04107FFC (.br 0 1 0x3FFC) ∧ is 0x0421F00C (.jal 31 12) ∧
  is 0x0430007C (.jind 0 0 0 31) ∧ is 0x0D5020C4 (.vdot4 1 0 1 2 3 4) ∧ is 0x10B08105 (.rngc 8 4 5) ∧ is 0x0CE00001 (.vskip 1) ∧
  is 0x14107208 (.lds 7 8 8) ∧ is 0x1510A240 (.qpush 1 0 2 9) ∧ is 0x15204002 (.qpop 4 2) ∧ is 0x15300003 (.qsel 3) ∧
  is 0x15000191 (.put 6 1 1) ∧ is 0x1810528B (.cube 5 10 11) ∧ is 0x1C507093 (.mtc 7 0x093) ∧ is 0x1C405093 (.mfc 5 0x093)

/-- R57, R61, R314, R315, R335: a step runs the decoded instruction. The first slot of a bundle that is due, at its strand's offset in the
instruction store, runs on the bundle just opened, where nothing of the bundle is at fault at fetch or decode; each later slot runs with
its number; and the event at the head of the agenda runs. -/
def Obligations.StepRunsDecoded : Prop :=
  (∀ (s : State) (core : Nat) (t : Team) (st : Strand) (i : Instr), s.phase = .issue core 0 → s.agenda = [] →
    s.dueOn core = some (t, st) → st.nulls = 0 → (s.openBundle core t st).raised = [] →
    decodeInstr (wordOpcode (s.slotAt core st.pc)) (wordOpnd (s.slotAt core st.pc)) = .ok i →
    i.wellFormed = true ∧
    step s = exec i { s with phase := .issue core 1, iss := { s.openBundle core t st with slot := 0 } }) ∧
  (∀ (s : State) (core k : Nat) (w : BitVec 32) (i : Instr), s.phase = .issue core (k + 1) → s.iss.words[k + 1]? = some w →
    decodeInstr (wordOpcode w) (wordOpnd w) = .ok i →
    step s = exec i { s with phase := .issue core (k + 2), iss := { s.iss with slot := k + 1 } }) ∧
  (∀ (s : State) (i : Instr) (l : List Instr), s.phase = .agenda → s.agenda = i :: l → step s = exec i { s with agenda := l })

/-- R61, R281: a slot by itself changes nothing but what its bundle will do: no register, no memory, no command and no team; and of the bundle
only the faults and acts recorded, which it adds to, and the prefixes met. -/
def Obligations.SlotFrame : Prop :=
  ∀ (i : Instr) (s : State), (encodeInstr i).isSome = true →
    ∃ u : Issue, exec i s = .next { s with iss := u } ∧ u.st = s.iss.st ∧ u.tm = s.iss.tm ∧ u.core = s.iss.core ∧ u.pc = s.iss.pc ∧
      u.words = s.iss.words ∧ u.slot = s.iss.slot ∧ u.idle = s.iss.idle ∧ s.iss.effects <+: u.effects ∧ s.iss.raised <+: u.raised

/-- R69, R76: a slot whose guard is false does nothing but leave its token DONE with status SKIPPED, and it raises no SCHEDULE fault. -/
def Obligations.GuardedOff : Prop :=
  ∀ (i : Instr) (s : State), (encodeInstr i).isSome = true → s.iss.guard = false → isPrefix i = false →
    ∃ u : Issue, exec i s = .next { s with iss := u } ∧
      u.effects = s.iss.effects ++ (match engineToken i with
        | some t => if t = 0 then [] else [(s.iss.slot, .skipped t.toNat)]
        | none => []) ∧
      ∀ r ∈ u.raised, r ∈ s.iss.raised ∨ r.cause.code.1 ≠ 1

/-! ### Results and accesses -/

/-- R65, R288, R322: a scalar result of a bundle issued in cycle c with latency L is due at the end of cycle c + L - 1, and then its register
holds the value and its poison, and every other one what it held; a write to S0 or P0 is discarded. -/
def Obligations.ScalarResults : Prop :=
  (∀ (st : Strand) (b : Issue) (L : Nat) (d : BitVec 6) (v : Word) (p : Bool),
    st.takeEffect b (.result L (.sreg d v p)) = { st with inflight := st.inflight ++
      [{ issued := b.tm.tcyc, perform := b.tm.tcyc, commit := b.tm.tcyc + L - 1, what := .sreg d v p }] }) ∧
  (∀ (s : State) (t : Team) (st x : Strand) (d : BitVec 6) (v : Word) (p : Bool), s.strand t.id st.index = some x →
    (s.commitResult t st (.sreg d v p)).strand t.id st.index = some (x.setSreg d v p)) ∧
  (∀ (s : State) (t : Team) (st x : Strand) (d : BitVec 3) (v : Bool), s.strand t.id st.index = some x →
    (s.commitResult t st (.preg d v)).strand t.id st.index = some (x.setPreg d v)) ∧
  (∀ (x : Strand) (d e : BitVec 6) (v : Word) (p : Bool),
    (x.setSreg d v p).sreg e = (if e = d ∧ d ≠ 0 then v else x.sreg e) ∧
    (x.setSreg d v p).spoisoned e = (if e = d ∧ d ≠ 0 then p else x.spoisoned e) ∧ (x.setSreg d v p).p = x.p) ∧
  (∀ (x : Strand) (d e : BitVec 3) (v : Bool),
    (x.setPreg d v).preg e = (if e = d ∧ d ≠ 0 then v else x.preg e) ∧ (x.setPreg d v).s = x.s) ∧
  (∀ x : Strand, x.sreg 0 = 0 ∧ x.spoisoned 0 = false ∧ x.preg 0 = true)

/-- R65, R176, R289: a row result writes the bytes its mask names and no other, with the checksum of the row's type; a poisoned chunk it writes
any byte of stays poisoned, a clean one it writes whole is clean, and no other row changes. -/
def Obligations.RowResults : Prop :=
  ∀ (s : State) (t : Team) (st : Strand) (rho : Nat) (data : Row) (m : Mask) (pois : BitVec 8),
    SMap.wf AccRow.zero s.accs = true → (s.tower (t.strandTower st.index)).committed.contains (rowKey t st rho) = false →
    let k := rowKey t st rho
    let u := s.writeRow t st rho data m pois
    (∀ i, i < 512 → (u.accRow k).data.extractLsb' (8 * i) 8 =
      if m.getLsbD i then data.extractLsb' (8 * i) 8 else (s.accRow k).data.extractLsb' (8 * i) 8) ∧
    (u.accRow k).ck = checksum (st.rowType rho) (u.accRow k).data ∧
    (∀ c, c < 8 → (u.accRow k).pois.getLsbD c =
      ((pois.getLsbD c && maskSome m c) || (!maskWhole m c && (s.accRow k).pois.getLsbD c))) ∧
    (∀ k', k' ≠ k → u.accRow k' = s.accRow k') ∧ u.ring = s.ring ∧ u.strands = s.strands ∧ u.tiles = s.tiles

/-- R154, R156, R158, R161: a store that performs writes its bytes at the ring places its address gives, poisons the parcels of its poisoned
parts (log 25), and leaves every other ring byte and every other parcel's tag as they were. -/
def Obligations.StorePerforms : Prop :=
  ∀ (s : State) (t : Team) (w : RingStore), Memory.wf s.ring = true →
    let keys := t.accessKeys w.ea w.size w.diag
    let u := s.performStore t w
    Memory.wf u.ring = true ∧
    (∀ k, k ∉ keys → Memory.read u.ring k = Memory.read s.ring k) ∧
    (keys.Nodup → ∀ i, i < w.size → Memory.read u.ring (keys.getD i 0) = BitVec.ofNat 8 (w.data.toNat / 2 ^ (8 * i))) ∧
    (∀ k, (∀ i, i < w.size → w.pois.getLsbD (i / 64) = true → keys.getD i 0 / 4096 ≠ k / 4096) → u.tag k = s.tag k) ∧
    u.hbm = s.hbm ∧ u.istore = s.istore ∧ u.accs = s.accs ∧ u.strands = s.strands

/-- R61, R70, R315, R317: a bundle that neither jumps, skips nor opens a loop, outside any loop, is followed by the one after it, idle + 1
cycles later; a taken branch goes to its target. -/
def Obligations.NextBundle : Prop :=
  ∀ (st : Strand) (b : Issue),
    ((∀ e ∈ b.effects, ∀ x, e.2 ≠ .jump x ∧ e.2 ≠ .skip x) → (∀ e ∈ b.effects, ∀ f, e.2 ≠ .openLoop f) →
      (∀ e ∈ b.effects, ∀ k a v, e.2 ≠ .emptyLoop k a v) → st.loops = [] →
      (st.follow b).pc = b.pc + 4 * b.words.length ∧ (st.follow b).loops = [] ∧ (st.follow b).lc = st.lc) ∧
    (∀ x k, b.effects = [(k, .jump x)] →
      (st.follow b).pc = x ∧ ∀ f ∈ (st.follow b).loops, f ∈ st.loops ∧ f.first ≤ x ∧ x < f.after) ∧
    (st.follow b).nextIssue = b.tm.tcyc + 1 + b.idle ∧ (st.follow b).s = st.s ∧ (st.follow b).p = st.p ∧
    (st.follow b).tokens = st.tokens ∧ (st.follow b).masks = st.masks

/-! ### Faults -/

/-- R280: of the faults of a bundle the one reported is of the earliest detection point, then first in that point's order, then of the lowest
slot. -/
def Sys2Proof.Claims.FirstFault : Prop :=
  ∀ (l : List Raised), l ≠ [] → ∃ r ∈ l, firstFault l = some r ∧ ∀ q ∈ l,
    r.point.rank < q.point.rank ∨ r.point.rank = q.point.rank ∧
      (r.cause.rank < q.cause.rank ∨ r.cause.rank = q.cause.rank ∧ r.slot ≤ q.slot)

/-- R279: no two causes have the same class and code, and every class is from 1 to 11. -/
def Sys2Proof.Claims.FaultCodes : Prop :=
  (∀ c d : Cause, c.code = d.code → c = d) ∧ ∀ c : Cause, 1 ≤ c.code.1 ∧ c.code.1 ≤ 11 ∧ 1 ≤ c.code.2 ∧ c.code.2 < 256

/-- R286: the fields of a strand's fault record that its detection fills in. -/
def Sys2Proof.Claims.RecordFields : Prop :=
  ∀ (s : State) (t : Team) (strand pc : Nat) (r : Raised) (xpce : Word),
    let w := (s.strandRecord t strand pc r xpce).toNat
    bits w 0 4 = r.cause.code.1 ∧ bits w 4 8 = r.cause.code.2 ∧ bits w 12 2 = 0 ∧ bits w 16 8 = t.ctx % 2 ^ 8 ∧
    bits w 24 4 = strand % 2 ^ 4 ∧ bits w 28 16 = t.index % 2 ^ 16 ∧ bits w 44 2 = t.strandTower strand % 4 ∧
    bits w 46 2 = t.strandCore strand % 4 ∧ bits w 64 18 = pc % 2 ^ 18 ∧ bits w 82 3 = r.slot % 8 ∧
    bits w 88 40 = t.tcyc % 2 ^ 40 ∧ bits w 128 64 = s.cyc % 2 ^ 64 ∧ bits w 320 64 = xpce.toNat ∧ bits w 384 64 = r.detail.toNat ∧
    bits w 464 8 = r.pctx % 2 ^ 8 ∧ bits w 472 2 = r.pcause % 4

/-- R279, R280, R286: the fault that is reported of a bundle, its class and code, and its record. -/
def Obligations.FaultsAndRecords : Prop :=
  Claims.FirstFault ∧ Claims.FaultCodes ∧ Claims.RecordFields

/-- R281 to R284, R291: taking faults of a team: it stops at the stop cycle or at an earlier one it already has, its unretired strands are frozen
at once where that cycle is not to come and go on issuing where it is, its context gets one record for each fault unless it is being destroyed
(R304), and no register, memory, command or other team changes. -/
def Obligations.TakingFaults : Prop :=
  ∀ (s : State) (t : Team) (stop : Nat) (l : List (Nat × Nat × Raised × Word)), s.team t.id = some t →
    let u := s.takeFault t.id stop l
    let hard := l.any fun e => !e.2.2.1.cause.freezes
    (∃ t', u.team t.id = some t' ∧
      (t.st = .resident → t'.st = .stopping stop hard) ∧ (∀ a f, t.st = .stopping a f → t'.st = .stopping (min a stop) (f || hard)) ∧
      t'.faulted = true ∧ t'.nores = (t.nores || s.inFabricSection t.id) ∧
      t'.tcyc = t.tcyc ∧ t'.claims = t.claims ∧ t'.pending = t.pending) ∧
    (stop ≤ t.tcyc → u.strands = s.strands.map (fun x => if x.team = t.id ∧ x.st ≠ .retired ∧ x.st ≠ .frozen then
      { x with st := .frozen, prior := x.st } else x)) ∧
    (t.tcyc < stop → u.strands = s.strands) ∧
    (∀ x, s.context t.ctx = some x → ∃ y, u.context t.ctx = some y ∧
      y.records.length = x.records.length + (if x.destroying then 0 else l.length) ∧
      x.records.Sublist y.records ∧ y.handles = x.handles ∧ y.queues = x.queues) ∧
    u.hbm = s.hbm ∧ u.ring = s.ring ∧ u.tags = s.tags ∧ u.tiles = s.tiles ∧ u.accs = s.accs ∧ u.cmds = s.cmds ∧
    (∀ id, id ≠ t.id → u.team id = s.team id)

/-- R281, R283: a fault of any bundle of a team cancels every bundle the team issues in the cycle, and the team stops with that cycle: no
register, ring byte, tag, tile, command, token or mask changes, and no accumulator row but for the poison of one whose check failed. -/
def Obligations.CancelledBundles : Prop :=
  ∀ (s : State) (t : Team) (l : List (Issue × List Raised)), s.team t.id = some t → t.st = .resident →
    let u := s.cancelTeam t l
    (∀ b ∈ u.bundles, b.tm.id ≠ t.id) ∧ (∀ b ∈ s.bundles, b.tm.id ≠ t.id → b ∈ u.bundles) ∧
    (∃ t' f, u.team t.id = some t' ∧ t'.st = .stopping t.tcyc f) ∧
    u.strands = s.strands.map (fun x => if x.team = t.id ∧ x.st ≠ .retired ∧ x.st ≠ .frozen then
      { x with st := .frozen, prior := x.st } else x) ∧
    u.ring = s.ring ∧ u.hbm = s.hbm ∧ u.tags = s.tags ∧ u.tiles = s.tiles ∧ u.cmds = s.cmds ∧
    ((∀ e ∈ l, ∀ r ∈ e.2, r.badRow = none) → u.accs = s.accs)

/-! ### Reset, launch and invariants -/

/-- R301, R304, R327 and what a device has before its bring-up: nothing verified, no context, team, grid, command or strand, CYC 0, not in a
domain, and nothing in flight. The storages list nothing: that what they do not list reads as 0 is the model's choice (log 7), and so is the tower
time of 0 (log 3). -/
def Sys2Proof.Claims.ResetState : Prop :=
  let s := State.reset
  s.cyc = 0 ∧ s.contexts = [] ∧ s.teams = [] ∧ s.grids = [] ∧ s.strands = [] ∧ s.cmds = [] ∧ s.keep.boot = .reset ∧
  s.fabric.joined = false ∧ s.fabric.owner = none ∧ s.fabric.outstanding = [] ∧ s.agenda = [] ∧ s.out = [] ∧ s.hbm = [] ∧ s.ring = [] ∧
  s.istore = [] ∧ (∀ i, (s.tower i).step = 0 ∧ (s.tower i).time = 0) ∧ ∀ i, (s.core i).launches = [] ∧ (s.core i).occupant = none

/-- R41, R43, R59, R72, R76, R84, R101, R111, R172, R173, R178, R234, R235, R294: the registers of a strand right after its launch. -/
def Sys2Proof.Claims.LaunchRegisters : Prop :=
  ∀ (team i : Nat) (g : Grid) (x : Context),
    let st := Strand.launched team i g x
    st.numctl = 0 ∧ st.srkey = 0 ∧ st.srctr = 0 ∧ st.vwb = 0 ∧ st.acktol = 0x3A800000#64 ∧ st.cwgt = 8 ∧ st.mbxst = 0 ∧
    st.mode = .paced ∧ st.pc = 0 ∧ st.masks = [] ∧ st.loops = [] ∧ st.aq = [] ∧ st.inflight = [] ∧ st.tokenless = 0 ∧
    (∀ n, (st.token n).st = .idle ∧ (st.token n).status = 0) ∧ (∀ n, (st.lc.get n) = 0) ∧ (∀ n, (st.tcfg.get n) = 0) ∧
    (∀ n, (st.acfg.get n) = 1) ∧ (∀ n, (st.qv.get n).st = .invalid) ∧ st.swpth = BitVec.ofNat 64 (x.swpdef % 2 ^ 40) ∧
    st.auditn = x.auditn.zeroExtend 64 ∧ ∀ k : Fin 8, st.arg.get k = g.launch.args.getD k 0

/-- R301, R304, R322, R325, R327: the state after a device reset, and a strand's registers after its launch.
What in it rests on the model's own readings is in the assumption log: log 3, log 7. -/
def Obligations.ResetAndLaunch : Prop :=
  Claims.ResetState ∧ Claims.LaunchRegisters

/-- The byte memories of the reset state are in canonical form. -/
def Obligations.ResetMemory : Prop := State.reset.memoryWf = true

/-- Every step keeps the byte memories, HBM, ring and instruction store, in their canonical form (R3, R133, R152, R86; the form is the model's
own). -/
def Obligations.MemoryStaysCanonical : Prop :=
  ∀ s t : State, s.memoryWf = true → step s = .next t → t.memoryWf = true

/-! ### Engine commands -/

/-- R74, R76, R80, R157, R213, R214, R221, R224, R240: a command that may start reads what it needs of the ring, a line at a time where a bank is
not free, and makes the start of its operation; source bytes of a COPY count as they are read; a running one takes its next step in the same way,
one whose steps have run and whose requests are answered finishes with status OK, and an HSET takes effect.
Where each of these completes with its own effect: engineCommandStart, engineStep, engineCommandComplete, hsetTakeEffect. -/
def Sys2Proof.Claims.CommandSteps : Prop :=
  ∀ (s : State) (cmd : Nat) (c : Cmd) (x : Context), s.cmd cmd = some c → s.context c.ctx = some x →
    (∀ t, s.team c.team = some t → c.packet = none → s.mayStart t c = true → s.tokenFault c = none →
      (∀ d, s.gather t c c.startReads = (d, true) → exec (.engineCommandStart cmd) s =
        .next (((s.noteRead c c.startReads (c.newLines d)).chosen.overLines c d.lines fun u => u.startOp x t s.choice c).cacheEnds x cmd)) ∧
      (∀ d, s.gather t c c.startReads = (d, false) →
        exec (.engineCommandStart cmd) s = .next ((s.noteRead c c.startReads (c.newLines d)).setCmd d)) ∧
      (c.startReads = [] → c.lines = [] →
        exec (.engineCommandStart cmd) s = .next ((s.chosen.startOp x t s.choice c).cacheEnds x cmd))) ∧
    (∀ t r, s.team c.team = some t → c.packet = none → s.mayStart t c = true → s.tokenFault c = some r →
      r.cause = .scheduleToken ∧
        exec (.engineCommandStart cmd) s = .next ((if c.op = .coll then s.collAbort x c else s).commandFault c r)) ∧
    (c.packet = none → s.movePacket c = some c) ∧
    (∀ m, s.movePacket c = some m → s.stepReady m = true → m.notBefore ≤ s.cyc →
      let d : Cmd := { m with notBefore := s.cyc + 1 + s.chosen.choice }
      (∀ t e, s.team m.team = some t → s.gather t m m.stepReads = (e, true) → exec (.engineStep cmd) s =
        .next ((((s.noteRead m m.stepReads (m.newLines e)).chosen.chosen.setCmd d).countLines m e).overLines m e.lines fun u =>
          u.stepOp x (some t) s.choice d)) ∧
      (∀ t e, s.team m.team = some t → s.gather t m m.stepReads = (e, false) →
        exec (.engineStep cmd) s = .next (((s.noteRead m m.stepReads (m.newLines e)).setCmd e).countLines m e)) ∧
      (m.lines = [] → (s.team m.team = none ∨ m.stepReads = []) → exec (.engineStep cmd) s =
        .next ((s.chosen.chosen.setCmd d).stepOp x (s.team m.team) s.choice d))) ∧
    (c.op.plain = true → c.st = .running → c.steps ≤ c.xpc → s.unanswered cmd = false →
      exec (.engineCommandComplete cmd) s = .next (s.setCmd { c with st := .finishing 0, expanding := false })) ∧
    (c.op = .hset → c.st = .running → exec (.hsetTakeEffect cmd) s = .next (s.setCmd { c with xpc := 1, expanding := false })) ∧
    (∀ (t : Team) (l : List (BitVec 28 × Bool × Nat × Nat)), ((s.gather t c l).2 = true ↔
      ∀ k ∈ t.readLines l, (∃ e ∈ c.lines, e.1 = k) ∨ s.lineFree k = true))

/-- R75 to R77, R222 to R224: a command that is done leaves the device; its token is DONE with its status, or its tokenless place is free. An
HSET moves its handle along FREE, FILLING, FULL, DRAINING; one on a handle that is filling or draining with its bytes still to come is
rejected, and FORCE sets the state. -/
def Sys2Proof.Claims.CommandsFinish : Prop :=
  (∀ (s : State) (c : Cmd) (st : Strand) (n : BitVec 4), c.packet = none → s.strand c.team c.strand = some st → c.token < 64 →
    let u := s.retireCmd c n
    u.cmd c.id = none ∧ (∀ id, id ≠ c.id → u.cmd id = s.cmd id) ∧ u.hbm = s.hbm ∧ u.ring = s.ring ∧
    ∃ x, u.strand c.team c.strand = some x ∧ x.s = st.s ∧ x.p = st.p ∧ x.st = st.st ∧
      (c.token = 0 → x.tokenless = st.tokenless - 1 ∧ x.tokens = st.tokens) ∧
      (c.token ≠ 0 → x.token c.token = { st := .done, status := n } ∧ x.tokenless = st.tokenless ∧
        ∀ k, k < 64 → k ≠ c.token → x.token k = st.token k)) ∧
  (∀ (h : Handle) (w : Word), wbits w 8 2 = 0 → wbits w 32 32 ≠ 0 → h.fcnt = 0 → h.dcnt = 0 →
    (h.st = .free → h.hset w = ({ h with st := .filling, exp := wbits w 32 32 }, false)) ∧
    (h.st = .full → h.hset w = ({ h with st := .draining, exp := wbits w 32 32 }, false)) ∧
    ((h.st = .filling ∨ h.st = .draining) → h.exp ≠ 0 → h.hset w = (h, true))) ∧
  (∀ (h : Handle) (w : Word), wbits w 8 2 = 1 → h.hset w =
    ({ st := if wbits w 10 2 = 0 then .free else if wbits w 10 2 = 1 then .filling else if wbits w 10 2 = 2 then .full else .draining
       exp := 0, fcnt := 0, dcnt := 0 }, false))

/-- R74 to R77, R80, R213, R214, R222 to R224, R240: the life of an engine command. -/
def Obligations.EngineCommands : Prop :=
  Claims.CommandSteps ∧ Claims.CommandsFinish

/-- R183, R186, R189, R192, R193: a cube command that may start makes its start checks and starts; its steps are fed one a tower cycle and commit
into the accumulator in the cycle fixed when they were fed; and a weight load replaces the shadow planes of its band, but for the layers that
another team has been granted since (log 84), 129 cycles after its start. Nothing starts or feeds for a context that is being destroyed (R304).
Where each of these completes with its own effect: cubeCommandStart, cubeStepFeed, cubeStepCommit, wldComplete. -/
def Obligations.CubeEvents : Prop :=
  ∀ (s : State) (cmd : Nat) (c : Cmd) (t : Team) (st : Strand), s.cmd cmd = some c → s.team c.team = some t →
    s.strand c.team c.strand = some st →
    (c.op.onTrack = true → s.cubeReady t c = true → s.ending c.ctx = false →
      (s.cubeFault t st c = none → exec (.cubeCommandStart cmd) s = .next (s.cubeBegin t st c)) ∧
      (∀ r, s.cubeFault t st c = some r → r.point = .start ∧ exec (.cubeCommandStart cmd) s = .next (s.commandFault c r))) ∧
    ((c.op = .cube ∨ c.op = .cubeh) → c.st = .running → t.before = true → s.ticks c.tower = true → c.xpc < c.steps →
      c.start + c.xpc = t.tcyc → s.ending c.ctx = false →
      ∃ u, exec (.cubeStepFeed cmd) s = .next u ∧
        u.cmd cmd = some { c with fed := c.fed ++ [s.feedStep st c], xpc := c.xpc + 1, fedAt := (s.tower c.tower).time
                                  expanding := decide (c.xpc + 1 < c.steps) } ∧
        u.accs = s.accs ∧ u.tiles = s.tiles ∧ u.strands = s.strands ∧ u.teams = s.teams) ∧
    (∀ f rest, c.fed = f :: rest → t.onCores = true → s.ticks c.tower = true → f.commit = t.tcyc →
      ∃ u, exec (.cubeStepCommit cmd) s = .next u ∧ u.accs = (s.commitStep t st c f).accs ∧ u.tiles = s.tiles ∧ u.strands = s.strands ∧
        ∃ d, u.cmd cmd = some d ∧ d.fed = rest ∧
          (rest = [] → c.xpc = c.steps → c.st = .running → d.st = .finishing 0) ∧ (rest ≠ [] → d.st = c.st)) ∧
    (c.op.loads = true → c.st = .running → t.onCores = true → s.ticks c.tower = true → c.start + 129 = t.tcyc → c.tower < 4 →
      SMap.wf Plane.blank (s.tower c.tower).planes = true →
      ∃ u, exec (.wldComplete cmd) s = .next u ∧ (u.cmd cmd).map (·.st) = some (.finishing 0) ∧
        ∀ k, k < 16 →
          SMap.get Plane.blank (u.tower c.tower).planes (2 * k) = SMap.get Plane.blank (s.tower c.tower).planes (2 * k) ∧
          SMap.get Plane.blank (u.tower c.tower).planes (2 * k + 1) =
            (if k ∈ bandLayers c.w1 ∧ s.layerTaken c.team c.tower k = false then SMap.get Plane.blank c.planes k
             else SMap.get Plane.blank (s.tower c.tower).planes (2 * k + 1)))

/-- R88, R231 to R234, R274, R276: a bucket of a collective starts, its values going to the other members the command has read; it completes when
every member's values are here; and a peer's message is held for the matching command, which takes an abort or a mismatch as its fault, and is
answered on receipt, like every request of its stream (log 73).
Where each of these completes with its own effect: collBucketStart, collBucketComplete, collectiveRequest. -/
def Obligations.CollectiveEvents : Prop :=
  (∀ (s : State) (cmd bucket : Nat) (c : Cmd) (x : Context) (v : Bound) (t : Team), s.cmd cmd = some c → s.context c.ctx = some x →
    c.src = some (.view v) → s.team c.team = some t → c.op = .coll → c.st = .running → bucket < collBuckets c.w1 →
    let (n0, n) := collRange v.view c.w1 bucket
    let mine := if c.fedAt = bucket + 1 then c.fetched else []
    let rest := if c.fedAt = bucket + 1 then [] else c.fetched
    (∀ l tch, t.before = true → x.destroying = false → bucket ∉ c.slots → (collArm c.w1 = true ∨ ∀ b, b < bucket → b ∈ c.slots) →
      s.collFlag x c bucket = .ok true → mapStop (fun i => s.viewElem x s.choice mine v (n0 + i)) (List.range n) = .ok (l, tch) →
      exec (.collBucketStart cmd bucket) s = .next
        (((s.setCmd { c with slots := c.slots ++ [bucket], heard := s.flagHeard c, fetched := rest }).noteTouches x cmd tch).collSend cmd c.members
          (s.collMessage c (s.collSeq c) v.desc.fmt v.view.count bucket (l.flatMap fun e => e.pack v.desc.fmt)
            (l.map fun e => e.pois.isSome) false))) ∧
    (∀ msgs, t.onCores = true → bucket ∈ c.slots → bucket ∉ c.done_ → bucketSent bucket ∉ c.done_ → s.bucketMessages c bucket = some msgs →
      exec (.collBucketComplete cmd bucket) s = .next (s.bucketWrite x c v bucket msgs) ∧
      (c.dst = none → c.members.length ≤ 1 →
        let d : Cmd := { c with done_ := c.done_ ++ [bucket], xpc := c.xpc + 1, expanding := decide (c.xpc + 1 < c.steps) }
        let e : Cmd := if c.done_.length + 1 = collBuckets c.w1 then { d with st := .finishing 0, expanding := false } else d
        s.bucketWrite x c v bucket msgs = (s.releaseCmd c).setCmd e)) ∧
    (t.onCores = true → bucket ∈ c.slots → bucket ∉ c.done_ → bucketSent bucket ∈ c.done_ →
      (s.writing cmd = true → exec (.collBucketComplete cmd bucket) s = .next s) ∧
      (s.writing cmd = false → exec (.collBucketComplete cmd bucket) s = .next (s.bucketDone x cmd bucket))) ∧
    (∀ msgs, s.bucketMessages c bucket = some msgs → msgs.length = c.members.length ∧
      ∀ m ∈ msgs, m.dev ∈ c.members ∧ m.bucket = bucket ∧ m.seq = s.collSeq c ∧ m.abort = false)) ∧
  (∀ (s : State) (r : UntimedRequest) (q : CollRequest), r.body = .collective q → q.dev = r.src → q.ctx = r.ctx →
    (s.context q.ctx).isSome = true → s.inGroup q.ctx q.group q.dev = true → s.accepts r = true →
    let next : State := { s with fabric := s.fabric.advance r }
    let held : State := { next with fabric := { next.fabric with colls := next.fabric.colls ++ [q] } }
    let mine := held.cmds.find? fun c => c.op == .coll && c.st == .running && c.ctx == q.ctx && wbits c.w1 0 8 == q.group &&
      held.collSeq c == q.seq
    let answered (u : State) : Out := .next ((u.answer r 0 false [] []).remember r 0 false [])
    (seqAhead (s.fabric.expected r) r.sseq = true → exec (.collectiveRequest r) s = .next s) ∧
    (seqAhead (s.fabric.expected r) r.sseq = false → r.sseq ≠ s.fabric.expected r →
      exec (.collectiveRequest r) s = .next (s.answerAgain r)) ∧
    (r.sseq = s.fabric.expected r →
      (mine = none → exec (.collectiveRequest r) s = answered held) ∧
      (∀ c v, mine = some c → c.src = some (.view v) →
        (held.collVerdict c v.desc.fmt v.view.count q.seq = none → exec (.collectiveRequest r) s = answered held) ∧
        (∀ e, held.collVerdict c v.desc.fmt v.view.count q.seq = some e →
          exec (.collectiveRequest r) s = answered (held.accessRaise c.id (.of e .access 0))))))

/-! ### Queues and their packets -/

namespace Sys2Proof.Claims

/-- The scheduler serves a queue with a packet of a kind in this cycle, and its slot is not poisoned. -/
def served (s : State) (ctx queue : Nat) (k : PacketType) (p : Packet) : Prop :=
  s.packetAt ctx queue = some p ∧ p.pois = none ∧ p.kind = k

/-- Bits 15..0 of a packet's word 0, and every word after word `n`, are zero. -/
def plainPacket (p : Packet) (n : Nat) : Prop := p.bits % 2 ^ 16 = 0 ∧ p.bits < 2 ^ (64 * (n + 1))

/-- A reserved bit of a packet is set: in word 0, or in a word after word `n`. -/
def loosePacket (p : Packet) (n : Nat) : Prop := p.bits % 2 ^ 16 ≠ 0 ∨ 2 ^ (64 * (n + 1)) ≤ p.bits

/-- The scheduler has served a queue with a packet: the read of its slot counts at its stack, and the next is read a finite time later. -/
def then_ (ctx q : Nat) (p : Packet) (u : State) : Out := .next ((u.noteSlot p.x p.queue).readAgain ctx q)

end Sys2Proof.Claims

/-- R4, R96, R98: the slot a queue is served at is the one at RIDX, filled in its round or poisoned; a consumed slot advances its queue's RIDX by
one and changes no other field of a queue; and reports are served in the order in which they arrive. A poisoned slot is recorded, and gives
status 2 in a clean granule. -/
def Sys2Proof.Claims.QueueSlots : Prop :=
  (∀ (s : State) (ctx q : Nat) (p : Packet), s.packetAt ctx q = some p →
    ∃ x, s.context ctx = some x ∧ x.queues[q]? = some p.queue ∧ p.x = x ∧ p.q = q ∧ p.queue.hold = .none ∧ p.queue.next ≤ s.cyc ∧
      p.queue.enabled = true ∧ s.keep.boot = .running ∧
      (p.pois = none → p.bits.testBit 63 = true ∧ bits p.bits 32 31 = p.queue.round p.queue.ridx)) ∧
  (∀ (s : State) (ctx q : Nat) (p : Packet) (n : Nat), s.packetAt ctx q = some p →
    ∃ x y, s.context ctx = some x ∧ (s.consume p n).context ctx = some y ∧ y.queues.length = x.queues.length ∧
      y.queues[q]? = some { p.queue with ridx := (p.queue.ridx + 1) % 2 ^ 64 } ∧ ∀ k, k ≠ q → y.queues[k]? = x.queues[k]?) ∧
  (∀ (s : State) (ctx q : Nat) (p : Packet) (y : Nat × Nat), s.packetAt ctx q = some p → p.pois = some y →
    exec (.nopPacket ctx q) s = then_ ctx q p (s.consumePoisoned p y)) ∧
  (∀ (s : State) (r : Report), firstReport s.reports = some r →
    (∀ q ∈ s.reports, r.arrives ≤ q.arrives) ∧ r ∈ s.reports ∧
    (s.cyc < r.arrives → s.serveReport = s) ∧ (r.arrives ≤ s.cyc → s.serveReport.reports = s.reports.erase r))

/-- R98, R100: the simple packets. NOP is consumed with status 1; SIGNAL adds to or writes its counter; WAIT and FENCE hold the queue, WAIT only
while its counter has not come. A packet with a reserved bit set, with a counter that is not one or with a field out of range gives status 2 and
does nothing else.
Where each of these completes with its own effect: nopPacket, signalPacket, waitPacket, fencePacket. -/
def Sys2Proof.Claims.SimplePackets : Prop :=
  (∀ (s : State) (ctx q : Nat) (p : Packet), served s ctx q .nop p →
    (p.type = 0 → plainPacket p 0 → exec (.nopPacket ctx q) s = then_ ctx q p (s.consume p 1)) ∧
    (p.type ≠ 0 → exec (.nopPacket ctx q) s = then_ ctx q p (s.consume p 2))) ∧
  (∀ (s : State) (ctx q : Nat) (p : Packet), served s ctx q .signal p → plainPacket p 3 → (p.word 3).toNat < 2 →
    s.counterOk p.x (p.word 1) = true →
    exec (.signalPacket ctx q) s = then_ ctx q p (
      (if p.word 3 = 0 then s.counterAdd ctx (p.word 1) (p.word 2).toNat
       else if p.word 1 = 0 then s
       else s.deviceWrite p.x (p.word 1) (bytesOf 8 (p.word 2).toNat)).consume p 1)) ∧
  (∀ (s : State) (ctx q : Nat) (p : Packet), served s ctx q .wait p → plainPacket p 2 → s.counterOk p.x (p.word 1) = true →
    let u := s.forgetPoll ctx (p.word 1)
    exec (.waitPacket ctx q) s = then_ ctx q p ((u.consume p 1).setQueue ctx q fun k =>
      { k with hold := if u.queueWaitMet ctx (p.word 1) (p.word 2) then .none else .wait (p.word 1) (p.word 2) })) ∧
  (∀ (s : State) (ctx q : Nat) (p : Packet), served s ctx q .fence p → plainPacket p 3 → (p.word 1).toNat < 2 →
    s.counterOk p.x (p.word 2) = true →
    exec (.fencePacket ctx q) s = then_ ctx q p ((s.consume p 1).setQueue ctx q fun k =>
      { k with hold := .fence (p.word 1).toNat (p.word 2) (p.word 3) })) ∧
  (∀ (s : State) (ctx q : Nat) (p : Packet),
    let refused (i : Instr) : Prop := exec i s = then_ ctx q p (s.consume p 2)
    (served s ctx q .nop p → loosePacket p 0 → refused (.nopPacket ctx q)) ∧
    (served s ctx q .signal p → loosePacket p 3 ∨ 2 ≤ (p.word 3).toNat ∨ s.counterOk p.x (p.word 1) = false →
      refused (.signalPacket ctx q)) ∧
    (served s ctx q .wait p → loosePacket p 2 ∨ s.counterOk p.x (p.word 1) = false → refused (.waitPacket ctx q)) ∧
    (served s ctx q .fence p → loosePacket p 3 ∨ 2 ≤ (p.word 1).toNat ∨ s.counterOk p.x (p.word 2) = false →
      refused (.fencePacket ctx q)) ∧
    (served s ctx q .launch p → loosePacket p 1 → refused (.launchPacket ctx q)) ∧
    (served s ctx q .copy p → loosePacket p 5 ∨ wbits (p.word 3) 12 52 ≠ 0 ∨ s.counterOk p.x (p.word 4) = false →
      refused (.copyPacket ctx q)) ∧
    (served s ctx q .layout p → loosePacket p 7 ∨ wbits (p.word 5) 12 52 ≠ 0 ∨ s.counterOk p.x (p.word 6) = false →
      refused (.layoutPacket ctx q)) ∧
    (served s ctx q .preempt p → loosePacket p 3 ∨ 3 ≤ (p.word 1).toNat ∨ s.counterOk p.x (p.word 3) = false →
      refused (.preemptPacket ctx q)) ∧
    (served s ctx q .resume p → loosePacket p 2 ∨ 3 ≤ (p.word 1).toNat → refused (.resumePacket ctx q)) ∧
    (served s ctx q .resumeFrozen p → loosePacket p 2 ∨ 256 ≤ (p.word 1).toNat → refused (.resumeFrozenTeam ctx q)) ∧
    (served s ctx q .discardFrozen p → loosePacket p 2 ∨ 256 ≤ (p.word 1).toNat → refused (.discardFrozenTeam ctx q)))

/-- R96, R98 to R100, R110, R245: a report of a queue, what taking a slot reads, and the packets that are done when taken. -/
def Obligations.PacketsTaken : Prop :=
  Claims.QueueSlots ∧ Claims.SimplePackets

/-- R100, R102, R104, R210, R219: a LAUNCH packet whose record is accepted makes a new grid with the queue's base priority, which has
placed no team; a COPY or LAYOUT packet becomes a command of its own, which starts.
Where each of these completes with its own effect: launchPacket, copyPacket, layoutPacket. -/
def Obligations.WorkPackets : Prop :=
  (∀ (s : State) (ctx q : Nat) (p : Packet) (r : LaunchRec) (entries : List (BitVec 256)) (copy : SMap (BitVec 256)),
    served s ctx q .launch p → plainPacket p 1 → s.checkLaunch p.x (p.word 1) = .accepted r entries copy →
    ∃ u g, exec (.launchPacket ctx q) s = .next u ∧ u.grids = s.grids ++ [g] ∧ u.nextId = s.nextId + 1 ∧ g.id = s.nextId ∧ g.ctx = ctx ∧
      g.queue = q ∧ g.prio = p.queue.prio ∧ g.launch = r ∧ g.lrec = p.word 1 ∧ g.placed = [] ∧ g.finished = 0 ∧ g.waitSince = s.cyc ∧
      g.live = true ∧ g.held = false ∧ u.strands = s.strands ∧ u.cmds = s.cmds) ∧
  (∀ (s : State) (ctx q : Nat) (p : Packet), served s ctx q .launch p → plainPacket p 1 →
    let done (u : State) : Out := then_ ctx q p (u.noteLaunch p.x (p.word 1))
    (s.checkLaunch p.x (p.word 1) = .malformed → exec (.launchPacket ctx q) s = done (s.consume p 2)) ∧
    (s.checkLaunch p.x (p.word 1) = .unplaceable → exec (.launchPacket ctx q) s = done (s.consume p 3)) ∧
    (∀ y, s.checkLaunch p.x (p.word 1) = .poisoned y → exec (.launchPacket ctx q) s = done ((s.packetPoison p y).consume p 2))) ∧
  (∀ (s : State) (ctx q tower : Nat) (p : Packet) (a b : Got),
    s.schedRead p.x (p.word 1) 128 64 = .ok a → s.schedRead p.x (p.word 2) 128 64 = .ok b → s.packetTower p.q = some tower →
    let taken (c : Cmd) : State :=
      (({ s with cmds := s.cmds ++ [c], nextId := s.nextId + 1 } : State).consume p 1).setQueue p.x.num p.q fun k => { k with open_ := k.open_ ++ [c.id] }
    (served s ctx q .copy p → plainPacket p 5 → wbits (p.word 3) 12 52 = 0 → s.counterOk p.x (p.word 4) = true →
      let c := s.packetCmd p .copy tower (p.word 3 <<< 32) 0 0 (p.word 4) (p.word 5)
      exec (.copyPacket ctx q) s = then_ ctx q p
        ((((taken c).chosen.copyPacketStart p.x (taken c).choice c (viewOf a.val) (viewOf b.val) (a.pois.or b.pois)).cacheEnds p.x c.id).deviceNotes p.x
          [(p.word 1, 128), (p.word 2, 128)])) ∧
    (served s ctx q .layout p → p.bits % 2 ^ 16 = 0 → wbits (p.word 5) 12 52 = 0 → s.counterOk p.x (p.word 6) = true →
      p.bits < 2 ^ 512 →
      let c := s.packetCmd p .layout tower (p.word 3) (p.word 5 <<< 28) (p.word 4) (p.word 6) (p.word 7)
      exec (.layoutPacket ctx q) s = then_ ctx q p
        ((((taken c).chosen.layoutPacketStart p.x (taken c).choice c (viewOf a.val) (viewOf b.val) (a.pois.or b.pois)).cacheEnds p.x c.id).deviceNotes p.x
          [(p.word 1, 128), (p.word 2, 128)])))

/-- R117, R292: PREEMPT holds the grids its scope names and asks their placed teams to stop; RESUME lets held grids wait anew; SCOPE 3 and 4
resume or discard the frozen team one of whose records the packet names (its grid goes once no other team of it that has faulted is still to be
saved, R283), and a packet that names none has status 2.
Where each of these completes with its own effect: preemptPacket, resumePacket, resumeFrozenTeam, discardFrozenTeam. -/
def Sys2Proof.Claims.ScopePackets : Prop :=
  (∀ (s : State) (ctx q : Nat) (p : Packet), served s ctx q .preempt p → plainPacket p 3 → (p.word 1).toNat < 3 →
    s.counterOk p.x (p.word 3) = true →
    let ids := s.scopeGrids ctx (p.word 1).toNat (p.word 2)
    ∃ u, exec (.preemptPacket ctx q) s = .next u ∧
      u.grids = s.grids.map (fun g => if g.id ∈ ids then { g with held := true } else g) ∧ u.strands = s.strands ∧ u.cmds = s.cmds ∧
      u.teams = s.teams.map fun t =>
        if (∃ k ∈ s.placedTeams, k.grid ∈ ids ∧ k.id = t.id) then { t with stopAsked := true } else t) ∧
  (∀ (s : State) (ctx q : Nat) (p : Packet), served s ctx q .resume p → plainPacket p 2 → (p.word 1).toNat < 3 →
    let ids := s.scopeGrids ctx (p.word 1).toNat (p.word 2)
    ∃ u, exec (.resumePacket ctx q) s = .next u ∧ u.grids.length = s.grids.length ∧
      (∀ g, g ∈ ids → ∀ y, u.grid g = some y → y.held = false) ∧ (∀ g, g ∉ ids → u.grid g = s.grid g)) ∧
  (∀ (s : State) (ctx q : Nat) (p : Packet) (t : Team), s.frozenTeam ctx (p.word 2) = some t → p.bits % 2 ^ 16 = 0 →
    wbits (p.word 1) 8 56 = 0 → p.bits < 2 ^ 192 →
    (served s ctx q .resumeFrozen p →
      (t.nores = true → exec (.resumeFrozenTeam ctx q) s = then_ ctx q p (s.consume p 2)) ∧
      (t.nores = false → ∃ u y, exec (.resumeFrozenTeam ctx q) s = .next u ∧ u.team t.id = some y ∧
        y.st = .saved ∧ y.waitSince = s.cyc ∧ y.tcyc = t.tcyc)) ∧
    (served s ctx q .discardFrozen p →
      let u := s.setTeam { t with st := .gone }
      exec (.discardFrozenTeam ctx q) s = then_ ctx q p ((if u.discardReady t.grid then u.discardGrid t.grid else u).consume p 1))) ∧
  (∀ (s : State) (ctx q : Nat) (p : Packet), s.frozenTeam ctx (p.word 2) = none →
    (served s ctx q .resumeFrozen p → exec (.resumeFrozenTeam ctx q) s = then_ ctx q p (s.consume p 2)) ∧
    (served s ctx q .discardFrozen p → exec (.discardFrozenTeam ctx q) s = then_ ctx q p (s.consume p 2)))

/-- R74, R91, R100, R109, R248, R393, R489: a WAIT's hold ends with its condition, a FENCE's when every earlier packet and grid is done; and the
scheduler takes a core's oldest pending launch, in a tower cycle no earlier than 16 after its LAUNCH and once the tokens and commands it waits for are
done, into a grid of the launching team's queue and priority.
Where each of these completes with its own effect: waitPacketSatisfied, fencePacketComplete, pendingLaunchTake. -/
def Sys2Proof.Claims.QueueHolds : Prop :=
  (∀ (s : State) (ctx q : Nat) (x : Context) (k : Queue), s.context ctx = some x → x.queues[q]? = some k →
    (∀ a t, k.hold = .wait a t →
      (s.queueWaitMet ctx a t = true → exec (.waitPacketSatisfied ctx q) s = .next (s.setQueue ctx q fun k => { k with hold := .none })) ∧
      (s.queueWaitMet ctx a t = false → exec (.waitPacketSatisfied ctx q) s = .next (s.pollCounter ctx a))) ∧
    (∀ e a n, k.hold = .fence e a n →
      (s.queueDrained k = true → exec (.fencePacketComplete ctx q) s = .next
        ((s.setQueue ctx q fun k => { k with hold := .none, open_ := [], grids := [] }).counterAdd ctx a n.toNat)) ∧
      (s.queueDrained k = false → exec (.fencePacketComplete ctx q) s = .next s))) ∧
  (∀ (s : State) (core : Nat) (l : PendingLaunch) (rest : List PendingLaunch) (c : Cmd) (t : Team) (x : Context) (g : Grid),
    core < 16 → (s.core core).launches = l :: rest → s.cmd l.cmd = some c → s.team c.team = some t → s.context c.ctx = some x →
    s.grid t.grid = some g → s.ticks (core / 4) = true → l.issued + 16 ≤ t.tcyc → t.freezing = false → c.notBefore ≤ s.cyc → s.launchHeld c = false →
    (∀ r, s.tokenFault c = some r → exec (.pendingLaunchTake core) s = .next ((s.popLaunch core).commandFault c r)) ∧
    (s.tokenFault c = none →
      (∀ r entries copy, (s.popLaunch core).checkLaunch x l.addr = .accepted r entries copy →
        ∃ u y, exec (.pendingLaunchTake core) s = .next u ∧ (u.core core).launches = rest ∧ u.grids = s.grids ++ [y] ∧ y.id = s.nextId ∧
          y.queue = g.queue ∧ y.prio = g.prio ∧ y.launch = r ∧ y.ctx = c.ctx ∧ (u.cmd c.id).map (·.st) = some (.finishing 0)) ∧
      ((s.popLaunch core).checkLaunch x l.addr = .malformed ∨ (s.popLaunch core).checkLaunch x l.addr = .unplaceable →
        ∃ u, exec (.pendingLaunchTake core) s = .next u ∧ (u.core core).launches = rest ∧ u.grids = s.grids ∧
          (u.cmd c.id).map (·.st) = some (.finishing 5)))) ∧
  (∀ (s : State) (core : Nat) (l : PendingLaunch) (rest : List PendingLaunch) (c : Cmd) (t : Team), (s.core core).launches = l :: rest →
    s.cmd l.cmd = some c → s.team c.team = some t → (s.ticks (core / 4) = false ∨ t.tcyc < l.issued + 16 ∨ s.launchHeld c = true) →
    exec (.pendingLaunchTake core) s = .next s)

/-- R100, R109, R117, R292, R393, R489: PREEMPT, RESUME, the holds of a queue, and pending launches. -/
def Obligations.ScopesAndHolds : Prop :=
  Claims.ScopePackets ∧ Claims.QueueHolds

/-! ### Teams -/

/-- R20, R59, R84, R85, R103, R104, R118: the next team of the grid whose turn it is takes one of its places, a new one with the launch
record's words in its strands (which one, R58 leaves open: log 40), a saved one as the header of its save area has it; its strands start when its
streams are loaded; and a strand whose engines have drained retires, the last one with its team. That the registers the spec gives no launch
value are zero is the model's choice (log 6), and so is the header's layout (log 34).
Where each of these completes with its own effect: teamAdmit, teamResume, streamsLoaded, strandRetire. -/
def Obligations.TeamPlacement : Prop :=
  (∀ (s : State) (g : Grid) (x : Context), s.nextGrid = some g → s.nextTeam g = some none → s.context g.ctx = some x →
    s.places g.need ≠ [] → (∀ y ∈ s.strands, y.team ≠ s.nextId) → s.team s.nextId = none →
    ∃ u t, exec (.teamAdmit g.id) s = .next u ∧ u.team s.nextId = some t ∧ t.grid = g.id ∧ t.ctx = g.ctx ∧ t.index = g.nextIndex s.chosen.choice ∧
      t.width = g.launch.wm1 + 1 ∧ t.st = .loading ∧ (t.t0, t.c0, t.beltBases) ∈ s.places g.need ∧ t.tcyc = 0 ∧ t.claims = g.launch.claims ∧
      (u.grid g.id).map (·.placed) = some (t.index :: g.placed) ∧ u.rotation = (g.ctx, g.queue) ∧
      ∀ i, i < t.width → ∃ y, u.strand s.nextId i = some y ∧ y.pc = 0 ∧ y.st = .loading ∧ y.s = Vector.replicate 64 0 ∧
        ∀ k : Fin 8, y.arg.get k = g.launch.args.getD k 0) ∧
  (∀ (s : State) (g : Grid) (x : Context) (t : Team) (t0 c0 : Nat) (bases : List Nat), s.nextGrid = some g → s.nextTeam g = some (some t) →
    s.context g.ctx = some x → (s.places (s.teamNeed t))[s.choice % (s.places (s.teamNeed t)).length]? = some (t0, c0, bases) →
    let y : Team := { t with t0, c0, beltBases := bases, st := .loading, moved := t0 != t.t0 || c0 != t.c0, nres := (t.nres + 1) % 2 ^ 16,
                             since := s.cyc, records := [], nores := false }
    let v := (List.range t.width).foldl (fun s i => s.giveTiles y i)
      ((s.chosen.setTeam y).mapStrands t.id fun z => if z.st == .retired then z else { z with st := .loading })
    let head := (v.savedWords x (structPlus g.launch.saveaddr (t.index * t.saveSize)) 0 8192).map (·.1)
    ∃ u b, exec (.teamResume t.id) s = .next u ∧
      u.team t.id = some { y.ofHeader (v.live t.id).length (fun n => head.getD n 0) with stopAsked := b }) ∧
  (∀ (s : State) (t : Team), s.team t.id = some t → t.st = .loading →
    ∃ u, exec (.streamsLoaded t.id) s = .next u ∧
      u.strands = s.strands.map (fun x => if x.team = t.id ∧ (x.st = .loading ∨ x.st = .saved) then
        { x with st := if x.prior = .drain then .drain else .run } else x) ∧
      (u.team t.id).map (·.claims) = some (t.claims.map fun k =>
        if k.st = .waiting then { k with st := .held }
        else if k.budget = .none ∧ k.st = .held then { k with budget := .paced 256 (t.tcyc + 2 ^ 20) } else k)) ∧
  (∀ (s : State) (t : Team) (st : Strand), s.team t.id = some t → s.strand t.id st.index = some st → st.st = .drain → t.st = .resident →
    s.drained t st = true →
    ∃ u, exec (.strandRetire t.id st.index) s = .next u ∧
      ((∃ x ∈ s.live t.id, x.index ≠ st.index) →
        (u.strand t.id st.index).map (·.st) = some .retired ∧ (∃ b, u.team t.id = some { t with stopAsked := b }) ∧ u.grids = s.grids) ∧
      ((∀ x ∈ s.live t.id, x.index = st.index) → u.team t.id = none ∧ (∀ x ∈ u.strands, x.team ≠ t.id) ∧
        ∀ g, s.grid t.grid = some g → (u.grid t.grid).map (·.finished) = some (g.finished + 1) ∧
          (g.live = true → g.finished + 1 = g.launch.teams → (u.grid t.grid).map (·.live) = some false)))

/-- R62 to R64, R246, R355, R375, R389: a held strand goes on in a tower cycle in which its waits are met, all at once where it has several (log 45),
and what they acquire is joined; it stays while one is not; a rendezvous whose deadline comes gives each strand that takes part and has not
issued its TIMED a SCHEDULE RDV, on a bundle of cycle V - 16 (log 49), and nothing where all have.
Where each of these completes with its own effect: waitRelease, timedRdvDeadline. -/
def Obligations.WaitsEnd : Prop :=
  (∀ (s : State) (t : Team) (st : Strand), s.team t.id = some t → s.strand t.id st.index = some st → st.st = .wait → t.before = true →
    (s.ticks (t.strandTower st.index) = false → exec (.waitRelease t.id st.index) s = .next s) ∧
    (s.ticks (t.strandTower st.index) = true →
      let told := s.serveWaits t st
      ∀ y z, told.team t.id = some y → told.strand t.id st.index = some z →
        (told.waitsMet y z z.waits = .ok true → exec (.waitRelease t.id st.index) s =
          .next (z.waits.foldl (fun u w => u.acquireWait y st.index (y.tcyc - 1) w) (told.setStrand (z.release y.tcyc)))) ∧
        (told.waitsMet y z z.waits = .ok false → exec (.waitRelease t.id st.index) s = .next told) ∧
        (∀ r, told.waitsMet y z z.waits = .error r → ∃ stop pc, y.tcyc < stop ∧ stop ≤ y.tcyc + 64 ∧
          exec (.waitRelease t.id st.index) s = .next (told.chosen.takeFault t.id stop [(st.index, pc, r, 0)])) ∧
        (∀ a b c, st.waits = [.tokens a b c] → st.isPending a = false → st.isPending b = false → st.isPending c = false →
          told.waitsMet y z z.waits = .ok true))) ∧
  (∀ (s : State) (t : Team) (v : Nat), s.team t.id = some t → s.entryValue t = some v → t.issues = true → v = t.tcyc + 16 →
    s.phase = .resolve →
    ((∀ x ∈ s.partners t.id, s.hasEntered t x = true) → exec (.timedRdvDeadline t.id) s = .next s) ∧
    ∃ u, exec (.timedRdvDeadline t.id) s = .next u ∧ u.strands = s.strands ∧ u.teams = s.teams ∧
      ∀ x ∈ s.partners t.id, s.hasEntered t x = false → ∃ b ∈ u.bundles, b.tm.id = t.id ∧ b.st.index = x.index ∧
        ∃ r ∈ b.raised, r.cause = .scheduleRdv ∧ r.detail = BitVec.ofNat 64 v)

/-- R104 to R106, R111 to R113, R282: what makes a waiting grid due, starts its count anew, and asks a team to stop, and the team that is asked stops
within 64 cycles outside a fabric-timed section. That the end of a quantum compares the waiting grid's effective priority with the base PRIO of
the resident one is the model's choice (log 94).
Where each of these completes with its own effect: gridDue, gridPriorityRise, quantumExpiry, swapOut, swappedCounterReached, preemptStop. -/
def Obligations.StopRequests : Prop :=
  (∀ (s : State) (g : Grid) (z : Nat), s.grid g.id = some g → g.zeroSince = some z → (s.nextTeam g).isSome = true →
    g.due = false → z + Config.agingInterval ≤ s.cyc → s.nextPlaces g = [] → exec (.gridDue g.id) s = .next (s.setGrid { g with due := true })) ∧
  (∀ (s : State) (g : Grid) (z : Nat), s.grid g.id = some g → g.zeroSince = some z → (s.nextTeam g).isSome = true → g.due = false →
    s.nextPlaces g ≠ [] → exec (.gridDue g.id) s = .next (s.setGrid { g with zeroSince := some s.cyc })) ∧
  (∀ (s : State) (g : Grid), s.grid g.id = some g → (s.nextTeam g).isSome = true → g.waitSince < s.cyc →
    (s.cyc - g.waitSince) % Config.agingInterval = 0 →
    ∃ u y, exec (.gridPriorityRise g.id) s = .next u ∧ u.grid g.id = some y ∧
      (y.zeroSince = if s.priority g = 0 ∧ g.zeroSince = none then some s.cyc else g.zeroSince) ∧ u.strands = s.strands) ∧
  (∀ (s : State) (t : Team) (g : Grid), s.team t.id = some t → s.grid t.grid = some g → s.quantumOver t = true →
    (s.teams.map (·.id)).Nodup → (∀ x ∈ s.teams, s.quantumOver x = true → x.id = t.id) →
    (∀ h ∈ s.grids, ∀ x ∈ s.teams, s.outranks h x = false) →
    (∃ h ∈ s.grids, (s.nextTeam h).isSome = true ∧ s.priority h ≤ g.prio ∧ s.nextPlaces h = [] ∧
      (s.without s.leaving).nextPlaces h = [] ∧ (s.without (s.leaving ++ [t.id])).nextPlaces h ≠ []) →
    ∃ u, exec (.quantumExpiry t.id) s = .next u ∧ u.team t.id = some { t with stopAsked := true } ∧
      ∀ x ∈ s.teams, x.id ≠ t.id → u.team x.id = some x) ∧
  (∀ (s : State) (t : Team), s.team t.id = some t → (s.teams.map (·.id)).Nodup →
    ∃ u, exec (.quantumExpiry t.id) s = .next u ∧ u.strands = s.strands ∧ u.grids = s.grids ∧ (s.quantumOver t = false → u = s) ∧
      ∀ y ∈ u.teams, ∃ x ∈ s.teams, y = { x with stopAsked := y.stopAsked } ∧ (x.stopAsked = true → y.stopAsked = true) ∧
        (y.stopAsked = true → x.stopAsked = true ∨ x.st = .resident ∧ ∃ g, s.grid x.grid = some g ∧ ∃ h ∈ s.grids,
          (s.nextTeam h).isSome = true ∧ s.nextPlaces h = [] ∧ (s.priority h < g.prio ∨ s.quantumOver x = true ∧ s.priority h ≤ g.prio))) ∧
  (∀ (s : State) (t : Team) (st : Strand) (a w : Word) (cycles : BitVec 40) (since slot : Nat) (report : Option Nat), s.team t.id = some t →
    s.strand t.id st.index = some st → st.st = .wait → st.waits = [.counter a w since cycles slot report] → t.st = .resident →
    t.stopAsked = false → cycles ≠ 0 → since + cycles.toNat ≤ s.cyc → s.inFabricSection t.id = false →
    exec (.swapOut t.id st.index) s = .next ((s.setTeam { t with swapTo := some (a, w) }).askStop [t.id])) ∧
  (∀ (s : State) (t : Team) (a w : Word), s.team t.id = some t → t.st = .swapped a w → s.counterReached t.ctx a w = .ok true →
    ∃ u y, exec (.swappedCounterReached t.id) s = .next u ∧ u.team t.id = some y ∧ y.st = .saved ∧
      ∀ g, s.grid t.grid = some g → (u.grid t.grid).map (fun h => (h.waitSince, h.zeroSince)) = some (g.waitSince,
        if (s.nextTeam g).isSome = true then g.zeroSince else if s.priority g = 0 then some s.cyc else none)) ∧
  (∀ (s : State) (t : Team), s.team t.id = some t → t.st = .resident → t.stopAsked = true →
    (s.inFabricSection t.id = true → exec (.preemptStop t.id) s = .next s) ∧
    (s.inFabricSection t.id = false → ∃ stop, t.tcyc < stop ∧ stop ≤ t.tcyc + 64 ∧
      exec (.preemptStop t.id) s = .next (s.chosen.setTeam { t with st := .stopping stop false })))

/-- R113 to R115, R117, R284, R285, R291, R293, R493: a team whose engines are at rest is saved with its team cycle at the stop cycle: for the
waiting set, or frozen for the host after a PROBE fault or a TRAP; where a fault of another kind stopped it, or its save area cannot be
written, it is gone. Timed fabric commands end first. A grid with such a team loses every team, all in one cycle (log 64), then its records are
written, and then it is complete. A record that is never dropped waits while FWIDX - FRIDX leaves no room, and is written at FWIDX where it does.
Where each of these completes with its own effect: teamSave, gridDiscard, faultQueueRoom. -/
def Obligations.SavesAndDiscards : Prop :=
  (∀ (s : State) (t : Team) (a : Nat) (hard : Bool) (x : Context) (g : Grid), s.team t.id = some t → t.st = .stopping a hard →
    s.context t.ctx = some x → s.grid t.grid = some g → x.destroying = false → s.timedOf t.id = [] → s.atRest t a hard = true →
    let w := s.writeParts x (structPlus g.launch.saveaddr (t.index * t.saveSize)) (s.saveParts t (s.savedStrands t a) a)
    ∃ u y, exec (.teamSave t.id) s = .next u ∧ u.team t.id = some y ∧ y.index = t.index ∧ y.pending = t.pending ∧
      (hard = true ∨ w.2.isSome = true → y.st = .gone) ∧
      (hard = false → w.2 = none → y.tcyc = a ∧ y.claims = t.claims.map (fun k => k.saved a t.yieldAt) ∧
        (t.faulted = true → y.st = .frozen) ∧
        (t.faulted = false →
          (t.swapTo = none → y.st = .saved) ∧ ∀ c v, t.swapTo = some (c, v) → y.st = .swapped c v))) ∧
  (∀ (s : State) (t : Team) (a : Nat) (hard : Bool), s.team t.id = some t → t.st = .stopping a hard → s.timedOf t.id = [] →
    s.atRest t a hard = false → exec (.teamSave t.id) s = .next s) ∧
  (∀ (s : State) (t : Team) (a : Nat) (hard : Bool) (x : Context), s.team t.id = some t → t.st = .stopping a hard →
    s.context t.ctx = some x → x.destroying = false → s.timedOf t.id ≠ [] → (hard = true ∨ t.faulted = true) → a ≤ t.tcyc →
    exec (.teamSave t.id) s = .next (s.withdrawAll fun c => c.team == t.id && c.packet.isNone)) ∧
  (∀ (s : State) (grid : Nat) (g : Grid), s.grid grid = some g →
    (g.closing = false → s.discardReady grid = true → ∃ u, exec (.gridDiscard grid) s = .next u ∧ (∀ t ∈ u.teams, t.grid ≠ grid) ∧
      (u.grid grid).map (·.closing) = some true) ∧
    (g.closing = false → s.discardReady grid = false → exec (.gridDiscard grid) s = .next s) ∧
    (g.closing = true → s.recordsLeft g = true → exec (.gridDiscard grid) s = .next (s.flushRecords g.ctx)) ∧
    (g.closing = true → s.recordsLeft g = false → ∃ u, exec (.gridDiscard grid) s = .next u ∧
      (u.grid grid).map (fun g => (g.live, g.closing, g.outcome, g.end_)) = some (false, false, 1, s.cyc))) ∧
  (∀ (s : State) (ctx : Nat), exec (.faultQueueRoom ctx) s = .next (s.flushRecords ctx)) ∧
  (∀ (s : State) (ctx : Nat) (x : Context) (p : PendingRecord) (l : List PendingRecord), s.context ctx = some x → x.records = p :: l →
    (p.ready = false ∨ s.cyc ≤ p.cyc) → s.flushRecords ctx = s.setContext x) ∧
  (∀ (s : State) (x : Context) (p : PendingRecord), s.context x.num = some x →
    let h := s.deviceRead x x.fq 64
    let size := 2 ^ bits h 64 5
    let room := (x.fwidx + (2 ^ 64 - bits h 192 64)) % 2 ^ 64 < size
    let r := s.writeRecord x p
    (room → r.2 = true ∧ (r.1.context x.num).map (·.fwidx) = some (x.fwidx + 1)) ∧
    (¬room → p.keep = true → r = (s.deviceNote x x.fq 64, false)) ∧
    (¬room → p.keep = false → r.2 = true ∧ (r.1.context x.num).map (·.fwidx) = some x.fwidx))

/-- R107, R108, R197, R198, R201: a lease whose budget ends before the stop cycle expires; a waiting request is granted in a cycle of its tower when
no holder or earlier waiter conflicts, after the replay of the loads it recorded, and then has a fresh budget.
Where each of these completes with its own effect: leaseBudgetExpiry, leaseGrant, leaseReplayComplete. -/
def Sys2Proof.Claims.Leases : Prop :=
  ∀ (s : State) (t : Team) (i : Nat) (k : Claim), s.team t.id = some t → t.claims[i]? = some k → t.before = true →
    let puts (c : Claim) : State := s.setTeam { t with claims := t.claims.set i c }
    (k.st = .held → k.heldAt t.tcyc = false → exec (.leaseBudgetExpiry t.id i) s = .next (puts { k with st := .expired })) ∧
    (k.st = .held → k.heldAt t.tcyc = true → exec (.leaseBudgetExpiry t.id i) s = .next s) ∧
    (k.st = .waiting → s.grantable t.id (t.tower k.btw) k k.reqCyc k.reqCore = false → exec (.leaseGrant t.id i) s = .next s) ∧
    (k.st = .waiting → s.ticks (t.tower k.btw) = false → exec (.leaseGrant t.id i) s = .next s) ∧
    (k.st = .waiting → s.ticks (t.tower k.btw) = true → s.grantable t.id (t.tower k.btw) k k.reqCyc k.reqCore = true →
      (k.recActive = [] → k.recShadow = [] → exec (.leaseGrant t.id i) s = .next
        (((puts { k with st := .held, budget := .paced 256 (t.tcyc + 2 ^ 20) }).zeroPlanes { t with claims := [k] }).finishLease t i)) ∧
      ((k.recActive ≠ [] ∨ k.recShadow ≠ []) → ∃ e, t.tcyc ≤ e ∧ e ≤ t.tcyc + 260 ∧
        exec (.leaseGrant t.id i) s =
          .next ((s.chosen.setTeam { t with claims := t.claims.set i { k with st := .replaying, replayEnd := e } }).ownPlanes t k))) ∧
    (k.st = .replaying → s.ticks (t.tower k.btw) = true → k.replayEnd ≤ t.tcyc → exec (.leaseReplayComplete t.id i) s = .next
      (((puts { k with st := .held, budget := .paced 256 (t.tcyc + 2 ^ 20) }).replayClaim t k).finishLease t i))

/-- R235, R236, R436, R486: the address generator reads the view of a newly written slot in a cycle in which its bank is free, and at the latest in
the 32nd tower cycle after its write (log 103), and the data of an outstanding request return to DQ at the earliest 64 cycles after its push, when
no granule is outstanding for it.
Where each of these completes with its own effect: qvViewRead, dqEntryArrive. -/
def Sys2Proof.Claims.ViewsAndEntries : Prop :=
  ∀ (s : State) (t : Team) (st : Strand) (x : Context), s.team t.id = some t → s.strand t.id st.index = some st →
    s.context t.ctx = some x → t.onCores = true →
    (∀ (m : Fin 4) (r : Nat), (st.qv.get m).readAt = some r →
      let a := (st.qv.get m).reg.extractLsb' 0 28
      let q : QvSlot := { reg := (st.qv.get m).reg, readAt := none, st := s.readQv x t a }
      let tower := t.strandTower st.index
      let done : Out := .next ((s.setStrand { st with qv := st.qv.set m q }).cacheQv x tower q.st)
      (r + 32 ≤ (s.tower tower).time → exec (.qvViewRead t.id st.index m) s = done) ∧
      ((s.tower tower).time < r + 32 →
        ((∀ k ∈ t.readLines [(a, false, 0, 128)], s.lineFree k = true) →
          exec (.qvViewRead t.id st.index m) s = done ∨ exec (.qvViewRead t.id st.index m) s = .next s) ∧
        ((∃ k ∈ t.readLines [(a, false, 0, 128)], s.lineFree k = false) → exec (.qvViewRead t.id st.index m) s = .next s))) ∧
    (let time := (s.tower (t.strandTower st.index)).time
     (∀ e, s.entryDue time e = true ↔ e.place = .outstanding ∧ e.pushed + 64 ≤ time ∧ e.ready ≤ time ∧
       ∀ o ∈ s.fabric.outstanding, o.cmd ≠ e.id) ∧
     (∀ e, st.aq.find? (s.entryDue time) = some e →
       exec (.dqEntryArrive t.id st.index) s = .next (s.readEntry x t st e) ∧
       (e.src = none → s.readEntry x t st e = s.setStrand (st.setEntry { e with place := .arrived }))) ∧
     ((∀ e ∈ st.aq, s.entryDue time e = false) → exec (.dqEntryArrive t.id st.index) s = .next s))

/-- R235 to R237, R436, R437, R439, R486: the address queues, their slots and their events.
What in it rests on the model's own readings is in the assumption log: log 103. -/
def Obligations.AddressQueues : Prop :=
  Claims.AddressQueueSlots ∧ Claims.ViewsAndEntries

/-- R296 to R298: a replay that agrees with the command's signatures frees the tower's auditor; one that differs is replayed at the next sound site
of another tower, and the second replay gives the verdict, which one event records and the grid counts. A sound site's replay differs where
the logged step, replayed, does not give what the command gave.
Where each of these completes with its own effect: auditReplayComplete, auditSecondReplayComplete. -/
def Sys2Proof.Claims.Audits : Prop :=
  ∀ (s : State) (i row : Nat) (flip : BitVec 128) (x : Sample), i < 4 → (s.tower i).sample = some x →
    (x.complete = true → x.bad1 = none → x.mismatch row flip = none →
      exec (.auditReplayComplete i row flip) s = .next (s.setTower i { s.tower i with sample := none })) ∧
    (∀ place v, x.complete = true → x.bad1 = none → x.mismatch row flip = some (place, v) →
      let site := s.auditSite (((List.range 4).map fun k => (i + k) % 4).filter fun y => y != i && some y != x.site1)
      (∀ y, site = some y → exec (.auditReplayComplete i row flip) s =
        .next (s.setTower i { s.tower i with sample := some { x with bad1 := some (place, v), site2 := some y } })) ∧
      (site = none → exec (.auditReplayComplete i row flip) s = .next (s.auditEvent i x place 2 (x.site1.getD 0)))) ∧
    (x.mismatch row 0 = none ↔ ∀ e ∈ x.compared, e.2.1 = e.2.2) ∧
    (∀ place first, x.bad1 = some (place, first) →
      (∀ k own rep, x.compared.find? (·.1 == place) = some (k, own, rep) →
        exec (.auditSecondReplayComplete i flip) s = .next (s.auditEvent i x place
          (if rep ^^^ flip = first then 0 else if rep ^^^ flip = own then 1 else 3) (x.site2.getD 0))) ∧
      (x.compared.find? (·.1 == place) = none →
        exec (.auditSecondReplayComplete i flip) s = .next (s.auditEvent i x place 3 (x.site2.getD 0)))) ∧
    (∀ r v y, ((s.auditEvent i x r v y).tower i).sample = none ∧
      ∀ g, s.grid x.grid = some g → ((s.auditEvent i x r v y).grid x.grid).map (·.mismatch) = some (g.mismatch + 1))

/-- R107, R108, R197, R198, R296 to R298: band leases, and the auditor's replays. -/
def Obligations.LeasesAndAudits : Prop :=
  Claims.Leases ∧ Claims.Audits

/-! ### Memory and pages -/

/-- R140, R142, R143, R161, R290: a short-lived page ends at its deadline; the hot band takes the deadlines of its stack's live pages away, and the
return to the normal band gives new ones; and an uncorrectable error poisons what it is found in, or marks its slot; one
that the ECC corrects is counted.
Where each of these completes with its own effect: shortPageDeadline, hotBandEnter, normalBandReturn, uncorrectableError. -/
def Sys2Proof.Claims.MemoryEvents : Prop :=
  (∀ (s : State) (page d : Nat) (p : ShortPage), SMap.get none s.shortPages page = some p → p.deadline = some d → d ≤ s.cyc →
    exec (.shortPageDeadline page) s = .next { s with shortPages := SMap.set none s.shortPages page none }) ∧
  (∀ (s : State) (k : Nat), k < 32 → (s.memStacks.toList.getD k Stack.cold).hot = false →
    ∃ u, exec (.hotBandEnter k) s = .next u ∧ (u.memStacks.toList.getD k Stack.cold).hot = true ∧ u.hbm = s.hbm ∧
      u.shortPages = s.shortPages.map fun e => if e.1 / 2 ^ 21 = k then (e.1, e.2.map fun p =>
        if ∃ d, p.deadline = some d ∧ s.cyc < d then { p with deadline := none } else p) else e) ∧
  (∀ (s : State) (k : Nat), k < 32 → (s.memStacks.toList.getD k Stack.cold).hot = true →
    ∃ u, exec (.normalBandReturn k) s = .next u ∧ (u.memStacks.toList.getD k Stack.cold).hot = false ∧ u.hbm = s.hbm ∧
      u.shortPages = s.shortPages.map fun e => if e.1 / 2 ^ 21 = k then (e.1, e.2.map fun p =>
        if p.deadline = none then { p with deadline := some (s.cyc + p.window) } else p) else e) ∧
  (∀ (s : State) (g : Nat), g < 2 ^ 36 → ∃ c, exec (.uncorrectableError (.granule g)) s =
    .next (s.setGranule g { s.granule g with pois := some (c, 0) })) ∧
  (∀ (s : State) (tower p : Nat), tower < 4 → p < 2 ^ 14 → ∃ u, exec (.uncorrectableError (.parcel tower p)) s = .next u ∧
    u.tags = SMap.set 0 s.tags (2 ^ 14 * tower + p) 0xFFFF#16 ∧ (∀ e ∈ u.newTags, e.1 ≠ 2 ^ 14 * tower + p) ∧
    (∀ e ∈ s.newTags, e.1 ≠ 2 ^ 14 * tower + p → e ∈ u.newTags) ∧ u.ring = s.ring ∧ u.hbm = s.hbm ∧ u.strands = s.strands) ∧
  (∀ (s : State) (core team i : Nat) (d : BitVec 6) (st : Strand), core < 16 → (s.core core).occupant = some (team, i) →
    s.strand team i = some st → exec (.uncorrectableError (.sreg core d)) s = .next (s.setStrand (st.setSreg d (st.sreg d) true))) ∧
  (∀ (s : State) (tower tile l : Nat), tower < 4 → tile < 64 → l < 128 → exec (.uncorrectableError (.tileLine tower tile l)) s =
    .next (s.setLine (tileKey tower tile l) { s.line (tileKey tower tile l) with pois := true })) ∧
  (∀ (s : State) (core k : Nat), core < 16 → k < 65536 → exec (.uncorrectableError (.slot core k)) s =
    .next { s with slotErrors := SMap.set false s.slotErrors (65536 * core + k) true }) ∧
  (∀ s : State, exec (.uncorrectableError .corrected) s = .next { s with keep := { s.keep with corrected := s.keep.corrected + 1 } })

/-- R148, R150, R151: at the end of a sampling interval each stack's candidates become its hot list, largest estimate first, and its sketch is
cleared, and a running migration goes on; SWITCH brings the page to its new place and names it in the table entry (that it alters no granule
which another context's tables hold, and leaves free values in those of its own, is log 74); SHOOT drops the translations cached of its block,
and once the accesses that used them have performed, DONE logs the move.
Where each of these completes with its own effect: samplingIntervalEnd, migrationCopyComplete, migrationShootComplete. -/
def Sys2Proof.Claims.Migration : Prop :=
  (∀ s : State, s.cyc % 2 ^ s.keep.sampling = 0 →
    let ks := s.memStacks.map fun k => { k with hotList := (sortLargest HotEntry.est k.candidates).map HotEntry.word, sketch := [], candidates := [] }
    let todo := sortLargest hotEst (ks.toList.flatMap (·.hotList))
    let base : State := { s with memStacks := ks, contexts := s.contexts.map fun x => { x with migUsed := 0 } }
    (s.migration.st ≠ .idle →
      exec .samplingIntervalEnd s = .next { base with migration := { s.migration with todo } }) ∧
    (s.migration.st = .idle → exec .samplingIntervalEnd s = .next (base.migNext todo) ∧
      (todo = [] → base.migNext todo = { base with migration := Migration.idle }))) ∧
  (∀ (e : HotEntry), e.page < 2 ^ 26 → e.est < 2 ^ 16 → e.tid < 2 ^ 20 → e.tix < 2 ^ 32 → e.ctx < 2 ^ 8 →
    hotPage e.word = e.page ∧ hotEst e.word = e.est ∧ hotTid e.word = e.tid ∧ hotTix e.word = e.tix ∧ hotCtx e.word = e.ctx) ∧
  (∀ (s : State) (x : Context), s.context s.migration.ctx = some x → s.migration.st = .copy →
    (∀ o ∈ s.fabric.outstanding, o.pulls = false) →
    let m := s.migration
    let v := if m.peer = none then (s.copyPage x m.tid m.oldPage m.newPage).noteCopy x m else s
    ∃ u, exec .migrationCopyComplete s = .next u ∧ u.migration = { m with st := .shoot } ∧
      (m.peer = none → SMap.wf m.oldPage s.forward = true → SMap.get m.oldPage u.forward m.oldPage = m.newPage) ∧
      (m.peer.isSome = true → u.forward = s.forward) ∧
      u.hbm = (v.setTableWord x m.entryAddr (bits (v.tableWord x m.entryAddr) 0 4 + 2 ^ 16 * m.newPage)).hbm) ∧
  (∀ (s : State) (x : Context), s.context s.migration.ctx = some x → s.migration.st = .shoot →
    let m := s.migration
    let v : State := { s with cached := s.cached.filter fun e =>
      !(e.ctx == m.ctx && e.tid == m.tid && (e.key == .entry m.tix || e.key == .span (m.tix / 512))) }
    (v.shot m = false → exec .migrationShootComplete s =
      .next { v with migration := { m with sent := some (m.sent.getD s.fabric.nextReq) } }) ∧
    (v.shot m = true → exec .migrationShootComplete s =
      .next ((({ v with forward := SMap.erase s.forward m.oldPage (m.oldPage + 1) } : State).migLog
        x m.tid m.tix 0 m.oldPage m.newPage).migNext m.todo)))

/-- R140 to R143, R148, R150, R151, R161, R290: what happens to pages and storage of itself.
What in it rests on the model's own readings is in the assumption log: log 74. -/
def Obligations.MemoryAndMigration : Prop :=
  Claims.MemoryEvents ∧ Claims.Migration

/-! ### The fabric -/

namespace Sys2Proof.Claims

/-- A timed transfer with a sound header reaches a port that faces a device, with its owner's context and the recorded incarnation of its
sender. -/
def arrives (s : State) (a : Arrival) : Prop :=
  s.fabric.joined = true ∧ arrivalOk a = true ∧ s.fabric.loopback s.arrivalTurn a.port = false ∧ s.fabric.owner = some a.ctx ∧
  SMap.get 0 s.fabric.peers a.src = a.inc

/-- The receive posted for an arrival. -/
def postedFor (s : State) (a : Arrival) : Option Posted :=
  s.fabric.posted.find? fun k => k.port == a.port && k.turn == s.arrivalTurn && k.rid == a.rid && !k.matched

/-- The flits of a send, with the slots it has claimed. -/
def flitsOf (c : Cmd) : List (Nat × Nat) := c.slots.zipIdx.map fun e => (e.2, e.1)

/-- What is left of some flits when others have left. -/
def flitsBut (all gone : List (Nat × Nat)) : List Nat := (all.filter fun e => !gone.contains e).map (·.1)

end Sys2Proof.Claims

/-- R252, R258, R260, R265, R266, R268: timed arrivals. One for this device goes to the receive posted for its port, turn and id, whose bytes go
on their way to the ring; where flits were lost or the receive is too short, nothing is written. One for another device is held for its
onward turn, a multicast also for each further member, and one of another owner or incarnation is dropped.
Where each of these completes with its own effect: timedArrival. -/
def Sys2Proof.Claims.TimedArrivals : Prop :=
  (∀ (s : State) (a : Arrival), arrives s a → a.mc = false →
    (a.dst = s.fabric.devid →
      (∀ k c t, postedFor s a = some k → s.cmd k.cmd = some c → s.team c.team = some t →
        ∃ u, exec (.timedArrival a) s = .next u ∧ u.ring = s.ring ∧
          (a.lost = [] → 64 * a.units ≤ recvBytes c.w1 → a.data.length = 64 * a.units →
            (u.cmd k.cmd).map (fun d => (d.sent, d.arrived)) = some (some 0, some (a.data, a.pois)) ∧
            ((∀ e ∈ s.cmds, e.id = c.id ∨ e.op ≠ .frecv) → ∃ l, u.ringQueue = s.ringQueue ++ l ∧ l.flatMap (·.data) = a.data ∧
              ∀ w ∈ l, w.cmd = c.id ∧ w.team = t.id ∧ w.notBefore = s.cyc ∧ w.update = none ∧ w.tag = none ∧
                ∃ j, w.addr = ringAddr (viewAddr c.w0) false j ∧ w.data = (a.data.drop j).take w.data.length)) ∧
          (a.lost ≠ [] ∨ recvBytes c.w1 < 64 * a.units →
            (u.cmd k.cmd).map (·.sent) = some (some 5) ∧ u.ringQueue = s.ringQueue)) ∧
      (postedFor s a = none → exec (.timedArrival a) s = .next (s.unposted a s.arrivalTurn))) ∧
    (a.dst ≠ s.fabric.devid → a.relayed = false → a.dst < s.fabric.devices →
      exec (.timedArrival a) s = .next (s.hold a s.arrivalTurn a.dst)) ∧
    (a.dst ≠ s.fabric.devid → a.relayed = true → exec (.timedArrival a) s = .next s)) ∧
  (∀ (s : State) (a : Arrival), arrives s a → a.mc = true →
    let mine := if (s.groupOf a.ctx a.dst).getLsbD s.fabric.devid then s.receive a s.arrivalTurn else s
    (a.relayed = true → exec (.timedArrival a) s = .next mine) ∧
    (a.relayed = false → exec (.timedArrival a) s =
      .next ((mine.forwardMembers a.ctx a.dst a.src s.fabric.devid).foldl (fun u d => u.hold a s.arrivalTurn d) mine))) ∧
  (∀ (s : State) (a : Arrival), (s.fabric.owner ≠ some a.ctx ∨ SMap.get 0 s.fabric.peers a.src ≠ a.inc ∨ s.fabric.joined = false) →
    exec (.timedArrival a) s = .next s)

/-- R259, R261, R263, R264, R265, R267, R385: the rest of timed traffic. A relay sends what it holds for a turn, a slot for each flit, and loses
those beyond its share; a receive ends with status OK only where its bytes came; a send reads its data as its cycles come, its flits leave
with the last of its slots and its token is done at the turn's end; and a new owner ends the traffic of the old one: its FSENDs and FRECVs are
REJECTED, with their slots and keys given back. That a unit whose bank is never free is read at the end, and that a receive's writes which still
wait for their banks go on waiting with its token, is the model's choice (log 103).
Where each of these completes with its own effect: relayForward, frecvKeyExpiry, fsendFlitDeparture, fsendTurnEnd, timedOwnerCutover. -/
def Sys2Proof.Claims.TimedSends : Prop :=
  (∀ (s : State) (port : Nat), s.fabric.joined = true → 96 ≤ s.cyc % 4096 → s.cyc % 4096 ≤ slotOffset 1499 →
    let held := s.fabric.relays.filter fun r => r.turn == s.cyc / 4096 && r.port == port
    let left : State := { s with fabric := { s.fabric with relays := s.fabric.relays.filter fun r => !(r.turn == s.cyc / 4096 && r.port == port) } }
    (∃ u, exec (.relayForward port) s = .next u ∧ u.fabric.relays = left.fabric.relays ∧ u.ring = s.ring ∧ u.cmds = s.cmds) ∧
    (held = [] → exec (.relayForward port) s = .next left) ∧
    (∀ r, held = [r] →
      let flits := ((((List.range (flitCount r.a.units)).filter fun i => !r.a.lost.contains i).zipIdx).filter fun e =>
        decide (e.2 < 1500) && s.fabric.carries port e.2)
      exec (.relayForward port) s = .next (left.emit port (s.cyc / 4096) flits { r.a with port, relayed := true
                                                                                          lost := (List.range (flitCount r.a.units)).filter fun i => !(flits.any (·.1 == i)) }))) ∧
  (∀ (s : State) (cmd : Nat) (c : Cmd), s.cmd cmd = some c → c.op = .frecv → c.st = .running → s.cyc = 4096 * (recvTurn c.w1 + 1) + 95 →
    ∃ u, exec (.frecvKeyExpiry cmd) s = .next u ∧ (∀ k ∈ u.fabric.posted, k.cmd ≠ cmd) ∧ u.ringQueue = s.ringQueue ∧
      (u.cmd cmd).map (·.st) = some (.finishing (if c.sent = some 0 ∧ c.arrived.isSome = true ∧ (s.team c.team).isSome = true then 0 else 5))) ∧
  (∀ (s : State) (cmd : Nat) (c : Cmd), s.cmd cmd = some c → c.op = .fsend → c.st = .running →
    (∀ t, s.team c.team = some t → c.sent = none →
      let l := s.sendReads t c
      let v := s.noteRead c (l.map fun u => (viewAddr c.w0, false, 32 * u, 32)) (l.flatMap fun u => t.linesOf (viewAddr c.w0) false (32 * u) 32)
      let c' := v.readUnits t c l
      let good := (flitsOf c).filter fun e => s.fabric.carries (fabPort c.w0) e.2
      (s.cyc ≠ c.lastFlit → exec (.fsendFlitDeparture cmd) s = .next (v.setCmd c')) ∧
      (s.cyc = c.lastFlit → exec (.fsendFlitDeparture cmd) s =
        .next ((v.setCmd { c' with sent := some 0 }).emit (fabPort c.w0) (c.w1.toNat / 4096) good (v.sendPayload t c' (flitsBut (flitsOf c) good))))) ∧
    (s.cyc + 1 = 4096 * (c.w1.toNat / 4096 + 1) → ∃ u, exec (.fsendTurnEnd cmd) s = .next u ∧
      (u.cmd cmd).map (·.st) = some (.finishing 0) ∧ ∀ k ∈ u.fabric.claimed, c.w1.toNat / 4096 < k.2.1)) ∧
  (∀ (s : State) (new : Option Nat), s.fabric.nextOwner = some new → s.cyc % s.fabric.round = 0 →
    ∃ u, exec .timedOwnerCutover s = .next u ∧ u.fabric.owner = new ∧ u.fabric.nextOwner = none ∧
      (s.fabric.owner = new → u.cmds = s.cmds ∧ u.fabric.relays = s.fabric.relays) ∧
      (s.fabric.owner ≠ new → (∀ r ∈ u.fabric.relays, some r.a.ctx ≠ s.fabric.owner) ∧ u.fabric.relayUse = [] ∧
        ∀ c ∈ s.cmds, (c.op = .fsend ∨ c.op = .frecv) → (c.st = .queued ∨ c.st = .running) → s.fabric.owner = some c.ctx →
          (u.cmd c.id).map (·.st) = some (.finishing 5) ∧ (∀ k ∈ u.fabric.posted, k.cmd ≠ c.id) ∧
          (c.op = .fsend → ∀ k ∈ u.fabric.claimed, k.1 = fabPort c.w0 → k.2.1 = c.w1.toNat / 4096 → k.2.2 ∉ c.slots)))

/-- R252, R258 to R268, R310, R385: timed transfers: what arrives, and what is sent, relayed and received.
What in it rests on the model's own readings is in the assumption log: log 103. -/
def Obligations.TimedTransfers : Prop :=
  Claims.TimedArrivals ∧ Claims.TimedSends

/-- R270, R272 to R274, R276, R355, R378: requests of peers are served in the order of their streams and answered once, a duplicate of any but a
read from what was answered before; one ahead of its stream is dropped. An answer stands with those that are to be sent. The failing status of a
malformed atomic is the model's choice (log 17), as is the answer to a collective message on its receipt (log 73); the element form of a write
request is log 27.
Where each of these completes with its own effect: untimedReadRequest, untimedWriteRequest, untimedAtomicRequest, collectiveRequest,
barrierRequest. -/
def Sys2Proof.Claims.PeerRequests : Prop :=
  (∀ (s : State) (r : UntimedRequest), s.accepts r = true → seqAhead (s.fabric.expected r) r.sseq = false →
    let t : State := if r.sseq = s.fabric.expected r then { s with fabric := s.fabric.advance r } else s
    (s.context r.ctx = none → exec (.untimedReadRequest r) s = .next (t.answer r (failStatus 1) false [] [])) ∧
    (∀ x, s.context r.ctx = some x →
      (∀ g, t.windowRead x r.win r.off r.size 0 (some r.src) = .ok g → exec (.untimedReadRequest r) s =
        .next ((t.noteForeign x g.touched).answer r 0 false (bytesOf r.size g.val) (g.poisBits r.off r.size))) ∧
      (∀ k, t.windowRead x r.win r.off r.size 0 (some r.src) = .error k →
        exec (.untimedReadRequest r) s = .next (t.answer r (failStatus k) false [] [])))) ∧
  (∀ (s : State) (r : UntimedRequest), s.accepts r = true → r.sseq = s.fabric.expected r →
    let t : State := { s with fabric := s.fabric.advance r }
    let answers (u : State) (status : BitVec 8) (p : Bool) (bs : List Byte) : Out := .next ((u.answer r status p bs []).remember r status p bs)
    (s.context r.ctx = none → exec (.untimedWriteRequest r) s = answers t (failStatus 1) false [] ∧
      exec (.untimedAtomicRequest r) s = answers t (failStatus 1) false []) ∧
    (∀ x, s.context r.ctx = some x →
      (r.body = .plain →
        (∀ u, t.windowWrite x r.win r.off 1 (some r.src) r.data r.mask (poisAt r.pois) = .ok u →
          exec (.untimedWriteRequest r) s = answers u 0 false []) ∧
        (∀ k, t.windowWrite x r.win r.off 1 (some r.src) r.data r.mask (poisAt r.pois) = .error k →
          exec (.untimedWriteRequest r) s = answers t (failStatus k) false [])) ∧
      (∀ fmt rop alpha, r.body = .element fmt rop alpha →
        (∀ u, t.windowElement x r.win r.off (some r.src) { fmt, rop, alpha } (natOf r.data) (r.pois.any id) = .ok u →
          exec (.untimedWriteRequest r) s = answers u 0 false []) ∧
        (∀ k, t.windowElement x r.win r.off (some r.src) { fmt, rop, alpha } (natOf r.data) (r.pois.any id) = .error k →
          exec (.untimedWriteRequest r) s = answers t (failStatus k) false [])) ∧
      (r.size = 8 → r.off % 8 = 0 → r.op ≤ 9 →
        (∀ u old, t.windowAtomic x r.win r.off r.op (some r.src) r.x r.cmp = .ok (u, some old) →
          exec (.untimedAtomicRequest r) s = answers u 0 false (bytesOf 8 old.toNat)) ∧
        (∀ u, t.windowAtomic x r.win r.off r.op (some r.src) r.x r.cmp = .ok (u, none) →
          exec (.untimedAtomicRequest r) s = answers u 0 true []) ∧
        (∀ k, t.windowAtomic x r.win r.off r.op (some r.src) r.x r.cmp = .error k →
          exec (.untimedAtomicRequest r) s = answers t (failStatus k) false [])) ∧
      ((r.size ≠ 8 ∨ r.off % 8 ≠ 0 ∨ 9 < r.op) → exec (.untimedAtomicRequest r) s = answers t (failStatus 6) false []) ∧
      (∀ q, r.body = .collective q → q.dev = r.src → q.ctx = r.ctx → s.inGroup r.ctx q.group r.src = true →
        exec (.collectiveRequest r) s = answers (t.collReceive q) 0 false []) ∧
      (∀ h group count, r = barrierMessage h r.ctx group count → s.inGroup r.ctx group r.src = true →
        ∃ u, exec (.barrierRequest h r.ctx group count) s = answers u 0 false [] ∧
          u = { t with fabric := { t.fabric with barriers := s.fabric.barriers ++ [(r.src, r.ctx, group, count)] } }))) ∧
  (∀ (s : State) (r : UntimedRequest), s.accepts r = true → r.sseq ≠ s.fabric.expected r → seqAhead (s.fabric.expected r) r.sseq = false →
    exec (.untimedWriteRequest r) s = .next (s.answerAgain r) ∧ exec (.untimedAtomicRequest r) s = .next (s.answerAgain r) ∧
    (∀ q, s.fabric.cache.find? (fun q => q.src == r.src && q.ctx == r.ctx && q.cls == r.cls && q.sseq == r.sseq) = some q →
      s.answerAgain r = s.answer r q.status q.poisonedTarget q.data [])) ∧
  (∀ (s : State) (r : UntimedRequest) (status : BitVec 8) (bad : Bool) (data : List Byte) (pois : List Bool), ∃ x,
    s.answer r status bad data pois = { s with fabric := { s.fabric with replies := s.fabric.replies ++ [x] } } ∧
    x.dev = r.src ∧ x.ctx = r.ctx ∧ x.cls = r.cls ∧ x.sseq = r.sseq ∧ x.reply.inc = s.fabric.incarn ∧ x.reply.status = status ∧
    x.reply.poisonedTarget = bad ∧ x.reply.data = data ∧ x.reply.pois = pois) ∧
  (∀ (s : State) (r : UntimedRequest), s.accepts r = false ∨ seqAhead (s.fabric.expected r) r.sseq = true →
    exec (.untimedReadRequest r) s = .next s ∧ exec (.untimedWriteRequest r) s = .next s ∧ exec (.untimedAtomicRequest r) s = .next s ∧
    exec (.collectiveRequest r) s = .next s ∧
    ∀ h group count, r = barrierMessage h r.ctx group count → exec (.barrierRequest h r.ctx group count) s = .next s)

/-- R274 to R277, R377: the requests of this device. The oldest request of a stream takes its response; one that times out is sent again, three
times at most, and then fails its command; responses leave when their path is open; and untimed flits of other devices stand in the relay buffer
until they are forwarded, with RLY and under the next device's key, which gives their source its credit back. The share of credit is log 77, and
that the one extension of a timer is allowed anew after a resend is the model's choice (log 104).
Where each of these completes with its own effect: untimedResponse, untimedTimeout, untimedRelayForward. -/
def Sys2Proof.Claims.OwnRequests : Prop :=
  (∀ (s : State) (r : UntimedReply) (o : Outstanding), s.fabric.outstanding.find? (·.id == r.req) = some o →
    (s.fabric.joined = true → r.inc = o.inc → SMap.get 0 s.fabric.peers o.dev = r.inc → o.tried = true →
      (s.fabric.outstanding.takeWhile (·.id != o.id)).any o.sameStream = false →
      exec (.untimedResponse r) s = .next (({ s with fabric := { s.fabric with
        outstanding := s.fabric.outstanding.filter (·.id != o.id) } } : State).deliverReply o r)) ∧
    (r.inc ≠ o.inc ∨ o.tried = false → exec (.untimedResponse r) s = .next s)) ∧
  (∀ (s : State) (o : Outstanding) (replaying : Bool), s.fabric.outstanding.find? (·.id == o.id) = some o → o.deadline ≤ s.cyc →
    (s.fabric.joined = false ∨ o.sent = true) →
    let with_ (l : List Outstanding) : State := { s with fabric := { s.fabric with outstanding := l } }
    (replaying = true → o.extended = false → exec (.untimedTimeout o.id replaying) s = .next (with_ (s.fabric.outstanding.map fun q =>
        if q.id = o.id then { q with deadline := s.cyc + 8 * s.fabric.round, extended := true } else q))) ∧
    ((replaying = false ∨ o.extended = true) → o.resent < 3 → ∃ u, exec (.untimedTimeout o.id replaying) s = .next u.pump ∧
      u = with_ u.fabric.outstanding ∧
      (u.fabric.outstanding.find? (·.id == o.id)).map (fun q => (q.resent, q.deadline, q.extended, q.sent)) =
        some (o.resent + 1, s.cyc + 8 * s.fabric.round, false, false) ∧
      (∀ q ∈ s.fabric.outstanding, o.sameStream q = false → q ∈ u.fabric.outstanding) ∧
      (s.fabric.outstanding = [o] → u.maySend { o with
            deadline := s.cyc + 8 * s.fabric.round, extended := false, sent := false, resent := o.resent + 1 } = true →
        ∃ via, u.pump.out = s.out ++ [.untimed o.dev via o.req (!o.write)])) ∧
    ((replaying = false ∨ o.extended = true) → 3 ≤ o.resent → exec (.untimedTimeout o.id replaying) s =
        .next ((with_ (s.fabric.outstanding.filter (·.id != o.id))).requestFails o) ∧
      (o.req.body = .plain → (∀ a, o.what ≠ .counter a) → ∀ c, s.cmd o.cmd = some c → o.cmd ≠ 0 → c.st ≠ .faulted →
        exec (.untimedTimeout o.id replaying) s =
        .next ((with_ (s.fabric.outstanding.filter (·.id != o.id))).commandFault c (.of .engFabTimeout .access 0))))) ∧
  (∀ (s : State) (r : ReplyHeld), s.fabric.outstanding = [] → s.fabric.replies = [r] →
    (s.openTo (s.replyVia r) r.dev r.flits = false → s.pumpAll = s) ∧
    (s.openTo (s.replyVia r) r.dev r.flits = true →
      s.pumpAll.fabric.replies = [] ∧ s.pumpAll.out = s.out ++ [.reply r.dev r.reply r.cls r.sseq])) ∧
  (∀ (s : State) (r : RelayedFlits), s.fabric.joined = true →
    (r.src = s.fabric.devid → r.credit = true → SMap.get 0 s.fabric.peers r.via = r.inc → exec (.untimedRelayForward r) s =
      .next (({ s with fabric := { s.fabric with
        credit := SMap.set 0 s.fabric.credit r.via (SMap.get 0 s.fabric.credit r.via - r.flits.length) } } : State).pump)) ∧
    (r.src = s.fabric.devid → SMap.get 0 s.fabric.peers r.via ≠ r.inc → exec (.untimedRelayForward r) s = .next s) ∧
    (r.src ≠ s.fabric.devid → SMap.get 0 s.fabric.peers r.src ≠ r.inc → exec (.untimedRelayForward r) s = .next s) ∧
    (r.src ≠ s.fabric.devid → r.via = s.fabric.devid → r.dst ≠ s.fabric.devid → SMap.get 0 s.fabric.peers r.src = r.inc →
      (r.credit = false → exec (.untimedRelayForward r) s =
        .next { s with fabric := { s.fabric with untimedRelay := s.fabric.untimedRelay ++ [r] } }) ∧
      (∀ x, r.credit = true → s.fabric.untimedRelay.find? (fun y => y.src == r.src && y.dst == r.dst) = some x →
        let p := s.fabric.portTo x.dst
        (s.fabric.meets s.cyc x.dst = true → s.fabric.roomFor p s.cyc x.flits.length = true → ∃ u,
          exec (.untimedRelayForward r) s = .next u ∧
          u.out = s.out ++ [.relayed p x (x.flits.map (relayFlit (s.fabric.pairKey x.dst))), .credit x.src x.flits.length] ∧
          u.fabric.untimedRelay.length + 1 = s.fabric.untimedRelay.length ∧ (∀ y ∈ u.fabric.untimedRelay, y ∈ s.fabric.untimedRelay)) ∧
        (s.fabric.meets s.cyc x.dst = false ∨ s.fabric.roomFor p s.cyc x.flits.length = false →
          exec (.untimedRelayForward r) s = .next s))))

/-- R270, R272 to R277, R355, R377, R378: untimed requests of peers, and of this device.
What in it rests on the model's own readings is in the assumption log: log 17, log 27, log 73, log 77, log 104. -/
def Obligations.UntimedTraffic : Prop :=
  Claims.PeerRequests ∧ Claims.OwnRequests

/-- R255, R259, R277, R278: links, beacons and incarnations. An acknowledgement frees what it covers, and one that brings nothing new has all that a
link's retry buffer holds sent again (log 88), which waits for a domain; a peer's new incarnation ends the traffic with it and forgets what was
received of the old one; a beacon gives the counter offset of its sender, and the device's own the change of the flight times (that all paths change
as the loopback path does is log 104); a round's median offset (of an even number the lower middle one, log 108) of more than 16 loses alignment, and
one of more than 2 trims the clock.
Where each of these completes with its own effect: linkControlFlit, linkFailure, peerIncarnationChange, beacon, roundEnd. -/
def Obligations.LinksAndBeacons : Prop :=
  (∀ (s : State) (port link : Nat) (ack : LinkAck), port < 16 → link < 4 →
    let b := s.fabric.retryOf port link
    let kept := b.2.filter fun x => decide (ack.num ≤ x.num)
    let peer := SMap.get 0 s.fabric.peers (s.fabric.facing (s.cyc / 4096) port)
    (s.fabric.joined = true → peer = ack.inc → (∃ x ∈ b.2, x.num < ack.num) →
      exec (.linkControlFlit port link ack) s = .next { s with fabric := s.fabric.setRetry port link (b.1, kept) }) ∧
    (s.fabric.joined = true → peer = ack.inc → (∀ x ∈ b.2, ack.num ≤ x.num) → exec (.linkControlFlit port link ack) s =
      .next { s with fabric := s.fabric.setRetry port link (b.1, b.2.map fun x => { x with again := true }) }) ∧
    (s.fabric.joined = false ∨ peer ≠ ack.inc → exec (.linkControlFlit port link ack) s = .next s) ∧
    (s.fabric.joined = false → s.replays = s) ∧
    exec (.linkFailure port link) s = .next { s with fabric := { s.fabric with failing := s.fabric.failing ++ [(port, link)] } }) ∧
  (∀ (s : State) (dev : Nat) (inc : BitVec 16), s.fabric.joined = true → dev < s.fabric.devices → dev ≠ s.fabric.devid →
    (SMap.get 0 s.fabric.peers dev = inc → exec (.peerIncarnationChange dev inc) s = .next s) ∧
    (SMap.get 0 s.fabric.peers dev ≠ inc → SMap.wf 0 s.fabric.peers = true →
      ∃ u, exec (.peerIncarnationChange dev inc) s = .next u ∧ SMap.get 0 u.fabric.peers dev = inc ∧
        (∀ d, d ≠ dev → SMap.get 0 u.fabric.peers d = SMap.get 0 s.fabric.peers d) ∧ (∀ q ∈ u.fabric.incoming, q.dev ≠ dev) ∧
        (∀ q ∈ u.fabric.cache, q.src ≠ dev) ∧ (∀ q ∈ u.fabric.relays, q.a.src ≠ dev) ∧ (∀ q ∈ u.fabric.replies, q.dev ≠ dev) ∧
        ∀ q ∈ u.fabric.untimedRelay, q.src ≠ dev ∧ q.dst ≠ dev)) ∧
  (∀ (s : State) (port sent : Nat) (inc : BitVec 16), s.fabric.joined = true → port < 16 → 48 ≤ s.cyc % 4096 → s.cyc % 4096 < 160 →
    let dev := s.fabric.facing (s.cyc / 4096) port
    (dev = s.fabric.devid → exec (.beacon dev port sent inc) s =
      .next { s with fabric := { s.fabric with
        flight := s.fabric.flight.map fun n => ((n : Int) + (((s.cyc - sent : Nat) : Int) - s.fabric.flight.getD 0 0)).toNat } }) ∧
    (dev ≠ s.fabric.devid → ∃ u, exec (.beacon dev port sent inc) s = .next u ∧
      u.fabric.offsets = s.fabric.offsets ++
        [(s.cyc : Int) - sent - s.fabric.flight.getD (16 * (s.cyc / 4096 % s.fabric.turns) + port) 0] ∧
      (SMap.get 0 s.fabric.peers dev = inc → u = { s with fabric := { s.fabric with offsets := u.fabric.offsets } }) ∧
      (SMap.wf 0 s.fabric.peers = true → SMap.get 0 u.fabric.peers dev = inc))) ∧
  (∀ s : State, s.fabric.joined = true → (s.cyc + 1) % s.fabric.round = 0 →
    let m := median s.fabric.offsets
    (m.natAbs ≤ 2 → exec .roundEnd s = .next { s with fabric := { s.fabric with offsets := [] } }) ∧
    (2 < m.natAbs → m.natAbs ≤ 16 → exec .roundEnd s = .next { s with fabric := { s.fabric with offsets := [], trim := s.fabric.trim - m } }) ∧
    (16 < m.natAbs → ∃ u, exec .roundEnd s = .next u ∧ u.fabric.joined = false ∧
      ∀ c ∈ u.cmds, (c.op = .fsend ∨ c.op = .frecv) → c.st ≠ .queued ∧ c.st ≠ .running))

/-! ### The platform -/

/-- R309 to R313: the governor's evaluations move the step a tower requires by at most one; a low coolant flow requires the highest step of every
tower; a rise deferred by a fabric-timed section is made at the round boundary; and a sensor at 105 degrees takes its tower offline, until
every sensor has been below 95 degrees for 2^24 cycles, which a reading of 95 degrees or more starts anew. A tower that bring-up took offline stays
so.
Where each of these completes with its own effect: governorEvaluate, coolantFlowLow, coolantFlowRestored, govstepDeferredRise, thermalTrip,
towerOnline. -/
def Obligations.Governor : Prop :=
  (∀ (s : State) (i tmax : Nat) (power : Bool), i < 4 → tmax ≠ s.tmaxOf i ∨ s.cyc % 2 ^ 16 ≠ 0 ∨ s.keep.power = some (s.cyc, !power) →
    exec (.governorEvaluate i tmax power) s = .next s) ∧
  (∀ (s : State) (i tmax : Nat) (power : Bool), i < 4 → s.cyc % 2 ^ 16 = 0 → tmax = s.tmaxOf i → s.keep.power ≠ some (s.cyc, !power) →
    let tripping := (s.tower i).tripped = true ∧ (s.tower i).step ≠ 8
    ∃ u, exec (.governorEvaluate i tmax power) s = .next u ∧ (u.tower i).tmax = tmax % 2 ^ 16 ∧ (u.tower i).step = (s.tower i).step ∧
      (s.keep.coolantLow = true ∨ tripping → (u.tower i).want = 8) ∧
      (s.keep.coolantLow = false → ¬tripping → power = false →
        (u.tower i).want =
          if (s.tower i).step < desiredStep tmax then (s.tower i).step + 1
          else if desiredStep (tmax + 128) < (s.tower i).step then (s.tower i).step - 1 else (s.tower i).step) ∧
      (s.keep.coolantLow = false → ¬tripping → power = true → (s.tower i).step < 8 → (u.tower i).want = (s.tower i).step + 1) ∧
      ∀ k, k < 4 → k ≠ i → u.tower k = s.tower k) ∧
  (∀ t, (t < 5888 → desiredStep t = 0) ∧ (5888 ≤ t → t < 5984 → desiredStep t = 1) ∧ (6560 ≤ t → desiredStep t = 8)) ∧
  (∀ s : State, ∃ u, exec .coolantFlowLow s = .next u ∧ u.keep.coolantLow = true ∧ (∀ i, (u.tower i).want = 8) ∧
    u.teams = s.teams ∧ u.hbm = s.hbm) ∧
  (∀ s : State, exec .coolantFlowRestored s = .next { s with keep := { s.keep with coolantLow := false } }) ∧
  (∀ (s : State) (i : Nat), i < 4 → (s.tower i).deferred = true →
    (s.cyc % s.fabric.round = 0 → ∃ u, exec (.govstepDeferredRise i) s = .next u ∧ (u.tower i).step = s.gangStep i ∧
      (u.tower i).deferred = false) ∧
    (s.cyc % s.fabric.round ≠ 0 → exec (.govstepDeferredRise i) s = .next s)) ∧
  (∀ (s : State) (sensor temp : Nat), sensor < 1216 → 6720 ≤ temp → (s.teams.map (·.id)).Nodup →
    ∃ u, exec (.thermalTrip sensor temp) s = .next u ∧ (u.tower (sensor / 304)).online = false ∧
      (u.tower (sensor / 304)).tripped = true ∧ (u.tower (sensor / 304)).want = 8 ∧ (u.tower (sensor / 304)).coolSince = none ∧
      ∀ t ∈ s.placedTeams, s.team t.id = some t → t.st = .resident → (∃ x ∈ s.live t.id, t.strandTower x.index = sensor / 304) →
        ∃ y a, u.team t.id = some y ∧ y.st = .stopping a true ∧ t.tcyc < a ∧ a ≤ t.tcyc + 64) ∧
  (∀ (s : State) (sensor temp : Nat), sensor < 1216 → temp < 6720 → SMap.wf 0 s.sensors = true → (s.tower (sensor / 304)).tripped = true →
    let before := (s.tower (sensor / 304)).coolSince
    ∃ u, exec (.thermalTrip sensor temp) s = .next u ∧ SMap.get 0 u.sensors sensor = temp ∧
      (∀ k, k ≠ sensor → SMap.get 0 u.sensors k = SMap.get 0 s.sensors k) ∧ u.teams = s.teams ∧
      (u.tower (sensor / 304)).online = (s.tower (sensor / 304)).online ∧
      ((∃ k, k < 304 ∧ 6080 ≤ SMap.get 0 u.sensors (sensor / 304 * 304 + k)) → (u.tower (sensor / 304)).coolSince = none) ∧
      ((∀ k, k < 304 → SMap.get 0 u.sensors (sensor / 304 * 304 + k) < 6080) →
        (u.tower (sensor / 304)).coolSince = if before.isSome = true then before else some s.cyc)) ∧
  (∀ (s : State) (i c : Nat), i < 4 → (s.tower i).tripped = true → (s.tower i).coolSince = some c →
    (c + 2 ^ 24 ≤ s.cyc → exec (.towerOnline i) s =
      .next (s.setTower i { s.tower i with online := !(s.tower i).failed, tripped := false, coolSince := none })) ∧
    (s.cyc < c + 2 ^ 24 → exec (.towerOnline i) s = .next s))

namespace Sys2Proof.Claims

/-- A management request reaches a running keep (R299, R303): a valid frame of the management VLAN, in the operator's session, with the operator's
signature. -/
def ordered (s : State) (m : Mgmt) (rest : List Mgmt) : Prop :=
  s.frames = m :: rest ∧ m.frame.sak = s.keep.sak ∧ m.frame.vlan = s.flash.mgmtVlan ∧ s.keep.boot = .running ∧ s.authentic m = true

/-- The state in which the keep acts on a request: the request's frame is taken, and its session is the current one. -/
def inSession (s : State) (m : Mgmt) (rest : List Mgmt) : State :=
  { s with frames := rest, keep := { s.keep with session := some m.session } }

/-- A request on a queue pair of a context (R299, R300): a valid frame of another VLAN, with the pair's next sequence number. -/
def onTurn (s : State) (r : RdmaRequest) (ctx : Nat) : Prop :=
  s.keep.boot = .running ∧ r.frame.sak = s.keep.sak ∧ r.frame.vlan ≠ s.flash.mgmtVlan ∧ SMap.get none s.keep.qps r.qp = some { ctx, psn := r.psn }

/-- The queue pair of a request of `n` bytes goes on by its packets. -/
def pairOn (s : State) (r : RdmaRequest) (ctx n : Nat) : State :=
  { s with keep := { s.keep with qps := SMap.set none s.keep.qps r.qp (some { ctx, psn := (r.psn + packetCount n) % 2 ^ 24 }) } }

end Sys2Proof.Claims

/-- R299, R301, R303: who may give the keep orders. A frame that fails MACsec is dropped and counted; a request off the management VLAN or to a keep
that does not run does nothing; one that is not the operator's is reported, a status request to a running keep like the others. That a keep which
does not run answers a status request without a session or a signature, and where the operator's key stands, are the model's choices (log 98).
Where each of these completes with its own effect: statusRequest. -/
def Sys2Proof.Claims.ManagementAccess : Prop :=
  (∀ (s : State) (m : Mgmt) (rest : List Mgmt), s.frames = m :: rest →
    let v : State := { s with frames := rest }
    (s.authentic m = true ↔ (m.opens = true ∨ s.keep.session = some m.session) ∧ m.signer = s.flash.operatorKey) ∧
    (m.frame.sak = s.keep.sak → m.frame.vlan = s.flash.mgmtVlan →
      (s.keep.boot = .reset → exec .statusRequest s = .next (v.report "status" 0 0)) ∧
      (s.keep.boot = .halted → exec .statusRequest s = .next (v.report "status" 2 0)) ∧
      (s.keep.boot = .running → s.authentic m = true → exec .statusRequest s = .next ((inSession s m rest).report "status" 1 0)) ∧
      (s.keep.boot = .running → s.authentic m = false → exec .statusRequest s = .next (v.report "not authentic" m.session 0))) ∧
    ∀ i ∈ [Instr.identityQuery, .quote 0, .createKeys 1 0, .destroyContext 1, .bindQueuePair 0 1, .setExportTable 1 0 0,
        .nameTimedOwner none, .reserveTimedChannels 1 0 0, .setAuditn 1 0, .setSamplingInterval 24, .joinDomain 0 0 [], .leaveDomain,
        .acknowledgeJobRecords 0, .jobRecordResend 0],
      (m.frame.sak ≠ s.keep.sak → exec i s = .next { v with keep := { s.keep with dropped := s.keep.dropped + 1 } }) ∧
      (m.frame.sak = s.keep.sak → (m.frame.vlan ≠ s.flash.mgmtVlan ∨ s.keep.boot ≠ .running) → exec i s = .next v) ∧
      (m.frame.sak = s.keep.sak → m.frame.vlan = s.flash.mgmtVlan → s.keep.boot = .running → s.authentic m = false →
        exec i s = .next (v.report "not authentic" m.session 0)))

/-- R26, R255, R301, R302, R303, R305, R306, R308: a device reset advances the incarnation and leaves no context, team or command; the keep halts
where a component is not signed under the root key or the bring-up finds no tower, a bad stack or a dead port, and else has measured its
components; a running keep answers, joins a domain once, leaves it (which ends requests, FSENDs and FRECVs as a loss of synchronism does, log 62),
and keeps and resends job records; the record of a grid of a context that is destroyed waits until its accesses have performed (R304).
Where each of these completes with its own effect: deviceReset, identityQuery, quote, setSamplingInterval, joinDomain, leaveDomain,
acknowledgeJobRecords, jobRecordResend, jobRecordEmit. -/
def Sys2Proof.Claims.KeepOrders : Prop :=
  (∀ s : State, ∃ u, exec .deviceReset s = .next u ∧ u.flash.incarn = s.flash.incarn + 1 ∧ u.fabric.incarn = s.flash.incarn + 1 ∧
    u.contexts = [] ∧ u.teams = [] ∧ u.strands = [] ∧ u.cmds = [] ∧ u.grids = [] ∧ u.cyc = 0 ∧ u.fabric.joined = false ∧
    u.keep.session = none ∧ u.keep.rseq = s.keep.rseq ∧ u.keep.store = s.keep.store ∧
    let signed := Config.falconKey s.flash.firmware s.flash.firmwareSig = s.keep.rootHash ∧
      Config.falconKey s.flash.buildRecord.signed s.flash.buildRecord.signature = s.keep.rootHash ∧
      Config.falconKey s.flash.coreFirmware s.flash.coreSig = s.keep.rootHash
    (¬ signed → u.keep.boot = .halted) ∧
    (signed → (u.keep.boot = .halted ↔
      (∀ i, i < 4 → (u.tower i).online = false) ∨ s.flash.stackFail ≠ 0 ∨
        ∃ p, p < 16 ∧ ∀ l, l < 4 → SMap.get false u.fabric.down (4 * p + l) = true) ∧
      u.keep.identity = s.flash.wrappedIdentity ∧
      u.keep.measure =
        extendMeasure (extendMeasure (extendMeasure 0 s.flash.firmware) s.flash.buildRecord.bytes) s.flash.coreFirmware)) ∧
  (∀ (s : State) (m : Mgmt) (rest : List Mgmt), ordered s m rest →
    let v := inSession s m rest
    exec .identityQuery s = .next (v.report "identity" s.flash.serial s.flash.idpub) ∧
    (∀ nonce, exec (.quote nonce) s = .next { v with out := s.out ++ [.quote s.keep.measure (Config.shake256 32 s.flash.buildRecord.bytes) nonce
      (Config.falconSign s.keep.identity (bytesOf 64 s.keep.measure.toNat ++ Config.shake256 32 s.flash.buildRecord.bytes ++ bytesOf 32 nonce.toNat))] }) ∧
    (∀ n, 20 ≤ n → n ≤ 30 → exec (.setSamplingInterval n) s = .next { v with keep := { v.keep with sampling := n } }) ∧
    (∀ n, n < 20 ∨ 30 < n → exec (.setSamplingInterval n) s = .next (v.report "refused" n 0)) ∧
    (∀ devid qlog flight,
      (s.fabric.joined = false → s.fabric.spent = false → qlog ≤ 4 → devid < 16 * 2 ^ qlog → flight.length = 16 * 2 ^ qlog →
          (∀ x ∈ flight, x ≤ 64) →
        ∃ keys next, exec (.joinDomain devid qlog flight) s = .next { v with
          fabric := { s.fabric with joined := true, spent := true, devid, qlog, flight, pairKeys := keys }, nextId := next } ∧
          s.nextId ≤ next ∧ ∀ d, d < 16 * 2 ^ qlog → d ≠ devid → s.nextId ≤ SMap.get 0 keys d ∧ SMap.get 0 keys d < next) ∧
      ((s.fabric.joined = true ∨ s.fabric.spent = true ∨ 4 < qlog ∨ 16 * 2 ^ qlog ≤ devid ∨ flight.length ≠ 16 * 2 ^ qlog ∨
          ∃ x ∈ flight, 64 < x) →
        exec (.joinDomain devid qlog flight) s = .next (v.report "refused" devid qlog))) ∧
    (s.fabric.joined = true → ∃ u, exec .leaveDomain s = .next u ∧ u.fabric.joined = false ∧
      u.fabric.outstanding = [] ∧ u.fabric.replies = [] ∧ ∀ c ∈ u.cmds, (c.op = .fsend ∨ c.op = .frecv) → c.st ≠ .queued ∧ c.st ≠ .running) ∧
    (s.fabric.joined = false → exec .leaveDomain s = .next v) ∧
    (∀ n, n < s.keep.rseq → ∃ u, exec (.acknowledgeJobRecords n) s = .next u ∧
      ∀ r, r ∈ u.keep.store ↔ r ∈ s.keep.store ∧ n < r.rseq) ∧
    (∀ n r, s.keep.store.find? (·.rseq == n) = some r →
      exec (.jobRecordResend n) s = .next { v with out := s.out ++ [.jobRecord r.rseq r.body r.signature] }) ∧
    (∀ n, s.keep.store.find? (·.rseq == n) = none → exec (.jobRecordResend n) s = .next (v.report "refused" n 0))) ∧
  (∀ (s : State) (g : Grid) (x : Context), s.grid g.id = some g → s.context g.ctx = some x → x.destroying = true → x.queues ≠ [] →
    exec (.jobRecordEmit g.id) s = .next s) ∧
  (∀ (s : State) (g : Grid), s.grid g.id = some g → g.live = false → s.keep.store.length < 65536 → (∀ t ∈ s.teams, t.grid ≠ g.id) →
    (∀ x, s.context g.ctx = some x → x.destroying = true → x.queues = []) →
    (∀ i x, (s.tower i).sample = some x → x.grid ≠ g.id) →
    ∃ u r, exec (.jobRecordEmit g.id) s = .next u ∧ u.keep.store = s.keep.store ++ [r] ∧ r.rseq = s.keep.rseq ∧ r.body = s.jobBody g ∧
      u.keep.rseq = s.keep.rseq + 1 ∧ u.out = s.out ++ [.jobRecord r.rseq r.body r.signature] ∧ u.grid g.id = none)

/-- R26, R255, R299, R301 to R303, R305, R306, R308: who may give the keep orders, and what it does on them.
What in it rests on the model's own readings is in the assumption log: log 62, log 98. -/
def Obligations.KeepOperations : Prop :=
  Claims.ManagementAccess ∧ Claims.KeepOrders

/-- R88, R94, R95, R121, R122, R141, R144, R261, R271, R294, R300, R302, R304: contexts. A malformed context record is refused and changes nothing;
a good one makes its context, with a generation of its own; keys, queue pairs, export tables, timed channels and AUDITN belong to one
context; and destroying a context takes its records and packets' commands at once, gives its grids OUTCOME 1 and that cycle as END, and the rest when its
accesses have performed. The fault
of a table written past the end of memory is log 65, the adding up and whole refusal of reservations log 61, and PSN 0 at the bind log 101.
Where each of these completes with its own effect: createContext, destroyContext, contextDestroyDrained, createKeys, setAuditn, setExportTable,
nameTimedOwner, bindQueuePair, reserveTimedChannels. -/
def Obligations.Contexts : Prop :=
  (∀ (s : State) (c : ContextSpec) (m : Mgmt) (rest : List Mgmt), ordered s m rest → writePieces s.hbm c.tables = none →
    exec (.createContext c) s = .fault .noSuchAddress) ∧
  (∀ (s : State) (c : ContextSpec) (m : Mgmt) (rest : List Mgmt) (hbm : List Host.Cell), ordered s m rest → writePieces s.hbm c.tables = some hbm →
    let v := inSession s m rest
    (256 ≤ c.ctx ∨ (s.context c.ctx).isSome = true → exec (.createContext c) s = .next (v.report "context refused" c.ctx 0)) ∧
    (c.ctx < 256 → s.context c.ctx = none →
      let raw (a : Nat) : Nat := natOf (Memory.readBytes hbm a 64)
      let base := bits c.record.toNat 20 44
      let tkey := (descFields (raw (base + 64 * bits c.record.toNat 344 20))).keyid
      let x := contextOf c s.nextId (bits (raw base) 0 21) tkey
      let placed : State := (pieceGranules c.tables).foldl (fun s' g => s'.setGranule g { pois := none, key := some (c.ctx, 16 * s.nextId + tkey) })
        { v with hbm, nextId := s.nextId + 1 }
      let with_ : State := { placed with contexts := placed.contexts ++ [x] }
      recordFieldsBad c.record.toNat (raw base) = false → with_.structuresBad x (bits c.record.toNat 296 7) = false →
      ∀ g groups, with_.schedRead x x.gtab 8192 64 = .ok g → g.pois = none →
        with_.groupsWith x 0 ((digits 256 256 g.val).map (BitVec.ofNat 256)) = some groups →
        ∃ u y, exec (.createContext c) s = .next u ∧ u.context c.ctx = some y ∧ y.num = c.ctx ∧ y.gen = s.nextId ∧ y.groups = groups ∧
          y.keys = c.keys ∧ y.queues.length = bits c.record.toNat 296 7 ∧ y.auditn = c.auditn ∧ y.destroying = false ∧ u.hbm = hbm ∧
          u.nextId = s.nextId + 1 ∧ u.teams = s.teams ∧ u.out = s.out ++ [.report "context created" c.ctx 0])) ∧
  (∀ (s : State) (x : Context) (m : Mgmt) (rest : List Mgmt), ordered s m rest → s.context x.num = some x → x.destroying = false →
    ∃ u y, exec (.destroyContext x.num) s = .next u ∧ u.context x.num = some y ∧ y.destroying = true ∧ y.records = [] ∧
      (∀ c ∈ u.cmds, c.ctx = x.num → c.packet = none) ∧ (∀ g ∈ u.grids, g.ctx = x.num → g.live = false ∧ g.closing = false ∧ g.outcome = 1 ∧ g.end_ = s.cyc) ∧
      (∀ o ∈ u.fabric.outstanding, o.ctx = x.num → o.sent = true) ∧ (s.fabric.owner = some x.num → u.fabric.nextOwner = some none) ∧
      (∀ t ∈ u.teams, t.ctx = x.num → ∃ a, t.st = .stopping a true) ∧
      (∀ r ∈ u.reports, r.ctx ≠ x.num) ∧ (s.migration.ctx = x.num → u.migration = Migration.idle)) ∧
  (∀ (s : State) (x : Context), s.context x.num = some x → x.destroying = true →
    let quiet := (∀ t ∈ s.teams, t.ctx = x.num → t.stopped = true ∧ ∀ w ∈ s.ringQueue, w.team ≠ t.id) ∧
      (∀ c ∈ s.cmds, c.ctx = x.num → c.fed = [] ∧ ¬(c.op.loads = true ∧ c.st = .running)) ∧ ∀ o ∈ s.fabric.outstanding, o.ctx ≠ x.num
    (x.queues ≠ [] → quiet →
      ∃ u y, exec (.contextDestroyDrained x.num) s = .next u ∧ u.context x.num = some y ∧ y.keys = 0 ∧ y.handles = [] ∧ y.queues = [] ∧
        y.groups = [] ∧ y.windows = 0 ∧ (∀ t ∈ u.teams, t.ctx ≠ x.num) ∧ (∀ e ∈ u.keep.qps, ∀ q, e.2 = some q → q.ctx ≠ x.num) ∧
        (∀ e ∈ u.cached, e.ctx ≠ x.num)) ∧
    (x.queues ≠ [] → ¬quiet → exec (.contextDestroyDrained x.num) s = .next s) ∧
    (x.queues = [] → (∀ g ∈ s.grids, g.ctx ≠ x.num) → ∃ u, exec (.contextDestroyDrained x.num) s = .next u ∧ u.context x.num = none ∧
      ∀ k, k ≠ x.num → u.context k = s.context k)) ∧
  (∀ (s : State) (x : Context) (m : Mgmt) (rest : List Mgmt), ordered s m rest → s.context x.num = some x → x.destroying = false →
    let v := inSession s m rest
    (∀ keys, exec (.createKeys x.num keys) s = .next (v.setContext { x with keys := x.keys ||| keys })) ∧
    (∀ n, exec (.setAuditn x.num n) s = .next (v.setContext { x with auditn := n })) ∧
    (∀ table windows, exec (.setExportTable x.num table windows) s =
      .next ((v.setContext { x with exportTable := table, windows }).report "export table" x.num windows)) ∧
    (exec (.nameTimedOwner (some x.num)) s = .next { v with fabric := { s.fabric with nextOwner := some (some x.num) } }) ∧
    (exec (.nameTimedOwner none) s = .next { v with fabric := { s.fabric with nextOwner := some none } }) ∧
    (∀ qp, qp < 256 → SMap.get none s.keep.qps qp = none → exec (.bindQueuePair qp x.num) s =
      .next { v with keep := { v.keep with qps := SMap.set none s.keep.qps qp (some { ctx := x.num, psn := 0 }) } }) ∧
    (∀ qp, (SMap.get none s.keep.qps qp).isSome = true → exec (.bindQueuePair qp x.num) s = .next (v.report "refused" qp x.num)) ∧
    (∀ (k : Fin 32) (groups : BitVec 24),
      let stack := s.memStacks.get k
      let owners := ((List.range 24).filter groups.getLsbD).foldl (fun m g => SMap.set 0 m g (x.num + 1)) stack.owners
      (owners.length ≤ 4 → (∀ g, g < 24 → groups.getLsbD g = true → SMap.get 0 stack.owners g = 0 ∨ SMap.get 0 stack.owners g = x.num + 1) →
        exec (.reserveTimedChannels x.num k groups) s = .next { v with memStacks := s.memStacks.set k { stack with owners } }) ∧
      ((4 < owners.length ∨ ∃ g, g < 24 ∧ groups.getLsbD g = true ∧ SMap.get 0 stack.owners g ≠ 0 ∧ SMap.get 0 stack.owners g ≠ x.num + 1) →
        exec (.reserveTimedChannels x.num k groups) s = .next (v.report "refused" x.num k))))

/-- R299, R300: the host port. A request on a queue pair, in its order, acts on a window of the pair's own context; one whose R_Key names another
context, or whose window check fails, is a remote access error; a poisoned target is a remote operational error; a frame that fails MACsec is
dropped and counted. That a request out of its pair's order does nothing is the model's choice (log 101).
Where each of these completes with its own effect: rdmaWrite, rdmaRead, atomicFetchAdd, atomicCmpSwap, roceInvalidRequest. -/
def Obligations.HostPort : Prop :=
  (∀ (s : State) (r : RdmaRequest) (x : Context), onTurn s r x.num → s.context x.num = some x → x.destroying = false →
    (r.rkey.extractLsb' 16 8).toNat = x.num →
    let w := (r.rkey.extractLsb' 0 16).toNat
    let v := pairOn s r x.num r.data.length
    let v' := pairOn s r x.num r.len
    let v8 := pairOn s r x.num 8
    (∀ u, v.windowWrite x w r.va.toNat 1 none r.data (wholeMask r.data.length) (fun _ => false) = .ok u →
      exec (.rdmaWrite r) s = .next (u.rdmaAnswer r.qp [])) ∧
    (∀ k, v.windowWrite x w r.va.toNat 1 none r.data (wholeMask r.data.length) (fun _ => false) = .error k →
      exec (.rdmaWrite r) s = .next (v.nak r.qp 1)) ∧
    (∀ g, v'.windowRead x w r.va.toNat r.len 0 none = .ok g →
      (g.pois.any id = false → exec (.rdmaRead r) s = .next ((v'.noteForeign x g.touched).rdmaAnswer r.qp (bytesOf r.len g.val))) ∧
      (g.pois.any id = true → exec (.rdmaRead r) s = .next ((v'.nak r.qp 2).report "poisoned read" r.qp r.va.toNat))) ∧
    (∀ k, v'.windowRead x w r.va.toNat r.len 0 none = .error k → exec (.rdmaRead r) s = .next (v'.nak r.qp 1)) ∧
    (r.va.toNat % 8 = 0 →
      (∀ u old, v8.windowAtomic x w r.va.toNat 0 none r.x r.cmp = .ok (u, some old) →
        exec (.atomicFetchAdd r) s = .next (u.rdmaAnswer r.qp (bytesOf 8 old.toNat))) ∧
      (∀ u old, v8.windowAtomic x w r.va.toNat 2 none r.x r.cmp = .ok (u, some old) →
        exec (.atomicCmpSwap r) s = .next (u.rdmaAnswer r.qp (bytesOf 8 old.toNat))) ∧
      (∀ u, v8.windowAtomic x w r.va.toNat 0 none r.x r.cmp = .ok (u, none) →
        exec (.atomicFetchAdd r) s = .next ((v8.nak r.qp 2).report "poisoned atomic" r.qp r.va.toNat)) ∧
      (∀ k, v8.windowAtomic x w r.va.toNat 2 none r.x r.cmp = .error k → exec (.atomicCmpSwap r) s = .next (v8.nak r.qp 1)))) ∧
  (∀ (s : State) (u : State) (qp : Nat) (bs : List Byte), u = s.rdmaAnswer qp bs →
    (bs.length ≤ 4096 → u = { s with out := s.out ++ [.rdmaReply qp bs] }) ∧ u.hbm = s.hbm) ∧
  (∀ (s : State) (r : RdmaRequest) (n : Nat), onTurn s r n →
    (r.va.toNat % 8 ≠ 0 → exec (.atomicFetchAdd r) s = .next ((pairOn s r n 8).nak r.qp 0) ∧
      exec (.atomicCmpSwap r) s = .next ((pairOn s r n 8).nak r.qp 0)) ∧
    ((r.rkey.extractLsb' 16 8).toNat ≠ n →
      exec (.rdmaWrite r) s = .next ((pairOn s r n r.data.length).nak r.qp 1) ∧
      exec (.rdmaRead r) s = .next ((pairOn s r n r.len).nak r.qp 1) ∧
      (r.va.toNat % 8 = 0 → exec (.atomicFetchAdd r) s = .next ((pairOn s r n 8).nak r.qp 1) ∧
        exec (.atomicCmpSwap r) s = .next ((pairOn s r n 8).nak r.qp 1))) ∧
    exec (.roceInvalidRequest r) s = .next ((pairOn s r n 0).nak r.qp 0)) ∧
  (∀ (s : State) (r : RdmaRequest),
    ∀ i ∈ [Instr.rdmaWrite r, .rdmaRead r, .atomicFetchAdd r, .atomicCmpSwap r, .roceInvalidRequest r],
      (r.frame.sak ≠ s.keep.sak → exec i s = .next { s with keep := { s.keep with dropped := s.keep.dropped + 1 } }) ∧
      (r.frame.sak = s.keep.sak → (s.keep.boot ≠ .running ∨ r.frame.vlan = s.flash.mgmtVlan ∨ SMap.get none s.keep.qps r.qp = none ∨
          ∃ q, SMap.get none s.keep.qps r.qp = some q ∧ q.psn ≠ r.psn) → exec i s = .next s))
end

