-- ==== Sys2Proof/Laws/State.lean ====
section
/-! SUPPORT. One lemma for each field and each plain update of the state, of a strand and of the bundle being issued, so that no proof unfolds a
record update. -/

namespace Sys2Proof.Machine

/-! ### State.setTeam -/

@[simp] theorem State.setTeam_cyc (s : State) (t : Team) : (s.setTeam t).cyc = s.cyc := rfl
@[simp] theorem State.setTeam_phase (s : State) (t : Team) : (s.setTeam t).phase = s.phase := rfl
@[simp] theorem State.setTeam_iss (s : State) (t : Team) : (s.setTeam t).iss = s.iss := rfl
@[simp] theorem State.setTeam_bundles (s : State) (t : Team) : (s.setTeam t).bundles = s.bundles := rfl
@[simp] theorem State.setTeam_towers (s : State) (t : Team) : (s.setTeam t).towers = s.towers := rfl
@[simp] theorem State.setTeam_cores (s : State) (t : Team) : (s.setTeam t).cores = s.cores := rfl
@[simp] theorem State.setTeam_contexts (s : State) (t : Team) : (s.setTeam t).contexts = s.contexts := rfl
@[simp] theorem State.setTeam_grids (s : State) (t : Team) : (s.setTeam t).grids = s.grids := rfl
@[simp] theorem State.setTeam_strands (s : State) (t : Team) : (s.setTeam t).strands = s.strands := rfl
@[simp] theorem State.setTeam_cmds (s : State) (t : Team) : (s.setTeam t).cmds = s.cmds := rfl
@[simp] theorem State.setTeam_hbm (s : State) (t : Team) : (s.setTeam t).hbm = s.hbm := rfl
@[simp] theorem State.setTeam_granules (s : State) (t : Team) : (s.setTeam t).granules = s.granules := rfl
@[simp] theorem State.setTeam_shortPages (s : State) (t : Team) : (s.setTeam t).shortPages = s.shortPages := rfl
@[simp] theorem State.setTeam_recent (s : State) (t : Team) : (s.setTeam t).recent = s.recent := rfl
@[simp] theorem State.setTeam_polls (s : State) (t : Team) : (s.setTeam t).polls = s.polls := rfl
@[simp] theorem State.setTeam_forward (s : State) (t : Team) : (s.setTeam t).forward = s.forward := rfl
@[simp] theorem State.setTeam_ring (s : State) (t : Team) : (s.setTeam t).ring = s.ring := rfl
@[simp] theorem State.setTeam_tags (s : State) (t : Team) : (s.setTeam t).tags = s.tags := rfl
@[simp] theorem State.setTeam_newTags (s : State) (t : Team) : (s.setTeam t).newTags = s.newTags := rfl
@[simp] theorem State.setTeam_ringQueue (s : State) (t : Team) : (s.setTeam t).ringQueue = s.ringQueue := rfl
@[simp] theorem State.setTeam_busy (s : State) (t : Team) : (s.setTeam t).busy = s.busy := rfl
@[simp] theorem State.setTeam_tiles (s : State) (t : Team) : (s.setTeam t).tiles = s.tiles := rfl
@[simp] theorem State.setTeam_scales (s : State) (t : Team) : (s.setTeam t).scales = s.scales := rfl
@[simp] theorem State.setTeam_metas (s : State) (t : Team) : (s.setTeam t).metas = s.metas := rfl
@[simp] theorem State.setTeam_accs (s : State) (t : Team) : (s.setTeam t).accs = s.accs := rfl
@[simp] theorem State.setTeam_istore (s : State) (t : Team) : (s.setTeam t).istore = s.istore := rfl
@[simp] theorem State.setTeam_slotErrors (s : State) (t : Team) : (s.setTeam t).slotErrors = s.slotErrors := rfl
@[simp] theorem State.setTeam_memStacks (s : State) (t : Team) : (s.setTeam t).memStacks = s.memStacks := rfl
@[simp] theorem State.setTeam_migration (s : State) (t : Team) : (s.setTeam t).migration = s.migration := rfl
@[simp] theorem State.setTeam_cached (s : State) (t : Team) : (s.setTeam t).cached = s.cached := rfl
@[simp] theorem State.setTeam_fabric (s : State) (t : Team) : (s.setTeam t).fabric = s.fabric := rfl
@[simp] theorem State.setTeam_keep (s : State) (t : Team) : (s.setTeam t).keep = s.keep := rfl
@[simp] theorem State.setTeam_flash (s : State) (t : Team) : (s.setTeam t).flash = s.flash := rfl
@[simp] theorem State.setTeam_sensors (s : State) (t : Team) : (s.setTeam t).sensors = s.sensors := rfl
@[simp] theorem State.setTeam_rotation (s : State) (t : Team) : (s.setTeam t).rotation = s.rotation := rfl
@[simp] theorem State.setTeam_reports (s : State) (t : Team) : (s.setTeam t).reports = s.reports := rfl
@[simp] theorem State.setTeam_nextId (s : State) (t : Team) : (s.setTeam t).nextId = s.nextId := rfl
@[simp] theorem State.setTeam_inbox (s : State) (t : Team) : (s.setTeam t).inbox = s.inbox := rfl
@[simp] theorem State.setTeam_frames (s : State) (t : Team) : (s.setTeam t).frames = s.frames := rfl
@[simp] theorem State.setTeam_agenda (s : State) (t : Team) : (s.setTeam t).agenda = s.agenda := rfl
@[simp] theorem State.setTeam_choices (s : State) (t : Team) : (s.setTeam t).choices = s.choices := rfl
@[simp] theorem State.setTeam_fresh (s : State) (t : Team) : (s.setTeam t).fresh = s.fresh := rfl
@[simp] theorem State.setTeam_out (s : State) (t : Team) : (s.setTeam t).out = s.out := rfl

/-! ### State.setStrand -/

@[simp] theorem State.setStrand_cyc (s : State) (t : Strand) : (s.setStrand t).cyc = s.cyc := rfl
@[simp] theorem State.setStrand_phase (s : State) (t : Strand) : (s.setStrand t).phase = s.phase := rfl
@[simp] theorem State.setStrand_iss (s : State) (t : Strand) : (s.setStrand t).iss = s.iss := rfl
@[simp] theorem State.setStrand_bundles (s : State) (t : Strand) : (s.setStrand t).bundles = s.bundles := rfl
@[simp] theorem State.setStrand_towers (s : State) (t : Strand) : (s.setStrand t).towers = s.towers := rfl
@[simp] theorem State.setStrand_cores (s : State) (t : Strand) : (s.setStrand t).cores = s.cores := rfl
@[simp] theorem State.setStrand_contexts (s : State) (t : Strand) : (s.setStrand t).contexts = s.contexts := rfl
@[simp] theorem State.setStrand_grids (s : State) (t : Strand) : (s.setStrand t).grids = s.grids := rfl
@[simp] theorem State.setStrand_teams (s : State) (t : Strand) : (s.setStrand t).teams = s.teams := rfl
@[simp] theorem State.setStrand_cmds (s : State) (t : Strand) : (s.setStrand t).cmds = s.cmds := rfl
@[simp] theorem State.setStrand_hbm (s : State) (t : Strand) : (s.setStrand t).hbm = s.hbm := rfl
@[simp] theorem State.setStrand_granules (s : State) (t : Strand) : (s.setStrand t).granules = s.granules := rfl
@[simp] theorem State.setStrand_shortPages (s : State) (t : Strand) : (s.setStrand t).shortPages = s.shortPages := rfl
@[simp] theorem State.setStrand_recent (s : State) (t : Strand) : (s.setStrand t).recent = s.recent := rfl
@[simp] theorem State.setStrand_polls (s : State) (t : Strand) : (s.setStrand t).polls = s.polls := rfl
@[simp] theorem State.setStrand_forward (s : State) (t : Strand) : (s.setStrand t).forward = s.forward := rfl
@[simp] theorem State.setStrand_ring (s : State) (t : Strand) : (s.setStrand t).ring = s.ring := rfl
@[simp] theorem State.setStrand_tags (s : State) (t : Strand) : (s.setStrand t).tags = s.tags := rfl
@[simp] theorem State.setStrand_newTags (s : State) (t : Strand) : (s.setStrand t).newTags = s.newTags := rfl
@[simp] theorem State.setStrand_ringQueue (s : State) (t : Strand) : (s.setStrand t).ringQueue = s.ringQueue := rfl
@[simp] theorem State.setStrand_busy (s : State) (t : Strand) : (s.setStrand t).busy = s.busy := rfl
@[simp] theorem State.setStrand_tiles (s : State) (t : Strand) : (s.setStrand t).tiles = s.tiles := rfl
@[simp] theorem State.setStrand_scales (s : State) (t : Strand) : (s.setStrand t).scales = s.scales := rfl
@[simp] theorem State.setStrand_metas (s : State) (t : Strand) : (s.setStrand t).metas = s.metas := rfl
@[simp] theorem State.setStrand_accs (s : State) (t : Strand) : (s.setStrand t).accs = s.accs := rfl
@[simp] theorem State.setStrand_istore (s : State) (t : Strand) : (s.setStrand t).istore = s.istore := rfl
@[simp] theorem State.setStrand_slotErrors (s : State) (t : Strand) : (s.setStrand t).slotErrors = s.slotErrors := rfl
@[simp] theorem State.setStrand_memStacks (s : State) (t : Strand) : (s.setStrand t).memStacks = s.memStacks := rfl
@[simp] theorem State.setStrand_migration (s : State) (t : Strand) : (s.setStrand t).migration = s.migration := rfl
@[simp] theorem State.setStrand_cached (s : State) (t : Strand) : (s.setStrand t).cached = s.cached := rfl
@[simp] theorem State.setStrand_fabric (s : State) (t : Strand) : (s.setStrand t).fabric = s.fabric := rfl
@[simp] theorem State.setStrand_keep (s : State) (t : Strand) : (s.setStrand t).keep = s.keep := rfl
@[simp] theorem State.setStrand_flash (s : State) (t : Strand) : (s.setStrand t).flash = s.flash := rfl
@[simp] theorem State.setStrand_sensors (s : State) (t : Strand) : (s.setStrand t).sensors = s.sensors := rfl
@[simp] theorem State.setStrand_rotation (s : State) (t : Strand) : (s.setStrand t).rotation = s.rotation := rfl
@[simp] theorem State.setStrand_reports (s : State) (t : Strand) : (s.setStrand t).reports = s.reports := rfl
@[simp] theorem State.setStrand_nextId (s : State) (t : Strand) : (s.setStrand t).nextId = s.nextId := rfl
@[simp] theorem State.setStrand_inbox (s : State) (t : Strand) : (s.setStrand t).inbox = s.inbox := rfl
@[simp] theorem State.setStrand_frames (s : State) (t : Strand) : (s.setStrand t).frames = s.frames := rfl
@[simp] theorem State.setStrand_agenda (s : State) (t : Strand) : (s.setStrand t).agenda = s.agenda := rfl
@[simp] theorem State.setStrand_choices (s : State) (t : Strand) : (s.setStrand t).choices = s.choices := rfl
@[simp] theorem State.setStrand_fresh (s : State) (t : Strand) : (s.setStrand t).fresh = s.fresh := rfl
@[simp] theorem State.setStrand_out (s : State) (t : Strand) : (s.setStrand t).out = s.out := rfl

/-! ### State.mapStrands -/

@[simp] theorem State.mapStrands_cyc (s : State) (n : Nat) (f : Strand → Strand) : (s.mapStrands n f).cyc = s.cyc := rfl
@[simp] theorem State.mapStrands_phase (s : State) (n : Nat) (f : Strand → Strand) : (s.mapStrands n f).phase = s.phase := rfl
@[simp] theorem State.mapStrands_iss (s : State) (n : Nat) (f : Strand → Strand) : (s.mapStrands n f).iss = s.iss := rfl
@[simp] theorem State.mapStrands_bundles (s : State) (n : Nat) (f : Strand → Strand) : (s.mapStrands n f).bundles = s.bundles := rfl
@[simp] theorem State.mapStrands_towers (s : State) (n : Nat) (f : Strand → Strand) : (s.mapStrands n f).towers = s.towers := rfl
@[simp] theorem State.mapStrands_cores (s : State) (n : Nat) (f : Strand → Strand) : (s.mapStrands n f).cores = s.cores := rfl
@[simp] theorem State.mapStrands_contexts (s : State) (n : Nat) (f : Strand → Strand) : (s.mapStrands n f).contexts = s.contexts := rfl
@[simp] theorem State.mapStrands_grids (s : State) (n : Nat) (f : Strand → Strand) : (s.mapStrands n f).grids = s.grids := rfl
@[simp] theorem State.mapStrands_teams (s : State) (n : Nat) (f : Strand → Strand) : (s.mapStrands n f).teams = s.teams := rfl
@[simp] theorem State.mapStrands_cmds (s : State) (n : Nat) (f : Strand → Strand) : (s.mapStrands n f).cmds = s.cmds := rfl
@[simp] theorem State.mapStrands_hbm (s : State) (n : Nat) (f : Strand → Strand) : (s.mapStrands n f).hbm = s.hbm := rfl
@[simp] theorem State.mapStrands_granules (s : State) (n : Nat) (f : Strand → Strand) : (s.mapStrands n f).granules = s.granules := rfl
@[simp] theorem State.mapStrands_shortPages (s : State) (n : Nat) (f : Strand → Strand) : (s.mapStrands n f).shortPages = s.shortPages := rfl
@[simp] theorem State.mapStrands_recent (s : State) (n : Nat) (f : Strand → Strand) : (s.mapStrands n f).recent = s.recent := rfl
@[simp] theorem State.mapStrands_polls (s : State) (n : Nat) (f : Strand → Strand) : (s.mapStrands n f).polls = s.polls := rfl
@[simp] theorem State.mapStrands_forward (s : State) (n : Nat) (f : Strand → Strand) : (s.mapStrands n f).forward = s.forward := rfl
@[simp] theorem State.mapStrands_ring (s : State) (n : Nat) (f : Strand → Strand) : (s.mapStrands n f).ring = s.ring := rfl
@[simp] theorem State.mapStrands_tags (s : State) (n : Nat) (f : Strand → Strand) : (s.mapStrands n f).tags = s.tags := rfl
@[simp] theorem State.mapStrands_newTags (s : State) (n : Nat) (f : Strand → Strand) : (s.mapStrands n f).newTags = s.newTags := rfl
@[simp] theorem State.mapStrands_ringQueue (s : State) (n : Nat) (f : Strand → Strand) : (s.mapStrands n f).ringQueue = s.ringQueue := rfl
@[simp] theorem State.mapStrands_busy (s : State) (n : Nat) (f : Strand → Strand) : (s.mapStrands n f).busy = s.busy := rfl
@[simp] theorem State.mapStrands_tiles (s : State) (n : Nat) (f : Strand → Strand) : (s.mapStrands n f).tiles = s.tiles := rfl
@[simp] theorem State.mapStrands_scales (s : State) (n : Nat) (f : Strand → Strand) : (s.mapStrands n f).scales = s.scales := rfl
@[simp] theorem State.mapStrands_metas (s : State) (n : Nat) (f : Strand → Strand) : (s.mapStrands n f).metas = s.metas := rfl
@[simp] theorem State.mapStrands_accs (s : State) (n : Nat) (f : Strand → Strand) : (s.mapStrands n f).accs = s.accs := rfl
@[simp] theorem State.mapStrands_istore (s : State) (n : Nat) (f : Strand → Strand) : (s.mapStrands n f).istore = s.istore := rfl
@[simp] theorem State.mapStrands_slotErrors (s : State) (n : Nat) (f : Strand → Strand) : (s.mapStrands n f).slotErrors = s.slotErrors := rfl
@[simp] theorem State.mapStrands_memStacks (s : State) (n : Nat) (f : Strand → Strand) : (s.mapStrands n f).memStacks = s.memStacks := rfl
@[simp] theorem State.mapStrands_migration (s : State) (n : Nat) (f : Strand → Strand) : (s.mapStrands n f).migration = s.migration := rfl
@[simp] theorem State.mapStrands_cached (s : State) (n : Nat) (f : Strand → Strand) : (s.mapStrands n f).cached = s.cached := rfl
@[simp] theorem State.mapStrands_fabric (s : State) (n : Nat) (f : Strand → Strand) : (s.mapStrands n f).fabric = s.fabric := rfl
@[simp] theorem State.mapStrands_keep (s : State) (n : Nat) (f : Strand → Strand) : (s.mapStrands n f).keep = s.keep := rfl
@[simp] theorem State.mapStrands_flash (s : State) (n : Nat) (f : Strand → Strand) : (s.mapStrands n f).flash = s.flash := rfl
@[simp] theorem State.mapStrands_sensors (s : State) (n : Nat) (f : Strand → Strand) : (s.mapStrands n f).sensors = s.sensors := rfl
@[simp] theorem State.mapStrands_rotation (s : State) (n : Nat) (f : Strand → Strand) : (s.mapStrands n f).rotation = s.rotation := rfl
@[simp] theorem State.mapStrands_reports (s : State) (n : Nat) (f : Strand → Strand) : (s.mapStrands n f).reports = s.reports := rfl
@[simp] theorem State.mapStrands_nextId (s : State) (n : Nat) (f : Strand → Strand) : (s.mapStrands n f).nextId = s.nextId := rfl
@[simp] theorem State.mapStrands_inbox (s : State) (n : Nat) (f : Strand → Strand) : (s.mapStrands n f).inbox = s.inbox := rfl
@[simp] theorem State.mapStrands_frames (s : State) (n : Nat) (f : Strand → Strand) : (s.mapStrands n f).frames = s.frames := rfl
@[simp] theorem State.mapStrands_agenda (s : State) (n : Nat) (f : Strand → Strand) : (s.mapStrands n f).agenda = s.agenda := rfl
@[simp] theorem State.mapStrands_choices (s : State) (n : Nat) (f : Strand → Strand) : (s.mapStrands n f).choices = s.choices := rfl
@[simp] theorem State.mapStrands_fresh (s : State) (n : Nat) (f : Strand → Strand) : (s.mapStrands n f).fresh = s.fresh := rfl
@[simp] theorem State.mapStrands_out (s : State) (n : Nat) (f : Strand → Strand) : (s.mapStrands n f).out = s.out := rfl

/-! ### State.setGrid -/

@[simp] theorem State.setGrid_cyc (s : State) (t : Grid) : (s.setGrid t).cyc = s.cyc := rfl
@[simp] theorem State.setGrid_phase (s : State) (t : Grid) : (s.setGrid t).phase = s.phase := rfl
@[simp] theorem State.setGrid_iss (s : State) (t : Grid) : (s.setGrid t).iss = s.iss := rfl
@[simp] theorem State.setGrid_bundles (s : State) (t : Grid) : (s.setGrid t).bundles = s.bundles := rfl
@[simp] theorem State.setGrid_towers (s : State) (t : Grid) : (s.setGrid t).towers = s.towers := rfl
@[simp] theorem State.setGrid_cores (s : State) (t : Grid) : (s.setGrid t).cores = s.cores := rfl
@[simp] theorem State.setGrid_contexts (s : State) (t : Grid) : (s.setGrid t).contexts = s.contexts := rfl
@[simp] theorem State.setGrid_teams (s : State) (t : Grid) : (s.setGrid t).teams = s.teams := rfl
@[simp] theorem State.setGrid_strands (s : State) (t : Grid) : (s.setGrid t).strands = s.strands := rfl
@[simp] theorem State.setGrid_cmds (s : State) (t : Grid) : (s.setGrid t).cmds = s.cmds := rfl
@[simp] theorem State.setGrid_hbm (s : State) (t : Grid) : (s.setGrid t).hbm = s.hbm := rfl
@[simp] theorem State.setGrid_granules (s : State) (t : Grid) : (s.setGrid t).granules = s.granules := rfl
@[simp] theorem State.setGrid_shortPages (s : State) (t : Grid) : (s.setGrid t).shortPages = s.shortPages := rfl
@[simp] theorem State.setGrid_recent (s : State) (t : Grid) : (s.setGrid t).recent = s.recent := rfl
@[simp] theorem State.setGrid_polls (s : State) (t : Grid) : (s.setGrid t).polls = s.polls := rfl
@[simp] theorem State.setGrid_forward (s : State) (t : Grid) : (s.setGrid t).forward = s.forward := rfl
@[simp] theorem State.setGrid_ring (s : State) (t : Grid) : (s.setGrid t).ring = s.ring := rfl
@[simp] theorem State.setGrid_tags (s : State) (t : Grid) : (s.setGrid t).tags = s.tags := rfl
@[simp] theorem State.setGrid_newTags (s : State) (t : Grid) : (s.setGrid t).newTags = s.newTags := rfl
@[simp] theorem State.setGrid_ringQueue (s : State) (t : Grid) : (s.setGrid t).ringQueue = s.ringQueue := rfl
@[simp] theorem State.setGrid_busy (s : State) (t : Grid) : (s.setGrid t).busy = s.busy := rfl
@[simp] theorem State.setGrid_tiles (s : State) (t : Grid) : (s.setGrid t).tiles = s.tiles := rfl
@[simp] theorem State.setGrid_scales (s : State) (t : Grid) : (s.setGrid t).scales = s.scales := rfl
@[simp] theorem State.setGrid_metas (s : State) (t : Grid) : (s.setGrid t).metas = s.metas := rfl
@[simp] theorem State.setGrid_accs (s : State) (t : Grid) : (s.setGrid t).accs = s.accs := rfl
@[simp] theorem State.setGrid_istore (s : State) (t : Grid) : (s.setGrid t).istore = s.istore := rfl
@[simp] theorem State.setGrid_slotErrors (s : State) (t : Grid) : (s.setGrid t).slotErrors = s.slotErrors := rfl
@[simp] theorem State.setGrid_memStacks (s : State) (t : Grid) : (s.setGrid t).memStacks = s.memStacks := rfl
@[simp] theorem State.setGrid_migration (s : State) (t : Grid) : (s.setGrid t).migration = s.migration := rfl
@[simp] theorem State.setGrid_cached (s : State) (t : Grid) : (s.setGrid t).cached = s.cached := rfl
@[simp] theorem State.setGrid_fabric (s : State) (t : Grid) : (s.setGrid t).fabric = s.fabric := rfl
@[simp] theorem State.setGrid_keep (s : State) (t : Grid) : (s.setGrid t).keep = s.keep := rfl
@[simp] theorem State.setGrid_flash (s : State) (t : Grid) : (s.setGrid t).flash = s.flash := rfl
@[simp] theorem State.setGrid_sensors (s : State) (t : Grid) : (s.setGrid t).sensors = s.sensors := rfl
@[simp] theorem State.setGrid_rotation (s : State) (t : Grid) : (s.setGrid t).rotation = s.rotation := rfl
@[simp] theorem State.setGrid_reports (s : State) (t : Grid) : (s.setGrid t).reports = s.reports := rfl
@[simp] theorem State.setGrid_nextId (s : State) (t : Grid) : (s.setGrid t).nextId = s.nextId := rfl
@[simp] theorem State.setGrid_inbox (s : State) (t : Grid) : (s.setGrid t).inbox = s.inbox := rfl
@[simp] theorem State.setGrid_frames (s : State) (t : Grid) : (s.setGrid t).frames = s.frames := rfl
@[simp] theorem State.setGrid_agenda (s : State) (t : Grid) : (s.setGrid t).agenda = s.agenda := rfl
@[simp] theorem State.setGrid_choices (s : State) (t : Grid) : (s.setGrid t).choices = s.choices := rfl
@[simp] theorem State.setGrid_fresh (s : State) (t : Grid) : (s.setGrid t).fresh = s.fresh := rfl
@[simp] theorem State.setGrid_out (s : State) (t : Grid) : (s.setGrid t).out = s.out := rfl

/-! ### State.setCmd -/

@[simp] theorem State.setCmd_cyc (s : State) (t : Cmd) : (s.setCmd t).cyc = s.cyc := rfl
@[simp] theorem State.setCmd_phase (s : State) (t : Cmd) : (s.setCmd t).phase = s.phase := rfl
@[simp] theorem State.setCmd_iss (s : State) (t : Cmd) : (s.setCmd t).iss = s.iss := rfl
@[simp] theorem State.setCmd_bundles (s : State) (t : Cmd) : (s.setCmd t).bundles = s.bundles := rfl
@[simp] theorem State.setCmd_towers (s : State) (t : Cmd) : (s.setCmd t).towers = s.towers := rfl
@[simp] theorem State.setCmd_cores (s : State) (t : Cmd) : (s.setCmd t).cores = s.cores := rfl
@[simp] theorem State.setCmd_contexts (s : State) (t : Cmd) : (s.setCmd t).contexts = s.contexts := rfl
@[simp] theorem State.setCmd_grids (s : State) (t : Cmd) : (s.setCmd t).grids = s.grids := rfl
@[simp] theorem State.setCmd_teams (s : State) (t : Cmd) : (s.setCmd t).teams = s.teams := rfl
@[simp] theorem State.setCmd_strands (s : State) (t : Cmd) : (s.setCmd t).strands = s.strands := rfl
@[simp] theorem State.setCmd_hbm (s : State) (t : Cmd) : (s.setCmd t).hbm = s.hbm := rfl
@[simp] theorem State.setCmd_granules (s : State) (t : Cmd) : (s.setCmd t).granules = s.granules := rfl
@[simp] theorem State.setCmd_shortPages (s : State) (t : Cmd) : (s.setCmd t).shortPages = s.shortPages := rfl
@[simp] theorem State.setCmd_recent (s : State) (t : Cmd) : (s.setCmd t).recent = s.recent := rfl
@[simp] theorem State.setCmd_polls (s : State) (t : Cmd) : (s.setCmd t).polls = s.polls := rfl
@[simp] theorem State.setCmd_forward (s : State) (t : Cmd) : (s.setCmd t).forward = s.forward := rfl
@[simp] theorem State.setCmd_ring (s : State) (t : Cmd) : (s.setCmd t).ring = s.ring := rfl
@[simp] theorem State.setCmd_tags (s : State) (t : Cmd) : (s.setCmd t).tags = s.tags := rfl
@[simp] theorem State.setCmd_newTags (s : State) (t : Cmd) : (s.setCmd t).newTags = s.newTags := rfl
@[simp] theorem State.setCmd_ringQueue (s : State) (t : Cmd) : (s.setCmd t).ringQueue = s.ringQueue := rfl
@[simp] theorem State.setCmd_busy (s : State) (t : Cmd) : (s.setCmd t).busy = s.busy := rfl
@[simp] theorem State.setCmd_tiles (s : State) (t : Cmd) : (s.setCmd t).tiles = s.tiles := rfl
@[simp] theorem State.setCmd_scales (s : State) (t : Cmd) : (s.setCmd t).scales = s.scales := rfl
@[simp] theorem State.setCmd_metas (s : State) (t : Cmd) : (s.setCmd t).metas = s.metas := rfl
@[simp] theorem State.setCmd_accs (s : State) (t : Cmd) : (s.setCmd t).accs = s.accs := rfl
@[simp] theorem State.setCmd_istore (s : State) (t : Cmd) : (s.setCmd t).istore = s.istore := rfl
@[simp] theorem State.setCmd_slotErrors (s : State) (t : Cmd) : (s.setCmd t).slotErrors = s.slotErrors := rfl
@[simp] theorem State.setCmd_memStacks (s : State) (t : Cmd) : (s.setCmd t).memStacks = s.memStacks := rfl
@[simp] theorem State.setCmd_migration (s : State) (t : Cmd) : (s.setCmd t).migration = s.migration := rfl
@[simp] theorem State.setCmd_cached (s : State) (t : Cmd) : (s.setCmd t).cached = s.cached := rfl
@[simp] theorem State.setCmd_fabric (s : State) (t : Cmd) : (s.setCmd t).fabric = s.fabric := rfl
@[simp] theorem State.setCmd_keep (s : State) (t : Cmd) : (s.setCmd t).keep = s.keep := rfl
@[simp] theorem State.setCmd_flash (s : State) (t : Cmd) : (s.setCmd t).flash = s.flash := rfl
@[simp] theorem State.setCmd_sensors (s : State) (t : Cmd) : (s.setCmd t).sensors = s.sensors := rfl
@[simp] theorem State.setCmd_rotation (s : State) (t : Cmd) : (s.setCmd t).rotation = s.rotation := rfl
@[simp] theorem State.setCmd_reports (s : State) (t : Cmd) : (s.setCmd t).reports = s.reports := rfl
@[simp] theorem State.setCmd_nextId (s : State) (t : Cmd) : (s.setCmd t).nextId = s.nextId := rfl
@[simp] theorem State.setCmd_inbox (s : State) (t : Cmd) : (s.setCmd t).inbox = s.inbox := rfl
@[simp] theorem State.setCmd_frames (s : State) (t : Cmd) : (s.setCmd t).frames = s.frames := rfl
@[simp] theorem State.setCmd_agenda (s : State) (t : Cmd) : (s.setCmd t).agenda = s.agenda := rfl
@[simp] theorem State.setCmd_choices (s : State) (t : Cmd) : (s.setCmd t).choices = s.choices := rfl
@[simp] theorem State.setCmd_fresh (s : State) (t : Cmd) : (s.setCmd t).fresh = s.fresh := rfl
@[simp] theorem State.setCmd_out (s : State) (t : Cmd) : (s.setCmd t).out = s.out := rfl

/-! ### State.dropCmd -/

@[simp] theorem State.dropCmd_cyc (s : State) (n : Nat) : (s.dropCmd n).cyc = s.cyc := rfl
@[simp] theorem State.dropCmd_phase (s : State) (n : Nat) : (s.dropCmd n).phase = s.phase := rfl
@[simp] theorem State.dropCmd_iss (s : State) (n : Nat) : (s.dropCmd n).iss = s.iss := rfl
@[simp] theorem State.dropCmd_bundles (s : State) (n : Nat) : (s.dropCmd n).bundles = s.bundles := rfl
@[simp] theorem State.dropCmd_towers (s : State) (n : Nat) : (s.dropCmd n).towers = s.towers := rfl
@[simp] theorem State.dropCmd_cores (s : State) (n : Nat) : (s.dropCmd n).cores = s.cores := rfl
@[simp] theorem State.dropCmd_contexts (s : State) (n : Nat) : (s.dropCmd n).contexts = s.contexts := rfl
@[simp] theorem State.dropCmd_grids (s : State) (n : Nat) : (s.dropCmd n).grids = s.grids := rfl
@[simp] theorem State.dropCmd_teams (s : State) (n : Nat) : (s.dropCmd n).teams = s.teams := rfl
@[simp] theorem State.dropCmd_strands (s : State) (n : Nat) : (s.dropCmd n).strands = s.strands := rfl
@[simp] theorem State.dropCmd_hbm (s : State) (n : Nat) : (s.dropCmd n).hbm = s.hbm := rfl
@[simp] theorem State.dropCmd_granules (s : State) (n : Nat) : (s.dropCmd n).granules = s.granules := rfl
@[simp] theorem State.dropCmd_shortPages (s : State) (n : Nat) : (s.dropCmd n).shortPages = s.shortPages := rfl
@[simp] theorem State.dropCmd_recent (s : State) (n : Nat) : (s.dropCmd n).recent = s.recent := rfl
@[simp] theorem State.dropCmd_polls (s : State) (n : Nat) : (s.dropCmd n).polls = s.polls := rfl
@[simp] theorem State.dropCmd_forward (s : State) (n : Nat) : (s.dropCmd n).forward = s.forward := rfl
@[simp] theorem State.dropCmd_ring (s : State) (n : Nat) : (s.dropCmd n).ring = s.ring := rfl
@[simp] theorem State.dropCmd_tags (s : State) (n : Nat) : (s.dropCmd n).tags = s.tags := rfl
@[simp] theorem State.dropCmd_newTags (s : State) (n : Nat) : (s.dropCmd n).newTags = s.newTags := rfl
@[simp] theorem State.dropCmd_ringQueue (s : State) (n : Nat) : (s.dropCmd n).ringQueue = s.ringQueue := rfl
@[simp] theorem State.dropCmd_busy (s : State) (n : Nat) : (s.dropCmd n).busy = s.busy := rfl
@[simp] theorem State.dropCmd_tiles (s : State) (n : Nat) : (s.dropCmd n).tiles = s.tiles := rfl
@[simp] theorem State.dropCmd_scales (s : State) (n : Nat) : (s.dropCmd n).scales = s.scales := rfl
@[simp] theorem State.dropCmd_metas (s : State) (n : Nat) : (s.dropCmd n).metas = s.metas := rfl
@[simp] theorem State.dropCmd_accs (s : State) (n : Nat) : (s.dropCmd n).accs = s.accs := rfl
@[simp] theorem State.dropCmd_istore (s : State) (n : Nat) : (s.dropCmd n).istore = s.istore := rfl
@[simp] theorem State.dropCmd_slotErrors (s : State) (n : Nat) : (s.dropCmd n).slotErrors = s.slotErrors := rfl
@[simp] theorem State.dropCmd_memStacks (s : State) (n : Nat) : (s.dropCmd n).memStacks = s.memStacks := rfl
@[simp] theorem State.dropCmd_migration (s : State) (n : Nat) : (s.dropCmd n).migration = s.migration := rfl
@[simp] theorem State.dropCmd_cached (s : State) (n : Nat) : (s.dropCmd n).cached = s.cached := rfl
@[simp] theorem State.dropCmd_fabric (s : State) (n : Nat) : (s.dropCmd n).fabric = s.fabric := rfl
@[simp] theorem State.dropCmd_keep (s : State) (n : Nat) : (s.dropCmd n).keep = s.keep := rfl
@[simp] theorem State.dropCmd_flash (s : State) (n : Nat) : (s.dropCmd n).flash = s.flash := rfl
@[simp] theorem State.dropCmd_sensors (s : State) (n : Nat) : (s.dropCmd n).sensors = s.sensors := rfl
@[simp] theorem State.dropCmd_rotation (s : State) (n : Nat) : (s.dropCmd n).rotation = s.rotation := rfl
@[simp] theorem State.dropCmd_reports (s : State) (n : Nat) : (s.dropCmd n).reports = s.reports := rfl
@[simp] theorem State.dropCmd_nextId (s : State) (n : Nat) : (s.dropCmd n).nextId = s.nextId := rfl
@[simp] theorem State.dropCmd_inbox (s : State) (n : Nat) : (s.dropCmd n).inbox = s.inbox := rfl
@[simp] theorem State.dropCmd_frames (s : State) (n : Nat) : (s.dropCmd n).frames = s.frames := rfl
@[simp] theorem State.dropCmd_agenda (s : State) (n : Nat) : (s.dropCmd n).agenda = s.agenda := rfl
@[simp] theorem State.dropCmd_choices (s : State) (n : Nat) : (s.dropCmd n).choices = s.choices := rfl
@[simp] theorem State.dropCmd_fresh (s : State) (n : Nat) : (s.dropCmd n).fresh = s.fresh := rfl
@[simp] theorem State.dropCmd_out (s : State) (n : Nat) : (s.dropCmd n).out = s.out := rfl

/-! ### State.setTower -/

@[simp] theorem State.setTower_cyc (s : State) (n : Nat) (t : Tower) : (s.setTower n t).cyc = s.cyc := rfl
@[simp] theorem State.setTower_phase (s : State) (n : Nat) (t : Tower) : (s.setTower n t).phase = s.phase := rfl
@[simp] theorem State.setTower_iss (s : State) (n : Nat) (t : Tower) : (s.setTower n t).iss = s.iss := rfl
@[simp] theorem State.setTower_bundles (s : State) (n : Nat) (t : Tower) : (s.setTower n t).bundles = s.bundles := rfl
@[simp] theorem State.setTower_cores (s : State) (n : Nat) (t : Tower) : (s.setTower n t).cores = s.cores := rfl
@[simp] theorem State.setTower_contexts (s : State) (n : Nat) (t : Tower) : (s.setTower n t).contexts = s.contexts := rfl
@[simp] theorem State.setTower_grids (s : State) (n : Nat) (t : Tower) : (s.setTower n t).grids = s.grids := rfl
@[simp] theorem State.setTower_teams (s : State) (n : Nat) (t : Tower) : (s.setTower n t).teams = s.teams := rfl
@[simp] theorem State.setTower_strands (s : State) (n : Nat) (t : Tower) : (s.setTower n t).strands = s.strands := rfl
@[simp] theorem State.setTower_cmds (s : State) (n : Nat) (t : Tower) : (s.setTower n t).cmds = s.cmds := rfl
@[simp] theorem State.setTower_hbm (s : State) (n : Nat) (t : Tower) : (s.setTower n t).hbm = s.hbm := rfl
@[simp] theorem State.setTower_granules (s : State) (n : Nat) (t : Tower) : (s.setTower n t).granules = s.granules := rfl
@[simp] theorem State.setTower_shortPages (s : State) (n : Nat) (t : Tower) : (s.setTower n t).shortPages = s.shortPages := rfl
@[simp] theorem State.setTower_recent (s : State) (n : Nat) (t : Tower) : (s.setTower n t).recent = s.recent := rfl
@[simp] theorem State.setTower_polls (s : State) (n : Nat) (t : Tower) : (s.setTower n t).polls = s.polls := rfl
@[simp] theorem State.setTower_forward (s : State) (n : Nat) (t : Tower) : (s.setTower n t).forward = s.forward := rfl
@[simp] theorem State.setTower_ring (s : State) (n : Nat) (t : Tower) : (s.setTower n t).ring = s.ring := rfl
@[simp] theorem State.setTower_tags (s : State) (n : Nat) (t : Tower) : (s.setTower n t).tags = s.tags := rfl
@[simp] theorem State.setTower_newTags (s : State) (n : Nat) (t : Tower) : (s.setTower n t).newTags = s.newTags := rfl
@[simp] theorem State.setTower_ringQueue (s : State) (n : Nat) (t : Tower) : (s.setTower n t).ringQueue = s.ringQueue := rfl
@[simp] theorem State.setTower_busy (s : State) (n : Nat) (t : Tower) : (s.setTower n t).busy = s.busy := rfl
@[simp] theorem State.setTower_tiles (s : State) (n : Nat) (t : Tower) : (s.setTower n t).tiles = s.tiles := rfl
@[simp] theorem State.setTower_scales (s : State) (n : Nat) (t : Tower) : (s.setTower n t).scales = s.scales := rfl
@[simp] theorem State.setTower_metas (s : State) (n : Nat) (t : Tower) : (s.setTower n t).metas = s.metas := rfl
@[simp] theorem State.setTower_accs (s : State) (n : Nat) (t : Tower) : (s.setTower n t).accs = s.accs := rfl
@[simp] theorem State.setTower_istore (s : State) (n : Nat) (t : Tower) : (s.setTower n t).istore = s.istore := rfl
@[simp] theorem State.setTower_slotErrors (s : State) (n : Nat) (t : Tower) : (s.setTower n t).slotErrors = s.slotErrors := rfl
@[simp] theorem State.setTower_memStacks (s : State) (n : Nat) (t : Tower) : (s.setTower n t).memStacks = s.memStacks := rfl
@[simp] theorem State.setTower_migration (s : State) (n : Nat) (t : Tower) : (s.setTower n t).migration = s.migration := rfl
@[simp] theorem State.setTower_cached (s : State) (n : Nat) (t : Tower) : (s.setTower n t).cached = s.cached := rfl
@[simp] theorem State.setTower_fabric (s : State) (n : Nat) (t : Tower) : (s.setTower n t).fabric = s.fabric := rfl
@[simp] theorem State.setTower_keep (s : State) (n : Nat) (t : Tower) : (s.setTower n t).keep = s.keep := rfl
@[simp] theorem State.setTower_flash (s : State) (n : Nat) (t : Tower) : (s.setTower n t).flash = s.flash := rfl
@[simp] theorem State.setTower_sensors (s : State) (n : Nat) (t : Tower) : (s.setTower n t).sensors = s.sensors := rfl
@[simp] theorem State.setTower_rotation (s : State) (n : Nat) (t : Tower) : (s.setTower n t).rotation = s.rotation := rfl
@[simp] theorem State.setTower_reports (s : State) (n : Nat) (t : Tower) : (s.setTower n t).reports = s.reports := rfl
@[simp] theorem State.setTower_nextId (s : State) (n : Nat) (t : Tower) : (s.setTower n t).nextId = s.nextId := rfl
@[simp] theorem State.setTower_inbox (s : State) (n : Nat) (t : Tower) : (s.setTower n t).inbox = s.inbox := rfl
@[simp] theorem State.setTower_frames (s : State) (n : Nat) (t : Tower) : (s.setTower n t).frames = s.frames := rfl
@[simp] theorem State.setTower_agenda (s : State) (n : Nat) (t : Tower) : (s.setTower n t).agenda = s.agenda := rfl
@[simp] theorem State.setTower_choices (s : State) (n : Nat) (t : Tower) : (s.setTower n t).choices = s.choices := rfl
@[simp] theorem State.setTower_fresh (s : State) (n : Nat) (t : Tower) : (s.setTower n t).fresh = s.fresh := rfl
@[simp] theorem State.setTower_out (s : State) (n : Nat) (t : Tower) : (s.setTower n t).out = s.out := rfl

/-! ### State.setCore -/

@[simp] theorem State.setCore_cyc (s : State) (n : Nat) (t : Core) : (s.setCore n t).cyc = s.cyc := rfl
@[simp] theorem State.setCore_phase (s : State) (n : Nat) (t : Core) : (s.setCore n t).phase = s.phase := rfl
@[simp] theorem State.setCore_iss (s : State) (n : Nat) (t : Core) : (s.setCore n t).iss = s.iss := rfl
@[simp] theorem State.setCore_bundles (s : State) (n : Nat) (t : Core) : (s.setCore n t).bundles = s.bundles := rfl
@[simp] theorem State.setCore_towers (s : State) (n : Nat) (t : Core) : (s.setCore n t).towers = s.towers := rfl
@[simp] theorem State.setCore_contexts (s : State) (n : Nat) (t : Core) : (s.setCore n t).contexts = s.contexts := rfl
@[simp] theorem State.setCore_grids (s : State) (n : Nat) (t : Core) : (s.setCore n t).grids = s.grids := rfl
@[simp] theorem State.setCore_teams (s : State) (n : Nat) (t : Core) : (s.setCore n t).teams = s.teams := rfl
@[simp] theorem State.setCore_strands (s : State) (n : Nat) (t : Core) : (s.setCore n t).strands = s.strands := rfl
@[simp] theorem State.setCore_cmds (s : State) (n : Nat) (t : Core) : (s.setCore n t).cmds = s.cmds := rfl
@[simp] theorem State.setCore_hbm (s : State) (n : Nat) (t : Core) : (s.setCore n t).hbm = s.hbm := rfl
@[simp] theorem State.setCore_granules (s : State) (n : Nat) (t : Core) : (s.setCore n t).granules = s.granules := rfl
@[simp] theorem State.setCore_shortPages (s : State) (n : Nat) (t : Core) : (s.setCore n t).shortPages = s.shortPages := rfl
@[simp] theorem State.setCore_recent (s : State) (n : Nat) (t : Core) : (s.setCore n t).recent = s.recent := rfl
@[simp] theorem State.setCore_polls (s : State) (n : Nat) (t : Core) : (s.setCore n t).polls = s.polls := rfl
@[simp] theorem State.setCore_forward (s : State) (n : Nat) (t : Core) : (s.setCore n t).forward = s.forward := rfl
@[simp] theorem State.setCore_ring (s : State) (n : Nat) (t : Core) : (s.setCore n t).ring = s.ring := rfl
@[simp] theorem State.setCore_tags (s : State) (n : Nat) (t : Core) : (s.setCore n t).tags = s.tags := rfl
@[simp] theorem State.setCore_newTags (s : State) (n : Nat) (t : Core) : (s.setCore n t).newTags = s.newTags := rfl
@[simp] theorem State.setCore_ringQueue (s : State) (n : Nat) (t : Core) : (s.setCore n t).ringQueue = s.ringQueue := rfl
@[simp] theorem State.setCore_busy (s : State) (n : Nat) (t : Core) : (s.setCore n t).busy = s.busy := rfl
@[simp] theorem State.setCore_tiles (s : State) (n : Nat) (t : Core) : (s.setCore n t).tiles = s.tiles := rfl
@[simp] theorem State.setCore_scales (s : State) (n : Nat) (t : Core) : (s.setCore n t).scales = s.scales := rfl
@[simp] theorem State.setCore_metas (s : State) (n : Nat) (t : Core) : (s.setCore n t).metas = s.metas := rfl
@[simp] theorem State.setCore_accs (s : State) (n : Nat) (t : Core) : (s.setCore n t).accs = s.accs := rfl
@[simp] theorem State.setCore_istore (s : State) (n : Nat) (t : Core) : (s.setCore n t).istore = s.istore := rfl
@[simp] theorem State.setCore_slotErrors (s : State) (n : Nat) (t : Core) : (s.setCore n t).slotErrors = s.slotErrors := rfl
@[simp] theorem State.setCore_memStacks (s : State) (n : Nat) (t : Core) : (s.setCore n t).memStacks = s.memStacks := rfl
@[simp] theorem State.setCore_migration (s : State) (n : Nat) (t : Core) : (s.setCore n t).migration = s.migration := rfl
@[simp] theorem State.setCore_cached (s : State) (n : Nat) (t : Core) : (s.setCore n t).cached = s.cached := rfl
@[simp] theorem State.setCore_fabric (s : State) (n : Nat) (t : Core) : (s.setCore n t).fabric = s.fabric := rfl
@[simp] theorem State.setCore_keep (s : State) (n : Nat) (t : Core) : (s.setCore n t).keep = s.keep := rfl
@[simp] theorem State.setCore_flash (s : State) (n : Nat) (t : Core) : (s.setCore n t).flash = s.flash := rfl
@[simp] theorem State.setCore_sensors (s : State) (n : Nat) (t : Core) : (s.setCore n t).sensors = s.sensors := rfl
@[simp] theorem State.setCore_rotation (s : State) (n : Nat) (t : Core) : (s.setCore n t).rotation = s.rotation := rfl
@[simp] theorem State.setCore_reports (s : State) (n : Nat) (t : Core) : (s.setCore n t).reports = s.reports := rfl
@[simp] theorem State.setCore_nextId (s : State) (n : Nat) (t : Core) : (s.setCore n t).nextId = s.nextId := rfl
@[simp] theorem State.setCore_inbox (s : State) (n : Nat) (t : Core) : (s.setCore n t).inbox = s.inbox := rfl
@[simp] theorem State.setCore_frames (s : State) (n : Nat) (t : Core) : (s.setCore n t).frames = s.frames := rfl
@[simp] theorem State.setCore_agenda (s : State) (n : Nat) (t : Core) : (s.setCore n t).agenda = s.agenda := rfl
@[simp] theorem State.setCore_choices (s : State) (n : Nat) (t : Core) : (s.setCore n t).choices = s.choices := rfl
@[simp] theorem State.setCore_fresh (s : State) (n : Nat) (t : Core) : (s.setCore n t).fresh = s.fresh := rfl
@[simp] theorem State.setCore_out (s : State) (n : Nat) (t : Core) : (s.setCore n t).out = s.out := rfl

/-! ### State.chosen -/

@[simp] theorem State.chosen_cyc (s : State) : (s.chosen).cyc = s.cyc := rfl
@[simp] theorem State.chosen_phase (s : State) : (s.chosen).phase = s.phase := rfl
@[simp] theorem State.chosen_iss (s : State) : (s.chosen).iss = s.iss := rfl
@[simp] theorem State.chosen_bundles (s : State) : (s.chosen).bundles = s.bundles := rfl
@[simp] theorem State.chosen_towers (s : State) : (s.chosen).towers = s.towers := rfl
@[simp] theorem State.chosen_cores (s : State) : (s.chosen).cores = s.cores := rfl
@[simp] theorem State.chosen_contexts (s : State) : (s.chosen).contexts = s.contexts := rfl
@[simp] theorem State.chosen_grids (s : State) : (s.chosen).grids = s.grids := rfl
@[simp] theorem State.chosen_teams (s : State) : (s.chosen).teams = s.teams := rfl
@[simp] theorem State.chosen_strands (s : State) : (s.chosen).strands = s.strands := rfl
@[simp] theorem State.chosen_cmds (s : State) : (s.chosen).cmds = s.cmds := rfl
@[simp] theorem State.chosen_hbm (s : State) : (s.chosen).hbm = s.hbm := rfl
@[simp] theorem State.chosen_granules (s : State) : (s.chosen).granules = s.granules := rfl
@[simp] theorem State.chosen_shortPages (s : State) : (s.chosen).shortPages = s.shortPages := rfl
@[simp] theorem State.chosen_recent (s : State) : (s.chosen).recent = s.recent := rfl
@[simp] theorem State.chosen_polls (s : State) : (s.chosen).polls = s.polls := rfl
@[simp] theorem State.chosen_forward (s : State) : (s.chosen).forward = s.forward := rfl
@[simp] theorem State.chosen_ring (s : State) : (s.chosen).ring = s.ring := rfl
@[simp] theorem State.chosen_tags (s : State) : (s.chosen).tags = s.tags := rfl
@[simp] theorem State.chosen_newTags (s : State) : (s.chosen).newTags = s.newTags := rfl
@[simp] theorem State.chosen_ringQueue (s : State) : (s.chosen).ringQueue = s.ringQueue := rfl
@[simp] theorem State.chosen_busy (s : State) : (s.chosen).busy = s.busy := rfl
@[simp] theorem State.chosen_tiles (s : State) : (s.chosen).tiles = s.tiles := rfl
@[simp] theorem State.chosen_scales (s : State) : (s.chosen).scales = s.scales := rfl
@[simp] theorem State.chosen_metas (s : State) : (s.chosen).metas = s.metas := rfl
@[simp] theorem State.chosen_accs (s : State) : (s.chosen).accs = s.accs := rfl
@[simp] theorem State.chosen_istore (s : State) : (s.chosen).istore = s.istore := rfl
@[simp] theorem State.chosen_slotErrors (s : State) : (s.chosen).slotErrors = s.slotErrors := rfl
@[simp] theorem State.chosen_memStacks (s : State) : (s.chosen).memStacks = s.memStacks := rfl
@[simp] theorem State.chosen_migration (s : State) : (s.chosen).migration = s.migration := rfl
@[simp] theorem State.chosen_cached (s : State) : (s.chosen).cached = s.cached := rfl
@[simp] theorem State.chosen_fabric (s : State) : (s.chosen).fabric = s.fabric := rfl
@[simp] theorem State.chosen_keep (s : State) : (s.chosen).keep = s.keep := rfl
@[simp] theorem State.chosen_flash (s : State) : (s.chosen).flash = s.flash := rfl
@[simp] theorem State.chosen_sensors (s : State) : (s.chosen).sensors = s.sensors := rfl
@[simp] theorem State.chosen_rotation (s : State) : (s.chosen).rotation = s.rotation := rfl
@[simp] theorem State.chosen_reports (s : State) : (s.chosen).reports = s.reports := rfl
@[simp] theorem State.chosen_nextId (s : State) : (s.chosen).nextId = s.nextId := rfl
@[simp] theorem State.chosen_inbox (s : State) : (s.chosen).inbox = s.inbox := rfl
@[simp] theorem State.chosen_frames (s : State) : (s.chosen).frames = s.frames := rfl
@[simp] theorem State.chosen_agenda (s : State) : (s.chosen).agenda = s.agenda := rfl
@[simp] theorem State.chosen_out (s : State) : (s.chosen).out = s.out := rfl

/-! ### State.freed -/

@[simp] theorem State.freed_cyc (s : State) : (s.freed).cyc = s.cyc := rfl
@[simp] theorem State.freed_phase (s : State) : (s.freed).phase = s.phase := rfl
@[simp] theorem State.freed_iss (s : State) : (s.freed).iss = s.iss := rfl
@[simp] theorem State.freed_bundles (s : State) : (s.freed).bundles = s.bundles := rfl
@[simp] theorem State.freed_towers (s : State) : (s.freed).towers = s.towers := rfl
@[simp] theorem State.freed_cores (s : State) : (s.freed).cores = s.cores := rfl
@[simp] theorem State.freed_contexts (s : State) : (s.freed).contexts = s.contexts := rfl
@[simp] theorem State.freed_grids (s : State) : (s.freed).grids = s.grids := rfl
@[simp] theorem State.freed_teams (s : State) : (s.freed).teams = s.teams := rfl
@[simp] theorem State.freed_strands (s : State) : (s.freed).strands = s.strands := rfl
@[simp] theorem State.freed_cmds (s : State) : (s.freed).cmds = s.cmds := rfl
@[simp] theorem State.freed_hbm (s : State) : (s.freed).hbm = s.hbm := rfl
@[simp] theorem State.freed_granules (s : State) : (s.freed).granules = s.granules := rfl
@[simp] theorem State.freed_shortPages (s : State) : (s.freed).shortPages = s.shortPages := rfl
@[simp] theorem State.freed_recent (s : State) : (s.freed).recent = s.recent := rfl
@[simp] theorem State.freed_polls (s : State) : (s.freed).polls = s.polls := rfl
@[simp] theorem State.freed_forward (s : State) : (s.freed).forward = s.forward := rfl
@[simp] theorem State.freed_ring (s : State) : (s.freed).ring = s.ring := rfl
@[simp] theorem State.freed_tags (s : State) : (s.freed).tags = s.tags := rfl
@[simp] theorem State.freed_newTags (s : State) : (s.freed).newTags = s.newTags := rfl
@[simp] theorem State.freed_ringQueue (s : State) : (s.freed).ringQueue = s.ringQueue := rfl
@[simp] theorem State.freed_busy (s : State) : (s.freed).busy = s.busy := rfl
@[simp] theorem State.freed_tiles (s : State) : (s.freed).tiles = s.tiles := rfl
@[simp] theorem State.freed_scales (s : State) : (s.freed).scales = s.scales := rfl
@[simp] theorem State.freed_metas (s : State) : (s.freed).metas = s.metas := rfl
@[simp] theorem State.freed_accs (s : State) : (s.freed).accs = s.accs := rfl
@[simp] theorem State.freed_istore (s : State) : (s.freed).istore = s.istore := rfl
@[simp] theorem State.freed_slotErrors (s : State) : (s.freed).slotErrors = s.slotErrors := rfl
@[simp] theorem State.freed_memStacks (s : State) : (s.freed).memStacks = s.memStacks := rfl
@[simp] theorem State.freed_migration (s : State) : (s.freed).migration = s.migration := rfl
@[simp] theorem State.freed_cached (s : State) : (s.freed).cached = s.cached := rfl
@[simp] theorem State.freed_fabric (s : State) : (s.freed).fabric = s.fabric := rfl
@[simp] theorem State.freed_keep (s : State) : (s.freed).keep = s.keep := rfl
@[simp] theorem State.freed_flash (s : State) : (s.freed).flash = s.flash := rfl
@[simp] theorem State.freed_sensors (s : State) : (s.freed).sensors = s.sensors := rfl
@[simp] theorem State.freed_rotation (s : State) : (s.freed).rotation = s.rotation := rfl
@[simp] theorem State.freed_reports (s : State) : (s.freed).reports = s.reports := rfl
@[simp] theorem State.freed_nextId (s : State) : (s.freed).nextId = s.nextId := rfl
@[simp] theorem State.freed_inbox (s : State) : (s.freed).inbox = s.inbox := rfl
@[simp] theorem State.freed_frames (s : State) : (s.freed).frames = s.frames := rfl
@[simp] theorem State.freed_agenda (s : State) : (s.freed).agenda = s.agenda := rfl
@[simp] theorem State.freed_choices (s : State) : (s.freed).choices = s.choices := rfl
@[simp] theorem State.freed_out (s : State) : (s.freed).out = s.out := rfl

/-! ### State.setLine -/

@[simp] theorem State.setLine_cyc (s : State) (n : Nat) (t : TileLine) : (s.setLine n t).cyc = s.cyc := rfl
@[simp] theorem State.setLine_phase (s : State) (n : Nat) (t : TileLine) : (s.setLine n t).phase = s.phase := rfl
@[simp] theorem State.setLine_iss (s : State) (n : Nat) (t : TileLine) : (s.setLine n t).iss = s.iss := rfl
@[simp] theorem State.setLine_bundles (s : State) (n : Nat) (t : TileLine) : (s.setLine n t).bundles = s.bundles := rfl
@[simp] theorem State.setLine_towers (s : State) (n : Nat) (t : TileLine) : (s.setLine n t).towers = s.towers := rfl
@[simp] theorem State.setLine_cores (s : State) (n : Nat) (t : TileLine) : (s.setLine n t).cores = s.cores := rfl
@[simp] theorem State.setLine_contexts (s : State) (n : Nat) (t : TileLine) : (s.setLine n t).contexts = s.contexts := rfl
@[simp] theorem State.setLine_grids (s : State) (n : Nat) (t : TileLine) : (s.setLine n t).grids = s.grids := rfl
@[simp] theorem State.setLine_teams (s : State) (n : Nat) (t : TileLine) : (s.setLine n t).teams = s.teams := rfl
@[simp] theorem State.setLine_strands (s : State) (n : Nat) (t : TileLine) : (s.setLine n t).strands = s.strands := rfl
@[simp] theorem State.setLine_cmds (s : State) (n : Nat) (t : TileLine) : (s.setLine n t).cmds = s.cmds := rfl
@[simp] theorem State.setLine_hbm (s : State) (n : Nat) (t : TileLine) : (s.setLine n t).hbm = s.hbm := rfl
@[simp] theorem State.setLine_granules (s : State) (n : Nat) (t : TileLine) : (s.setLine n t).granules = s.granules := rfl
@[simp] theorem State.setLine_shortPages (s : State) (n : Nat) (t : TileLine) : (s.setLine n t).shortPages = s.shortPages := rfl
@[simp] theorem State.setLine_recent (s : State) (n : Nat) (t : TileLine) : (s.setLine n t).recent = s.recent := rfl
@[simp] theorem State.setLine_polls (s : State) (n : Nat) (t : TileLine) : (s.setLine n t).polls = s.polls := rfl
@[simp] theorem State.setLine_forward (s : State) (n : Nat) (t : TileLine) : (s.setLine n t).forward = s.forward := rfl
@[simp] theorem State.setLine_ring (s : State) (n : Nat) (t : TileLine) : (s.setLine n t).ring = s.ring := rfl
@[simp] theorem State.setLine_tags (s : State) (n : Nat) (t : TileLine) : (s.setLine n t).tags = s.tags := rfl
@[simp] theorem State.setLine_newTags (s : State) (n : Nat) (t : TileLine) : (s.setLine n t).newTags = s.newTags := rfl
@[simp] theorem State.setLine_ringQueue (s : State) (n : Nat) (t : TileLine) : (s.setLine n t).ringQueue = s.ringQueue := rfl
@[simp] theorem State.setLine_busy (s : State) (n : Nat) (t : TileLine) : (s.setLine n t).busy = s.busy := rfl
@[simp] theorem State.setLine_scales (s : State) (n : Nat) (t : TileLine) : (s.setLine n t).scales = s.scales := rfl
@[simp] theorem State.setLine_metas (s : State) (n : Nat) (t : TileLine) : (s.setLine n t).metas = s.metas := rfl
@[simp] theorem State.setLine_accs (s : State) (n : Nat) (t : TileLine) : (s.setLine n t).accs = s.accs := rfl
@[simp] theorem State.setLine_istore (s : State) (n : Nat) (t : TileLine) : (s.setLine n t).istore = s.istore := rfl
@[simp] theorem State.setLine_slotErrors (s : State) (n : Nat) (t : TileLine) : (s.setLine n t).slotErrors = s.slotErrors := rfl
@[simp] theorem State.setLine_memStacks (s : State) (n : Nat) (t : TileLine) : (s.setLine n t).memStacks = s.memStacks := rfl
@[simp] theorem State.setLine_migration (s : State) (n : Nat) (t : TileLine) : (s.setLine n t).migration = s.migration := rfl
@[simp] theorem State.setLine_cached (s : State) (n : Nat) (t : TileLine) : (s.setLine n t).cached = s.cached := rfl
@[simp] theorem State.setLine_fabric (s : State) (n : Nat) (t : TileLine) : (s.setLine n t).fabric = s.fabric := rfl
@[simp] theorem State.setLine_keep (s : State) (n : Nat) (t : TileLine) : (s.setLine n t).keep = s.keep := rfl
@[simp] theorem State.setLine_flash (s : State) (n : Nat) (t : TileLine) : (s.setLine n t).flash = s.flash := rfl
@[simp] theorem State.setLine_sensors (s : State) (n : Nat) (t : TileLine) : (s.setLine n t).sensors = s.sensors := rfl
@[simp] theorem State.setLine_rotation (s : State) (n : Nat) (t : TileLine) : (s.setLine n t).rotation = s.rotation := rfl
@[simp] theorem State.setLine_reports (s : State) (n : Nat) (t : TileLine) : (s.setLine n t).reports = s.reports := rfl
@[simp] theorem State.setLine_nextId (s : State) (n : Nat) (t : TileLine) : (s.setLine n t).nextId = s.nextId := rfl
@[simp] theorem State.setLine_inbox (s : State) (n : Nat) (t : TileLine) : (s.setLine n t).inbox = s.inbox := rfl
@[simp] theorem State.setLine_frames (s : State) (n : Nat) (t : TileLine) : (s.setLine n t).frames = s.frames := rfl
@[simp] theorem State.setLine_agenda (s : State) (n : Nat) (t : TileLine) : (s.setLine n t).agenda = s.agenda := rfl
@[simp] theorem State.setLine_choices (s : State) (n : Nat) (t : TileLine) : (s.setLine n t).choices = s.choices := rfl
@[simp] theorem State.setLine_fresh (s : State) (n : Nat) (t : TileLine) : (s.setLine n t).fresh = s.fresh := rfl
@[simp] theorem State.setLine_out (s : State) (n : Nat) (t : TileLine) : (s.setLine n t).out = s.out := rfl

/-! ### State.setAccRow -/

@[simp] theorem State.setAccRow_cyc (s : State) (n : Nat) (t : AccRow) : (s.setAccRow n t).cyc = s.cyc := rfl
@[simp] theorem State.setAccRow_phase (s : State) (n : Nat) (t : AccRow) : (s.setAccRow n t).phase = s.phase := rfl
@[simp] theorem State.setAccRow_iss (s : State) (n : Nat) (t : AccRow) : (s.setAccRow n t).iss = s.iss := rfl
@[simp] theorem State.setAccRow_bundles (s : State) (n : Nat) (t : AccRow) : (s.setAccRow n t).bundles = s.bundles := rfl
@[simp] theorem State.setAccRow_towers (s : State) (n : Nat) (t : AccRow) : (s.setAccRow n t).towers = s.towers := rfl
@[simp] theorem State.setAccRow_cores (s : State) (n : Nat) (t : AccRow) : (s.setAccRow n t).cores = s.cores := rfl
@[simp] theorem State.setAccRow_contexts (s : State) (n : Nat) (t : AccRow) : (s.setAccRow n t).contexts = s.contexts := rfl
@[simp] theorem State.setAccRow_grids (s : State) (n : Nat) (t : AccRow) : (s.setAccRow n t).grids = s.grids := rfl
@[simp] theorem State.setAccRow_teams (s : State) (n : Nat) (t : AccRow) : (s.setAccRow n t).teams = s.teams := rfl
@[simp] theorem State.setAccRow_strands (s : State) (n : Nat) (t : AccRow) : (s.setAccRow n t).strands = s.strands := rfl
@[simp] theorem State.setAccRow_cmds (s : State) (n : Nat) (t : AccRow) : (s.setAccRow n t).cmds = s.cmds := rfl
@[simp] theorem State.setAccRow_hbm (s : State) (n : Nat) (t : AccRow) : (s.setAccRow n t).hbm = s.hbm := rfl
@[simp] theorem State.setAccRow_granules (s : State) (n : Nat) (t : AccRow) : (s.setAccRow n t).granules = s.granules := rfl
@[simp] theorem State.setAccRow_shortPages (s : State) (n : Nat) (t : AccRow) : (s.setAccRow n t).shortPages = s.shortPages := rfl
@[simp] theorem State.setAccRow_recent (s : State) (n : Nat) (t : AccRow) : (s.setAccRow n t).recent = s.recent := rfl
@[simp] theorem State.setAccRow_polls (s : State) (n : Nat) (t : AccRow) : (s.setAccRow n t).polls = s.polls := rfl
@[simp] theorem State.setAccRow_forward (s : State) (n : Nat) (t : AccRow) : (s.setAccRow n t).forward = s.forward := rfl
@[simp] theorem State.setAccRow_ring (s : State) (n : Nat) (t : AccRow) : (s.setAccRow n t).ring = s.ring := rfl
@[simp] theorem State.setAccRow_tags (s : State) (n : Nat) (t : AccRow) : (s.setAccRow n t).tags = s.tags := rfl
@[simp] theorem State.setAccRow_newTags (s : State) (n : Nat) (t : AccRow) : (s.setAccRow n t).newTags = s.newTags := rfl
@[simp] theorem State.setAccRow_ringQueue (s : State) (n : Nat) (t : AccRow) : (s.setAccRow n t).ringQueue = s.ringQueue := rfl
@[simp] theorem State.setAccRow_busy (s : State) (n : Nat) (t : AccRow) : (s.setAccRow n t).busy = s.busy := rfl
@[simp] theorem State.setAccRow_tiles (s : State) (n : Nat) (t : AccRow) : (s.setAccRow n t).tiles = s.tiles := rfl
@[simp] theorem State.setAccRow_scales (s : State) (n : Nat) (t : AccRow) : (s.setAccRow n t).scales = s.scales := rfl
@[simp] theorem State.setAccRow_metas (s : State) (n : Nat) (t : AccRow) : (s.setAccRow n t).metas = s.metas := rfl
@[simp] theorem State.setAccRow_istore (s : State) (n : Nat) (t : AccRow) : (s.setAccRow n t).istore = s.istore := rfl
@[simp] theorem State.setAccRow_slotErrors (s : State) (n : Nat) (t : AccRow) : (s.setAccRow n t).slotErrors = s.slotErrors := rfl
@[simp] theorem State.setAccRow_memStacks (s : State) (n : Nat) (t : AccRow) : (s.setAccRow n t).memStacks = s.memStacks := rfl
@[simp] theorem State.setAccRow_migration (s : State) (n : Nat) (t : AccRow) : (s.setAccRow n t).migration = s.migration := rfl
@[simp] theorem State.setAccRow_cached (s : State) (n : Nat) (t : AccRow) : (s.setAccRow n t).cached = s.cached := rfl
@[simp] theorem State.setAccRow_fabric (s : State) (n : Nat) (t : AccRow) : (s.setAccRow n t).fabric = s.fabric := rfl
@[simp] theorem State.setAccRow_keep (s : State) (n : Nat) (t : AccRow) : (s.setAccRow n t).keep = s.keep := rfl
@[simp] theorem State.setAccRow_flash (s : State) (n : Nat) (t : AccRow) : (s.setAccRow n t).flash = s.flash := rfl
@[simp] theorem State.setAccRow_sensors (s : State) (n : Nat) (t : AccRow) : (s.setAccRow n t).sensors = s.sensors := rfl
@[simp] theorem State.setAccRow_rotation (s : State) (n : Nat) (t : AccRow) : (s.setAccRow n t).rotation = s.rotation := rfl
@[simp] theorem State.setAccRow_reports (s : State) (n : Nat) (t : AccRow) : (s.setAccRow n t).reports = s.reports := rfl
@[simp] theorem State.setAccRow_nextId (s : State) (n : Nat) (t : AccRow) : (s.setAccRow n t).nextId = s.nextId := rfl
@[simp] theorem State.setAccRow_inbox (s : State) (n : Nat) (t : AccRow) : (s.setAccRow n t).inbox = s.inbox := rfl
@[simp] theorem State.setAccRow_frames (s : State) (n : Nat) (t : AccRow) : (s.setAccRow n t).frames = s.frames := rfl
@[simp] theorem State.setAccRow_agenda (s : State) (n : Nat) (t : AccRow) : (s.setAccRow n t).agenda = s.agenda := rfl
@[simp] theorem State.setAccRow_choices (s : State) (n : Nat) (t : AccRow) : (s.setAccRow n t).choices = s.choices := rfl
@[simp] theorem State.setAccRow_fresh (s : State) (n : Nat) (t : AccRow) : (s.setAccRow n t).fresh = s.fresh := rfl
@[simp] theorem State.setAccRow_out (s : State) (n : Nat) (t : AccRow) : (s.setAccRow n t).out = s.out := rfl

/-! ### State.setContext -/

@[simp] theorem State.setContext_cyc (s : State) (t : Context) : (s.setContext t).cyc = s.cyc := rfl
@[simp] theorem State.setContext_phase (s : State) (t : Context) : (s.setContext t).phase = s.phase := rfl
@[simp] theorem State.setContext_iss (s : State) (t : Context) : (s.setContext t).iss = s.iss := rfl
@[simp] theorem State.setContext_bundles (s : State) (t : Context) : (s.setContext t).bundles = s.bundles := rfl
@[simp] theorem State.setContext_towers (s : State) (t : Context) : (s.setContext t).towers = s.towers := rfl
@[simp] theorem State.setContext_cores (s : State) (t : Context) : (s.setContext t).cores = s.cores := rfl
@[simp] theorem State.setContext_grids (s : State) (t : Context) : (s.setContext t).grids = s.grids := rfl
@[simp] theorem State.setContext_teams (s : State) (t : Context) : (s.setContext t).teams = s.teams := rfl
@[simp] theorem State.setContext_strands (s : State) (t : Context) : (s.setContext t).strands = s.strands := rfl
@[simp] theorem State.setContext_cmds (s : State) (t : Context) : (s.setContext t).cmds = s.cmds := rfl
@[simp] theorem State.setContext_hbm (s : State) (t : Context) : (s.setContext t).hbm = s.hbm := rfl
@[simp] theorem State.setContext_granules (s : State) (t : Context) : (s.setContext t).granules = s.granules := rfl
@[simp] theorem State.setContext_shortPages (s : State) (t : Context) : (s.setContext t).shortPages = s.shortPages := rfl
@[simp] theorem State.setContext_recent (s : State) (t : Context) : (s.setContext t).recent = s.recent := rfl
@[simp] theorem State.setContext_polls (s : State) (t : Context) : (s.setContext t).polls = s.polls := rfl
@[simp] theorem State.setContext_forward (s : State) (t : Context) : (s.setContext t).forward = s.forward := rfl
@[simp] theorem State.setContext_ring (s : State) (t : Context) : (s.setContext t).ring = s.ring := rfl
@[simp] theorem State.setContext_tags (s : State) (t : Context) : (s.setContext t).tags = s.tags := rfl
@[simp] theorem State.setContext_newTags (s : State) (t : Context) : (s.setContext t).newTags = s.newTags := rfl
@[simp] theorem State.setContext_ringQueue (s : State) (t : Context) : (s.setContext t).ringQueue = s.ringQueue := rfl
@[simp] theorem State.setContext_busy (s : State) (t : Context) : (s.setContext t).busy = s.busy := rfl
@[simp] theorem State.setContext_tiles (s : State) (t : Context) : (s.setContext t).tiles = s.tiles := rfl
@[simp] theorem State.setContext_scales (s : State) (t : Context) : (s.setContext t).scales = s.scales := rfl
@[simp] theorem State.setContext_metas (s : State) (t : Context) : (s.setContext t).metas = s.metas := rfl
@[simp] theorem State.setContext_accs (s : State) (t : Context) : (s.setContext t).accs = s.accs := rfl
@[simp] theorem State.setContext_istore (s : State) (t : Context) : (s.setContext t).istore = s.istore := rfl
@[simp] theorem State.setContext_slotErrors (s : State) (t : Context) : (s.setContext t).slotErrors = s.slotErrors := rfl
@[simp] theorem State.setContext_memStacks (s : State) (t : Context) : (s.setContext t).memStacks = s.memStacks := rfl
@[simp] theorem State.setContext_migration (s : State) (t : Context) : (s.setContext t).migration = s.migration := rfl
@[simp] theorem State.setContext_cached (s : State) (t : Context) : (s.setContext t).cached = s.cached := rfl
@[simp] theorem State.setContext_fabric (s : State) (t : Context) : (s.setContext t).fabric = s.fabric := rfl
@[simp] theorem State.setContext_keep (s : State) (t : Context) : (s.setContext t).keep = s.keep := rfl
@[simp] theorem State.setContext_flash (s : State) (t : Context) : (s.setContext t).flash = s.flash := rfl
@[simp] theorem State.setContext_sensors (s : State) (t : Context) : (s.setContext t).sensors = s.sensors := rfl
@[simp] theorem State.setContext_rotation (s : State) (t : Context) : (s.setContext t).rotation = s.rotation := rfl
@[simp] theorem State.setContext_reports (s : State) (t : Context) : (s.setContext t).reports = s.reports := rfl
@[simp] theorem State.setContext_nextId (s : State) (t : Context) : (s.setContext t).nextId = s.nextId := rfl
@[simp] theorem State.setContext_inbox (s : State) (t : Context) : (s.setContext t).inbox = s.inbox := rfl
@[simp] theorem State.setContext_frames (s : State) (t : Context) : (s.setContext t).frames = s.frames := rfl
@[simp] theorem State.setContext_agenda (s : State) (t : Context) : (s.setContext t).agenda = s.agenda := rfl
@[simp] theorem State.setContext_choices (s : State) (t : Context) : (s.setContext t).choices = s.choices := rfl
@[simp] theorem State.setContext_fresh (s : State) (t : Context) : (s.setContext t).fresh = s.fresh := rfl
@[simp] theorem State.setContext_out (s : State) (t : Context) : (s.setContext t).out = s.out := rfl

/-! ### State.setGranule -/

@[simp] theorem State.setGranule_cyc (s : State) (n : Nat) (t : Granule) : (s.setGranule n t).cyc = s.cyc := rfl
@[simp] theorem State.setGranule_phase (s : State) (n : Nat) (t : Granule) : (s.setGranule n t).phase = s.phase := rfl
@[simp] theorem State.setGranule_iss (s : State) (n : Nat) (t : Granule) : (s.setGranule n t).iss = s.iss := rfl
@[simp] theorem State.setGranule_bundles (s : State) (n : Nat) (t : Granule) : (s.setGranule n t).bundles = s.bundles := rfl
@[simp] theorem State.setGranule_towers (s : State) (n : Nat) (t : Granule) : (s.setGranule n t).towers = s.towers := rfl
@[simp] theorem State.setGranule_cores (s : State) (n : Nat) (t : Granule) : (s.setGranule n t).cores = s.cores := rfl
@[simp] theorem State.setGranule_contexts (s : State) (n : Nat) (t : Granule) : (s.setGranule n t).contexts = s.contexts := rfl
@[simp] theorem State.setGranule_grids (s : State) (n : Nat) (t : Granule) : (s.setGranule n t).grids = s.grids := rfl
@[simp] theorem State.setGranule_teams (s : State) (n : Nat) (t : Granule) : (s.setGranule n t).teams = s.teams := rfl
@[simp] theorem State.setGranule_strands (s : State) (n : Nat) (t : Granule) : (s.setGranule n t).strands = s.strands := rfl
@[simp] theorem State.setGranule_cmds (s : State) (n : Nat) (t : Granule) : (s.setGranule n t).cmds = s.cmds := rfl
@[simp] theorem State.setGranule_hbm (s : State) (n : Nat) (t : Granule) : (s.setGranule n t).hbm = s.hbm := rfl
@[simp] theorem State.setGranule_shortPages (s : State) (n : Nat) (t : Granule) : (s.setGranule n t).shortPages = s.shortPages := rfl
@[simp] theorem State.setGranule_recent (s : State) (n : Nat) (t : Granule) : (s.setGranule n t).recent = s.recent := rfl
@[simp] theorem State.setGranule_polls (s : State) (n : Nat) (t : Granule) : (s.setGranule n t).polls = s.polls := rfl
@[simp] theorem State.setGranule_forward (s : State) (n : Nat) (t : Granule) : (s.setGranule n t).forward = s.forward := rfl
@[simp] theorem State.setGranule_ring (s : State) (n : Nat) (t : Granule) : (s.setGranule n t).ring = s.ring := rfl
@[simp] theorem State.setGranule_tags (s : State) (n : Nat) (t : Granule) : (s.setGranule n t).tags = s.tags := rfl
@[simp] theorem State.setGranule_newTags (s : State) (n : Nat) (t : Granule) : (s.setGranule n t).newTags = s.newTags := rfl
@[simp] theorem State.setGranule_ringQueue (s : State) (n : Nat) (t : Granule) : (s.setGranule n t).ringQueue = s.ringQueue := rfl
@[simp] theorem State.setGranule_busy (s : State) (n : Nat) (t : Granule) : (s.setGranule n t).busy = s.busy := rfl
@[simp] theorem State.setGranule_tiles (s : State) (n : Nat) (t : Granule) : (s.setGranule n t).tiles = s.tiles := rfl
@[simp] theorem State.setGranule_scales (s : State) (n : Nat) (t : Granule) : (s.setGranule n t).scales = s.scales := rfl
@[simp] theorem State.setGranule_metas (s : State) (n : Nat) (t : Granule) : (s.setGranule n t).metas = s.metas := rfl
@[simp] theorem State.setGranule_accs (s : State) (n : Nat) (t : Granule) : (s.setGranule n t).accs = s.accs := rfl
@[simp] theorem State.setGranule_istore (s : State) (n : Nat) (t : Granule) : (s.setGranule n t).istore = s.istore := rfl
@[simp] theorem State.setGranule_slotErrors (s : State) (n : Nat) (t : Granule) : (s.setGranule n t).slotErrors = s.slotErrors := rfl
@[simp] theorem State.setGranule_memStacks (s : State) (n : Nat) (t : Granule) : (s.setGranule n t).memStacks = s.memStacks := rfl
@[simp] theorem State.setGranule_migration (s : State) (n : Nat) (t : Granule) : (s.setGranule n t).migration = s.migration := rfl
@[simp] theorem State.setGranule_cached (s : State) (n : Nat) (t : Granule) : (s.setGranule n t).cached = s.cached := rfl
@[simp] theorem State.setGranule_fabric (s : State) (n : Nat) (t : Granule) : (s.setGranule n t).fabric = s.fabric := rfl
@[simp] theorem State.setGranule_keep (s : State) (n : Nat) (t : Granule) : (s.setGranule n t).keep = s.keep := rfl
@[simp] theorem State.setGranule_flash (s : State) (n : Nat) (t : Granule) : (s.setGranule n t).flash = s.flash := rfl
@[simp] theorem State.setGranule_sensors (s : State) (n : Nat) (t : Granule) : (s.setGranule n t).sensors = s.sensors := rfl
@[simp] theorem State.setGranule_rotation (s : State) (n : Nat) (t : Granule) : (s.setGranule n t).rotation = s.rotation := rfl
@[simp] theorem State.setGranule_reports (s : State) (n : Nat) (t : Granule) : (s.setGranule n t).reports = s.reports := rfl
@[simp] theorem State.setGranule_nextId (s : State) (n : Nat) (t : Granule) : (s.setGranule n t).nextId = s.nextId := rfl
@[simp] theorem State.setGranule_inbox (s : State) (n : Nat) (t : Granule) : (s.setGranule n t).inbox = s.inbox := rfl
@[simp] theorem State.setGranule_frames (s : State) (n : Nat) (t : Granule) : (s.setGranule n t).frames = s.frames := rfl
@[simp] theorem State.setGranule_agenda (s : State) (n : Nat) (t : Granule) : (s.setGranule n t).agenda = s.agenda := rfl
@[simp] theorem State.setGranule_choices (s : State) (n : Nat) (t : Granule) : (s.setGranule n t).choices = s.choices := rfl
@[simp] theorem State.setGranule_fresh (s : State) (n : Nat) (t : Granule) : (s.setGranule n t).fresh = s.fresh := rfl
@[simp] theorem State.setGranule_out (s : State) (n : Nat) (t : Granule) : (s.setGranule n t).out = s.out := rfl

/-! ### State.slotDone -/

@[simp] theorem State.slotDone_cyc (s : State) (a b : List Raised) (e : List Effect) : (s.slotDone a b e).cyc = s.cyc := rfl
@[simp] theorem State.slotDone_phase (s : State) (a b : List Raised) (e : List Effect) : (s.slotDone a b e).phase = s.phase := rfl
@[simp] theorem State.slotDone_bundles (s : State) (a b : List Raised) (e : List Effect) : (s.slotDone a b e).bundles = s.bundles := rfl
@[simp] theorem State.slotDone_towers (s : State) (a b : List Raised) (e : List Effect) : (s.slotDone a b e).towers = s.towers := rfl
@[simp] theorem State.slotDone_cores (s : State) (a b : List Raised) (e : List Effect) : (s.slotDone a b e).cores = s.cores := rfl
@[simp] theorem State.slotDone_contexts (s : State) (a b : List Raised) (e : List Effect) : (s.slotDone a b e).contexts = s.contexts := rfl
@[simp] theorem State.slotDone_grids (s : State) (a b : List Raised) (e : List Effect) : (s.slotDone a b e).grids = s.grids := rfl
@[simp] theorem State.slotDone_teams (s : State) (a b : List Raised) (e : List Effect) : (s.slotDone a b e).teams = s.teams := rfl
@[simp] theorem State.slotDone_strands (s : State) (a b : List Raised) (e : List Effect) : (s.slotDone a b e).strands = s.strands := rfl
@[simp] theorem State.slotDone_cmds (s : State) (a b : List Raised) (e : List Effect) : (s.slotDone a b e).cmds = s.cmds := rfl
@[simp] theorem State.slotDone_hbm (s : State) (a b : List Raised) (e : List Effect) : (s.slotDone a b e).hbm = s.hbm := rfl
@[simp] theorem State.slotDone_granules (s : State) (a b : List Raised) (e : List Effect) : (s.slotDone a b e).granules = s.granules := rfl
@[simp] theorem State.slotDone_shortPages (s : State) (a b : List Raised) (e : List Effect) : (s.slotDone a b e).shortPages = s.shortPages := rfl
@[simp] theorem State.slotDone_recent (s : State) (a b : List Raised) (e : List Effect) : (s.slotDone a b e).recent = s.recent := rfl
@[simp] theorem State.slotDone_polls (s : State) (a b : List Raised) (e : List Effect) : (s.slotDone a b e).polls = s.polls := rfl
@[simp] theorem State.slotDone_forward (s : State) (a b : List Raised) (e : List Effect) : (s.slotDone a b e).forward = s.forward := rfl
@[simp] theorem State.slotDone_ring (s : State) (a b : List Raised) (e : List Effect) : (s.slotDone a b e).ring = s.ring := rfl
@[simp] theorem State.slotDone_tags (s : State) (a b : List Raised) (e : List Effect) : (s.slotDone a b e).tags = s.tags := rfl
@[simp] theorem State.slotDone_newTags (s : State) (a b : List Raised) (e : List Effect) : (s.slotDone a b e).newTags = s.newTags := rfl
@[simp] theorem State.slotDone_ringQueue (s : State) (a b : List Raised) (e : List Effect) : (s.slotDone a b e).ringQueue = s.ringQueue := rfl
@[simp] theorem State.slotDone_busy (s : State) (a b : List Raised) (e : List Effect) : (s.slotDone a b e).busy = s.busy := rfl
@[simp] theorem State.slotDone_tiles (s : State) (a b : List Raised) (e : List Effect) : (s.slotDone a b e).tiles = s.tiles := rfl
@[simp] theorem State.slotDone_scales (s : State) (a b : List Raised) (e : List Effect) : (s.slotDone a b e).scales = s.scales := rfl
@[simp] theorem State.slotDone_metas (s : State) (a b : List Raised) (e : List Effect) : (s.slotDone a b e).metas = s.metas := rfl
@[simp] theorem State.slotDone_accs (s : State) (a b : List Raised) (e : List Effect) : (s.slotDone a b e).accs = s.accs := rfl
@[simp] theorem State.slotDone_istore (s : State) (a b : List Raised) (e : List Effect) : (s.slotDone a b e).istore = s.istore := rfl
@[simp] theorem State.slotDone_slotErrors (s : State) (a b : List Raised) (e : List Effect) : (s.slotDone a b e).slotErrors = s.slotErrors := rfl
@[simp] theorem State.slotDone_memStacks (s : State) (a b : List Raised) (e : List Effect) : (s.slotDone a b e).memStacks = s.memStacks := rfl
@[simp] theorem State.slotDone_migration (s : State) (a b : List Raised) (e : List Effect) : (s.slotDone a b e).migration = s.migration := rfl
@[simp] theorem State.slotDone_cached (s : State) (a b : List Raised) (e : List Effect) : (s.slotDone a b e).cached = s.cached := rfl
@[simp] theorem State.slotDone_fabric (s : State) (a b : List Raised) (e : List Effect) : (s.slotDone a b e).fabric = s.fabric := rfl
@[simp] theorem State.slotDone_keep (s : State) (a b : List Raised) (e : List Effect) : (s.slotDone a b e).keep = s.keep := rfl
@[simp] theorem State.slotDone_flash (s : State) (a b : List Raised) (e : List Effect) : (s.slotDone a b e).flash = s.flash := rfl
@[simp] theorem State.slotDone_sensors (s : State) (a b : List Raised) (e : List Effect) : (s.slotDone a b e).sensors = s.sensors := rfl
@[simp] theorem State.slotDone_rotation (s : State) (a b : List Raised) (e : List Effect) : (s.slotDone a b e).rotation = s.rotation := rfl
@[simp] theorem State.slotDone_reports (s : State) (a b : List Raised) (e : List Effect) : (s.slotDone a b e).reports = s.reports := rfl
@[simp] theorem State.slotDone_nextId (s : State) (a b : List Raised) (e : List Effect) : (s.slotDone a b e).nextId = s.nextId := rfl
@[simp] theorem State.slotDone_inbox (s : State) (a b : List Raised) (e : List Effect) : (s.slotDone a b e).inbox = s.inbox := rfl
@[simp] theorem State.slotDone_frames (s : State) (a b : List Raised) (e : List Effect) : (s.slotDone a b e).frames = s.frames := rfl
@[simp] theorem State.slotDone_agenda (s : State) (a b : List Raised) (e : List Effect) : (s.slotDone a b e).agenda = s.agenda := rfl
@[simp] theorem State.slotDone_choices (s : State) (a b : List Raised) (e : List Effect) : (s.slotDone a b e).choices = s.choices := rfl
@[simp] theorem State.slotDone_fresh (s : State) (a b : List Raised) (e : List Effect) : (s.slotDone a b e).fresh = s.fresh := rfl
@[simp] theorem State.slotDone_out (s : State) (a b : List Raised) (e : List Effect) : (s.slotDone a b e).out = s.out := rfl

/-! ### State.report -/

@[simp] theorem State.report_cyc (s : State) (w : String) (a b : Nat) : (s.report w a b).cyc = s.cyc := rfl
@[simp] theorem State.report_phase (s : State) (w : String) (a b : Nat) : (s.report w a b).phase = s.phase := rfl
@[simp] theorem State.report_iss (s : State) (w : String) (a b : Nat) : (s.report w a b).iss = s.iss := rfl
@[simp] theorem State.report_bundles (s : State) (w : String) (a b : Nat) : (s.report w a b).bundles = s.bundles := rfl
@[simp] theorem State.report_towers (s : State) (w : String) (a b : Nat) : (s.report w a b).towers = s.towers := rfl
@[simp] theorem State.report_cores (s : State) (w : String) (a b : Nat) : (s.report w a b).cores = s.cores := rfl
@[simp] theorem State.report_contexts (s : State) (w : String) (a b : Nat) : (s.report w a b).contexts = s.contexts := rfl
@[simp] theorem State.report_grids (s : State) (w : String) (a b : Nat) : (s.report w a b).grids = s.grids := rfl
@[simp] theorem State.report_teams (s : State) (w : String) (a b : Nat) : (s.report w a b).teams = s.teams := rfl
@[simp] theorem State.report_strands (s : State) (w : String) (a b : Nat) : (s.report w a b).strands = s.strands := rfl
@[simp] theorem State.report_cmds (s : State) (w : String) (a b : Nat) : (s.report w a b).cmds = s.cmds := rfl
@[simp] theorem State.report_hbm (s : State) (w : String) (a b : Nat) : (s.report w a b).hbm = s.hbm := rfl
@[simp] theorem State.report_granules (s : State) (w : String) (a b : Nat) : (s.report w a b).granules = s.granules := rfl
@[simp] theorem State.report_shortPages (s : State) (w : String) (a b : Nat) : (s.report w a b).shortPages = s.shortPages := rfl
@[simp] theorem State.report_recent (s : State) (w : String) (a b : Nat) : (s.report w a b).recent = s.recent := rfl
@[simp] theorem State.report_polls (s : State) (w : String) (a b : Nat) : (s.report w a b).polls = s.polls := rfl
@[simp] theorem State.report_forward (s : State) (w : String) (a b : Nat) : (s.report w a b).forward = s.forward := rfl
@[simp] theorem State.report_ring (s : State) (w : String) (a b : Nat) : (s.report w a b).ring = s.ring := rfl
@[simp] theorem State.report_tags (s : State) (w : String) (a b : Nat) : (s.report w a b).tags = s.tags := rfl
@[simp] theorem State.report_newTags (s : State) (w : String) (a b : Nat) : (s.report w a b).newTags = s.newTags := rfl
@[simp] theorem State.report_ringQueue (s : State) (w : String) (a b : Nat) : (s.report w a b).ringQueue = s.ringQueue := rfl
@[simp] theorem State.report_busy (s : State) (w : String) (a b : Nat) : (s.report w a b).busy = s.busy := rfl
@[simp] theorem State.report_tiles (s : State) (w : String) (a b : Nat) : (s.report w a b).tiles = s.tiles := rfl
@[simp] theorem State.report_scales (s : State) (w : String) (a b : Nat) : (s.report w a b).scales = s.scales := rfl
@[simp] theorem State.report_metas (s : State) (w : String) (a b : Nat) : (s.report w a b).metas = s.metas := rfl
@[simp] theorem State.report_accs (s : State) (w : String) (a b : Nat) : (s.report w a b).accs = s.accs := rfl
@[simp] theorem State.report_istore (s : State) (w : String) (a b : Nat) : (s.report w a b).istore = s.istore := rfl
@[simp] theorem State.report_slotErrors (s : State) (w : String) (a b : Nat) : (s.report w a b).slotErrors = s.slotErrors := rfl
@[simp] theorem State.report_memStacks (s : State) (w : String) (a b : Nat) : (s.report w a b).memStacks = s.memStacks := rfl
@[simp] theorem State.report_migration (s : State) (w : String) (a b : Nat) : (s.report w a b).migration = s.migration := rfl
@[simp] theorem State.report_cached (s : State) (w : String) (a b : Nat) : (s.report w a b).cached = s.cached := rfl
@[simp] theorem State.report_fabric (s : State) (w : String) (a b : Nat) : (s.report w a b).fabric = s.fabric := rfl
@[simp] theorem State.report_keep (s : State) (w : String) (a b : Nat) : (s.report w a b).keep = s.keep := rfl
@[simp] theorem State.report_flash (s : State) (w : String) (a b : Nat) : (s.report w a b).flash = s.flash := rfl
@[simp] theorem State.report_sensors (s : State) (w : String) (a b : Nat) : (s.report w a b).sensors = s.sensors := rfl
@[simp] theorem State.report_rotation (s : State) (w : String) (a b : Nat) : (s.report w a b).rotation = s.rotation := rfl
@[simp] theorem State.report_reports (s : State) (w : String) (a b : Nat) : (s.report w a b).reports = s.reports := rfl
@[simp] theorem State.report_nextId (s : State) (w : String) (a b : Nat) : (s.report w a b).nextId = s.nextId := rfl
@[simp] theorem State.report_inbox (s : State) (w : String) (a b : Nat) : (s.report w a b).inbox = s.inbox := rfl
@[simp] theorem State.report_frames (s : State) (w : String) (a b : Nat) : (s.report w a b).frames = s.frames := rfl
@[simp] theorem State.report_agenda (s : State) (w : String) (a b : Nat) : (s.report w a b).agenda = s.agenda := rfl
@[simp] theorem State.report_choices (s : State) (w : String) (a b : Nat) : (s.report w a b).choices = s.choices := rfl
@[simp] theorem State.report_fresh (s : State) (w : String) (a b : Nat) : (s.report w a b).fresh = s.fresh := rfl

/-! ### State.nak -/

@[simp] theorem State.nak_cyc (s : State) (a b : Nat) : (s.nak a b).cyc = s.cyc := rfl
@[simp] theorem State.nak_phase (s : State) (a b : Nat) : (s.nak a b).phase = s.phase := rfl
@[simp] theorem State.nak_iss (s : State) (a b : Nat) : (s.nak a b).iss = s.iss := rfl
@[simp] theorem State.nak_bundles (s : State) (a b : Nat) : (s.nak a b).bundles = s.bundles := rfl
@[simp] theorem State.nak_towers (s : State) (a b : Nat) : (s.nak a b).towers = s.towers := rfl
@[simp] theorem State.nak_cores (s : State) (a b : Nat) : (s.nak a b).cores = s.cores := rfl
@[simp] theorem State.nak_contexts (s : State) (a b : Nat) : (s.nak a b).contexts = s.contexts := rfl
@[simp] theorem State.nak_grids (s : State) (a b : Nat) : (s.nak a b).grids = s.grids := rfl
@[simp] theorem State.nak_teams (s : State) (a b : Nat) : (s.nak a b).teams = s.teams := rfl
@[simp] theorem State.nak_strands (s : State) (a b : Nat) : (s.nak a b).strands = s.strands := rfl
@[simp] theorem State.nak_cmds (s : State) (a b : Nat) : (s.nak a b).cmds = s.cmds := rfl
@[simp] theorem State.nak_hbm (s : State) (a b : Nat) : (s.nak a b).hbm = s.hbm := rfl
@[simp] theorem State.nak_granules (s : State) (a b : Nat) : (s.nak a b).granules = s.granules := rfl
@[simp] theorem State.nak_shortPages (s : State) (a b : Nat) : (s.nak a b).shortPages = s.shortPages := rfl
@[simp] theorem State.nak_recent (s : State) (a b : Nat) : (s.nak a b).recent = s.recent := rfl
@[simp] theorem State.nak_polls (s : State) (a b : Nat) : (s.nak a b).polls = s.polls := rfl
@[simp] theorem State.nak_forward (s : State) (a b : Nat) : (s.nak a b).forward = s.forward := rfl
@[simp] theorem State.nak_ring (s : State) (a b : Nat) : (s.nak a b).ring = s.ring := rfl
@[simp] theorem State.nak_tags (s : State) (a b : Nat) : (s.nak a b).tags = s.tags := rfl
@[simp] theorem State.nak_newTags (s : State) (a b : Nat) : (s.nak a b).newTags = s.newTags := rfl
@[simp] theorem State.nak_ringQueue (s : State) (a b : Nat) : (s.nak a b).ringQueue = s.ringQueue := rfl
@[simp] theorem State.nak_busy (s : State) (a b : Nat) : (s.nak a b).busy = s.busy := rfl
@[simp] theorem State.nak_tiles (s : State) (a b : Nat) : (s.nak a b).tiles = s.tiles := rfl
@[simp] theorem State.nak_scales (s : State) (a b : Nat) : (s.nak a b).scales = s.scales := rfl
@[simp] theorem State.nak_metas (s : State) (a b : Nat) : (s.nak a b).metas = s.metas := rfl
@[simp] theorem State.nak_accs (s : State) (a b : Nat) : (s.nak a b).accs = s.accs := rfl
@[simp] theorem State.nak_istore (s : State) (a b : Nat) : (s.nak a b).istore = s.istore := rfl
@[simp] theorem State.nak_slotErrors (s : State) (a b : Nat) : (s.nak a b).slotErrors = s.slotErrors := rfl
@[simp] theorem State.nak_memStacks (s : State) (a b : Nat) : (s.nak a b).memStacks = s.memStacks := rfl
@[simp] theorem State.nak_migration (s : State) (a b : Nat) : (s.nak a b).migration = s.migration := rfl
@[simp] theorem State.nak_cached (s : State) (a b : Nat) : (s.nak a b).cached = s.cached := rfl
@[simp] theorem State.nak_fabric (s : State) (a b : Nat) : (s.nak a b).fabric = s.fabric := rfl
@[simp] theorem State.nak_keep (s : State) (a b : Nat) : (s.nak a b).keep = s.keep := rfl
@[simp] theorem State.nak_flash (s : State) (a b : Nat) : (s.nak a b).flash = s.flash := rfl
@[simp] theorem State.nak_sensors (s : State) (a b : Nat) : (s.nak a b).sensors = s.sensors := rfl
@[simp] theorem State.nak_rotation (s : State) (a b : Nat) : (s.nak a b).rotation = s.rotation := rfl
@[simp] theorem State.nak_reports (s : State) (a b : Nat) : (s.nak a b).reports = s.reports := rfl
@[simp] theorem State.nak_nextId (s : State) (a b : Nat) : (s.nak a b).nextId = s.nextId := rfl
@[simp] theorem State.nak_inbox (s : State) (a b : Nat) : (s.nak a b).inbox = s.inbox := rfl
@[simp] theorem State.nak_frames (s : State) (a b : Nat) : (s.nak a b).frames = s.frames := rfl
@[simp] theorem State.nak_agenda (s : State) (a b : Nat) : (s.nak a b).agenda = s.agenda := rfl
@[simp] theorem State.nak_choices (s : State) (a b : Nat) : (s.nak a b).choices = s.choices := rfl
@[simp] theorem State.nak_fresh (s : State) (a b : Nat) : (s.nak a b).fresh = s.fresh := rfl

/-! ### State.mapTowers -/

@[simp] theorem State.mapTowers_cyc (s : State) (f : Tower → Tower) : (s.mapTowers f).cyc = s.cyc := rfl
@[simp] theorem State.mapTowers_phase (s : State) (f : Tower → Tower) : (s.mapTowers f).phase = s.phase := rfl
@[simp] theorem State.mapTowers_iss (s : State) (f : Tower → Tower) : (s.mapTowers f).iss = s.iss := rfl
@[simp] theorem State.mapTowers_bundles (s : State) (f : Tower → Tower) : (s.mapTowers f).bundles = s.bundles := rfl
@[simp] theorem State.mapTowers_cores (s : State) (f : Tower → Tower) : (s.mapTowers f).cores = s.cores := rfl
@[simp] theorem State.mapTowers_contexts (s : State) (f : Tower → Tower) : (s.mapTowers f).contexts = s.contexts := rfl
@[simp] theorem State.mapTowers_grids (s : State) (f : Tower → Tower) : (s.mapTowers f).grids = s.grids := rfl
@[simp] theorem State.mapTowers_teams (s : State) (f : Tower → Tower) : (s.mapTowers f).teams = s.teams := rfl
@[simp] theorem State.mapTowers_strands (s : State) (f : Tower → Tower) : (s.mapTowers f).strands = s.strands := rfl
@[simp] theorem State.mapTowers_cmds (s : State) (f : Tower → Tower) : (s.mapTowers f).cmds = s.cmds := rfl
@[simp] theorem State.mapTowers_hbm (s : State) (f : Tower → Tower) : (s.mapTowers f).hbm = s.hbm := rfl
@[simp] theorem State.mapTowers_granules (s : State) (f : Tower → Tower) : (s.mapTowers f).granules = s.granules := rfl
@[simp] theorem State.mapTowers_shortPages (s : State) (f : Tower → Tower) : (s.mapTowers f).shortPages = s.shortPages := rfl
@[simp] theorem State.mapTowers_recent (s : State) (f : Tower → Tower) : (s.mapTowers f).recent = s.recent := rfl
@[simp] theorem State.mapTowers_polls (s : State) (f : Tower → Tower) : (s.mapTowers f).polls = s.polls := rfl
@[simp] theorem State.mapTowers_forward (s : State) (f : Tower → Tower) : (s.mapTowers f).forward = s.forward := rfl
@[simp] theorem State.mapTowers_ring (s : State) (f : Tower → Tower) : (s.mapTowers f).ring = s.ring := rfl
@[simp] theorem State.mapTowers_tags (s : State) (f : Tower → Tower) : (s.mapTowers f).tags = s.tags := rfl
@[simp] theorem State.mapTowers_newTags (s : State) (f : Tower → Tower) : (s.mapTowers f).newTags = s.newTags := rfl
@[simp] theorem State.mapTowers_ringQueue (s : State) (f : Tower → Tower) : (s.mapTowers f).ringQueue = s.ringQueue := rfl
@[simp] theorem State.mapTowers_busy (s : State) (f : Tower → Tower) : (s.mapTowers f).busy = s.busy := rfl
@[simp] theorem State.mapTowers_tiles (s : State) (f : Tower → Tower) : (s.mapTowers f).tiles = s.tiles := rfl
@[simp] theorem State.mapTowers_scales (s : State) (f : Tower → Tower) : (s.mapTowers f).scales = s.scales := rfl
@[simp] theorem State.mapTowers_metas (s : State) (f : Tower → Tower) : (s.mapTowers f).metas = s.metas := rfl
@[simp] theorem State.mapTowers_accs (s : State) (f : Tower → Tower) : (s.mapTowers f).accs = s.accs := rfl
@[simp] theorem State.mapTowers_istore (s : State) (f : Tower → Tower) : (s.mapTowers f).istore = s.istore := rfl
@[simp] theorem State.mapTowers_slotErrors (s : State) (f : Tower → Tower) : (s.mapTowers f).slotErrors = s.slotErrors := rfl
@[simp] theorem State.mapTowers_memStacks (s : State) (f : Tower → Tower) : (s.mapTowers f).memStacks = s.memStacks := rfl
@[simp] theorem State.mapTowers_migration (s : State) (f : Tower → Tower) : (s.mapTowers f).migration = s.migration := rfl
@[simp] theorem State.mapTowers_cached (s : State) (f : Tower → Tower) : (s.mapTowers f).cached = s.cached := rfl
@[simp] theorem State.mapTowers_fabric (s : State) (f : Tower → Tower) : (s.mapTowers f).fabric = s.fabric := rfl
@[simp] theorem State.mapTowers_keep (s : State) (f : Tower → Tower) : (s.mapTowers f).keep = s.keep := rfl
@[simp] theorem State.mapTowers_flash (s : State) (f : Tower → Tower) : (s.mapTowers f).flash = s.flash := rfl
@[simp] theorem State.mapTowers_sensors (s : State) (f : Tower → Tower) : (s.mapTowers f).sensors = s.sensors := rfl
@[simp] theorem State.mapTowers_rotation (s : State) (f : Tower → Tower) : (s.mapTowers f).rotation = s.rotation := rfl
@[simp] theorem State.mapTowers_reports (s : State) (f : Tower → Tower) : (s.mapTowers f).reports = s.reports := rfl
@[simp] theorem State.mapTowers_nextId (s : State) (f : Tower → Tower) : (s.mapTowers f).nextId = s.nextId := rfl
@[simp] theorem State.mapTowers_inbox (s : State) (f : Tower → Tower) : (s.mapTowers f).inbox = s.inbox := rfl
@[simp] theorem State.mapTowers_frames (s : State) (f : Tower → Tower) : (s.mapTowers f).frames = s.frames := rfl
@[simp] theorem State.mapTowers_agenda (s : State) (f : Tower → Tower) : (s.mapTowers f).agenda = s.agenda := rfl
@[simp] theorem State.mapTowers_choices (s : State) (f : Tower → Tower) : (s.mapTowers f).choices = s.choices := rfl
@[simp] theorem State.mapTowers_fresh (s : State) (f : Tower → Tower) : (s.mapTowers f).fresh = s.fresh := rfl
@[simp] theorem State.mapTowers_out (s : State) (f : Tower → Tower) : (s.mapTowers f).out = s.out := rfl

@[simp] theorem State.chosen_fresh (s : State) : s.chosen.fresh = s.fresh + 1 := rfl
@[simp] theorem State.chosen_choices (s : State) : s.chosen.choices = s.choices.tail := rfl
@[simp] theorem State.freed_fresh (s : State) : s.freed.fresh = s.fresh + 1 := rfl

/-! ### The bundle being issued -/

@[simp] theorem State.slotDone_iss_st (s : State) (a b : List Raised) (e : List Effect) :
    (s.slotDone a b e).iss.st = s.iss.st := rfl
@[simp] theorem State.slotDone_iss_tm (s : State) (a b : List Raised) (e : List Effect) :
    (s.slotDone a b e).iss.tm = s.iss.tm := rfl
@[simp] theorem State.slotDone_iss_core (s : State) (a b : List Raised) (e : List Effect) :
    (s.slotDone a b e).iss.core = s.iss.core := rfl
@[simp] theorem State.slotDone_iss_pc (s : State) (a b : List Raised) (e : List Effect) :
    (s.slotDone a b e).iss.pc = s.iss.pc := rfl
@[simp] theorem State.slotDone_iss_words (s : State) (a b : List Raised) (e : List Effect) :
    (s.slotDone a b e).iss.words = s.iss.words := rfl
@[simp] theorem State.slotDone_iss_slot (s : State) (a b : List Raised) (e : List Effect) :
    (s.slotDone a b e).iss.slot = s.iss.slot := rfl
@[simp] theorem State.slotDone_iss_idle (s : State) (a b : List Raised) (e : List Effect) :
    (s.slotDone a b e).iss.idle = s.iss.idle := rfl
@[simp] theorem State.slotDone_iss_pfx (s : State) (a b : List Raised) (e : List Effect) : (s.slotDone a b e).iss.pfx = [] := rfl
@[simp] theorem State.slotDone_iss_guard (s : State) (a b : List Raised) (e : List Effect) : (s.slotDone a b e).iss.guard = true := rfl
@[simp] theorem State.slotDone_iss_deps (s : State) (a b : List Raised) (e : List Effect) : (s.slotDone a b e).iss.deps = none := rfl

/-! ### Registers of a strand -/

@[simp] theorem Strand.setSreg_team (st : Strand) (d : BitVec 6) (v : Word) (p : Bool) : (st.setSreg d v p).team = st.team := by
  unfold Strand.setSreg; split <;> rfl
@[simp] theorem Strand.setSreg_index (st : Strand) (d : BitVec 6) (v : Word) (p : Bool) : (st.setSreg d v p).index = st.index := by
  unfold Strand.setSreg; split <;> rfl
@[simp] theorem Strand.setSreg_p (st : Strand) (d : BitVec 6) (v : Word) (p : Bool) : (st.setSreg d v p).p = st.p := by
  unfold Strand.setSreg; split <;> rfl
@[simp] theorem Strand.setSreg_pc (st : Strand) (d : BitVec 6) (v : Word) (p : Bool) : (st.setSreg d v p).pc = st.pc := by
  unfold Strand.setSreg; split <;> rfl
@[simp] theorem Strand.setSreg_len (st : Strand) (d : BitVec 6) (v : Word) (p : Bool) : (st.setSreg d v p).len = st.len := by
  unfold Strand.setSreg; split <;> rfl
@[simp] theorem Strand.setSreg_mode (st : Strand) (d : BitVec 6) (v : Word) (p : Bool) : (st.setSreg d v p).mode = st.mode := by
  unfold Strand.setSreg; split <;> rfl
@[simp] theorem Strand.setSreg_st (st : Strand) (d : BitVec 6) (v : Word) (p : Bool) : (st.setSreg d v p).st = st.st := by
  unfold Strand.setSreg; split <;> rfl
@[simp] theorem Strand.setSreg_prior (st : Strand) (d : BitVec 6) (v : Word) (p : Bool) : (st.setSreg d v p).prior = st.prior := by
  unfold Strand.setSreg; split <;> rfl
@[simp] theorem Strand.setSreg_waits (st : Strand) (d : BitVec 6) (v : Word) (p : Bool) : (st.setSreg d v p).waits = st.waits := by
  unfold Strand.setSreg; split <;> rfl
@[simp] theorem Strand.setSreg_back (st : Strand) (d : BitVec 6) (v : Word) (p : Bool) : (st.setSreg d v p).back = st.back := by
  unfold Strand.setSreg; split <;> rfl
@[simp] theorem Strand.setSreg_nextIssue (st : Strand) (d : BitVec 6) (v : Word) (p : Bool) : (st.setSreg d v p).nextIssue = st.nextIssue := by
  unfold Strand.setSreg; split <;> rfl
@[simp] theorem Strand.setSreg_nulls (st : Strand) (d : BitVec 6) (v : Word) (p : Bool) : (st.setSreg d v p).nulls = st.nulls := by
  unfold Strand.setSreg; split <;> rfl
@[simp] theorem Strand.setSreg_loops (st : Strand) (d : BitVec 6) (v : Word) (p : Bool) : (st.setSreg d v p).loops = st.loops := by
  unfold Strand.setSreg; split <;> rfl
@[simp] theorem Strand.setSreg_lc (st : Strand) (d : BitVec 6) (v : Word) (p : Bool) : (st.setSreg d v p).lc = st.lc := by
  unfold Strand.setSreg; split <;> rfl
@[simp] theorem Strand.setSreg_masks (st : Strand) (d : BitVec 6) (v : Word) (p : Bool) : (st.setSreg d v p).masks = st.masks := by
  unfold Strand.setSreg; split <;> rfl
@[simp] theorem Strand.setSreg_tokens (st : Strand) (d : BitVec 6) (v : Word) (p : Bool) : (st.setSreg d v p).tokens = st.tokens := by
  unfold Strand.setSreg; split <;> rfl
@[simp] theorem Strand.setSreg_tokenless (st : Strand) (d : BitVec 6) (v : Word) (p : Bool) : (st.setSreg d v p).tokenless = st.tokenless := by
  unfold Strand.setSreg; split <;> rfl
@[simp] theorem Strand.setSreg_inflight (st : Strand) (d : BitVec 6) (v : Word) (p : Bool) : (st.setSreg d v p).inflight = st.inflight := by
  unfold Strand.setSreg; split <;> rfl
@[simp] theorem Strand.setSreg_rpl (st : Strand) (d : BitVec 6) (v : Word) (p : Bool) : (st.setSreg d v p).rpl = st.rpl := by
  unfold Strand.setSreg; split <;> rfl
@[simp] theorem Strand.setSreg_nrpl (st : Strand) (d : BitVec 6) (v : Word) (p : Bool) : (st.setSreg d v p).nrpl = st.nrpl := by
  unfold Strand.setSreg; split <;> rfl
@[simp] theorem Strand.setSreg_stores (st : Strand) (d : BitVec 6) (v : Word) (p : Bool) : (st.setSreg d v p).stores = st.stores := by
  unfold Strand.setSreg; split <;> rfl
@[simp] theorem Strand.setSreg_lanes (st : Strand) (d : BitVec 6) (v : Word) (p : Bool) : (st.setSreg d v p).lanes = st.lanes := by
  unfold Strand.setSreg; split <;> rfl
@[simp] theorem Strand.setSreg_numctl (st : Strand) (d : BitVec 6) (v : Word) (p : Bool) : (st.setSreg d v p).numctl = st.numctl := by
  unfold Strand.setSreg; split <;> rfl
@[simp] theorem Strand.setSreg_srkey (st : Strand) (d : BitVec 6) (v : Word) (p : Bool) : (st.setSreg d v p).srkey = st.srkey := by
  unfold Strand.setSreg; split <;> rfl
@[simp] theorem Strand.setSreg_srctr (st : Strand) (d : BitVec 6) (v : Word) (p : Bool) : (st.setSreg d v p).srctr = st.srctr := by
  unfold Strand.setSreg; split <;> rfl
@[simp] theorem Strand.setSreg_vwb (st : Strand) (d : BitVec 6) (v : Word) (p : Bool) : (st.setSreg d v p).vwb = st.vwb := by
  unfold Strand.setSreg; split <;> rfl
@[simp] theorem Strand.setSreg_acktol (st : Strand) (d : BitVec 6) (v : Word) (p : Bool) : (st.setSreg d v p).acktol = st.acktol := by
  unfold Strand.setSreg; split <;> rfl
@[simp] theorem Strand.setSreg_swpth (st : Strand) (d : BitVec 6) (v : Word) (p : Bool) : (st.setSreg d v p).swpth = st.swpth := by
  unfold Strand.setSreg; split <;> rfl
@[simp] theorem Strand.setSreg_cwgt (st : Strand) (d : BitVec 6) (v : Word) (p : Bool) : (st.setSreg d v p).cwgt = st.cwgt := by
  unfold Strand.setSreg; split <;> rfl
@[simp] theorem Strand.setSreg_mbxst (st : Strand) (d : BitVec 6) (v : Word) (p : Bool) : (st.setSreg d v p).mbxst = st.mbxst := by
  unfold Strand.setSreg; split <;> rfl
@[simp] theorem Strand.setSreg_mbxIn (st : Strand) (d : BitVec 6) (v : Word) (p : Bool) : (st.setSreg d v p).mbxIn = st.mbxIn := by
  unfold Strand.setSreg; split <;> rfl
@[simp] theorem Strand.setSreg_qv (st : Strand) (d : BitVec 6) (v : Word) (p : Bool) : (st.setSreg d v p).qv = st.qv := by
  unfold Strand.setSreg; split <;> rfl
@[simp] theorem Strand.setSreg_tcfg (st : Strand) (d : BitVec 6) (v : Word) (p : Bool) : (st.setSreg d v p).tcfg = st.tcfg := by
  unfold Strand.setSreg; split <;> rfl
@[simp] theorem Strand.setSreg_acfg (st : Strand) (d : BitVec 6) (v : Word) (p : Bool) : (st.setSreg d v p).acfg = st.acfg := by
  unfold Strand.setSreg; split <;> rfl
@[simp] theorem Strand.setSreg_arg (st : Strand) (d : BitVec 6) (v : Word) (p : Bool) : (st.setSreg d v p).arg = st.arg := by
  unfold Strand.setSreg; split <;> rfl
@[simp] theorem Strand.setSreg_auditn (st : Strand) (d : BitVec 6) (v : Word) (p : Bool) : (st.setSreg d v p).auditn = st.auditn := by
  unfold Strand.setSreg; split <;> rfl
@[simp] theorem Strand.setSreg_aq (st : Strand) (d : BitVec 6) (v : Word) (p : Bool) : (st.setSreg d v p).aq = st.aq := by
  unfold Strand.setSreg; split <;> rfl
@[simp] theorem Strand.setSreg_qlossEvents (st : Strand) (d : BitVec 6) (v : Word) (p : Bool) : (st.setSreg d v p).qlossEvents = st.qlossEvents := by
  unfold Strand.setSreg; split <;> rfl
@[simp] theorem Strand.setSreg_qlossCycles (st : Strand) (d : BitVec 6) (v : Word) (p : Bool) : (st.setSreg d v p).qlossCycles = st.qlossCycles := by
  unfold Strand.setSreg; split <;> rfl
@[simp] theorem Strand.setSreg_qlossHeld (st : Strand) (d : BitVec 6) (v : Word) (p : Bool) : (st.setSreg d v p).qlossHeld = st.qlossHeld := by
  unfold Strand.setSreg; split <;> rfl
@[simp] theorem Strand.setSreg_auditMark (st : Strand) (d : BitVec 6) (v : Word) (p : Bool) : (st.setSreg d v p).auditMark = st.auditMark := by
  unfold Strand.setSreg; split <;> rfl
@[simp] theorem Strand.setSreg_barrCount (st : Strand) (d : BitVec 6) (v : Word) (p : Bool) : (st.setSreg d v p).barrCount = st.barrCount := by
  unfold Strand.setSreg; split <;> rfl
@[simp] theorem Strand.setSreg_xbarrCount (st : Strand) (d : BitVec 6) (v : Word) (p : Bool) : (st.setSreg d v p).xbarrCount = st.xbarrCount := by
  unfold Strand.setSreg; split <;> rfl
@[simp] theorem Strand.setSreg_fences (st : Strand) (d : BitVec 6) (v : Word) (p : Bool) : (st.setSreg d v p).fences = st.fences := by
  unfold Strand.setSreg; split <;> rfl
@[simp] theorem Strand.setSreg_released (st : Strand) (d : BitVec 6) (v : Word) (p : Bool) : (st.setSreg d v p).released = st.released := by
  unfold Strand.setSreg; split <;> rfl
@[simp] theorem Strand.setSreg_joins (st : Strand) (d : BitVec 6) (v : Word) (p : Bool) : (st.setSreg d v p).joins = st.joins := by
  unfold Strand.setSreg; split <;> rfl
@[simp] theorem Strand.setSreg_heard (st : Strand) (d : BitVec 6) (v : Word) (p : Bool) : (st.setSreg d v p).heard = st.heard := by
  unfold Strand.setSreg; split <;> rfl
@[simp] theorem Strand.setSreg_tiles (st : Strand) (d : BitVec 6) (v : Word) (p : Bool) : (st.setSreg d v p).tiles = st.tiles := by
  unfold Strand.setSreg; split <;> rfl
@[simp] theorem Strand.setSreg_accs (st : Strand) (d : BitVec 6) (v : Word) (p : Bool) : (st.setSreg d v p).accs = st.accs := by
  unfold Strand.setSreg; split <;> rfl
@[simp] theorem Strand.setPreg_team (st : Strand) (d : BitVec 3) (v : Bool) : (st.setPreg d v).team = st.team := by
  unfold Strand.setPreg; split <;> rfl
@[simp] theorem Strand.setPreg_index (st : Strand) (d : BitVec 3) (v : Bool) : (st.setPreg d v).index = st.index := by
  unfold Strand.setPreg; split <;> rfl
@[simp] theorem Strand.setPreg_s (st : Strand) (d : BitVec 3) (v : Bool) : (st.setPreg d v).s = st.s := by
  unfold Strand.setPreg; split <;> rfl
@[simp] theorem Strand.setPreg_spois (st : Strand) (d : BitVec 3) (v : Bool) : (st.setPreg d v).spois = st.spois := by
  unfold Strand.setPreg; split <;> rfl
@[simp] theorem Strand.setPreg_pc (st : Strand) (d : BitVec 3) (v : Bool) : (st.setPreg d v).pc = st.pc := by
  unfold Strand.setPreg; split <;> rfl
@[simp] theorem Strand.setPreg_len (st : Strand) (d : BitVec 3) (v : Bool) : (st.setPreg d v).len = st.len := by
  unfold Strand.setPreg; split <;> rfl
@[simp] theorem Strand.setPreg_mode (st : Strand) (d : BitVec 3) (v : Bool) : (st.setPreg d v).mode = st.mode := by
  unfold Strand.setPreg; split <;> rfl
@[simp] theorem Strand.setPreg_st (st : Strand) (d : BitVec 3) (v : Bool) : (st.setPreg d v).st = st.st := by
  unfold Strand.setPreg; split <;> rfl
@[simp] theorem Strand.setPreg_prior (st : Strand) (d : BitVec 3) (v : Bool) : (st.setPreg d v).prior = st.prior := by
  unfold Strand.setPreg; split <;> rfl
@[simp] theorem Strand.setPreg_waits (st : Strand) (d : BitVec 3) (v : Bool) : (st.setPreg d v).waits = st.waits := by
  unfold Strand.setPreg; split <;> rfl
@[simp] theorem Strand.setPreg_back (st : Strand) (d : BitVec 3) (v : Bool) : (st.setPreg d v).back = st.back := by
  unfold Strand.setPreg; split <;> rfl
@[simp] theorem Strand.setPreg_nextIssue (st : Strand) (d : BitVec 3) (v : Bool) : (st.setPreg d v).nextIssue = st.nextIssue := by
  unfold Strand.setPreg; split <;> rfl
@[simp] theorem Strand.setPreg_nulls (st : Strand) (d : BitVec 3) (v : Bool) : (st.setPreg d v).nulls = st.nulls := by
  unfold Strand.setPreg; split <;> rfl
@[simp] theorem Strand.setPreg_loops (st : Strand) (d : BitVec 3) (v : Bool) : (st.setPreg d v).loops = st.loops := by
  unfold Strand.setPreg; split <;> rfl
@[simp] theorem Strand.setPreg_lc (st : Strand) (d : BitVec 3) (v : Bool) : (st.setPreg d v).lc = st.lc := by
  unfold Strand.setPreg; split <;> rfl
@[simp] theorem Strand.setPreg_masks (st : Strand) (d : BitVec 3) (v : Bool) : (st.setPreg d v).masks = st.masks := by
  unfold Strand.setPreg; split <;> rfl
@[simp] theorem Strand.setPreg_tokens (st : Strand) (d : BitVec 3) (v : Bool) : (st.setPreg d v).tokens = st.tokens := by
  unfold Strand.setPreg; split <;> rfl
@[simp] theorem Strand.setPreg_tokenless (st : Strand) (d : BitVec 3) (v : Bool) : (st.setPreg d v).tokenless = st.tokenless := by
  unfold Strand.setPreg; split <;> rfl
@[simp] theorem Strand.setPreg_inflight (st : Strand) (d : BitVec 3) (v : Bool) : (st.setPreg d v).inflight = st.inflight := by
  unfold Strand.setPreg; split <;> rfl
@[simp] theorem Strand.setPreg_rpl (st : Strand) (d : BitVec 3) (v : Bool) : (st.setPreg d v).rpl = st.rpl := by
  unfold Strand.setPreg; split <;> rfl
@[simp] theorem Strand.setPreg_nrpl (st : Strand) (d : BitVec 3) (v : Bool) : (st.setPreg d v).nrpl = st.nrpl := by
  unfold Strand.setPreg; split <;> rfl
@[simp] theorem Strand.setPreg_stores (st : Strand) (d : BitVec 3) (v : Bool) : (st.setPreg d v).stores = st.stores := by
  unfold Strand.setPreg; split <;> rfl
@[simp] theorem Strand.setPreg_lanes (st : Strand) (d : BitVec 3) (v : Bool) : (st.setPreg d v).lanes = st.lanes := by
  unfold Strand.setPreg; split <;> rfl
@[simp] theorem Strand.setPreg_numctl (st : Strand) (d : BitVec 3) (v : Bool) : (st.setPreg d v).numctl = st.numctl := by
  unfold Strand.setPreg; split <;> rfl
@[simp] theorem Strand.setPreg_srkey (st : Strand) (d : BitVec 3) (v : Bool) : (st.setPreg d v).srkey = st.srkey := by
  unfold Strand.setPreg; split <;> rfl
@[simp] theorem Strand.setPreg_srctr (st : Strand) (d : BitVec 3) (v : Bool) : (st.setPreg d v).srctr = st.srctr := by
  unfold Strand.setPreg; split <;> rfl
@[simp] theorem Strand.setPreg_vwb (st : Strand) (d : BitVec 3) (v : Bool) : (st.setPreg d v).vwb = st.vwb := by
  unfold Strand.setPreg; split <;> rfl
@[simp] theorem Strand.setPreg_acktol (st : Strand) (d : BitVec 3) (v : Bool) : (st.setPreg d v).acktol = st.acktol := by
  unfold Strand.setPreg; split <;> rfl
@[simp] theorem Strand.setPreg_swpth (st : Strand) (d : BitVec 3) (v : Bool) : (st.setPreg d v).swpth = st.swpth := by
  unfold Strand.setPreg; split <;> rfl
@[simp] theorem Strand.setPreg_cwgt (st : Strand) (d : BitVec 3) (v : Bool) : (st.setPreg d v).cwgt = st.cwgt := by
  unfold Strand.setPreg; split <;> rfl
@[simp] theorem Strand.setPreg_mbxst (st : Strand) (d : BitVec 3) (v : Bool) : (st.setPreg d v).mbxst = st.mbxst := by
  unfold Strand.setPreg; split <;> rfl
@[simp] theorem Strand.setPreg_mbxIn (st : Strand) (d : BitVec 3) (v : Bool) : (st.setPreg d v).mbxIn = st.mbxIn := by
  unfold Strand.setPreg; split <;> rfl
@[simp] theorem Strand.setPreg_qv (st : Strand) (d : BitVec 3) (v : Bool) : (st.setPreg d v).qv = st.qv := by
  unfold Strand.setPreg; split <;> rfl
@[simp] theorem Strand.setPreg_tcfg (st : Strand) (d : BitVec 3) (v : Bool) : (st.setPreg d v).tcfg = st.tcfg := by
  unfold Strand.setPreg; split <;> rfl
@[simp] theorem Strand.setPreg_acfg (st : Strand) (d : BitVec 3) (v : Bool) : (st.setPreg d v).acfg = st.acfg := by
  unfold Strand.setPreg; split <;> rfl
@[simp] theorem Strand.setPreg_arg (st : Strand) (d : BitVec 3) (v : Bool) : (st.setPreg d v).arg = st.arg := by
  unfold Strand.setPreg; split <;> rfl
@[simp] theorem Strand.setPreg_auditn (st : Strand) (d : BitVec 3) (v : Bool) : (st.setPreg d v).auditn = st.auditn := by
  unfold Strand.setPreg; split <;> rfl
@[simp] theorem Strand.setPreg_aq (st : Strand) (d : BitVec 3) (v : Bool) : (st.setPreg d v).aq = st.aq := by
  unfold Strand.setPreg; split <;> rfl
@[simp] theorem Strand.setPreg_qlossEvents (st : Strand) (d : BitVec 3) (v : Bool) : (st.setPreg d v).qlossEvents = st.qlossEvents := by
  unfold Strand.setPreg; split <;> rfl
@[simp] theorem Strand.setPreg_qlossCycles (st : Strand) (d : BitVec 3) (v : Bool) : (st.setPreg d v).qlossCycles = st.qlossCycles := by
  unfold Strand.setPreg; split <;> rfl
@[simp] theorem Strand.setPreg_qlossHeld (st : Strand) (d : BitVec 3) (v : Bool) : (st.setPreg d v).qlossHeld = st.qlossHeld := by
  unfold Strand.setPreg; split <;> rfl
@[simp] theorem Strand.setPreg_auditMark (st : Strand) (d : BitVec 3) (v : Bool) : (st.setPreg d v).auditMark = st.auditMark := by
  unfold Strand.setPreg; split <;> rfl
@[simp] theorem Strand.setPreg_barrCount (st : Strand) (d : BitVec 3) (v : Bool) : (st.setPreg d v).barrCount = st.barrCount := by
  unfold Strand.setPreg; split <;> rfl
@[simp] theorem Strand.setPreg_xbarrCount (st : Strand) (d : BitVec 3) (v : Bool) : (st.setPreg d v).xbarrCount = st.xbarrCount := by
  unfold Strand.setPreg; split <;> rfl
@[simp] theorem Strand.setPreg_fences (st : Strand) (d : BitVec 3) (v : Bool) : (st.setPreg d v).fences = st.fences := by
  unfold Strand.setPreg; split <;> rfl
@[simp] theorem Strand.setPreg_released (st : Strand) (d : BitVec 3) (v : Bool) : (st.setPreg d v).released = st.released := by
  unfold Strand.setPreg; split <;> rfl
@[simp] theorem Strand.setPreg_joins (st : Strand) (d : BitVec 3) (v : Bool) : (st.setPreg d v).joins = st.joins := by
  unfold Strand.setPreg; split <;> rfl
@[simp] theorem Strand.setPreg_heard (st : Strand) (d : BitVec 3) (v : Bool) : (st.setPreg d v).heard = st.heard := by
  unfold Strand.setPreg; split <;> rfl
@[simp] theorem Strand.setPreg_tiles (st : Strand) (d : BitVec 3) (v : Bool) : (st.setPreg d v).tiles = st.tiles := by
  unfold Strand.setPreg; split <;> rfl
@[simp] theorem Strand.setPreg_accs (st : Strand) (d : BitVec 3) (v : Bool) : (st.setPreg d v).accs = st.accs := by
  unfold Strand.setPreg; split <;> rfl
@[simp] theorem Strand.setToken_team (st : Strand) (n : Nat) (t : Token) : (st.setToken n t).team = st.team := by
  unfold Strand.setToken; split <;> rfl
@[simp] theorem Strand.setToken_index (st : Strand) (n : Nat) (t : Token) : (st.setToken n t).index = st.index := by
  unfold Strand.setToken; split <;> rfl
@[simp] theorem Strand.setToken_s (st : Strand) (n : Nat) (t : Token) : (st.setToken n t).s = st.s := by
  unfold Strand.setToken; split <;> rfl
@[simp] theorem Strand.setToken_spois (st : Strand) (n : Nat) (t : Token) : (st.setToken n t).spois = st.spois := by
  unfold Strand.setToken; split <;> rfl
@[simp] theorem Strand.setToken_p (st : Strand) (n : Nat) (t : Token) : (st.setToken n t).p = st.p := by
  unfold Strand.setToken; split <;> rfl
@[simp] theorem Strand.setToken_pc (st : Strand) (n : Nat) (t : Token) : (st.setToken n t).pc = st.pc := by
  unfold Strand.setToken; split <;> rfl
@[simp] theorem Strand.setToken_len (st : Strand) (n : Nat) (t : Token) : (st.setToken n t).len = st.len := by
  unfold Strand.setToken; split <;> rfl
@[simp] theorem Strand.setToken_mode (st : Strand) (n : Nat) (t : Token) : (st.setToken n t).mode = st.mode := by
  unfold Strand.setToken; split <;> rfl
@[simp] theorem Strand.setToken_st (st : Strand) (n : Nat) (t : Token) : (st.setToken n t).st = st.st := by
  unfold Strand.setToken; split <;> rfl
@[simp] theorem Strand.setToken_prior (st : Strand) (n : Nat) (t : Token) : (st.setToken n t).prior = st.prior := by
  unfold Strand.setToken; split <;> rfl
@[simp] theorem Strand.setToken_waits (st : Strand) (n : Nat) (t : Token) : (st.setToken n t).waits = st.waits := by
  unfold Strand.setToken; split <;> rfl
@[simp] theorem Strand.setToken_back (st : Strand) (n : Nat) (t : Token) : (st.setToken n t).back = st.back := by
  unfold Strand.setToken; split <;> rfl
@[simp] theorem Strand.setToken_nextIssue (st : Strand) (n : Nat) (t : Token) : (st.setToken n t).nextIssue = st.nextIssue := by
  unfold Strand.setToken; split <;> rfl
@[simp] theorem Strand.setToken_nulls (st : Strand) (n : Nat) (t : Token) : (st.setToken n t).nulls = st.nulls := by
  unfold Strand.setToken; split <;> rfl
@[simp] theorem Strand.setToken_loops (st : Strand) (n : Nat) (t : Token) : (st.setToken n t).loops = st.loops := by
  unfold Strand.setToken; split <;> rfl
@[simp] theorem Strand.setToken_lc (st : Strand) (n : Nat) (t : Token) : (st.setToken n t).lc = st.lc := by
  unfold Strand.setToken; split <;> rfl
@[simp] theorem Strand.setToken_masks (st : Strand) (n : Nat) (t : Token) : (st.setToken n t).masks = st.masks := by
  unfold Strand.setToken; split <;> rfl
@[simp] theorem Strand.setToken_tokenless (st : Strand) (n : Nat) (t : Token) : (st.setToken n t).tokenless = st.tokenless := by
  unfold Strand.setToken; split <;> rfl
@[simp] theorem Strand.setToken_inflight (st : Strand) (n : Nat) (t : Token) : (st.setToken n t).inflight = st.inflight := by
  unfold Strand.setToken; split <;> rfl
@[simp] theorem Strand.setToken_rpl (st : Strand) (n : Nat) (t : Token) : (st.setToken n t).rpl = st.rpl := by
  unfold Strand.setToken; split <;> rfl
@[simp] theorem Strand.setToken_nrpl (st : Strand) (n : Nat) (t : Token) : (st.setToken n t).nrpl = st.nrpl := by
  unfold Strand.setToken; split <;> rfl
@[simp] theorem Strand.setToken_stores (st : Strand) (n : Nat) (t : Token) : (st.setToken n t).stores = st.stores := by
  unfold Strand.setToken; split <;> rfl
@[simp] theorem Strand.setToken_lanes (st : Strand) (n : Nat) (t : Token) : (st.setToken n t).lanes = st.lanes := by
  unfold Strand.setToken; split <;> rfl
@[simp] theorem Strand.setToken_numctl (st : Strand) (n : Nat) (t : Token) : (st.setToken n t).numctl = st.numctl := by
  unfold Strand.setToken; split <;> rfl
@[simp] theorem Strand.setToken_srkey (st : Strand) (n : Nat) (t : Token) : (st.setToken n t).srkey = st.srkey := by
  unfold Strand.setToken; split <;> rfl
@[simp] theorem Strand.setToken_srctr (st : Strand) (n : Nat) (t : Token) : (st.setToken n t).srctr = st.srctr := by
  unfold Strand.setToken; split <;> rfl
@[simp] theorem Strand.setToken_vwb (st : Strand) (n : Nat) (t : Token) : (st.setToken n t).vwb = st.vwb := by
  unfold Strand.setToken; split <;> rfl
@[simp] theorem Strand.setToken_acktol (st : Strand) (n : Nat) (t : Token) : (st.setToken n t).acktol = st.acktol := by
  unfold Strand.setToken; split <;> rfl
@[simp] theorem Strand.setToken_swpth (st : Strand) (n : Nat) (t : Token) : (st.setToken n t).swpth = st.swpth := by
  unfold Strand.setToken; split <;> rfl
@[simp] theorem Strand.setToken_cwgt (st : Strand) (n : Nat) (t : Token) : (st.setToken n t).cwgt = st.cwgt := by
  unfold Strand.setToken; split <;> rfl
@[simp] theorem Strand.setToken_mbxst (st : Strand) (n : Nat) (t : Token) : (st.setToken n t).mbxst = st.mbxst := by
  unfold Strand.setToken; split <;> rfl
@[simp] theorem Strand.setToken_mbxIn (st : Strand) (n : Nat) (t : Token) : (st.setToken n t).mbxIn = st.mbxIn := by
  unfold Strand.setToken; split <;> rfl
@[simp] theorem Strand.setToken_qv (st : Strand) (n : Nat) (t : Token) : (st.setToken n t).qv = st.qv := by
  unfold Strand.setToken; split <;> rfl
@[simp] theorem Strand.setToken_tcfg (st : Strand) (n : Nat) (t : Token) : (st.setToken n t).tcfg = st.tcfg := by
  unfold Strand.setToken; split <;> rfl
@[simp] theorem Strand.setToken_acfg (st : Strand) (n : Nat) (t : Token) : (st.setToken n t).acfg = st.acfg := by
  unfold Strand.setToken; split <;> rfl
@[simp] theorem Strand.setToken_arg (st : Strand) (n : Nat) (t : Token) : (st.setToken n t).arg = st.arg := by
  unfold Strand.setToken; split <;> rfl
@[simp] theorem Strand.setToken_auditn (st : Strand) (n : Nat) (t : Token) : (st.setToken n t).auditn = st.auditn := by
  unfold Strand.setToken; split <;> rfl
@[simp] theorem Strand.setToken_aq (st : Strand) (n : Nat) (t : Token) : (st.setToken n t).aq = st.aq := by
  unfold Strand.setToken; split <;> rfl
@[simp] theorem Strand.setToken_qlossEvents (st : Strand) (n : Nat) (t : Token) : (st.setToken n t).qlossEvents = st.qlossEvents := by
  unfold Strand.setToken; split <;> rfl
@[simp] theorem Strand.setToken_qlossCycles (st : Strand) (n : Nat) (t : Token) : (st.setToken n t).qlossCycles = st.qlossCycles := by
  unfold Strand.setToken; split <;> rfl
@[simp] theorem Strand.setToken_qlossHeld (st : Strand) (n : Nat) (t : Token) : (st.setToken n t).qlossHeld = st.qlossHeld := by
  unfold Strand.setToken; split <;> rfl
@[simp] theorem Strand.setToken_auditMark (st : Strand) (n : Nat) (t : Token) : (st.setToken n t).auditMark = st.auditMark := by
  unfold Strand.setToken; split <;> rfl
@[simp] theorem Strand.setToken_barrCount (st : Strand) (n : Nat) (t : Token) : (st.setToken n t).barrCount = st.barrCount := by
  unfold Strand.setToken; split <;> rfl
@[simp] theorem Strand.setToken_xbarrCount (st : Strand) (n : Nat) (t : Token) : (st.setToken n t).xbarrCount = st.xbarrCount := by
  unfold Strand.setToken; split <;> rfl
@[simp] theorem Strand.setToken_fences (st : Strand) (n : Nat) (t : Token) : (st.setToken n t).fences = st.fences := by
  unfold Strand.setToken; split <;> rfl
@[simp] theorem Strand.setToken_released (st : Strand) (n : Nat) (t : Token) : (st.setToken n t).released = st.released := by
  unfold Strand.setToken; split <;> rfl
@[simp] theorem Strand.setToken_joins (st : Strand) (n : Nat) (t : Token) : (st.setToken n t).joins = st.joins := by
  unfold Strand.setToken; split <;> rfl
@[simp] theorem Strand.setToken_heard (st : Strand) (n : Nat) (t : Token) : (st.setToken n t).heard = st.heard := by
  unfold Strand.setToken; split <;> rfl
@[simp] theorem Strand.setToken_tiles (st : Strand) (n : Nat) (t : Token) : (st.setToken n t).tiles = st.tiles := by
  unfold Strand.setToken; split <;> rfl
@[simp] theorem Strand.setToken_accs (st : Strand) (n : Nat) (t : Token) : (st.setToken n t).accs = st.accs := by
  unfold Strand.setToken; split <;> rfl

end Sys2Proof.Machine
end

