-- ==== Sys2Proof/Laws/Store.lean ====
section
/-! SUPPORT. Laws of sparse storage: what a read finds after a write, and that every operation keeps the canonical form. -/

namespace Sys2Proof.Machine

/-! ### Reads after writes -/

theorem SMap.get_set_same {α : Type} [DecidableEq α] (d : α) (m : SMap α) (lo k : Nat) (v : α)
    (h : SMap.wfFrom d lo m = true) : SMap.get d (SMap.set d m k v) k = v := by
  induction m generalizing lo with
  | nil => by_cases hv : v = d <;> simp [SMap.set, SMap.get, hv]
  | cons e m ih =>
    obtain ⟨k', v'⟩ := e
    simp only [SMap.wfFrom, Bool.and_eq_true, decide_eq_true_eq] at h
    have low : ∀ (m : SMap α) (l : Nat), k < l → SMap.wfFrom d l m = true → SMap.get d m k = d := by
      intro m
      induction m with
      | nil => intros; rfl
      | cons e m ih' =>
        intro l hl hw
        obtain ⟨k2, v2⟩ := e
        simp only [SMap.wfFrom, Bool.and_eq_true, decide_eq_true_eq] at hw
        simp only [SMap.get, show ¬k2 = k by omega, if_false]
        exact ih' _ (by omega) hw.2
    simp only [SMap.set]
    split
    · split
      · rename_i hk hv
        subst hv
        simp only [SMap.get, show ¬k' = k by omega, if_false]
        exact low m _ (by omega) h.2
      · simp [SMap.get]
    · split
      · rename_i hk
        subst hk
        split
        · rename_i hv
          subst hv
          exact low m _ (by omega) h.2
        · simp [SMap.get]
      · simp only [SMap.get, show ¬k' = k by omega, if_false]
        exact ih _ h.2

theorem SMap.get_set_ne {α : Type} [DecidableEq α] (d : α) (m : SMap α) (k k' : Nat) (v : α) (h : k' ≠ k) :
    SMap.get d (SMap.set d m k v) k' = SMap.get d m k' := by
  induction m with
  | nil => by_cases hv : v = d <;> simp [SMap.set, SMap.get, hv, h.symm]
  | cons e m ih =>
    obtain ⟨k2, v2⟩ := e
    simp only [SMap.set]
    split
    · split <;> simp [SMap.get, h.symm]
    · split
      · rename_i hk
        subst hk
        split <;> simp [SMap.get, h.symm]
      · simp only [SMap.get, ih]

/-! ### The canonical form -/

theorem SMap.wfFrom_mono {α : Type} [DecidableEq α] (d : α) (m : SMap α) {lo lo' : Nat} (hl : lo' ≤ lo)
    (h : SMap.wfFrom d lo m = true) : SMap.wfFrom d lo' m = true := by
  cases m with
  | nil => rfl
  | cons e m =>
    obtain ⟨k, v⟩ := e
    simp only [SMap.wfFrom, Bool.and_eq_true, decide_eq_true_eq] at h ⊢
    exact ⟨⟨by omega, h.1.2⟩, h.2⟩

theorem SMap.wfFrom_set {α : Type} [DecidableEq α] (d : α) (m : SMap α) (lo k : Nat) (v : α) (hk : lo ≤ k)
    (h : SMap.wfFrom d lo m = true) : SMap.wfFrom d lo (SMap.set d m k v) = true := by
  induction m generalizing lo with
  | nil => by_cases hv : v = d <;> simp [SMap.set, SMap.wfFrom, hv, hk]
  | cons e m ih =>
    obtain ⟨k', v'⟩ := e
    have h0 := h
    simp only [SMap.wfFrom, Bool.and_eq_true, decide_eq_true_eq] at h
    simp only [SMap.set]
    split
    · split
      · exact h0
      · rename_i hlt hv
        simp only [SMap.wfFrom, Bool.and_eq_true, decide_eq_true_eq]
        exact ⟨⟨hk, hv⟩, ⟨by omega, h.1.2⟩, h.2⟩
    · split
      · rename_i heq
        subst heq
        split
        · exact SMap.wfFrom_mono d m (by omega) h.2
        · rename_i hv
          simp only [SMap.wfFrom, Bool.and_eq_true, decide_eq_true_eq]
          exact ⟨⟨hk, hv⟩, h.2⟩
      · simp only [SMap.wfFrom, Bool.and_eq_true, decide_eq_true_eq]
        exact ⟨h.1, ih _ (by omega) h.2⟩

theorem SMap.wf_set {α : Type} [DecidableEq α] (d : α) (m : SMap α) (k : Nat) (v : α) (h : SMap.wf d m = true) :
    SMap.wf d (SMap.set d m k v) = true := SMap.wfFrom_set d m 0 k v (Nat.zero_le _) h

theorem SMap.wfFrom_filter {α : Type} [DecidableEq α] (d : α) (p : Nat × α → Bool) (m : SMap α) (lo : Nat)
    (h : SMap.wfFrom d lo m = true) : SMap.wfFrom d lo (m.filter p) = true := by
  induction m generalizing lo with
  | nil => rfl
  | cons e m ih =>
    obtain ⟨k, v⟩ := e
    simp only [SMap.wfFrom, Bool.and_eq_true, decide_eq_true_eq] at h
    by_cases hp : p (k, v) = true
    · simp only [List.filter_cons, hp, if_true, SMap.wfFrom, Bool.and_eq_true, decide_eq_true_eq]
      exact ⟨h.1, ih _ h.2⟩
    · simp only [List.filter_cons, hp]
      exact SMap.wfFrom_mono d _ (by omega) (ih _ h.2)

theorem SMap.wf_erase {α : Type} [DecidableEq α] (d : α) (m : SMap α) (lo hi : Nat) (h : SMap.wf d m = true) :
    SMap.wf d (SMap.erase m lo hi) = true := SMap.wfFrom_filter d _ m 0 h

/-! ### Byte memories -/

theorem Memory.wf_nil : Memory.wf [] = true := rfl

theorem Memory.wf_write (m : List Host.Cell) (a : Nat) (b : Byte) (h : Memory.wf m = true) :
    Memory.wf (Memory.write m a b) = true := SMap.wf_set 0 m a b h

theorem Memory.wf_erase (m : List Host.Cell) (lo hi : Nat) (h : Memory.wf m = true) :
    Memory.wf (SMap.erase m lo hi) = true := SMap.wf_erase 0 m lo hi h

theorem Memory.wf_writeBytes (bs : List Byte) (m : List Host.Cell) (a : Nat) (h : Memory.wf m = true) :
    Memory.wf (Memory.writeBytes m a bs) = true := by
  induction bs generalizing m a with
  | nil => exact h
  | cons b bs ih => exact ih _ _ (Memory.wf_write m a b h)

theorem wf_writeKeys (ks : List Nat) (bs : List Byte) (m : List Host.Cell) (h : Memory.wf m = true) :
    Memory.wf (writeKeys m ks bs) = true := by
  induction ks generalizing m bs with
  | nil => cases bs <;> exact h
  | cons k ks ih =>
    cases bs with
    | nil => exact h
    | cons b bs => exact ih _ _ (Memory.wf_write m k b h)

theorem Memory.read_write_same (m : List Host.Cell) (a : Nat) (b : Byte) (h : Memory.wf m = true) :
    Memory.read (Memory.write m a b) a = b := SMap.get_set_same 0 m 0 a b h

theorem Memory.read_write_ne (m : List Host.Cell) (a a' : Nat) (b : Byte) (h : a' ≠ a) :
    Memory.read (Memory.write m a b) a' = Memory.read m a' := SMap.get_set_ne 0 m a a' b h

theorem read_writeKeys_out (ks : List Nat) (bs : List Byte) (m : List Host.Cell) (a : Nat) (h : a ∉ ks) :
    Memory.read (writeKeys m ks bs) a = Memory.read m a := by
  induction ks generalizing m bs with
  | nil => cases bs <;> rfl
  | cons k ks ih =>
    simp only [List.mem_cons, not_or] at h
    cases bs with
    | nil => rfl
    | cons b bs => rw [writeKeys, ih _ _ h.2, Memory.read_write_ne m k a b h.1]

theorem Memory.read_writeBytes_out (bs : List Byte) (m : List Host.Cell) (a x : Nat) (h : x < a ∨ a + bs.length ≤ x) :
    Memory.read (Memory.writeBytes m a bs) x = Memory.read m x := by
  induction bs generalizing m a with
  | nil => rfl
  | cons b bs ih =>
    simp only [List.length_cons] at h
    rw [Memory.writeBytes, ih _ _ (by omega), Memory.read_write_ne m a x b (by omega)]

theorem Memory.read_writeBytes_in (bs : List Byte) (m : List Host.Cell) (a i : Nat) (hw : Memory.wf m = true)
    (h : i < bs.length) : Memory.read (Memory.writeBytes m a bs) (a + i) = bs.getD i 0 := by
  induction bs generalizing m a i with
  | nil => simp at h
  | cons b bs ih =>
    cases i with
    | zero =>
      rw [Memory.writeBytes, Memory.read_writeBytes_out _ _ _ _ (by omega)]
      simpa using Memory.read_write_same m a b hw
    | succ i =>
      have := ih (Memory.write m a b) (a + 1) i (Memory.wf_write m a b hw) (by simpa using h)
      rw [Memory.writeBytes, show a + (i + 1) = a + 1 + i by omega, this]
      simp

/-! ### Digits and bytes -/

theorem digits_length (b n x : Nat) : (digits b n x).length = n := by
  induction n generalizing x with
  | zero => rfl
  | succ n ih => simp [digits, ih]

theorem digits_getD (b n x i : Nat) (h : i < n) : (digits b n x).getD i 0 = x / 2 ^ (b * i) % 2 ^ b := by
  induction n generalizing x i with
  | zero => omega
  | succ n ih =>
    cases i with
    | zero => simp [digits]
    | succ i =>
      have e := ih (x / 2 ^ b) i (by omega)
      simp only [List.getD_eq_getElem?_getD] at e
      simp only [digits, List.getD_eq_getElem?_getD, List.getElem?_cons_succ, e, Nat.div_div_eq_div_mul, ← pow_add]
      rw [show b + b * i = b * (i + 1) by ring]

theorem undigits_lt (b : Nat) (l : List Nat) : undigits b l < 2 ^ (b * l.length) := by
  induction l with
  | nil => simp [undigits]
  | cons d l ih =>
    simp only [undigits, List.length_cons]
    have h1 : d % 2 ^ b < 2 ^ b := Nat.mod_lt _ (by positivity)
    have h2 : 2 ^ (b * (l.length + 1)) = 2 ^ b * 2 ^ (b * l.length) := by rw [← pow_add]; congr 1; ring
    rw [h2]
    have : 2 ^ b * (undigits b l + 1) ≤ 2 ^ b * 2 ^ (b * l.length) := Nat.mul_le_mul_left _ ih
    rw [Nat.mul_add, Nat.mul_one] at this
    omega

theorem digits_undigits (b : Nat) (l : List Nat) (h : ∀ d ∈ l, d < 2 ^ b) : digits b l.length (undigits b l) = l := by
  induction l with
  | nil => rfl
  | cons d l ih =>
    have hd : d < 2 ^ b := h d (by simp)
    have hp : 0 < 2 ^ b := by positivity
    simp only [List.length_cons, digits, undigits, Nat.mod_eq_of_lt hd]
    rw [Nat.add_mul_mod_self_left, Nat.mod_eq_of_lt hd, Nat.add_mul_div_left _ _ hp, Nat.div_eq_of_lt hd, Nat.zero_add,
      ih fun x hx => h x (by simp [hx])]

theorem undigits_digits (b n x : Nat) : undigits b (digits b n x) = x % 2 ^ (b * n) := by
  induction n generalizing x with
  | zero => simp [digits, undigits, Nat.mod_one]
  | succ n ih =>
    simp only [digits, undigits, ih, Nat.mod_mod]
    rw [show 2 ^ (b * (n + 1)) = 2 ^ b * 2 ^ (b * n) by rw [← pow_add]; congr 1; ring, Nat.mod_mul]

theorem bytesOf_length (n x : Nat) : (bytesOf n x).length = n := by simp [bytesOf, digits_length]

theorem natOf_bytesOf (n x : Nat) : natOf (bytesOf n x) = x % 2 ^ (8 * n) := by
  have : (bytesOf n x).map BitVec.toNat = digits 8 n x := by
    unfold bytesOf
    rw [List.map_map]
    conv_rhs => rw [← List.map_id (digits 8 n x)]
    apply List.map_congr_left
    intro d hd
    have hlt : d < 2 ^ 8 := by
      induction n generalizing x with
      | zero => simp [digits] at hd
      | succ n ih =>
        simp only [digits, List.mem_cons] at hd
        rcases hd with rfl | hd
        · exact Nat.mod_lt _ (by decide)
        · exact ih _ hd
    simp only [Function.comp, BitVec.toNat_ofNat, id]
    exact Nat.mod_eq_of_lt hlt
  rw [natOf, this, undigits_digits]

end Sys2Proof.Machine
end

