-- ==== Sys2Proof/Laws/Memory.lean ====
section
/-! SUPPORT. Laws of the memory operations: each keeps the canonical form of the byte memories, and how a structure in HBM is read. -/

namespace Sys2Proof.Machine

/-! ### The canonical form -/

/-- Only the three byte memories matter. -/
theorem State.memoryWf_of_eq {s t : State} (h : s.memoryWf = true) (e1 : t.hbm = s.hbm) (e2 : t.ring = s.ring)
    (e3 : t.istore = s.istore) : t.memoryWf = true := by
  simp only [State.memoryWf, e1, e2, e3] at *
  exact h

/-- The counter of free values is no stored byte. -/
theorem State.memoryWf_fresh (s : State) (n : Nat) : ({ s with fresh := n } : State).memoryWf = s.memoryWf := rfl

theorem State.performStore_wf (s : State) (t : Team) (w : RingStore) (h : s.memoryWf = true) : (s.performStore t w).memoryWf = true := by
  simp only [State.memoryWf, Bool.and_eq_true, State.performStore] at *
  exact ⟨⟨h.1.1, wf_writeKeys _ _ _ h.1.2⟩, h.2⟩

@[simp] theorem State.performStore_hbm (s : State) (t : Team) (w : RingStore) : (s.performStore t w).hbm = s.hbm := rfl
@[simp] theorem State.performStore_istore (s : State) (t : Team) (w : RingStore) : (s.performStore t w).istore = s.istore := rfl

/-- A store changes the ring bytes of its own keys alone. -/
theorem State.performStore_ring_out (s : State) (t : Team) (w : RingStore) (k : Nat) (h : k ∉ t.accessKeys w.ea w.size w.diag) :
    Memory.read (s.performStore t w).ring k = Memory.read s.ring k := read_writeKeys_out _ _ _ _ h

theorem State.writeGranuleAt_wf (s : State) (ctx key g mask data : Nat) (pois : Option (Nat × Nat)) (h : s.memoryWf = true) :
    (s.writeGranuleAt ctx key g mask data pois).memoryWf = true := by
  simp only [State.memoryWf, Bool.and_eq_true, State.writeGranuleAt, State.setGranule] at *
  exact ⟨⟨Memory.wf_writeBytes _ _ _ h.1.1, h.1.2⟩, h.2⟩

@[simp] theorem State.writeGranuleAt_ring (s : State) (ctx key g mask data : Nat) (pois : Option (Nat × Nat)) :
    (s.writeGranuleAt ctx key g mask data pois).ring = s.ring := by
  simp only [State.writeGranuleAt, State.setGranule]
@[simp] theorem State.writeGranuleAt_istore (s : State) (ctx key g mask data : Nat) (pois : Option (Nat × Nat)) :
    (s.writeGranuleAt ctx key g mask data pois).istore = s.istore := by
  simp only [State.writeGranuleAt, State.setGranule]

/-- A granule write changes the 64 bytes of its granule alone. -/
theorem State.writeGranuleAt_hbm_out (s : State) (ctx key g mask data a : Nat) (pois : Option (Nat × Nat))
    (h : a < 64 * g ∨ 64 * g + 64 ≤ a) : Memory.read (s.writeGranuleAt ctx key g mask data pois).hbm a = Memory.read s.hbm a := by
  simp only [State.writeGranuleAt, State.setGranule]
  exact Memory.read_writeBytes_out _ _ _ _ (by rw [bytesOf_length]; exact h)

theorem State.expirePage_mem (s : State) (ctx page : Nat) :
    (s.expirePage ctx page).hbm = s.hbm ∧ (s.expirePage ctx page).ring = s.ring ∧ (s.expirePage ctx page).istore = s.istore := by
  unfold State.expirePage
  generalize List.range 1024 = l
  induction l generalizing s with
  | nil => exact ⟨rfl, rfl, rfl⟩
  | cons i l ih =>
    rw [List.foldl_cons]
    exact ih _

theorem State.renewPage_mem (s : State) (ctx page window : Nat) :
    (s.renewPage ctx page window).hbm = s.hbm ∧ (s.renewPage ctx page window).ring = s.ring
      ∧ (s.renewPage ctx page window).istore = s.istore := by
  simp only [State.renewPage]
  split
  · exact State.expirePage_mem s ctx page
  · exact ⟨rfl, rfl, rfl⟩

theorem State.writeGranule_wf (s : State) (ctx key : Nat) (short : Option Nat) (g mask data : Nat) (pois : Option (Nat × Nat))
    (h : s.memoryWf = true) : (s.writeGranule ctx key short g mask data pois).memoryWf = true := by
  cases short with
  | none => exact State.writeGranuleAt_wf _ _ _ _ _ _ _ h
  | some w =>
    obtain ⟨e1, e2, e3⟩ := State.renewPage_mem s ctx (g / 1024) w
    exact State.writeGranuleAt_wf _ _ _ _ _ _ _ (State.memoryWf_of_eq h e1 e2 e3)

/-- A write through a tensor keeps the form, whatever page it meets. -/
theorem State.putGranule_wf (s : State) (c : Context) (tid key : Nat) (short : Option Nat) (g mask data : Nat) (pois : Option (Nat × Nat))
    (h : s.memoryWf = true) : (s.putGranule c tid key short g mask data pois).memoryWf = true := by
  unfold State.putGranule
  split
  · exact h
  · split
    · rw [State.memoryWf_fresh]
      exact State.writeGranule_wf _ _ _ _ _ _ _ _ h
    · exact State.writeGranule_wf _ _ _ _ _ _ _ _ h

/-- A write to a page of no table tensor is the plain write of its granule (R122). -/
theorem State.putGranule_plain {s : State} {c : Context} {tid key g mask data : Nat} {short : Option Nat} {pois : Option (Nat × Nat)}
    (h : s.othersTable c g = false) (ho : s.inTables c (g / 1024 * 16) = false) :
    s.putGranule c tid key short g mask data pois = s.writeGranule c.num key short g mask data pois := by
  simp [State.putGranule, h, ho]

theorem State.writeGranules_wf (c : Context) (old : Nat) (d : Desc) (l : List GranuleWrite) (s : State)
    (out : List (Nat × Nat × GranuleWrite)) (tch : List Touch) (h : s.memoryWf = true) :
    (s.writeGranules c old d l out tch).1.memoryWf = true := by
  induction l generalizing s out tch with
  | nil => exact h
  | cons w l ih =>
    rw [State.writeGranules]
    split
    · exact h
    · exact h
    · exact ih _ _ _ h
    · exact ih _ _ _ (State.putGranule_wf _ _ _ _ _ _ _ _ _ h)

theorem State.writeStruct_wf {s t : State} {c : Context} {old : Nat} {addr : Word} {al : Nat} {bs : List Byte}
    {p : Option (Nat × Nat)} {o : List (Nat × Nat × GranuleWrite)} {x : List Touch} (h : s.memoryWf = true)
    (e : s.writeStruct c old addr al bs p = .ok (t, o, x)) : t.memoryWf = true := by
  unfold State.writeStruct at e
  split at e
  · cases e
  · rename_i tid off d _
    have k := State.writeGranules_wf c old d (structWrites tid d off bs p) s [] [] h
    split at e
    · rename_i q
      simp only [Except.ok.injEq, Prod.mk.injEq] at e
      rw [q] at k
      rw [← e.1]
      exact k
    · cases e

/-! ### Traces of an access (R126, R135, R147) -/

theorem State.touchPage_mem (s : State) (page tower tid t ctx : Nat) :
    (s.touchPage page tower tid t ctx).hbm = s.hbm ∧ (s.touchPage page tower tid t ctx).ring = s.ring
      ∧ (s.touchPage page tower tid t ctx).istore = s.istore := ⟨rfl, rfl, rfl⟩

theorem State.cache_mem (s : State) (unit ctx tid : Nat) (key : CacheKey) (words : List Nat) :
    (s.cache unit ctx tid key words).hbm = s.hbm ∧ (s.cache unit ctx tid key words).ring = s.ring
      ∧ (s.cache unit ctx tid key words).istore = s.istore := by
  unfold State.cache
  split <;> exact ⟨rfl, rfl, rfl⟩

theorem State.touchEntry_mem (s : State) (c : Context) (tower : Nat) (d : Desc) (t : Nat) :
    (s.touchEntry c tower d t).hbm = s.hbm ∧ (s.touchEntry c tower d t).ring = s.ring
      ∧ (s.touchEntry c tower d t).istore = s.istore := by
  unfold State.touchEntry
  dsimp only
  split <;> exact ⟨rfl, rfl, rfl⟩

theorem State.cacheEntry_mem (s : State) (c : Context) (tower tid : Nat) (d : Desc) (t : Nat) :
    (s.cacheEntry c tower tid d t).hbm = s.hbm ∧ (s.cacheEntry c tower tid d t).ring = s.ring
      ∧ (s.cacheEntry c tower tid d t).istore = s.istore := by
  unfold State.cacheEntry
  split
  · exact ⟨rfl, rfl, rfl⟩
  · obtain ⟨a, b, e⟩ := State.touchEntry_mem s c tower d t
    obtain ⟨a', b', e'⟩ := State.cache_mem (s.touchEntry c tower d t) (homeUnit tid t) c.num tid
      (if (s.tableEntry c d t).length = 2 then .entry t else .span (t / 512)) (s.tableEntry c d t)
    exact ⟨a'.trans a, b'.trans b, e'.trans e⟩

/-- The trace of an access changes no stored byte. -/
theorem State.noteTouch_mem (s : State) (c : Context) (tower : Nat) (x : Touch) :
    (s.noteTouch c tower x).hbm = s.hbm ∧ (s.noteTouch c tower x).ring = s.ring ∧ (s.noteTouch c tower x).istore = s.istore := by
  have k : ∀ d, (s.cacheEntry c tower x.tid d x.t).hbm = s.hbm ∧ (s.cacheEntry c tower x.tid d x.t).ring = s.ring
      ∧ (s.cacheEntry c tower x.tid d x.t).istore = s.istore := fun d => State.cacheEntry_mem s c tower x.tid d x.t
  unfold State.noteTouch
  cases s.plainDesc c 0 x.tid with
  | none => cases x.addr <;> exact ⟨rfl, rfl, rfl⟩
  | some d => cases x.addr <;> exact k d

theorem State.noteList_mem (c : Context) (tower : Nat) (l : List Touch) (s : State) :
    (s.noteList c tower l).hbm = s.hbm ∧ (s.noteList c tower l).ring = s.ring ∧ (s.noteList c tower l).istore = s.istore := by
  unfold State.noteList
  induction l generalizing s with
  | nil => exact ⟨rfl, rfl, rfl⟩
  | cons x l ih =>
    obtain ⟨a, b, e⟩ := State.noteTouch_mem s c tower x
    rw [List.foldl_cons]
    obtain ⟨a', b', e'⟩ := ih (s.noteTouch c tower x)
    exact ⟨a'.trans a, b'.trans b, e'.trans e⟩

theorem State.noteList_wf (c : Context) (tower : Nat) (l : List Touch) (s : State) (h : s.memoryWf = true) :
    (s.noteList c tower l).memoryWf = true :=
  have e := State.noteList_mem c tower l s
  State.memoryWf_of_eq h e.1 e.2.1 e.2.2

/-- Counting an access gives a channel to no other context (R294), -/
theorem State.touchPage_owner (s : State) (page tower tid t ctx p : Nat) : (s.touchPage page tower tid t ctx).channelOwner p = s.channelOwner p := by
  unfold State.channelOwner State.touchPage
  simp only [Vector.toList_setIfInBounds, List.getElem?_set]
  by_cases h : page / 2 ^ 21 = p / 2 ^ 21
  · rw [if_pos h, ← h]
    by_cases hl : page / 2 ^ 21 < s.memStacks.toList.length
    · rw [if_pos hl, List.getElem?_eq_getElem hl]
      simp only [Stack.touch, List.getD_eq_getElem?_getD, List.getElem?_eq_getElem hl, Option.getD_some]
    · rw [if_neg hl, List.getElem?_eq_none (Nat.le_of_not_lt hl)]
  · rw [if_neg h]

/-- nor does caching a translation, -/
theorem State.cacheEntry_owner (s : State) (c : Context) (tower tid : Nat) (d : Desc) (t p : Nat) :
    (s.cacheEntry c tower tid d t).channelOwner p = s.channelOwner p := by
  have k (u : State) (unit ctx tid : Nat) (key : CacheKey) (words : List Nat) : (u.cache unit ctx tid key words).channelOwner p = u.channelOwner p := by
    unfold State.cache
    split <;> rfl
  unfold State.cacheEntry
  split
  · rfl
  · refine (k _ _ _ _ _ _).trans ?_
    unfold State.touchEntry
    dsimp only
    split
    · exact (State.touchPage_owner ..).trans (State.touchPage_owner ..)
    · exact State.touchPage_owner ..

/-- nor do the traces of accesses. -/
theorem State.noteList_owner (c : Context) (tower p : Nat) (l : List Touch) (s : State) : (s.noteList c tower l).channelOwner p = s.channelOwner p := by
  have one (s : State) (x : Touch) : (s.noteTouch c tower x).channelOwner p = s.channelOwner p := by
    unfold State.noteTouch
    cases s.plainDesc c 0 x.tid with
    | none => cases x.addr with
      | none => rfl
      | some a => exact State.touchPage_owner ..
    | some d =>
      cases x.addr with
      | none => exact State.cacheEntry_owner ..
      | some a => exact (State.touchPage_owner ..).trans (State.cacheEntry_owner ..)
  unfold State.noteList
  induction l generalizing s with
  | nil => rfl
  | cons x l ih => exact (ih _).trans (one s x)

theorem State.deviceWrite_wf (s : State) (c : Context) (addr : Word) (bs : List Byte) (h : s.memoryWf = true) :
    (s.deviceWrite c addr bs).memoryWf = true := by
  unfold State.deviceWrite
  split
  · exact h
  · split
    · rename_i e
      exact State.noteList_wf _ _ _ _ (State.writeStruct_wf h e)
    · exact h

/-! ### Engine writes of the ring (R157, R239) -/

/-- The traces of an engine's write in the tables of commands and teams change no stored byte. -/
theorem State.poisonTags_mem (s : State) (l : List Nat) :
    (s.poisonTags l).hbm = s.hbm ∧ (s.poisonTags l).ring = s.ring ∧ (s.poisonTags l).istore = s.istore := ⟨rfl, rfl, rfl⟩

/-! ### Reading structures -/

theorem State.readGranule_local {s : State} {c : Context} {old : Nat} {f : Fetched} {tid t gran p : Nat} {d : Desc}
    (ht : s.translate c old tid d t gran false = .ok (.page p)) (hp : s.poisonAt c.num d.short (p * 1024 + gran) = none) :
    s.readGranule c old f tid d t gran =
      .ok ⟨s.granuleData c.num d.keyid (p * 1024 + gran), none, [⟨tid, t, gran, some (p * 1024 + gran), false⟩]⟩ := by
  simp only [State.readGranule, ht, hp]

theorem State.structGranules_succ {s : State} {c : Context} {old : Nat} {tid off n bn o : Nat} {d : Desc} {g r : Got}
    (hb : d.block [off] = (bn, o)) (hg : s.readGranule c old [] tid d bn (o / 64) = .ok g)
    (hr : s.structGranules c old tid d (off / 64 * 64 + 64) n = .ok r) :
    s.structGranules c old tid d off (n + 1) = .ok ⟨g.val + 2 ^ 512 * r.val, g.pois.or r.pois, g.touched ++ r.touched⟩ := by
  simp only [State.structGranules, hb, hg, hr]

theorem State.schedRead_ok {s : State} {c : Context} {addr : Word} {n al tid off : Nat} {d : Desc} {g : Got}
    (h : s.structAt c s.choice addr n al = .ok (tid, off, d))
    (hg : s.structGranules c s.choice tid { d with zeroFill := false } off ((off % 64 + n + 63) / 64) = .ok g) :
    s.schedRead c addr n al = .ok { g with val := bits g.val (8 * (off % 64)) (8 * n) } := by
  unfold State.schedRead
  rewrite [h]
  dsimp only
  rewrite [hg]
  rfl

/-! ### Translation -/

theorem State.tableEntry_span {s : State} {c : Context} {t e : Nat} {d : Desc} (h : s.tableWord c (d.root * 4096 + 8 * (t / 512)) = e)
    (h5 : bits e 5 1 = 1) : s.tableEntry c d t = [e] := by
  simp [State.tableEntry, h, h5]

/-- An access that takes no cached translation, or one that is what the tables hold, goes by the tables. -/
theorem State.entriesFor_tables (s : State) (c : Context) (tid : Nat) (d : Desc) (t gran : Nat) :
    s.entriesFor c 0 tid d t gran = s.tableEntry c d t := by
  unfold State.entriesFor
  cases s.cachedMapping c.num tid t <;> simp [oldMap]

theorem State.mapping_span {s : State} {c : Context} {tid t gran e : Nat} {d : Desc} (h : s.tableEntry c d t = [e])
    (hf : mappingFault d true e = none) : s.mapping c 0 tid d t gran = .ok (e, true) := by
  simp [State.mapping, State.entriesFor_tables, h, hf]

/-- An access that takes no cached descriptor reads the one in memory. -/
theorem State.descBits_memory {s : State} {c : Context} {tid : Nat} (h : ¬ (tid = 0 || c.ndesc ≤ tid)) :
    s.descBits c 0 tid = s.granuleData c.num c.tkey (c.ttab / 64 + tid) := by
  unfold State.descBits
  rw [if_neg h]
  dsimp only
  split
  · simp [oldDesc]
  · rfl

/-- A write through a span entry of a local page that may be written (R135). -/
theorem State.translate_page {s : State} {c : Context} {tid t gran e p : Nat} {d : Desc} (h : s.mapping c 0 tid d t gran = .ok (e, true))
    (hp : bits e 16 26 + t % 512 = p) (h6 : bits e 6 1 = 0) (h1 : bits e 1 1 = 1) (hc : s.channelOwner p = none) (ho : s.home p = p) :
    s.translate c 0 tid d t gran true = .ok (.page p) := by
  simp [State.translate, h, hp, h6, h1, hc, ho]

theorem State.entryCovers_span {s : State} {c : Context} {e n unit : Nat} (h : bits e 5 1 = 1) :
    s.entryCovers c e n unit = (bits e 0 1 == 1 &&
      (entryLocal e && decide (bits e 16 26 ≤ unit / 16) && decide (unit / 16 < bits e 16 26 + n))) := by
  simp [State.entryCovers, h]

theorem State.structAt_ok {s : State} {c : Context} {addr : Word} {n al tid off : Nat} {d : Desc} (ha : wbits addr 0 20 = tid)
    (ho : wbits addr 20 44 = off) (hp : s.plainDesc c 0 tid = some d) (hr : d.rank = 1) (hf : d.fmt = 9)
    (he : off + n ≤ d.ext.headD 0) (hal : off % al = 0) : s.structAt c 0 addr n al = .ok (tid, off, d) := by
  have h1 : (d.rank ≠ 1 || d.fmt ≠ 9) = false := by rw [hr, hf]; rfl
  have h2 : (d.ext.headD 0 < off + n || off % al ≠ 0) = false := by rw [hal]; simpa using he
  unfold State.structAt
  dsimp only
  rewrite [ha, ho, hp]
  dsimp only
  rewrite [h1, h2]
  rfl

theorem State.writeStruct_ok {s u : State} {c : Context} {addr : Word} {al tid off : Nat} {d : Desc} {bs : List Byte} {t : List Touch}
    (h : s.structAt c 0 addr bs.length al = .ok (tid, off, d))
    (hw : s.writeGranules c 0 d (structWrites tid d off bs none) [] [] = (u, [], t, none)) :
    s.writeStruct c 0 addr al bs none = .ok (u, [], t) := by
  unfold State.writeStruct
  rewrite [h]
  dsimp only
  rewrite [hw]
  rfl

end Sys2Proof.Machine
end

