-- ==== Sys2Proof/Laws/Ops.lean ====
section
/-! SUPPORT. Laws of the shared operations: what a slot's end records, what an immediate is, what register and table accessors find after
an update, and what the shared arithmetic computes. -/

namespace Sys2Proof.Machine

/-! ### The end of a slot -/

/-- A slot whose guard is true records all its checks and all its effects. -/
theorem State.slotDone_true (s : State) (checks live : List Raised) (effects : List Effect) (h : s.iss.guard = true) :
    s.slotDone checks live effects = { s with iss := { s.iss with
      raised := s.iss.raised ++ (checks ++ live), effects := s.iss.effects ++ effects.map fun e => (s.iss.slot, e)
      pfx := [], guard := true, deps := none } } := by
  simp [State.slotDone, h, List.append_assoc]

/-- A slot whose guard is false records only the checks it makes whatever its guard is. -/
theorem State.slotDone_false (s : State) (checks live : List Raised) (effects : List Effect) (h : s.iss.guard = false) :
    s.slotDone checks live effects = { s with iss := { s.iss with
      raised := s.iss.raised ++ checks, pfx := [], guard := true, deps := none } } := by
  simp [State.slotDone, h]

/-- The end of a slot changes the bundle being issued alone. -/
theorem State.slotDone_iss_only (s : State) (checks live : List Raised) (effects : List Effect) :
    ∃ x, s.slotDone checks live effects = { s with iss := x } := ⟨_, rfl⟩

theorem State.slotDone_pfx (s : State) (c l : List Raised) (e : List Effect) : (s.slotDone c l e).iss.pfx = [] := rfl
theorem State.slotDone_guard (s : State) (c l : List Raised) (e : List Effect) : (s.slotDone c l e).iss.guard = true := rfl
theorem State.slotDone_deps (s : State) (c l : List Raised) (e : List Effect) : (s.slotDone c l e).iss.deps = none := rfl
theorem State.slotDone_st (s : State) (c l : List Raised) (e : List Effect) : (s.slotDone c l e).iss.st = s.iss.st := rfl
theorem State.slotDone_slot (s : State) (c l : List Raised) (e : List Effect) : (s.slotDone c l e).iss.slot = s.iss.slot := rfl

/-- No check fails. -/
@[simp] theorem failed_nil : failed [] = [] := rfl

/-- A list of checks, one by one. -/
theorem failed_cons (b : Bool) (r : Raised) (l : List (Bool × Raised)) :
    failed ((b, r) :: l) = (if b then [r] else []) ++ failed l := by cases b <;> rfl

/-- No poison is consumed where no register of the list is poisoned. -/
theorem State.poisonChecks_nil (s : State) (l : List (BitVec 6)) (h : ∀ d ∈ l, s.iss.st.spoisoned d = false) : s.poisonChecks l = [] := by
  have e : l.filter s.iss.st.spoisoned = [] := List.filter_eq_nil_iff.mpr fun d hd => by simp [h d hd]
  simp [State.poisonChecks, e]

/-! ### Immediates -/

theorem immBits_nil (own w : Nat) : immBits own w [] = own := by simp [immBits]
theorem immBits_one (own w : Nat) (p : BitVec 18) : immBits own w [p] = p.toNat * 2 ^ w + own := by simp [immBits]
theorem immBits_two (own w : Nat) (p q : BitVec 18) : immBits own w [p, q] = (p.toNat * 2 ^ 18 + q.toNat) * 2 ^ w + own := by
  simp [immBits]

/-- The bits of an immediate are those of the concatenation of the prefix and the own field. -/
theorem immBits_append {w : Nat} (own : BitVec w) (p : BitVec 18) : immBits own.toNat w [p] = (p ++ own).toNat := by
  rw [immBits_one, BitVec.toNat_append, ← Nat.shiftLeft_add_eq_or_of_lt own.isLt, Nat.shiftLeft_eq]

/-- The same with two prefixes. -/
theorem immBits_append₂ {w : Nat} (own : BitVec w) (p q : BitVec 18) : immBits own.toNat w [p, q] = (p ++ q ++ own).toNat := by
  rw [immBits_two, BitVec.toNat_append, BitVec.toNat_append, ← Nat.shiftLeft_add_eq_or_of_lt own.isLt,
    ← Nat.shiftLeft_add_eq_or_of_lt q.isLt, Nat.shiftLeft_eq, Nat.shiftLeft_eq]

/-- The signed value of the low bits is that of the bit vector. -/
theorem signed_toNat {w : Nat} (x : BitVec w) (hw : 0 < w) : signed w x.toNat = x.toInt := by
  have h : x.toNat % 2 ^ w = x.toNat := Nat.mod_eq_of_lt x.isLt
  have e : 2 ^ w = 2 * 2 ^ (w - 1) := by rw [← pow_succ']; congr 1; omega
  have c : ((2 ^ w : Nat) : Int) = (2 : Int) ^ w := by push_cast; rfl
  unfold signed
  rw [BitVec.toInt_eq_toNat_cond]
  simp only [h, c]
  by_cases hx : x.toNat < 2 ^ (w - 1)
  · rw [if_pos hx, if_pos (by omega)]
  · rw [if_neg hx, if_neg (by omega)]

/-! ### Registers -/

@[simp] theorem Strand.sreg_zero (st : Strand) : st.sreg 0 = 0 := rfl
@[simp] theorem Strand.preg_zero (st : Strand) : st.preg 0 = true := rfl
@[simp] theorem Strand.spoisoned_zero (st : Strand) : st.spoisoned 0 = false := rfl
@[simp] theorem Strand.setSreg_zero (st : Strand) (v : Word) (p : Bool) : st.setSreg 0 v p = st := rfl
@[simp] theorem Strand.setPreg_zero (st : Strand) (v : Bool) : st.setPreg 0 v = st := rfl

theorem Strand.sreg_setSreg_same (st : Strand) (d : BitVec 6) (v : Word) (p : Bool) (h : d ≠ 0) : (st.setSreg d v p).sreg d = v := by
  unfold Strand.sreg Strand.setSreg
  rw [if_neg h, if_neg h]
  exact Vector.getElem_set_self (Fin.ofNat 64 d.toNat).isLt

theorem Strand.sreg_setSreg_ne (st : Strand) (d e : BitVec 6) (v : Word) (p : Bool) (h : e ≠ d) : (st.setSreg d v p).sreg e = st.sreg e := by
  unfold Strand.sreg Strand.setSreg
  by_cases hd : d = 0
  · rw [if_pos hd]
  · rw [if_neg hd]
    split
    · rfl
    · have hne : d.toNat ≠ e.toNat := fun x => h (BitVec.eq_of_toNat_eq x.symm)
      have h1 := d.isLt
      have h2 := e.isLt
      exact Vector.getElem_set_ne (Fin.ofNat 64 d.toNat).isLt (Fin.ofNat 64 e.toNat).isLt (by simp only [Fin.val_ofNat]; omega)

/-! ### Tables -/

/-- What a table holds under a key after the entry of that key is replaced. -/
theorem find_replace {α : Type} (k : α → Nat) (v : α) (l : List α) (h : (l.find? fun x => k x == k v).isSome) :
    (l.map fun x => if k x == k v then v else x).find? (fun x => k x == k v) = some v := by
  induction l with
  | nil => simp at h
  | cons x l ih =>
    rw [List.map_cons, List.find?_cons]
    rw [List.find?_cons] at h
    cases hx : k x == k v with
    | true => simp
    | false =>
      rw [hx] at h
      simp only [Bool.false_eq_true, if_false, hx]
      exact ih h

/-- Every other key holds what it held. -/
theorem find_replace_ne {α : Type} (k : α → Nat) (v : α) (l : List α) (i : Nat) (h : i ≠ k v) :
    (l.map fun x => if k x == k v then v else x).find? (fun x => k x == i) = l.find? fun x => k x == i := by
  induction l with
  | nil => rfl
  | cons x l ih =>
    rw [List.map_cons, List.find?_cons, List.find?_cons, ih]
    cases hx : k x == k v with
    | true =>
      have e : k x = k v := by simpa using hx
      have a : (k v == i) = false := by simp [Ne.symm h]
      simp only [if_true, e, a]
    | false => simp only [Bool.false_eq_true, if_false]

theorem State.team_setTeam (s : State) (t : Team) (h : (s.team t.id).isSome) : (s.setTeam t).team t.id = some t :=
  find_replace Team.id t s.teams h

theorem State.team_setTeam_ne (s : State) (t : Team) (i : Nat) (h : i ≠ t.id) : (s.setTeam t).team i = s.team i :=
  find_replace_ne Team.id t s.teams i h

theorem State.cmd_setCmd (s : State) (c : Cmd) (h : (s.cmd c.id).isSome) : (s.setCmd c).cmd c.id = some c :=
  find_replace Cmd.id c s.cmds h

theorem State.cmd_setCmd_ne (s : State) (c : Cmd) (i : Nat) (h : i ≠ c.id) : (s.setCmd c).cmd i = s.cmd i :=
  find_replace_ne Cmd.id c s.cmds i h

theorem State.grid_setGrid (s : State) (g : Grid) (h : (s.grid g.id).isSome) : (s.setGrid g).grid g.id = some g :=
  find_replace Grid.id g s.grids h

theorem State.context_setContext (s : State) (c : Context) (h : (s.context c.num).isSome) : (s.setContext c).context c.num = some c :=
  find_replace Context.num c s.contexts h

/-! ### Arithmetic -/

/-- The low six bits of a shift count. -/
theorem shiftCount_eq (y : Word) : shiftCount y = (y &&& 63#64).toNat := by
  simp only [shiftCount, wbits, bits]
  rw [BitVec.toNat_and, show (63#64).toNat = 2 ^ 6 - 1 from rfl, Nat.and_two_pow_sub_one_eq_mod]
  simp

theorem divSigned_eq (x y : Word) : divSigned x y = if y = 0 then BitVec.allOnes 64 else x.sdiv y := by
  unfold divSigned
  split
  · rfl
  · apply BitVec.eq_of_toInt_eq
    rw [BitVec.toInt_sdiv, BitVec.toInt_ofInt]

theorem divUnsigned_eq (x y : Word) : divUnsigned x y = if y = 0 then BitVec.allOnes 64 else x / y := by
  unfold divUnsigned
  split
  · rfl
  · apply BitVec.eq_of_toNat_eq
    simp
    exact Nat.lt_of_le_of_lt (Nat.div_le_self _ _) x.isLt

theorem remSigned_eq (x y : Word) : remSigned x y = if y = 0 then x else x.srem y := by
  unfold remSigned
  split
  · rfl
  · apply BitVec.eq_of_toInt_eq
    rw [BitVec.toInt_srem, BitVec.toInt_ofInt, ← BitVec.toInt_srem]
    exact BitVec.toInt_bmod_cancel _

theorem remUnsigned_eq (x y : Word) : remUnsigned x y = if y = 0 then x else x % y := by
  unfold remUnsigned
  split
  · rfl
  · apply BitVec.eq_of_toNat_eq
    simp
    exact Nat.lt_of_le_of_lt (Nat.mod_le _ _) x.isLt

end Sys2Proof.Machine
end

