-- ==== Sys2Proof/Laws/Frame.lean ====
section
/-! SUPPORT. What the operations on HBM leave alone: they change HBM, what is kept about its pages and granules, and the counter of free values. -/

namespace Sys2Proof.Machine

/-- Only HBM, what is kept about its pages and granules and of their last changes, and the counter of free values differ. -/
def HbmOnly (s u : State) : Prop :=
  ∃ a b c d e f g, u = { s with hbm := a, granules := b, shortPages := c, cached := d, memStacks := e, fresh := f, recent := g }

/-- No change is such a change. -/
theorem HbmOnly.refl (s : State) : HbmOnly s s := ⟨_, _, _, _, _, _, _, rfl⟩

/-- Such changes compose. -/
theorem HbmOnly.trans {a b c : State} (h : HbmOnly a b) (k : HbmOnly b c) : HbmOnly a c := by
  obtain ⟨_, _, _, _, _, _, _, rfl⟩ := h
  obtain ⟨_, _, _, _, _, _, _, rfl⟩ := k
  exact ⟨_, _, _, _, _, _, _, rfl⟩

/-- Such changes over a list compose. -/
theorem HbmOnly.foldl {α : Type} (f : State → α → State) (hf : ∀ s a, HbmOnly s (f s a)) (l : List α) (s : State) :
    HbmOnly s (l.foldl f s) := by
  induction l generalizing s with
  | nil => exact .refl s
  | cons a l ih => exact (hf s a).trans (ih _)

/-- What stays as it was, field by field. -/
theorem HbmOnly.all {s u : State} (h : HbmOnly s u) :
    u.contexts = s.contexts ∧ u.grids = s.grids ∧ u.teams = s.teams ∧ u.strands = s.strands ∧ u.cmds = s.cmds ∧ u.cyc = s.cyc ∧
    u.nextId = s.nextId ∧ u.keep = s.keep ∧ u.cores = s.cores ∧ u.towers = s.towers ∧ u.choices = s.choices ∧ u.fabric = s.fabric ∧
    u.reports = s.reports ∧ u.accs = s.accs ∧ u.tiles = s.tiles ∧ u.ring = s.ring ∧ u.tags = s.tags ∧ u.out = s.out ∧
    u.ringQueue = s.ringQueue ∧ u.rotation = s.rotation := by
  obtain ⟨_, _, _, _, _, _, _, rfl⟩ := h
  simp

/-- A granule write changes HBM only. -/
theorem writeGranuleAt_hbmOnly (s : State) (ctx key g mask data : Nat) (pois : Option (Nat × Nat)) :
    HbmOnly s (s.writeGranuleAt ctx key g mask data pois) := by
  unfold State.writeGranuleAt State.setGranule
  exact ⟨_, _, _, _, _, _, _, rfl⟩

/-- So does the expiry of a page, -/
theorem expirePage_hbmOnly (s : State) (ctx page : Nat) : HbmOnly s (s.expirePage ctx page) := .foldl _ (fun _ _ => ⟨_, _, _, _, _, _, _, rfl⟩) _ _

/-- a page that starts its lifetime anew (R142), -/
theorem renewPage_hbmOnly (s : State) (ctx page w : Nat) : HbmOnly s (s.renewPage ctx page w) := by
  unfold State.renewPage
  dsimp only
  split
  · exact (expirePage_hbmOnly s ctx page).trans ⟨_, _, _, _, _, _, _, rfl⟩
  · exact .refl _

/-- a write by its key and lifetime, -/
theorem writeGranule_hbmOnly (s : State) (ctx key : Nat) (short : Option Nat) (g mask data : Nat) (pois : Option (Nat × Nat)) :
    HbmOnly s (s.writeGranule ctx key short g mask data pois) := by
  cases short
  · exact writeGranuleAt_hbmOnly ..
  · exact (renewPage_hbmOnly ..).trans (writeGranuleAt_hbmOnly ..)

/-- a write of a tensor's granule, -/
theorem putGranule_hbmOnly (s : State) (c : Context) (tid key : Nat) (short : Option Nat) (g mask data : Nat) (pois : Option (Nat × Nat)) :
    HbmOnly s (s.putGranule c tid key short g mask data pois) := by
  unfold State.putGranule
  split
  · exact .refl s
  · split
    · exact (writeGranule_hbmOnly ..).trans ⟨_, _, _, _, _, _, _, rfl⟩
    · exact writeGranule_hbmOnly ..

/-- a write of several, -/
theorem writeGranules_hbmOnly (c : Context) (old : Nat) (d : Desc) (l : List GranuleWrite) (s : State)
    (out : List (Nat × Nat × GranuleWrite)) (tch : List Touch) : HbmOnly s (s.writeGranules c old d l out tch).1 := by
  induction l generalizing s out tch with
  | nil => exact .refl s
  | cons w l ih =>
    rw [State.writeGranules]
    split
    · exact .refl s
    · exact .refl s
    · exact ih _ _ _
    · exact (putGranule_hbmOnly ..).trans (ih _ _ _)

/-- a write of a structure, -/
theorem writeStruct_hbmOnly {s t : State} {c : Context} {old : Nat} {addr : Word} {al : Nat} {bs : List Byte}
    {p : Option (Nat × Nat)} {o : List (Nat × Nat × GranuleWrite)} {x : List Touch}
    (e : s.writeStruct c old addr al bs p = .ok (t, o, x)) : HbmOnly s t := by
  unfold State.writeStruct at e
  split at e
  · cases e
  · rename_i tid off d _
    have k := writeGranules_hbmOnly c old d (structWrites tid d off bs p) s [] []
    split at e
    · rename_i q
      simp only [Except.ok.injEq, Prod.mk.injEq] at e
      rw [q] at k
      rw [← e.1]
      exact k
    · cases e

/-- a counted access (R147), -/
theorem touchPage_hbmOnly (s : State) (page tower tid t ctx : Nat) : HbmOnly s (s.touchPage page tower tid t ctx) := ⟨_, _, _, _, _, _, _, rfl⟩

/-- a cached translation (R136), -/
theorem cache_hbmOnly (s : State) (unit ctx tid : Nat) (key : CacheKey) (words : List Nat) : HbmOnly s (s.cache unit ctx tid key words) := by
  unfold State.cache
  split
  · exact .refl _
  · exact ⟨_, _, _, _, _, _, _, rfl⟩

/-- a read of a block table entry, -/
theorem touchEntry_hbmOnly (s : State) (c : Context) (tower : Nat) (d : Desc) (t : Nat) : HbmOnly s (s.touchEntry c tower d t) := by
  unfold State.touchEntry
  dsimp only
  split
  · exact HbmOnly.trans (touchPage_hbmOnly ..) (touchPage_hbmOnly ..)
  · exact touchPage_hbmOnly ..

/-- a cached block table entry, -/
theorem cacheEntry_hbmOnly (s : State) (c : Context) (tower tid : Nat) (d : Desc) (t : Nat) : HbmOnly s (s.cacheEntry c tower tid d t) := by
  unfold State.cacheEntry
  split
  · exact .refl _
  · exact HbmOnly.trans (touchEntry_hbmOnly ..) (cache_hbmOnly ..)

/-- a cached descriptor, -/
theorem cacheDesc_hbmOnly (s : State) (c : Context) (tower tid : Nat) : HbmOnly s (s.cacheDesc c tower tid) := by
  unfold State.cacheDesc
  split
  · exact .refl _
  · dsimp only
    split
    · exact cache_hbmOnly ..
    · exact HbmOnly.trans (touchPage_hbmOnly ..) (cache_hbmOnly ..)

/-- what an access to a granule leaves behind, -/
theorem noteTouch_hbmOnly (s : State) (c : Context) (tower : Nat) (x : Touch) : HbmOnly s (s.noteTouch c tower x) := by
  unfold State.noteTouch
  cases s.plainDesc c 0 x.tid with
  | none => cases x.addr with
    | none => exact .refl _
    | some a => exact touchPage_hbmOnly ..
  | some d =>
    cases x.addr with
    | none => exact cacheEntry_hbmOnly ..
    | some a => exact (cacheEntry_hbmOnly ..).trans (touchPage_hbmOnly ..)

/-- what several leave, -/
theorem noteList_hbmOnly (c : Context) (tower : Nat) (l : List Touch) (s : State) : HbmOnly s (s.noteList c tower l) :=
  .foldl _ (fun s x => noteTouch_hbmOnly s c tower x) l s

/-- a write of the device to a structure, -/
theorem deviceWrite_hbmOnly (s : State) (c : Context) (addr : Word) (bs : List Byte) : HbmOnly s (s.deviceWrite c addr bs) := by
  unfold State.deviceWrite
  split
  · exact .refl _
  · split
    · rename_i e
      exact (writeStruct_hbmOnly e).trans (noteList_hbmOnly ..)
    · exact .refl _

/-- a read of one, -/
theorem deviceNote_hbmOnly (s : State) (c : Context) (addr : Word) (n : Nat) : HbmOnly s (s.deviceNote c addr n) := by
  unfold State.deviceNote
  split
  · exact noteList_hbmOnly ..
  · exact .refl _

/-- and an addition to a counter. -/
theorem counterAdd_hbmOnly (s : State) (ctx : Nat) (addr : Word) (n : Nat) : HbmOnly s (s.counterAdd ctx addr n) := by
  unfold State.counterAdd
  split
  · exact .refl _
  · split
    · exact .refl _
    · exact deviceWrite_hbmOnly ..

end Sys2Proof.Machine
end

