-- ==== Sys2Proof/Laws/PerInstr.lean ====
section
/-! SUPPORT. The family of statements made instruction by instruction: the decoder reads an instruction back from its own opcode and operand
bits. A device event has no word. -/

namespace Sys2Proof.Laws.Words

/-- The decoder reads a well-formed instruction back from the opcode and the operand bits the encoder gives it. -/
def Statement (i : Instr) : Prop := i.wellFormed = true → ∀ p, encodeInstr i = some p → decodeInstr p.1 p.2 = .ok i

/-- A field of the lower part of a concatenation. -/
theorem field_low {m n : Nat} (x : BitVec m) (y : BitVec n) (k w : Nat) (h : k + w ≤ n) :
    (x ++ y).extractLsb' k w = y.extractLsb' k w := by
  apply BitVec.eq_of_getLsbD_eq
  intro i hi
  simp only [BitVec.getLsbD_extractLsb', BitVec.getLsbD_append, hi, decide_true, Bool.true_and]
  rw [if_pos (by omega)]

/-- A field of the upper part of a concatenation. -/
theorem field_high {m n : Nat} (x : BitVec m) (y : BitVec n) (k w : Nat) (h : n ≤ k) :
    (x ++ y).extractLsb' k w = x.extractLsb' (k - n) w := by
  apply BitVec.eq_of_getLsbD_eq
  intro i hi
  simp only [BitVec.getLsbD_extractLsb', BitVec.getLsbD_append, hi, decide_true, Bool.true_and]
  rw [if_neg (by omega)]
  congr 1
  omega

/-- An instruction without a word. -/
theorem noWord {i : Instr} (h : encodeInstr i = none) : Statement i := by
  intro _ p hp
  rw [h] at hp
  cases hp

/-- The reserved bits are zero, so the instruction is as it reads. -/
theorem clear {o mask : BitVec 18} {i : Instr} (h : o &&& mask = 0#18) : unreserved o mask i = .ok i := if_pos h

theorem lowPair_10 (a : BitVec 6) (x : BitVec 10) (y : BitVec 2) : (a ++ x ++ y).extractLsb' 0 12 = x ++ y := by
  apply BitVec.eq_of_getLsbD_eq
  intro i hi
  simp only [BitVec.getLsbD_extractLsb', BitVec.getLsbD_append, hi, decide_true, Bool.true_and, Nat.zero_add]
  by_cases h : i < 2
  · rw [if_pos h, if_pos h]
  · rw [if_neg h, if_neg h, if_pos (by omega)]

theorem lowPair_7 (a : BitVec 6) (x : BitVec 7) (y : BitVec 5) : (a ++ x ++ y).extractLsb' 0 12 = x ++ y := by
  apply BitVec.eq_of_getLsbD_eq
  intro i hi
  simp only [BitVec.getLsbD_extractLsb', BitVec.getLsbD_append, hi, decide_true, Bool.true_and, Nat.zero_add]
  by_cases h : i < 5
  · rw [if_pos h, if_pos h]
  · rw [if_neg h, if_neg h, if_pos (by omega)]

theorem lowPair_8 (a : BitVec 6) (x : BitVec 8) (y : BitVec 4) : (a ++ x ++ y).extractLsb' 0 12 = x ++ y := by
  apply BitVec.eq_of_getLsbD_eq
  intro i hi
  simp only [BitVec.getLsbD_extractLsb', BitVec.getLsbD_append, hi, decide_true, Bool.true_and, Nat.zero_add]
  by_cases h : i < 4
  · rw [if_pos h, if_pos h]
  · rw [if_neg h, if_neg h, if_pos (by omega)]

theorem mtcGroup_mtcQv (a : BitVec 6) (m : BitVec 2) : decodeMtc a (38#10 ++ m) = .ok (.mtcQv a m) := by
  obtain rfl | rfl | rfl | rfl := (by decide : ∀ k : BitVec 2, k = 0 ∨ k = 1 ∨ k = 2 ∨ k = 3) m <;> rfl

theorem mtcGroup_mtcTcfg (a : BitVec 6) (n : BitVec 5) : decodeMtc a (5#7 ++ n) = .ok (.mtcTcfg a n) := by
  have h := (by decide : ∀ n : BitVec 5, (5#7 ++ n) ≠ 0x097#12 ∧ (5#7 ++ n).extractLsb' 2 10 ≠ 38#10 ∧
    (5#7 ++ n).extractLsb' 5 7 = 5#7 ∧ (5#7 ++ n).extractLsb' 0 5 = n) n
  rw [decodeMtc, if_neg h.1, if_neg h.2.1, if_pos h.2.2.1, h.2.2.2]

theorem mtcGroup_mtcAcfg (a : BitVec 6) (n : BitVec 4) : decodeMtc a (12#8 ++ n) = .ok (.mtcAcfg a n) := by
  have h := (by decide : ∀ n : BitVec 4, (12#8 ++ n) ≠ 0x097#12 ∧ (12#8 ++ n).extractLsb' 2 10 ≠ 38#10 ∧
    (12#8 ++ n).extractLsb' 5 7 ≠ 5#7 ∧ (12#8 ++ n).extractLsb' 4 8 = 12#8 ∧ (12#8 ++ n).extractLsb' 0 4 = n) n
  rw [decodeMtc, if_neg h.1, if_neg h.2.1, if_neg h.2.2.1, if_pos h.2.2.2.1, h.2.2.2.2]

theorem genericMtc (a : BitVec 6) (r : BitVec 12) (h : genericControl r.toNat = true) : decodeMtc a r = .ok (.mtc a r) := by
  have h1 : r ≠ 0x097#12 := by rintro rfl; revert h; decide
  have h2 : r.extractLsb' 2 10 ≠ 38#10 := by
    intro e
    have := congrArg BitVec.toNat e
    simp [BitVec.extractLsb'_toNat, Nat.shiftRight_eq_div_pow] at this
    simp [genericControl] at h
    omega
  have h3 : r.extractLsb' 5 7 ≠ 5#7 := by
    intro e
    have := congrArg BitVec.toNat e
    simp [BitVec.extractLsb'_toNat, Nat.shiftRight_eq_div_pow] at this
    simp [genericControl] at h
    omega
  have h4 : r.extractLsb' 4 8 ≠ 12#8 := by
    intro e
    have := congrArg BitVec.toNat e
    simp [BitVec.extractLsb'_toNat, Nat.shiftRight_eq_div_pow] at this
    simp [genericControl] at h
    omega
  rw [decodeMtc, if_neg h1, if_neg h2, if_neg h3, if_neg h4]

theorem reserved_1 (x0 : BitVec 6) (x1 : BitVec 6) : (x0 ++ x1 ++ 0#6) &&& 0x0003F#18 = 0#18 := by
  apply BitVec.eq_of_getLsbD_eq
  intro i hi
  simp only [BitVec.getLsbD_and, BitVec.getLsbD_append]
  interval_cases i <;> simp

theorem reserved_2 (x0 : BitVec 1) (x1 : BitVec 3) (x2 : BitVec 6) (x3 : BitVec 6) : (x0 ++ x1 ++ x2 ++ x3 ++ 0#2) &&& 0x00003#18 = 0#18 := by
  apply BitVec.eq_of_getLsbD_eq
  intro i hi
  simp only [BitVec.getLsbD_and, BitVec.getLsbD_append]
  interval_cases i <;> simp

theorem reserved_3 (x0 : BitVec 6) : (0#6 ++ x0 ++ 0#6) &&& 0x3F03F#18 = 0#18 := by
  apply BitVec.eq_of_getLsbD_eq
  intro i hi
  simp only [BitVec.getLsbD_and, BitVec.getLsbD_append]
  interval_cases i <;> simp

theorem reserved_4 (x0 : BitVec 1) (x1 : BitVec 8) : (0#9 ++ x0 ++ x1) &&& 0x3FE00#18 = 0#18 := by
  apply BitVec.eq_of_getLsbD_eq
  intro i hi
  simp only [BitVec.getLsbD_and, BitVec.getLsbD_append]
  interval_cases i <;> simp

theorem reserved_5 (x0 : BitVec 2) (x1 : BitVec 8) : (0#8 ++ x0 ++ x1) &&& 0x3FC00#18 = 0#18 := by
  apply BitVec.eq_of_getLsbD_eq
  intro i hi
  simp only [BitVec.getLsbD_and, BitVec.getLsbD_append]
  interval_cases i <;> simp

theorem reserved_6 (x0 : BitVec 6) (x1 : BitVec 6) : (0#6 ++ x0 ++ x1) &&& 0x3F000#18 = 0#18 := by
  apply BitVec.eq_of_getLsbD_eq
  intro i hi
  simp only [BitVec.getLsbD_and, BitVec.getLsbD_append]
  interval_cases i <;> simp

theorem reserved_7 (x0 : BitVec 12) : (0#6 ++ x0) &&& 0x3F000#18 = 0#18 := by
  apply BitVec.eq_of_getLsbD_eq
  intro i hi
  simp only [BitVec.getLsbD_and, BitVec.getLsbD_append]
  interval_cases i <;> simp

theorem reserved_8 (x0 : BitVec 6) (x1 : BitVec 1) (x2 : BitVec 4) : (x0 ++ 0#7 ++ x1 ++ x2) &&& 0x00FE0#18 = 0#18 := by
  apply BitVec.eq_of_getLsbD_eq
  intro i hi
  simp only [BitVec.getLsbD_and, BitVec.getLsbD_append]
  interval_cases i <;> simp

theorem reserved_9 (x0 : BitVec 6) (x1 : BitVec 1) (x2 : BitVec 4) : (0#6 ++ x0 ++ 0#1 ++ x1 ++ x2) &&& 0x3F020#18 = 0#18 := by
  apply BitVec.eq_of_getLsbD_eq
  intro i hi
  simp only [BitVec.getLsbD_and, BitVec.getLsbD_append]
  interval_cases i <;> simp

theorem reserved_10 (x0 : BitVec 1) (x1 : BitVec 1) (x2 : BitVec 2) (x3 : BitVec 6) : (0#2 ++ x0 ++ x1 ++ x2 ++ x3 ++ 0#6) &&& 0x3003F#18 = 0#18 := by
  apply BitVec.eq_of_getLsbD_eq
  intro i hi
  simp only [BitVec.getLsbD_and, BitVec.getLsbD_append]
  interval_cases i <;> simp

theorem reserved_11 (x0 : BitVec 6) (x1 : BitVec 3) : (x0 ++ 0#9 ++ x1) &&& 0x00FF8#18 = 0#18 := by
  apply BitVec.eq_of_getLsbD_eq
  intro i hi
  simp only [BitVec.getLsbD_and, BitVec.getLsbD_append]
  interval_cases i <;> simp

theorem reserved_12 (x0 : BitVec 3) : (0#15 ++ x0) &&& 0x3FFF8#18 = 0#18 := by
  apply BitVec.eq_of_getLsbD_eq
  intro i hi
  simp only [BitVec.getLsbD_and, BitVec.getLsbD_append]
  interval_cases i <;> simp

theorem reserved_13 (x0 : BitVec 1) (x1 : BitVec 3) : (x0 ++ x1 ++ 0#14) &&& 0x03FFF#18 = 0#18 := by
  apply BitVec.eq_of_getLsbD_eq
  intro i hi
  simp only [BitVec.getLsbD_and, BitVec.getLsbD_append]
  interval_cases i <;> simp

theorem reserved_14 (x0 : BitVec 2) : (0#16 ++ x0) &&& 0x3FFFC#18 = 0#18 := by
  apply BitVec.eq_of_getLsbD_eq
  intro i hi
  simp only [BitVec.getLsbD_and, BitVec.getLsbD_append]
  interval_cases i <;> simp

theorem reserved_15 : 0#18 &&& 0x3FFFF#18 = 0#18 := rfl

theorem add (d : BitVec 6) (a : BitVec 6) (b : BitVec 6) : Statement (.add d a b) := by
  intro _ p h
  cases h
  refine (show decodeInstr 1#9 (d ++ a ++ b) = .ok (.add ((d ++ a ++ b).extractLsb' 12 6) ((d ++ a ++ b).extractLsb' 6 6) ((d ++ a ++ b).extractLsb' 0 6)) from rfl).trans ?_
  simp (disch := decide) only [-Nat.reduceAdd, field_low, field_high, BitVec.extractLsb'_eq_self, Nat.reduceSub, Nat.sub_self]

theorem sub (d : BitVec 6) (a : BitVec 6) (b : BitVec 6) : Statement (.sub d a b) := by
  intro _ p h
  cases h
  refine (show decodeInstr 2#9 (d ++ a ++ b) = .ok (.sub ((d ++ a ++ b).extractLsb' 12 6) ((d ++ a ++ b).extractLsb' 6 6) ((d ++ a ++ b).extractLsb' 0 6)) from rfl).trans ?_
  simp (disch := decide) only [-Nat.reduceAdd, field_low, field_high, BitVec.extractLsb'_eq_self, Nat.reduceSub, Nat.sub_self]

theorem mul (d : BitVec 6) (a : BitVec 6) (b : BitVec 6) : Statement (.mul d a b) := by
  intro _ p h
  cases h
  refine (show decodeInstr 3#9 (d ++ a ++ b) = .ok (.mul ((d ++ a ++ b).extractLsb' 12 6) ((d ++ a ++ b).extractLsb' 6 6) ((d ++ a ++ b).extractLsb' 0 6)) from rfl).trans ?_
  simp (disch := decide) only [-Nat.reduceAdd, field_low, field_high, BitVec.extractLsb'_eq_self, Nat.reduceSub, Nat.sub_self]

theorem mulh (d : BitVec 6) (a : BitVec 6) (b : BitVec 6) : Statement (.mulh d a b) := by
  intro _ p h
  cases h
  refine (show decodeInstr 4#9 (d ++ a ++ b) = .ok (.mulh ((d ++ a ++ b).extractLsb' 12 6) ((d ++ a ++ b).extractLsb' 6 6) ((d ++ a ++ b).extractLsb' 0 6)) from rfl).trans ?_
  simp (disch := decide) only [-Nat.reduceAdd, field_low, field_high, BitVec.extractLsb'_eq_self, Nat.reduceSub, Nat.sub_self]

theorem mulhu (d : BitVec 6) (a : BitVec 6) (b : BitVec 6) : Statement (.mulhu d a b) := by
  intro _ p h
  cases h
  refine (show decodeInstr 5#9 (d ++ a ++ b) = .ok (.mulhu ((d ++ a ++ b).extractLsb' 12 6) ((d ++ a ++ b).extractLsb' 6 6) ((d ++ a ++ b).extractLsb' 0 6)) from rfl).trans ?_
  simp (disch := decide) only [-Nat.reduceAdd, field_low, field_high, BitVec.extractLsb'_eq_self, Nat.reduceSub, Nat.sub_self]

theorem div (d : BitVec 6) (a : BitVec 6) (b : BitVec 6) : Statement (.div d a b) := by
  intro _ p h
  cases h
  refine (show decodeInstr 6#9 (d ++ a ++ b) = .ok (.div ((d ++ a ++ b).extractLsb' 12 6) ((d ++ a ++ b).extractLsb' 6 6) ((d ++ a ++ b).extractLsb' 0 6)) from rfl).trans ?_
  simp (disch := decide) only [-Nat.reduceAdd, field_low, field_high, BitVec.extractLsb'_eq_self, Nat.reduceSub, Nat.sub_self]

theorem divu (d : BitVec 6) (a : BitVec 6) (b : BitVec 6) : Statement (.divu d a b) := by
  intro _ p h
  cases h
  refine (show decodeInstr 7#9 (d ++ a ++ b) = .ok (.divu ((d ++ a ++ b).extractLsb' 12 6) ((d ++ a ++ b).extractLsb' 6 6) ((d ++ a ++ b).extractLsb' 0 6)) from rfl).trans ?_
  simp (disch := decide) only [-Nat.reduceAdd, field_low, field_high, BitVec.extractLsb'_eq_self, Nat.reduceSub, Nat.sub_self]

theorem rem (d : BitVec 6) (a : BitVec 6) (b : BitVec 6) : Statement (.rem d a b) := by
  intro _ p h
  cases h
  refine (show decodeInstr 8#9 (d ++ a ++ b) = .ok (.rem ((d ++ a ++ b).extractLsb' 12 6) ((d ++ a ++ b).extractLsb' 6 6) ((d ++ a ++ b).extractLsb' 0 6)) from rfl).trans ?_
  simp (disch := decide) only [-Nat.reduceAdd, field_low, field_high, BitVec.extractLsb'_eq_self, Nat.reduceSub, Nat.sub_self]

theorem remu (d : BitVec 6) (a : BitVec 6) (b : BitVec 6) : Statement (.remu d a b) := by
  intro _ p h
  cases h
  refine (show decodeInstr 9#9 (d ++ a ++ b) = .ok (.remu ((d ++ a ++ b).extractLsb' 12 6) ((d ++ a ++ b).extractLsb' 6 6) ((d ++ a ++ b).extractLsb' 0 6)) from rfl).trans ?_
  simp (disch := decide) only [-Nat.reduceAdd, field_low, field_high, BitVec.extractLsb'_eq_self, Nat.reduceSub, Nat.sub_self]

theorem and (d : BitVec 6) (a : BitVec 6) (b : BitVec 6) : Statement (.and d a b) := by
  intro _ p h
  cases h
  refine (show decodeInstr 10#9 (d ++ a ++ b) = .ok (.and ((d ++ a ++ b).extractLsb' 12 6) ((d ++ a ++ b).extractLsb' 6 6) ((d ++ a ++ b).extractLsb' 0 6)) from rfl).trans ?_
  simp (disch := decide) only [-Nat.reduceAdd, field_low, field_high, BitVec.extractLsb'_eq_self, Nat.reduceSub, Nat.sub_self]

theorem or (d : BitVec 6) (a : BitVec 6) (b : BitVec 6) : Statement (.or d a b) := by
  intro _ p h
  cases h
  refine (show decodeInstr 11#9 (d ++ a ++ b) = .ok (.or ((d ++ a ++ b).extractLsb' 12 6) ((d ++ a ++ b).extractLsb' 6 6) ((d ++ a ++ b).extractLsb' 0 6)) from rfl).trans ?_
  simp (disch := decide) only [-Nat.reduceAdd, field_low, field_high, BitVec.extractLsb'_eq_self, Nat.reduceSub, Nat.sub_self]

theorem xor (d : BitVec 6) (a : BitVec 6) (b : BitVec 6) : Statement (.xor d a b) := by
  intro _ p h
  cases h
  refine (show decodeInstr 12#9 (d ++ a ++ b) = .ok (.xor ((d ++ a ++ b).extractLsb' 12 6) ((d ++ a ++ b).extractLsb' 6 6) ((d ++ a ++ b).extractLsb' 0 6)) from rfl).trans ?_
  simp (disch := decide) only [-Nat.reduceAdd, field_low, field_high, BitVec.extractLsb'_eq_self, Nat.reduceSub, Nat.sub_self]

theorem shl (d : BitVec 6) (a : BitVec 6) (b : BitVec 6) : Statement (.shl d a b) := by
  intro _ p h
  cases h
  refine (show decodeInstr 13#9 (d ++ a ++ b) = .ok (.shl ((d ++ a ++ b).extractLsb' 12 6) ((d ++ a ++ b).extractLsb' 6 6) ((d ++ a ++ b).extractLsb' 0 6)) from rfl).trans ?_
  simp (disch := decide) only [-Nat.reduceAdd, field_low, field_high, BitVec.extractLsb'_eq_self, Nat.reduceSub, Nat.sub_self]

theorem shr (d : BitVec 6) (a : BitVec 6) (b : BitVec 6) : Statement (.shr d a b) := by
  intro _ p h
  cases h
  refine (show decodeInstr 14#9 (d ++ a ++ b) = .ok (.shr ((d ++ a ++ b).extractLsb' 12 6) ((d ++ a ++ b).extractLsb' 6 6) ((d ++ a ++ b).extractLsb' 0 6)) from rfl).trans ?_
  simp (disch := decide) only [-Nat.reduceAdd, field_low, field_high, BitVec.extractLsb'_eq_self, Nat.reduceSub, Nat.sub_self]

theorem sar (d : BitVec 6) (a : BitVec 6) (b : BitVec 6) : Statement (.sar d a b) := by
  intro _ p h
  cases h
  refine (show decodeInstr 15#9 (d ++ a ++ b) = .ok (.sar ((d ++ a ++ b).extractLsb' 12 6) ((d ++ a ++ b).extractLsb' 6 6) ((d ++ a ++ b).extractLsb' 0 6)) from rfl).trans ?_
  simp (disch := decide) only [-Nat.reduceAdd, field_low, field_high, BitVec.extractLsb'_eq_self, Nat.reduceSub, Nat.sub_self]

theorem min (d : BitVec 6) (a : BitVec 6) (b : BitVec 6) : Statement (.min d a b) := by
  intro _ p h
  cases h
  refine (show decodeInstr 16#9 (d ++ a ++ b) = .ok (.min ((d ++ a ++ b).extractLsb' 12 6) ((d ++ a ++ b).extractLsb' 6 6) ((d ++ a ++ b).extractLsb' 0 6)) from rfl).trans ?_
  simp (disch := decide) only [-Nat.reduceAdd, field_low, field_high, BitVec.extractLsb'_eq_self, Nat.reduceSub, Nat.sub_self]

theorem max (d : BitVec 6) (a : BitVec 6) (b : BitVec 6) : Statement (.max d a b) := by
  intro _ p h
  cases h
  refine (show decodeInstr 17#9 (d ++ a ++ b) = .ok (.max ((d ++ a ++ b).extractLsb' 12 6) ((d ++ a ++ b).extractLsb' 6 6) ((d ++ a ++ b).extractLsb' 0 6)) from rfl).trans ?_
  simp (disch := decide) only [-Nat.reduceAdd, field_low, field_high, BitVec.extractLsb'_eq_self, Nat.reduceSub, Nat.sub_self]

theorem minu (d : BitVec 6) (a : BitVec 6) (b : BitVec 6) : Statement (.minu d a b) := by
  intro _ p h
  cases h
  refine (show decodeInstr 18#9 (d ++ a ++ b) = .ok (.minu ((d ++ a ++ b).extractLsb' 12 6) ((d ++ a ++ b).extractLsb' 6 6) ((d ++ a ++ b).extractLsb' 0 6)) from rfl).trans ?_
  simp (disch := decide) only [-Nat.reduceAdd, field_low, field_high, BitVec.extractLsb'_eq_self, Nat.reduceSub, Nat.sub_self]

theorem maxu (d : BitVec 6) (a : BitVec 6) (b : BitVec 6) : Statement (.maxu d a b) := by
  intro _ p h
  cases h
  refine (show decodeInstr 19#9 (d ++ a ++ b) = .ok (.maxu ((d ++ a ++ b).extractLsb' 12 6) ((d ++ a ++ b).extractLsb' 6 6) ((d ++ a ++ b).extractLsb' 0 6)) from rfl).trans ?_
  simp (disch := decide) only [-Nat.reduceAdd, field_low, field_high, BitVec.extractLsb'_eq_self, Nat.reduceSub, Nat.sub_self]

theorem clz (d : BitVec 6) (a : BitVec 6) : Statement (.clz d a) := by
  intro _ p h
  cases h
  refine (clear (reserved_1 d a)).trans ?_
  simp (disch := decide) only [-Nat.reduceAdd, field_low, field_high, BitVec.extractLsb'_eq_self, Nat.reduceSub, Nat.sub_self]

theorem popc (d : BitVec 6) (a : BitVec 6) : Statement (.popc d a) := by
  intro _ p h
  cases h
  refine (clear (reserved_1 d a)).trans ?_
  simp (disch := decide) only [-Nat.reduceAdd, field_low, field_high, BitVec.extractLsb'_eq_self, Nat.reduceSub, Nat.sub_self]

theorem addi (d : BitVec 6) (a : BitVec 6) (i : BitVec 6) : Statement (.addi d a i) := by
  intro _ p h
  cases h
  refine (show decodeInstr 22#9 (d ++ a ++ i) = .ok (.addi ((d ++ a ++ i).extractLsb' 12 6) ((d ++ a ++ i).extractLsb' 6 6) ((d ++ a ++ i).extractLsb' 0 6)) from rfl).trans ?_
  simp (disch := decide) only [-Nat.reduceAdd, field_low, field_high, BitVec.extractLsb'_eq_self, Nat.reduceSub, Nat.sub_self]

theorem andi (d : BitVec 6) (a : BitVec 6) (i : BitVec 6) : Statement (.andi d a i) := by
  intro _ p h
  cases h
  refine (show decodeInstr 23#9 (d ++ a ++ i) = .ok (.andi ((d ++ a ++ i).extractLsb' 12 6) ((d ++ a ++ i).extractLsb' 6 6) ((d ++ a ++ i).extractLsb' 0 6)) from rfl).trans ?_
  simp (disch := decide) only [-Nat.reduceAdd, field_low, field_high, BitVec.extractLsb'_eq_self, Nat.reduceSub, Nat.sub_self]

theorem ori (d : BitVec 6) (a : BitVec 6) (i : BitVec 6) : Statement (.ori d a i) := by
  intro _ p h
  cases h
  refine (show decodeInstr 24#9 (d ++ a ++ i) = .ok (.ori ((d ++ a ++ i).extractLsb' 12 6) ((d ++ a ++ i).extractLsb' 6 6) ((d ++ a ++ i).extractLsb' 0 6)) from rfl).trans ?_
  simp (disch := decide) only [-Nat.reduceAdd, field_low, field_high, BitVec.extractLsb'_eq_self, Nat.reduceSub, Nat.sub_self]

theorem xori (d : BitVec 6) (a : BitVec 6) (i : BitVec 6) : Statement (.xori d a i) := by
  intro _ p h
  cases h
  refine (show decodeInstr 25#9 (d ++ a ++ i) = .ok (.xori ((d ++ a ++ i).extractLsb' 12 6) ((d ++ a ++ i).extractLsb' 6 6) ((d ++ a ++ i).extractLsb' 0 6)) from rfl).trans ?_
  simp (disch := decide) only [-Nat.reduceAdd, field_low, field_high, BitVec.extractLsb'_eq_self, Nat.reduceSub, Nat.sub_self]

theorem shli (d : BitVec 6) (a : BitVec 6) (k : BitVec 6) : Statement (.shli d a k) := by
  intro _ p h
  cases h
  refine (show decodeInstr 26#9 (d ++ a ++ k) = .ok (.shli ((d ++ a ++ k).extractLsb' 12 6) ((d ++ a ++ k).extractLsb' 6 6) ((d ++ a ++ k).extractLsb' 0 6)) from rfl).trans ?_
  simp (disch := decide) only [-Nat.reduceAdd, field_low, field_high, BitVec.extractLsb'_eq_self, Nat.reduceSub, Nat.sub_self]

theorem shri (d : BitVec 6) (a : BitVec 6) (k : BitVec 6) : Statement (.shri d a k) := by
  intro _ p h
  cases h
  refine (show decodeInstr 27#9 (d ++ a ++ k) = .ok (.shri ((d ++ a ++ k).extractLsb' 12 6) ((d ++ a ++ k).extractLsb' 6 6) ((d ++ a ++ k).extractLsb' 0 6)) from rfl).trans ?_
  simp (disch := decide) only [-Nat.reduceAdd, field_low, field_high, BitVec.extractLsb'_eq_self, Nat.reduceSub, Nat.sub_self]

theorem sari (d : BitVec 6) (a : BitVec 6) (k : BitVec 6) : Statement (.sari d a k) := by
  intro _ p h
  cases h
  refine (show decodeInstr 28#9 (d ++ a ++ k) = .ok (.sari ((d ++ a ++ k).extractLsb' 12 6) ((d ++ a ++ k).extractLsb' 6 6) ((d ++ a ++ k).extractLsb' 0 6)) from rfl).trans ?_
  simp (disch := decide) only [-Nat.reduceAdd, field_low, field_high, BitVec.extractLsb'_eq_self, Nat.reduceSub, Nat.sub_self]

theorem movi (d : BitVec 6) (i : BitVec 12) : Statement (.movi d i) := by
  intro _ p h
  cases h
  refine (show decodeInstr 29#9 (d ++ i) = .ok (.movi ((d ++ i).extractLsb' 12 6) ((d ++ i).extractLsb' 0 12)) from rfl).trans ?_
  simp (disch := decide) only [-Nat.reduceAdd, field_low, field_high, BitVec.extractLsb'_eq_self, Nat.reduceSub, Nat.sub_self]

theorem movhi (d : BitVec 6) (i : BitVec 12) : Statement (.movhi d i) := by
  intro _ p h
  cases h
  refine (show decodeInstr 30#9 (d ++ i) = .ok (.movhi ((d ++ i).extractLsb' 12 6) ((d ++ i).extractLsb' 0 12)) from rfl).trans ?_
  simp (disch := decide) only [-Nat.reduceAdd, field_low, field_high, BitVec.extractLsb'_eq_self, Nat.reduceSub, Nat.sub_self]

theorem cmp (c : BitVec 3) (p : BitVec 3) (a : BitVec 6) (b : BitVec 6) : Statement (.cmp c p a b) := by
  intro _ p h
  cases h
  refine (show decodeInstr 31#9 (c ++ p ++ a ++ b) = .ok (.cmp ((c ++ p ++ a ++ b).extractLsb' 15 3) ((c ++ p ++ a ++ b).extractLsb' 12 3) ((c ++ p ++ a ++ b).extractLsb' 6 6) ((c ++ p ++ a ++ b).extractLsb' 0 6)) from rfl).trans ?_
  simp (disch := decide) only [-Nat.reduceAdd, field_low, field_high, BitVec.extractLsb'_eq_self, Nat.reduceSub, Nat.sub_self]

theorem cmpi (c : BitVec 3) (p : BitVec 3) (a : BitVec 6) (i : BitVec 6) : Statement (.cmpi c p a i) := by
  intro _ p h
  cases h
  refine (show decodeInstr 32#9 (c ++ p ++ a ++ i) = .ok (.cmpi ((c ++ p ++ a ++ i).extractLsb' 15 3) ((c ++ p ++ a ++ i).extractLsb' 12 3) ((c ++ p ++ a ++ i).extractLsb' 6 6) ((c ++ p ++ a ++ i).extractLsb' 0 6)) from rfl).trans ?_
  simp (disch := decide) only [-Nat.reduceAdd, field_low, field_high, BitVec.extractLsb'_eq_self, Nat.reduceSub, Nat.sub_self]

theorem sel (n : BitVec 3) (d a b : BitVec 6) : Statement (.sel n d a b) := by
  intro _ p h
  cases h
  have e : ∀ k : BitVec 3, ∀ o, decodeInstr (5#6 ++ k) o = .ok (.sel k (o.extractLsb' 12 6) (o.extractLsb' 6 6) (o.extractLsb' 0 6)) := by
    intro k
    obtain rfl | rfl | rfl | rfl | rfl | rfl | rfl | rfl := (by decide : ∀ k : BitVec 3, k = 0 ∨ k = 1 ∨ k = 2 ∨ k = 3 ∨ k = 4 ∨ k = 5 ∨ k = 6 ∨ k = 7) k <;>
      intro o <;> rfl
  rw [e]
  simp (disch := decide) only [-Nat.reduceAdd, field_low, field_high, BitVec.extractLsb'_eq_self, Nat.reduceSub, Nat.sub_self]

theorem br (n : BitVec 1) (p : BitVec 3) (o : BitVec 14) : Statement (.br n p o) := by
  intro _ p h
  cases h
  refine (show decodeInstr 65#9 (n ++ p ++ o) = .ok (.br ((n ++ p ++ o).extractLsb' 17 1) ((n ++ p ++ o).extractLsb' 14 3) ((n ++ p ++ o).extractLsb' 0 14)) from rfl).trans ?_
  simp (disch := decide) only [-Nat.reduceAdd, field_low, field_high, BitVec.extractLsb'_eq_self, Nat.reduceSub, Nat.sub_self]

theorem jal (d : BitVec 6) (i : BitVec 12) : Statement (.jal d i) := by
  intro _ p h
  cases h
  refine (show decodeInstr 66#9 (d ++ i) = .ok (.jal ((d ++ i).extractLsb' 12 6) ((d ++ i).extractLsb' 0 12)) from rfl).trans ?_
  simp (disch := decide) only [-Nat.reduceAdd, field_low, field_high, BitVec.extractLsb'_eq_self, Nat.reduceSub, Nat.sub_self]

theorem jind (n : BitVec 1) (p : BitVec 3) (d : BitVec 6) (a : BitVec 6) : Statement (.jind n p d a) := by
  intro _ p h
  cases h
  refine (clear (reserved_2 n p d a)).trans ?_
  simp (disch := decide) only [-Nat.reduceAdd, field_low, field_high, BitVec.extractLsb'_eq_self, Nat.reduceSub, Nat.sub_self]

theorem loop (a : BitVec 6) (m : BitVec 12) : Statement (.loop a m) := by
  intro _ p h
  cases h
  refine (show decodeInstr 68#9 (a ++ m) = .ok (.loop ((a ++ m).extractLsb' 12 6) ((a ++ m).extractLsb' 0 12)) from rfl).trans ?_
  simp (disch := decide) only [-Nat.reduceAdd, field_low, field_high, BitVec.extractLsb'_eq_self, Nat.reduceSub, Nat.sub_self]

theorem loopi (i : BitVec 6) (m : BitVec 12) : Statement (.loopi i m) := by
  intro _ p h
  cases h
  refine (show decodeInstr 69#9 (i ++ m) = .ok (.loopi ((i ++ m).extractLsb' 12 6) ((i ++ m).extractLsb' 0 12)) from rfl).trans ?_
  simp (disch := decide) only [-Nat.reduceAdd, field_low, field_high, BitVec.extractLsb'_eq_self, Nat.reduceSub, Nat.sub_self]

theorem timedImm (i : BitVec 18) : Statement (.timedImm i) := by
  intro _ p h
  cases h
  refine (show decodeInstr 70#9 (i) = .ok (.timedImm ((i).extractLsb' 0 18)) from rfl).trans ?_
  simp (disch := decide) only [-Nat.reduceAdd, field_low, field_high, BitVec.extractLsb'_eq_self, Nat.reduceSub, Nat.sub_self]

theorem timedReg (a : BitVec 6) : Statement (.timedReg a) := by
  intro _ p h
  cases h
  refine (clear (reserved_3 a)).trans ?_
  simp (disch := decide) only [-Nat.reduceAdd, field_low, field_high, BitVec.extractLsb'_eq_self, Nat.reduceSub, Nat.sub_self]

theorem barr (x : BitVec 1) (g : BitVec 8) : Statement (.barr x g) := by
  intro _ p h
  cases h
  refine (clear (reserved_4 x g)).trans ?_
  simp (disch := decide) only [-Nat.reduceAdd, field_low, field_high, BitVec.extractLsb'_eq_self, Nat.reduceSub, Nat.sub_self]

theorem twait (a : BitVec 6) (b : BitVec 6) (c : BitVec 6) : Statement (.twait a b c) := by
  intro _ p h
  cases h
  refine (show decodeInstr 76#9 (a ++ b ++ c) = .ok (.twait ((a ++ b ++ c).extractLsb' 12 6) ((a ++ b ++ c).extractLsb' 6 6) ((a ++ b ++ c).extractLsb' 0 6)) from rfl).trans ?_
  simp (disch := decide) only [-Nat.reduceAdd, field_low, field_high, BitVec.extractLsb'_eq_self, Nat.reduceSub, Nat.sub_self]

theorem hwait (e : BitVec 2) (h : BitVec 8) : Statement (.hwait e h) := by
  intro _ p h
  cases h
  refine (clear (reserved_5 e h)).trans ?_
  simp (disch := decide) only [-Nat.reduceAdd, field_low, field_high, BitVec.extractLsb'_eq_self, Nat.reduceSub, Nat.sub_self]

theorem waitc (a : BitVec 6) (b : BitVec 6) : Statement (.waitc a b) := by
  intro _ p h
  cases h
  refine (clear (reserved_6 a b)).trans ?_
  simp (disch := decide) only [-Nat.reduceAdd, field_low, field_high, BitVec.extractLsb'_eq_self, Nat.reduceSub, Nat.sub_self]

theorem vadd (d : BitVec 6) (a : BitVec 6) (b : BitVec 6) : Statement (.vadd d a b) := by
  intro _ p h
  cases h
  refine (show decodeInstr 129#9 (d ++ a ++ b) = .ok (.vadd ((d ++ a ++ b).extractLsb' 12 6) ((d ++ a ++ b).extractLsb' 6 6) ((d ++ a ++ b).extractLsb' 0 6)) from rfl).trans ?_
  simp (disch := decide) only [-Nat.reduceAdd, field_low, field_high, BitVec.extractLsb'_eq_self, Nat.reduceSub, Nat.sub_self]

theorem vsub (d : BitVec 6) (a : BitVec 6) (b : BitVec 6) : Statement (.vsub d a b) := by
  intro _ p h
  cases h
  refine (show decodeInstr 130#9 (d ++ a ++ b) = .ok (.vsub ((d ++ a ++ b).extractLsb' 12 6) ((d ++ a ++ b).extractLsb' 6 6) ((d ++ a ++ b).extractLsb' 0 6)) from rfl).trans ?_
  simp (disch := decide) only [-Nat.reduceAdd, field_low, field_high, BitVec.extractLsb'_eq_self, Nat.reduceSub, Nat.sub_self]

theorem vmul (d : BitVec 6) (a : BitVec 6) (b : BitVec 6) : Statement (.vmul d a b) := by
  intro _ p h
  cases h
  refine (show decodeInstr 131#9 (d ++ a ++ b) = .ok (.vmul ((d ++ a ++ b).extractLsb' 12 6) ((d ++ a ++ b).extractLsb' 6 6) ((d ++ a ++ b).extractLsb' 0 6)) from rfl).trans ?_
  simp (disch := decide) only [-Nat.reduceAdd, field_low, field_high, BitVec.extractLsb'_eq_self, Nat.reduceSub, Nat.sub_self]

theorem vfma (d : BitVec 6) (a : BitVec 6) (b : BitVec 6) : Statement (.vfma d a b) := by
  intro _ p h
  cases h
  refine (show decodeInstr 132#9 (d ++ a ++ b) = .ok (.vfma ((d ++ a ++ b).extractLsb' 12 6) ((d ++ a ++ b).extractLsb' 6 6) ((d ++ a ++ b).extractLsb' 0 6)) from rfl).trans ?_
  simp (disch := decide) only [-Nat.reduceAdd, field_low, field_high, BitVec.extractLsb'_eq_self, Nat.reduceSub, Nat.sub_self]

theorem vmin (d : BitVec 6) (a : BitVec 6) (b : BitVec 6) : Statement (.vmin d a b) := by
  intro _ p h
  cases h
  refine (show decodeInstr 133#9 (d ++ a ++ b) = .ok (.vmin ((d ++ a ++ b).extractLsb' 12 6) ((d ++ a ++ b).extractLsb' 6 6) ((d ++ a ++ b).extractLsb' 0 6)) from rfl).trans ?_
  simp (disch := decide) only [-Nat.reduceAdd, field_low, field_high, BitVec.extractLsb'_eq_self, Nat.reduceSub, Nat.sub_self]

theorem vmax (d : BitVec 6) (a : BitVec 6) (b : BitVec 6) : Statement (.vmax d a b) := by
  intro _ p h
  cases h
  refine (show decodeInstr 134#9 (d ++ a ++ b) = .ok (.vmax ((d ++ a ++ b).extractLsb' 12 6) ((d ++ a ++ b).extractLsb' 6 6) ((d ++ a ++ b).extractLsb' 0 6)) from rfl).trans ?_
  simp (disch := decide) only [-Nat.reduceAdd, field_low, field_high, BitVec.extractLsb'_eq_self, Nat.reduceSub, Nat.sub_self]

theorem vabs (d : BitVec 6) (a : BitVec 6) : Statement (.vabs d a) := by
  intro _ p h
  cases h
  refine (clear (reserved_1 d a)).trans ?_
  simp (disch := decide) only [-Nat.reduceAdd, field_low, field_high, BitVec.extractLsb'_eq_self, Nat.reduceSub, Nat.sub_self]

theorem vneg (d : BitVec 6) (a : BitVec 6) : Statement (.vneg d a) := by
  intro _ p h
  cases h
  refine (clear (reserved_1 d a)).trans ?_
  simp (disch := decide) only [-Nat.reduceAdd, field_low, field_high, BitVec.extractLsb'_eq_self, Nat.reduceSub, Nat.sub_self]

theorem vand (d : BitVec 6) (a : BitVec 6) (b : BitVec 6) : Statement (.vand d a b) := by
  intro _ p h
  cases h
  refine (show decodeInstr 137#9 (d ++ a ++ b) = .ok (.vand ((d ++ a ++ b).extractLsb' 12 6) ((d ++ a ++ b).extractLsb' 6 6) ((d ++ a ++ b).extractLsb' 0 6)) from rfl).trans ?_
  simp (disch := decide) only [-Nat.reduceAdd, field_low, field_high, BitVec.extractLsb'_eq_self, Nat.reduceSub, Nat.sub_self]

theorem vor (d : BitVec 6) (a : BitVec 6) (b : BitVec 6) : Statement (.vor d a b) := by
  intro _ p h
  cases h
  refine (show decodeInstr 138#9 (d ++ a ++ b) = .ok (.vor ((d ++ a ++ b).extractLsb' 12 6) ((d ++ a ++ b).extractLsb' 6 6) ((d ++ a ++ b).extractLsb' 0 6)) from rfl).trans ?_
  simp (disch := decide) only [-Nat.reduceAdd, field_low, field_high, BitVec.extractLsb'_eq_self, Nat.reduceSub, Nat.sub_self]

theorem vxor (d : BitVec 6) (a : BitVec 6) (b : BitVec 6) : Statement (.vxor d a b) := by
  intro _ p h
  cases h
  refine (show decodeInstr 139#9 (d ++ a ++ b) = .ok (.vxor ((d ++ a ++ b).extractLsb' 12 6) ((d ++ a ++ b).extractLsb' 6 6) ((d ++ a ++ b).extractLsb' 0 6)) from rfl).trans ?_
  simp (disch := decide) only [-Nat.reduceAdd, field_low, field_high, BitVec.extractLsb'_eq_self, Nat.reduceSub, Nat.sub_self]

theorem vshl (d : BitVec 6) (a : BitVec 6) (k : BitVec 6) : Statement (.vshl d a k) := by
  intro _ p h
  cases h
  refine (show decodeInstr 140#9 (d ++ a ++ k) = .ok (.vshl ((d ++ a ++ k).extractLsb' 12 6) ((d ++ a ++ k).extractLsb' 6 6) ((d ++ a ++ k).extractLsb' 0 6)) from rfl).trans ?_
  simp (disch := decide) only [-Nat.reduceAdd, field_low, field_high, BitVec.extractLsb'_eq_self, Nat.reduceSub, Nat.sub_self]

theorem vshr (d : BitVec 6) (a : BitVec 6) (k : BitVec 6) : Statement (.vshr d a k) := by
  intro _ p h
  cases h
  refine (show decodeInstr 141#9 (d ++ a ++ k) = .ok (.vshr ((d ++ a ++ k).extractLsb' 12 6) ((d ++ a ++ k).extractLsb' 6 6) ((d ++ a ++ k).extractLsb' 0 6)) from rfl).trans ?_
  simp (disch := decide) only [-Nat.reduceAdd, field_low, field_high, BitVec.extractLsb'_eq_self, Nat.reduceSub, Nat.sub_self]

theorem vsar (d : BitVec 6) (a : BitVec 6) (k : BitVec 6) : Statement (.vsar d a k) := by
  intro _ p h
  cases h
  refine (show decodeInstr 142#9 (d ++ a ++ k) = .ok (.vsar ((d ++ a ++ k).extractLsb' 12 6) ((d ++ a ++ k).extractLsb' 6 6) ((d ++ a ++ k).extractLsb' 0 6)) from rfl).trans ?_
  simp (disch := decide) only [-Nat.reduceAdd, field_low, field_high, BitVec.extractLsb'_eq_self, Nat.reduceSub, Nat.sub_self]

theorem vsel (d : BitVec 6) (m : BitVec 6) (a : BitVec 6) : Statement (.vsel d m a) := by
  intro _ p h
  cases h
  refine (show decodeInstr 143#9 (d ++ m ++ a) = .ok (.vsel ((d ++ m ++ a).extractLsb' 12 6) ((d ++ m ++ a).extractLsb' 6 6) ((d ++ m ++ a).extractLsb' 0 6)) from rfl).trans ?_
  simp (disch := decide) only [-Nat.reduceAdd, field_low, field_high, BitVec.extractLsb'_eq_self, Nat.reduceSub, Nat.sub_self]

theorem vmov (d : BitVec 6) (a : BitVec 6) : Statement (.vmov d a) := by
  intro _ p h
  cases h
  refine (clear (reserved_1 d a)).trans ?_
  simp (disch := decide) only [-Nat.reduceAdd, field_low, field_high, BitVec.extractLsb'_eq_self, Nat.reduceSub, Nat.sub_self]

theorem vbcast (d : BitVec 6) (a : BitVec 6) : Statement (.vbcast d a) := by
  intro _ p h
  cases h
  refine (clear (reserved_1 d a)).trans ?_
  simp (disch := decide) only [-Nat.reduceAdd, field_low, field_high, BitVec.extractLsb'_eq_self, Nat.reduceSub, Nat.sub_self]

theorem vextr (d : BitVec 6) (a : BitVec 6) (b : BitVec 6) : Statement (.vextr d a b) := by
  intro _ p h
  cases h
  refine (show decodeInstr 146#9 (d ++ a ++ b) = .ok (.vextr ((d ++ a ++ b).extractLsb' 12 6) ((d ++ a ++ b).extractLsb' 6 6) ((d ++ a ++ b).extractLsb' 0 6)) from rfl).trans ?_
  simp (disch := decide) only [-Nat.reduceAdd, field_low, field_high, BitVec.extractLsb'_eq_self, Nat.reduceSub, Nat.sub_self]

theorem vclamp (d : BitVec 6) (a : BitVec 6) (b : BitVec 6) : Statement (.vclamp d a b) := by
  intro _ p h
  cases h
  refine (show decodeInstr 147#9 (d ++ a ++ b) = .ok (.vclamp ((d ++ a ++ b).extractLsb' 12 6) ((d ++ a ++ b).extractLsb' 6 6) ((d ++ a ++ b).extractLsb' 0 6)) from rfl).trans ?_
  simp (disch := decide) only [-Nat.reduceAdd, field_low, field_high, BitVec.extractLsb'_eq_self, Nat.reduceSub, Nat.sub_self]

theorem vcmpEq (d : BitVec 6) (a : BitVec 6) (b : BitVec 6) : Statement (.vcmpEq d a b) := by
  intro _ p h
  cases h
  refine (show decodeInstr 193#9 (d ++ a ++ b) = .ok (.vcmpEq ((d ++ a ++ b).extractLsb' 12 6) ((d ++ a ++ b).extractLsb' 6 6) ((d ++ a ++ b).extractLsb' 0 6)) from rfl).trans ?_
  simp (disch := decide) only [-Nat.reduceAdd, field_low, field_high, BitVec.extractLsb'_eq_self, Nat.reduceSub, Nat.sub_self]

theorem vcmpNe (d : BitVec 6) (a : BitVec 6) (b : BitVec 6) : Statement (.vcmpNe d a b) := by
  intro _ p h
  cases h
  refine (show decodeInstr 194#9 (d ++ a ++ b) = .ok (.vcmpNe ((d ++ a ++ b).extractLsb' 12 6) ((d ++ a ++ b).extractLsb' 6 6) ((d ++ a ++ b).extractLsb' 0 6)) from rfl).trans ?_
  simp (disch := decide) only [-Nat.reduceAdd, field_low, field_high, BitVec.extractLsb'_eq_self, Nat.reduceSub, Nat.sub_self]

theorem vcmpLt (d : BitVec 6) (a : BitVec 6) (b : BitVec 6) : Statement (.vcmpLt d a b) := by
  intro _ p h
  cases h
  refine (show decodeInstr 195#9 (d ++ a ++ b) = .ok (.vcmpLt ((d ++ a ++ b).extractLsb' 12 6) ((d ++ a ++ b).extractLsb' 6 6) ((d ++ a ++ b).extractLsb' 0 6)) from rfl).trans ?_
  simp (disch := decide) only [-Nat.reduceAdd, field_low, field_high, BitVec.extractLsb'_eq_self, Nat.reduceSub, Nat.sub_self]

theorem vcmpLe (d : BitVec 6) (a : BitVec 6) (b : BitVec 6) : Statement (.vcmpLe d a b) := by
  intro _ p h
  cases h
  refine (show decodeInstr 196#9 (d ++ a ++ b) = .ok (.vcmpLe ((d ++ a ++ b).extractLsb' 12 6) ((d ++ a ++ b).extractLsb' 6 6) ((d ++ a ++ b).extractLsb' 0 6)) from rfl).trans ?_
  simp (disch := decide) only [-Nat.reduceAdd, field_low, field_high, BitVec.extractLsb'_eq_self, Nat.reduceSub, Nat.sub_self]

theorem vperm (d : BitVec 6) (a : BitVec 6) (b : BitVec 6) : Statement (.vperm d a b) := by
  intro _ p h
  cases h
  refine (show decodeInstr 197#9 (d ++ a ++ b) = .ok (.vperm ((d ++ a ++ b).extractLsb' 12 6) ((d ++ a ++ b).extractLsb' 6 6) ((d ++ a ++ b).extractLsb' 0 6)) from rfl).trans ?_
  simp (disch := decide) only [-Nat.reduceAdd, field_low, field_high, BitVec.extractLsb'_eq_self, Nat.reduceSub, Nat.sub_self]

theorem vredsSum (d : BitVec 6) (a : BitVec 6) : Statement (.vredsSum d a) := by
  intro _ p h
  cases h
  refine (clear (reserved_1 d a)).trans ?_
  simp (disch := decide) only [-Nat.reduceAdd, field_low, field_high, BitVec.extractLsb'_eq_self, Nat.reduceSub, Nat.sub_self]

theorem vredsMax (d : BitVec 6) (a : BitVec 6) : Statement (.vredsMax d a) := by
  intro _ p h
  cases h
  refine (clear (reserved_1 d a)).trans ?_
  simp (disch := decide) only [-Nat.reduceAdd, field_low, field_high, BitVec.extractLsb'_eq_self, Nat.reduceSub, Nat.sub_self]

theorem vredsMin (d : BitVec 6) (a : BitVec 6) : Statement (.vredsMin d a) := by
  intro _ p h
  cases h
  refine (clear (reserved_1 d a)).trans ?_
  simp (disch := decide) only [-Nat.reduceAdd, field_low, field_high, BitVec.extractLsb'_eq_self, Nat.reduceSub, Nat.sub_self]

theorem vcvt (d : BitVec 6) (a : BitVec 6) : Statement (.vcvt d a) := by
  intro _ p h
  cases h
  refine (clear (reserved_1 d a)).trans ?_
  simp (disch := decide) only [-Nat.reduceAdd, field_low, field_high, BitVec.extractLsb'_eq_self, Nat.reduceSub, Nat.sub_self]

theorem vscale (d : BitVec 6) (a : BitVec 6) (b : BitVec 6) : Statement (.vscale d a b) := by
  intro _ p h
  cases h
  refine (show decodeInstr 202#9 (d ++ a ++ b) = .ok (.vscale ((d ++ a ++ b).extractLsb' 12 6) ((d ++ a ++ b).extractLsb' 6 6) ((d ++ a ++ b).extractLsb' 0 6)) from rfl).trans ?_
  simp (disch := decide) only [-Nat.reduceAdd, field_low, field_high, BitVec.extractLsb'_eq_self, Nat.reduceSub, Nat.sub_self]

theorem mpush (a : BitVec 6) : Statement (.mpush a) := by
  intro _ p h
  cases h
  refine (clear (reserved_3 a)).trans ?_
  simp (disch := decide) only [-Nat.reduceAdd, field_low, field_high, BitVec.extractLsb'_eq_self, Nat.reduceSub, Nat.sub_self]

theorem vskip (n : BitVec 12) : Statement (.vskip n) := by
  intro _ p h
  cases h
  refine (clear (reserved_7 n)).trans ?_
  simp (disch := decide) only [-Nat.reduceAdd, field_low, field_high, BitVec.extractLsb'_eq_self, Nat.reduceSub, Nat.sub_self]

theorem vdot4 (t u w : BitVec 1) (d a b : BitVec 6) : Statement (.vdot4 t u w d a b) := by
  intro _ p h
  cases h
  have e : ∀ t u w : BitVec 1, ∀ o, decodeInstr (26#6 ++ t ++ u ++ w) o =
      .ok (.vdot4 t u w (o.extractLsb' 12 6) (o.extractLsb' 6 6) (o.extractLsb' 0 6)) := by
    intro t u w
    obtain rfl | rfl := (by decide : ∀ k : BitVec 1, k = 0 ∨ k = 1) t <;>
      obtain rfl | rfl := (by decide : ∀ k : BitVec 1, k = 0 ∨ k = 1) u <;>
        obtain rfl | rfl := (by decide : ∀ k : BitVec 1, k = 0 ∨ k = 1) w <;> intro o <;> rfl
  rw [e]
  simp (disch := decide) only [-Nat.reduceAdd, field_low, field_high, BitVec.extractLsb'_eq_self, Nat.reduceSub, Nat.sub_self]

theorem vdot8 (t u w : BitVec 1) (d a b : BitVec 6) : Statement (.vdot8 t u w d a b) := by
  intro _ p h
  cases h
  have e : ∀ t u w : BitVec 1, ∀ o, decodeInstr (27#6 ++ t ++ u ++ w) o =
      .ok (.vdot8 t u w (o.extractLsb' 12 6) (o.extractLsb' 6 6) (o.extractLsb' 0 6)) := by
    intro t u w
    obtain rfl | rfl := (by decide : ∀ k : BitVec 1, k = 0 ∨ k = 1) t <;>
      obtain rfl | rfl := (by decide : ∀ k : BitVec 1, k = 0 ∨ k = 1) u <;>
        obtain rfl | rfl := (by decide : ∀ k : BitVec 1, k = 0 ∨ k = 1) w <;> intro o <;> rfl
  rw [e]
  simp (disch := decide) only [-Nat.reduceAdd, field_low, field_high, BitVec.extractLsb'_eq_self, Nat.reduceSub, Nat.sub_self]

theorem sfexp (d : BitVec 6) (a : BitVec 6) : Statement (.sfexp d a) := by
  intro _ p h
  cases h
  refine (clear (reserved_1 d a)).trans ?_
  simp (disch := decide) only [-Nat.reduceAdd, field_low, field_high, BitVec.extractLsb'_eq_self, Nat.reduceSub, Nat.sub_self]

theorem sflog (d : BitVec 6) (a : BitVec 6) : Statement (.sflog d a) := by
  intro _ p h
  cases h
  refine (clear (reserved_1 d a)).trans ?_
  simp (disch := decide) only [-Nat.reduceAdd, field_low, field_high, BitVec.extractLsb'_eq_self, Nat.reduceSub, Nat.sub_self]

theorem sfrcp (d : BitVec 6) (a : BitVec 6) : Statement (.sfrcp d a) := by
  intro _ p h
  cases h
  refine (clear (reserved_1 d a)).trans ?_
  simp (disch := decide) only [-Nat.reduceAdd, field_low, field_high, BitVec.extractLsb'_eq_self, Nat.reduceSub, Nat.sub_self]

theorem sfrsq (d : BitVec 6) (a : BitVec 6) : Statement (.sfrsq d a) := by
  intro _ p h
  cases h
  refine (clear (reserved_1 d a)).trans ?_
  simp (disch := decide) only [-Nat.reduceAdd, field_low, field_high, BitVec.extractLsb'_eq_self, Nat.reduceSub, Nat.sub_self]

theorem sfsqrt (d : BitVec 6) (a : BitVec 6) : Statement (.sfsqrt d a) := by
  intro _ p h
  cases h
  refine (clear (reserved_1 d a)).trans ?_
  simp (disch := decide) only [-Nat.reduceAdd, field_low, field_high, BitVec.extractLsb'_eq_self, Nat.reduceSub, Nat.sub_self]

theorem sfsin (d : BitVec 6) (a : BitVec 6) : Statement (.sfsin d a) := by
  intro _ p h
  cases h
  refine (clear (reserved_1 d a)).trans ?_
  simp (disch := decide) only [-Nat.reduceAdd, field_low, field_high, BitVec.extractLsb'_eq_self, Nat.reduceSub, Nat.sub_self]

theorem sfcos (d : BitVec 6) (a : BitVec 6) : Statement (.sfcos d a) := by
  intro _ p h
  cases h
  refine (clear (reserved_1 d a)).trans ?_
  simp (disch := decide) only [-Nat.reduceAdd, field_low, field_high, BitVec.extractLsb'_eq_self, Nat.reduceSub, Nat.sub_self]

theorem sftanh (d : BitVec 6) (a : BitVec 6) : Statement (.sftanh d a) := by
  intro _ p h
  cases h
  refine (clear (reserved_1 d a)).trans ?_
  simp (disch := decide) only [-Nat.reduceAdd, field_low, field_high, BitVec.extractLsb'_eq_self, Nat.reduceSub, Nat.sub_self]

theorem sfsigm (d : BitVec 6) (a : BitVec 6) : Statement (.sfsigm d a) := by
  intro _ p h
  cases h
  refine (clear (reserved_1 d a)).trans ?_
  simp (disch := decide) only [-Nat.reduceAdd, field_low, field_high, BitVec.extractLsb'_eq_self, Nat.reduceSub, Nat.sub_self]

theorem sferf (d : BitVec 6) (a : BitVec 6) : Statement (.sferf d a) := by
  intro _ p h
  cases h
  refine (clear (reserved_1 d a)).trans ?_
  simp (disch := decide) only [-Nat.reduceAdd, field_low, field_high, BitVec.extractLsb'_eq_self, Nat.reduceSub, Nat.sub_self]

theorem rngc (d : BitVec 6) (a : BitVec 6) (b : BitVec 6) : Statement (.rngc d a b) := by
  intro _ p h
  cases h
  refine (show decodeInstr 267#9 (d ++ a ++ b) = .ok (.rngc ((d ++ a ++ b).extractLsb' 12 6) ((d ++ a ++ b).extractLsb' 6 6) ((d ++ a ++ b).extractLsb' 0 6)) from rfl).trans ?_
  simp (disch := decide) only [-Nat.reduceAdd, field_low, field_high, BitVec.extractLsb'_eq_self, Nat.reduceSub, Nat.sub_self]

theorem lds (d : BitVec 6) (a : BitVec 6) (o : BitVec 6) : Statement (.lds d a o) := by
  intro _ p h
  cases h
  refine (show decodeInstr 321#9 (d ++ a ++ o) = .ok (.lds ((d ++ a ++ o).extractLsb' 12 6) ((d ++ a ++ o).extractLsb' 6 6) ((d ++ a ++ o).extractLsb' 0 6)) from rfl).trans ?_
  simp (disch := decide) only [-Nat.reduceAdd, field_low, field_high, BitVec.extractLsb'_eq_self, Nat.reduceSub, Nat.sub_self]

theorem ldsChk (d : BitVec 6) (a : BitVec 6) (o : BitVec 6) : Statement (.ldsChk d a o) := by
  intro _ p h
  cases h
  refine (show decodeInstr 322#9 (d ++ a ++ o) = .ok (.ldsChk ((d ++ a ++ o).extractLsb' 12 6) ((d ++ a ++ o).extractLsb' 6 6) ((d ++ a ++ o).extractLsb' 0 6)) from rfl).trans ?_
  simp (disch := decide) only [-Nat.reduceAdd, field_low, field_high, BitVec.extractLsb'_eq_self, Nat.reduceSub, Nat.sub_self]

theorem sts (d : BitVec 6) (a : BitVec 6) (o : BitVec 6) : Statement (.sts d a o) := by
  intro _ p h
  cases h
  refine (show decodeInstr 323#9 (d ++ a ++ o) = .ok (.sts ((d ++ a ++ o).extractLsb' 12 6) ((d ++ a ++ o).extractLsb' 6 6) ((d ++ a ++ o).extractLsb' 0 6)) from rfl).trans ?_
  simp (disch := decide) only [-Nat.reduceAdd, field_low, field_high, BitVec.extractLsb'_eq_self, Nat.reduceSub, Nat.sub_self]

theorem ldv (d : BitVec 6) (a : BitVec 6) (o : BitVec 6) : Statement (.ldv d a o) := by
  intro _ p h
  cases h
  refine (show decodeInstr 324#9 (d ++ a ++ o) = .ok (.ldv ((d ++ a ++ o).extractLsb' 12 6) ((d ++ a ++ o).extractLsb' 6 6) ((d ++ a ++ o).extractLsb' 0 6)) from rfl).trans ?_
  simp (disch := decide) only [-Nat.reduceAdd, field_low, field_high, BitVec.extractLsb'_eq_self, Nat.reduceSub, Nat.sub_self]

theorem ldvChk (d : BitVec 6) (a : BitVec 6) (o : BitVec 6) : Statement (.ldvChk d a o) := by
  intro _ p h
  cases h
  refine (show decodeInstr 325#9 (d ++ a ++ o) = .ok (.ldvChk ((d ++ a ++ o).extractLsb' 12 6) ((d ++ a ++ o).extractLsb' 6 6) ((d ++ a ++ o).extractLsb' 0 6)) from rfl).trans ?_
  simp (disch := decide) only [-Nat.reduceAdd, field_low, field_high, BitVec.extractLsb'_eq_self, Nat.reduceSub, Nat.sub_self]

theorem stv (d : BitVec 6) (a : BitVec 6) (o : BitVec 6) : Statement (.stv d a o) := by
  intro _ p h
  cases h
  refine (show decodeInstr 326#9 (d ++ a ++ o) = .ok (.stv ((d ++ a ++ o).extractLsb' 12 6) ((d ++ a ++ o).extractLsb' 6 6) ((d ++ a ++ o).extractLsb' 0 6)) from rfl).trans ?_
  simp (disch := decide) only [-Nat.reduceAdd, field_low, field_high, BitVec.extractLsb'_eq_self, Nat.reduceSub, Nat.sub_self]

theorem ldvd (d : BitVec 6) (a : BitVec 6) (o : BitVec 6) : Statement (.ldvd d a o) := by
  intro _ p h
  cases h
  refine (show decodeInstr 327#9 (d ++ a ++ o) = .ok (.ldvd ((d ++ a ++ o).extractLsb' 12 6) ((d ++ a ++ o).extractLsb' 6 6) ((d ++ a ++ o).extractLsb' 0 6)) from rfl).trans ?_
  simp (disch := decide) only [-Nat.reduceAdd, field_low, field_high, BitVec.extractLsb'_eq_self, Nat.reduceSub, Nat.sub_self]

theorem ldvdChk (d : BitVec 6) (a : BitVec 6) (o : BitVec 6) : Statement (.ldvdChk d a o) := by
  intro _ p h
  cases h
  refine (show decodeInstr 328#9 (d ++ a ++ o) = .ok (.ldvdChk ((d ++ a ++ o).extractLsb' 12 6) ((d ++ a ++ o).extractLsb' 6 6) ((d ++ a ++ o).extractLsb' 0 6)) from rfl).trans ?_
  simp (disch := decide) only [-Nat.reduceAdd, field_low, field_high, BitVec.extractLsb'_eq_self, Nat.reduceSub, Nat.sub_self]

theorem stvd (d : BitVec 6) (a : BitVec 6) (o : BitVec 6) : Statement (.stvd d a o) := by
  intro _ p h
  cases h
  refine (show decodeInstr 329#9 (d ++ a ++ o) = .ok (.stvd ((d ++ a ++ o).extractLsb' 12 6) ((d ++ a ++ o).extractLsb' 6 6) ((d ++ a ++ o).extractLsb' 0 6)) from rfl).trans ?_
  simp (disch := decide) only [-Nat.reduceAdd, field_low, field_high, BitVec.extractLsb'_eq_self, Nat.reduceSub, Nat.sub_self]

theorem ldt (d : BitVec 6) (a : BitVec 6) (b : BitVec 6) : Statement (.ldt d a b) := by
  intro _ p h
  cases h
  refine (show decodeInstr 330#9 (d ++ a ++ b) = .ok (.ldt ((d ++ a ++ b).extractLsb' 12 6) ((d ++ a ++ b).extractLsb' 6 6) ((d ++ a ++ b).extractLsb' 0 6)) from rfl).trans ?_
  simp (disch := decide) only [-Nat.reduceAdd, field_low, field_high, BitVec.extractLsb'_eq_self, Nat.reduceSub, Nat.sub_self]

theorem ldtChk (d : BitVec 6) (a : BitVec 6) (b : BitVec 6) : Statement (.ldtChk d a b) := by
  intro _ p h
  cases h
  refine (show decodeInstr 331#9 (d ++ a ++ b) = .ok (.ldtChk ((d ++ a ++ b).extractLsb' 12 6) ((d ++ a ++ b).extractLsb' 6 6) ((d ++ a ++ b).extractLsb' 0 6)) from rfl).trans ?_
  simp (disch := decide) only [-Nat.reduceAdd, field_low, field_high, BitVec.extractLsb'_eq_self, Nat.reduceSub, Nat.sub_self]

theorem ldtm (d : BitVec 6) (a : BitVec 6) (b : BitVec 6) : Statement (.ldtm d a b) := by
  intro _ p h
  cases h
  refine (show decodeInstr 332#9 (d ++ a ++ b) = .ok (.ldtm ((d ++ a ++ b).extractLsb' 12 6) ((d ++ a ++ b).extractLsb' 6 6) ((d ++ a ++ b).extractLsb' 0 6)) from rfl).trans ?_
  simp (disch := decide) only [-Nat.reduceAdd, field_low, field_high, BitVec.extractLsb'_eq_self, Nat.reduceSub, Nat.sub_self]

theorem ldtmChk (d : BitVec 6) (a : BitVec 6) (b : BitVec 6) : Statement (.ldtmChk d a b) := by
  intro _ p h
  cases h
  refine (show decodeInstr 333#9 (d ++ a ++ b) = .ok (.ldtmChk ((d ++ a ++ b).extractLsb' 12 6) ((d ++ a ++ b).extractLsb' 6 6) ((d ++ a ++ b).extractLsb' 0 6)) from rfl).trans ?_
  simp (disch := decide) only [-Nat.reduceAdd, field_low, field_high, BitVec.extractLsb'_eq_self, Nat.reduceSub, Nat.sub_self]

theorem stt (d : BitVec 6) (a : BitVec 6) (b : BitVec 6) : Statement (.stt d a b) := by
  intro _ p h
  cases h
  refine (show decodeInstr 334#9 (d ++ a ++ b) = .ok (.stt ((d ++ a ++ b).extractLsb' 12 6) ((d ++ a ++ b).extractLsb' 6 6) ((d ++ a ++ b).extractLsb' 0 6)) from rfl).trans ?_
  simp (disch := decide) only [-Nat.reduceAdd, field_low, field_high, BitVec.extractLsb'_eq_self, Nat.reduceSub, Nat.sub_self]

theorem tap (d : BitVec 6) (r : BitVec 1) (l : BitVec 4) : Statement (.tap d r l) := by
  intro _ p h
  cases h
  refine (clear (reserved_8 d r l)).trans ?_
  simp (disch := decide) only [-Nat.reduceAdd, field_low, field_high, BitVec.extractLsb'_eq_self, Nat.reduceSub, Nat.sub_self]

theorem put (a : BitVec 6) (r : BitVec 1) (l : BitVec 4) : Statement (.put a r l) := by
  intro _ p h
  cases h
  refine (clear (reserved_9 a r l)).trans ?_
  simp (disch := decide) only [-Nat.reduceAdd, field_low, field_high, BitVec.extractLsb'_eq_self, Nat.reduceSub, Nat.sub_self]

theorem qpush (e : BitVec 1) (n : BitVec 1) (m : BitVec 2) (a : BitVec 6) : Statement (.qpush e n m a) := by
  intro _ p h
  cases h
  refine (clear (reserved_10 e n m a)).trans ?_
  simp (disch := decide) only [-Nat.reduceAdd, field_low, field_high, BitVec.extractLsb'_eq_self, Nat.reduceSub, Nat.sub_self]

theorem qpop (d : BitVec 6) (m : BitVec 3) : Statement (.qpop d m) := by
  intro _ p h
  cases h
  refine (clear (reserved_11 d m)).trans ?_
  simp (disch := decide) only [-Nat.reduceAdd, field_low, field_high, BitVec.extractLsb'_eq_self, Nat.reduceSub, Nat.sub_self]

theorem qsel (p : BitVec 3) : Statement (.qsel p) := by
  intro _ p h
  cases h
  refine (clear (reserved_12 p)).trans ?_
  simp (disch := decide) only [-Nat.reduceAdd, field_low, field_high, BitVec.extractLsb'_eq_self, Nat.reduceSub, Nat.sub_self]

theorem accld (d : BitVec 6) (a : BitVec 6) (o : BitVec 6) : Statement (.accld d a o) := by
  intro _ p h
  cases h
  refine (show decodeInstr 340#9 (d ++ a ++ o) = .ok (.accld ((d ++ a ++ o).extractLsb' 12 6) ((d ++ a ++ o).extractLsb' 6 6) ((d ++ a ++ o).extractLsb' 0 6)) from rfl).trans ?_
  simp (disch := decide) only [-Nat.reduceAdd, field_low, field_high, BitVec.extractLsb'_eq_self, Nat.reduceSub, Nat.sub_self]

theorem accldChk (d : BitVec 6) (a : BitVec 6) (o : BitVec 6) : Statement (.accldChk d a o) := by
  intro _ p h
  cases h
  refine (show decodeInstr 341#9 (d ++ a ++ o) = .ok (.accldChk ((d ++ a ++ o).extractLsb' 12 6) ((d ++ a ++ o).extractLsb' 6 6) ((d ++ a ++ o).extractLsb' 0 6)) from rfl).trans ?_
  simp (disch := decide) only [-Nat.reduceAdd, field_low, field_high, BitVec.extractLsb'_eq_self, Nat.reduceSub, Nat.sub_self]

theorem accst (d : BitVec 6) (a : BitVec 6) (o : BitVec 6) : Statement (.accst d a o) := by
  intro _ p h
  cases h
  refine (show decodeInstr 342#9 (d ++ a ++ o) = .ok (.accst ((d ++ a ++ o).extractLsb' 12 6) ((d ++ a ++ o).extractLsb' 6 6) ((d ++ a ++ o).extractLsb' 0 6)) from rfl).trans ?_
  simp (disch := decide) only [-Nat.reduceAdd, field_low, field_high, BitVec.extractLsb'_eq_self, Nat.reduceSub, Nat.sub_self]

theorem cube (t : BitVec 6) (a : BitVec 6) (b : BitVec 6) : Statement (.cube t a b) := by
  intro _ p h
  cases h
  refine (show decodeInstr 385#9 (t ++ a ++ b) = .ok (.cube ((t ++ a ++ b).extractLsb' 12 6) ((t ++ a ++ b).extractLsb' 6 6) ((t ++ a ++ b).extractLsb' 0 6)) from rfl).trans ?_
  simp (disch := decide) only [-Nat.reduceAdd, field_low, field_high, BitVec.extractLsb'_eq_self, Nat.reduceSub, Nat.sub_self]

theorem cubeh (t : BitVec 6) (a : BitVec 6) (b : BitVec 6) : Statement (.cubeh t a b) := by
  intro _ p h
  cases h
  refine (show decodeInstr 386#9 (t ++ a ++ b) = .ok (.cubeh ((t ++ a ++ b).extractLsb' 12 6) ((t ++ a ++ b).extractLsb' 6 6) ((t ++ a ++ b).extractLsb' 0 6)) from rfl).trans ?_
  simp (disch := decide) only [-Nat.reduceAdd, field_low, field_high, BitVec.extractLsb'_eq_self, Nat.reduceSub, Nat.sub_self]

theorem wld (t : BitVec 6) (a : BitVec 6) (b : BitVec 6) : Statement (.wld t a b) := by
  intro _ p h
  cases h
  refine (show decodeInstr 387#9 (t ++ a ++ b) = .ok (.wld ((t ++ a ++ b).extractLsb' 12 6) ((t ++ a ++ b).extractLsb' 6 6) ((t ++ a ++ b).extractLsb' 0 6)) from rfl).trans ?_
  simp (disch := decide) only [-Nat.reduceAdd, field_low, field_high, BitVec.extractLsb'_eq_self, Nat.reduceSub, Nat.sub_self]

theorem wldSp (t : BitVec 6) (a : BitVec 6) (b : BitVec 6) : Statement (.wldSp t a b) := by
  intro _ p h
  cases h
  refine (show decodeInstr 388#9 (t ++ a ++ b) = .ok (.wldSp ((t ++ a ++ b).extractLsb' 12 6) ((t ++ a ++ b).extractLsb' 6 6) ((t ++ a ++ b).extractLsb' 0 6)) from rfl).trans ?_
  simp (disch := decide) only [-Nat.reduceAdd, field_low, field_high, BitVec.extractLsb'_eq_self, Nat.reduceSub, Nat.sub_self]

theorem wswap (t : BitVec 6) (a : BitVec 6) (b : BitVec 6) : Statement (.wswap t a b) := by
  intro _ p h
  cases h
  refine (show decodeInstr 389#9 (t ++ a ++ b) = .ok (.wswap ((t ++ a ++ b).extractLsb' 12 6) ((t ++ a ++ b).extractLsb' 6 6) ((t ++ a ++ b).extractLsb' 0 6)) from rfl).trans ?_
  simp (disch := decide) only [-Nat.reduceAdd, field_low, field_high, BitVec.extractLsb'_eq_self, Nat.reduceSub, Nat.sub_self]

theorem lease (t : BitVec 6) (a : BitVec 6) : Statement (.lease t a) := by
  intro _ p h
  cases h
  refine (clear (reserved_1 t a)).trans ?_
  simp (disch := decide) only [-Nat.reduceAdd, field_low, field_high, BitVec.extractLsb'_eq_self, Nat.reduceSub, Nat.sub_self]

theorem unlease (t : BitVec 6) (a : BitVec 6) : Statement (.unlease t a) := by
  intro _ p h
  cases h
  refine (clear (reserved_1 t a)).trans ?_
  simp (disch := decide) only [-Nat.reduceAdd, field_low, field_high, BitVec.extractLsb'_eq_self, Nat.reduceSub, Nat.sub_self]

theorem copy (t : BitVec 6) (a : BitVec 6) (b : BitVec 6) : Statement (.copy t a b) := by
  intro _ p h
  cases h
  refine (show decodeInstr 392#9 (t ++ a ++ b) = .ok (.copy ((t ++ a ++ b).extractLsb' 12 6) ((t ++ a ++ b).extractLsb' 6 6) ((t ++ a ++ b).extractLsb' 0 6)) from rfl).trans ?_
  simp (disch := decide) only [-Nat.reduceAdd, field_low, field_high, BitVec.extractLsb'_eq_self, Nat.reduceSub, Nat.sub_self]

theorem ccopy (t : BitVec 6) (a : BitVec 6) (b : BitVec 6) : Statement (.ccopy t a b) := by
  intro _ p h
  cases h
  refine (show decodeInstr 393#9 (t ++ a ++ b) = .ok (.ccopy ((t ++ a ++ b).extractLsb' 12 6) ((t ++ a ++ b).extractLsb' 6 6) ((t ++ a ++ b).extractLsb' 0 6)) from rfl).trans ?_
  simp (disch := decide) only [-Nat.reduceAdd, field_low, field_high, BitVec.extractLsb'_eq_self, Nat.reduceSub, Nat.sub_self]

theorem layout (t : BitVec 6) (a : BitVec 6) (b : BitVec 6) : Statement (.layout t a b) := by
  intro _ p h
  cases h
  refine (show decodeInstr 394#9 (t ++ a ++ b) = .ok (.layout ((t ++ a ++ b).extractLsb' 12 6) ((t ++ a ++ b).extractLsb' 6 6) ((t ++ a ++ b).extractLsb' 0 6)) from rfl).trans ?_
  simp (disch := decide) only [-Nat.reduceAdd, field_low, field_high, BitVec.extractLsb'_eq_self, Nat.reduceSub, Nat.sub_self]

theorem scat (t : BitVec 6) (a : BitVec 6) (b : BitVec 6) : Statement (.scat t a b) := by
  intro _ p h
  cases h
  refine (show decodeInstr 395#9 (t ++ a ++ b) = .ok (.scat ((t ++ a ++ b).extractLsb' 12 6) ((t ++ a ++ b).extractLsb' 6 6) ((t ++ a ++ b).extractLsb' 0 6)) from rfl).trans ?_
  simp (disch := decide) only [-Nat.reduceAdd, field_low, field_high, BitVec.extractLsb'_eq_self, Nat.reduceSub, Nat.sub_self]

theorem nmred (t : BitVec 6) (a : BitVec 6) (b : BitVec 6) : Statement (.nmred t a b) := by
  intro _ p h
  cases h
  refine (show decodeInstr 396#9 (t ++ a ++ b) = .ok (.nmred ((t ++ a ++ b).extractLsb' 12 6) ((t ++ a ++ b).extractLsb' 6 6) ((t ++ a ++ b).extractLsb' 0 6)) from rfl).trans ?_
  simp (disch := decide) only [-Nat.reduceAdd, field_low, field_high, BitVec.extractLsb'_eq_self, Nat.reduceSub, Nat.sub_self]

theorem nmcas (t : BitVec 6) (a : BitVec 6) (b : BitVec 6) : Statement (.nmcas t a b) := by
  intro _ p h
  cases h
  refine (show decodeInstr 397#9 (t ++ a ++ b) = .ok (.nmcas ((t ++ a ++ b).extractLsb' 12 6) ((t ++ a ++ b).extractLsb' 6 6) ((t ++ a ++ b).extractLsb' 0 6)) from rfl).trans ?_
  simp (disch := decide) only [-Nat.reduceAdd, field_low, field_high, BitVec.extractLsb'_eq_self, Nat.reduceSub, Nat.sub_self]

theorem nmsac (t : BitVec 6) (a : BitVec 6) (b : BitVec 6) : Statement (.nmsac t a b) := by
  intro _ p h
  cases h
  refine (show decodeInstr 398#9 (t ++ a ++ b) = .ok (.nmsac ((t ++ a ++ b).extractLsb' 12 6) ((t ++ a ++ b).extractLsb' 6 6) ((t ++ a ++ b).extractLsb' 0 6)) from rfl).trans ?_
  simp (disch := decide) only [-Nat.reduceAdd, field_low, field_high, BitVec.extractLsb'_eq_self, Nat.reduceSub, Nat.sub_self]

theorem probe (t : BitVec 6) (a : BitVec 6) : Statement (.probe t a) := by
  intro _ p h
  cases h
  refine (clear (reserved_1 t a)).trans ?_
  simp (disch := decide) only [-Nat.reduceAdd, field_low, field_high, BitVec.extractLsb'_eq_self, Nat.reduceSub, Nat.sub_self]

theorem probeReq (t : BitVec 6) (a : BitVec 6) : Statement (.probeReq t a) := by
  intro _ p h
  cases h
  refine (clear (reserved_1 t a)).trans ?_
  simp (disch := decide) only [-Nat.reduceAdd, field_low, field_high, BitVec.extractLsb'_eq_self, Nat.reduceSub, Nat.sub_self]

theorem fsend (t : BitVec 6) (a : BitVec 6) (b : BitVec 6) : Statement (.fsend t a b) := by
  intro _ p h
  cases h
  refine (show decodeInstr 401#9 (t ++ a ++ b) = .ok (.fsend ((t ++ a ++ b).extractLsb' 12 6) ((t ++ a ++ b).extractLsb' 6 6) ((t ++ a ++ b).extractLsb' 0 6)) from rfl).trans ?_
  simp (disch := decide) only [-Nat.reduceAdd, field_low, field_high, BitVec.extractLsb'_eq_self, Nat.reduceSub, Nat.sub_self]

theorem frecv (t : BitVec 6) (a : BitVec 6) (b : BitVec 6) : Statement (.frecv t a b) := by
  intro _ p h
  cases h
  refine (show decodeInstr 402#9 (t ++ a ++ b) = .ok (.frecv ((t ++ a ++ b).extractLsb' 12 6) ((t ++ a ++ b).extractLsb' 6 6) ((t ++ a ++ b).extractLsb' 0 6)) from rfl).trans ?_
  simp (disch := decide) only [-Nat.reduceAdd, field_low, field_high, BitVec.extractLsb'_eq_self, Nat.reduceSub, Nat.sub_self]

theorem fld (t : BitVec 6) (a : BitVec 6) (b : BitVec 6) : Statement (.fld t a b) := by
  intro _ p h
  cases h
  refine (show decodeInstr 403#9 (t ++ a ++ b) = .ok (.fld ((t ++ a ++ b).extractLsb' 12 6) ((t ++ a ++ b).extractLsb' 6 6) ((t ++ a ++ b).extractLsb' 0 6)) from rfl).trans ?_
  simp (disch := decide) only [-Nat.reduceAdd, field_low, field_high, BitVec.extractLsb'_eq_self, Nat.reduceSub, Nat.sub_self]

theorem fst (t : BitVec 6) (a : BitVec 6) (b : BitVec 6) : Statement (.fst t a b) := by
  intro _ p h
  cases h
  refine (show decodeInstr 404#9 (t ++ a ++ b) = .ok (.fst ((t ++ a ++ b).extractLsb' 12 6) ((t ++ a ++ b).extractLsb' 6 6) ((t ++ a ++ b).extractLsb' 0 6)) from rfl).trans ?_
  simp (disch := decide) only [-Nat.reduceAdd, field_low, field_high, BitVec.extractLsb'_eq_self, Nat.reduceSub, Nat.sub_self]

theorem fatom (t : BitVec 6) (a : BitVec 6) (b : BitVec 6) : Statement (.fatom t a b) := by
  intro _ p h
  cases h
  refine (show decodeInstr 405#9 (t ++ a ++ b) = .ok (.fatom ((t ++ a ++ b).extractLsb' 12 6) ((t ++ a ++ b).extractLsb' 6 6) ((t ++ a ++ b).extractLsb' 0 6)) from rfl).trans ?_
  simp (disch := decide) only [-Nat.reduceAdd, field_low, field_high, BitVec.extractLsb'_eq_self, Nat.reduceSub, Nat.sub_self]

theorem coll (t : BitVec 6) (a : BitVec 6) (b : BitVec 6) : Statement (.coll t a b) := by
  intro _ p h
  cases h
  refine (show decodeInstr 406#9 (t ++ a ++ b) = .ok (.coll ((t ++ a ++ b).extractLsb' 12 6) ((t ++ a ++ b).extractLsb' 6 6) ((t ++ a ++ b).extractLsb' 0 6)) from rfl).trans ?_
  simp (disch := decide) only [-Nat.reduceAdd, field_low, field_high, BitVec.extractLsb'_eq_self, Nat.reduceSub, Nat.sub_self]

theorem sig (t : BitVec 6) (a : BitVec 6) (b : BitVec 6) : Statement (.sig t a b) := by
  intro _ p h
  cases h
  refine (show decodeInstr 407#9 (t ++ a ++ b) = .ok (.sig ((t ++ a ++ b).extractLsb' 12 6) ((t ++ a ++ b).extractLsb' 6 6) ((t ++ a ++ b).extractLsb' 0 6)) from rfl).trans ?_
  simp (disch := decide) only [-Nat.reduceAdd, field_low, field_high, BitVec.extractLsb'_eq_self, Nat.reduceSub, Nat.sub_self]

theorem launch (t : BitVec 6) (a : BitVec 6) : Statement (.launch t a) := by
  intro _ p h
  cases h
  refine (clear (reserved_1 t a)).trans ?_
  simp (disch := decide) only [-Nat.reduceAdd, field_low, field_high, BitVec.extractLsb'_eq_self, Nat.reduceSub, Nat.sub_self]

theorem hset (t : BitVec 6) (a : BitVec 6) : Statement (.hset t a) := by
  intro _ p h
  cases h
  refine (clear (reserved_1 t a)).trans ?_
  simp (disch := decide) only [-Nat.reduceAdd, field_low, field_high, BitVec.extractLsb'_eq_self, Nat.reduceSub, Nat.sub_self]

theorem deps (a : BitVec 6) (b : BitVec 6) (c : BitVec 6) : Statement (.deps a b c) := by
  intro _ p h
  cases h
  refine (show decodeInstr 449#9 (a ++ b ++ c) = .ok (.deps ((a ++ b ++ c).extractLsb' 12 6) ((a ++ b ++ c).extractLsb' 6 6) ((a ++ b ++ c).extractLsb' 0 6)) from rfl).trans ?_
  simp (disch := decide) only [-Nat.reduceAdd, field_low, field_high, BitVec.extractLsb'_eq_self, Nat.reduceSub, Nat.sub_self]

theorem pfx (i : BitVec 18) : Statement (.pfx i) := by
  intro _ p h
  cases h
  refine (show decodeInstr 450#9 (i) = .ok (.pfx ((i).extractLsb' 0 18)) from rfl).trans ?_
  simp (disch := decide) only [-Nat.reduceAdd, field_low, field_high, BitVec.extractLsb'_eq_self, Nat.reduceSub, Nat.sub_self]

theorem pfxG (n : BitVec 1) (p : BitVec 3) : Statement (.pfxG n p) := by
  intro _ p h
  cases h
  refine (clear (reserved_13 n p)).trans ?_
  simp (disch := decide) only [-Nat.reduceAdd, field_low, field_high, BitVec.extractLsb'_eq_self, Nat.reduceSub, Nat.sub_self]

theorem mfc (d : BitVec 6) (r : BitVec 12) : Statement (.mfc d r) := by
  intro _ p h
  cases h
  refine (show decodeInstr 452#9 (d ++ r) = .ok (.mfc ((d ++ r).extractLsb' 12 6) ((d ++ r).extractLsb' 0 12)) from rfl).trans ?_
  simp (disch := decide) only [-Nat.reduceAdd, field_low, field_high, BitVec.extractLsb'_eq_self, Nat.reduceSub, Nat.sub_self]

theorem mtc (a : BitVec 6) (r : BitVec 12) : Statement (.mtc a r) := by
  intro hw p h
  cases h
  have e : decodeInstr 453#9 (a ++ r) = decodeMtc ((a ++ r).extractLsb' 12 6) ((a ++ r).extractLsb' 0 12) := rfl
  have ha : (a ++ r).extractLsb' 12 6 = a := by simp (disch := decide) only [-Nat.reduceAdd, field_low, field_high, BitVec.extractLsb'_eq_self, Nat.reduceSub, Nat.sub_self]
  have hr : (a ++ r).extractLsb' 0 12 = r := by simp (disch := decide) only [-Nat.reduceAdd, field_low, field_high, BitVec.extractLsb'_eq_self, Nat.reduceSub, Nat.sub_self]
  rw [e, ha, hr]
  exact genericMtc a r hw

theorem mtcMbxst (a : BitVec 6) : Statement (.mtcMbxst a) := by
  intro _ p h
  cases h
  have e : decodeInstr 453#9 (a ++ 151#12) = decodeMtc ((a ++ 151#12).extractLsb' 12 6) ((a ++ 151#12).extractLsb' 0 12) := rfl
  have ha : (a ++ 151#12).extractLsb' 12 6 = a := by simp (disch := decide) only [-Nat.reduceAdd, field_low, field_high, BitVec.extractLsb'_eq_self, Nat.reduceSub, Nat.sub_self]
  have hr : (a ++ 151#12).extractLsb' 0 12 = 151#12 := by simp (disch := decide) only [-Nat.reduceAdd, field_low, field_high, BitVec.extractLsb'_eq_self, Nat.reduceSub, Nat.sub_self]
  rw [e, ha, hr]
  rfl

theorem mtcQv (a : BitVec 6) (m : BitVec 2) : Statement (.mtcQv a m) := by
  intro _ p h
  cases h
  have e : decodeInstr 453#9 (a ++ 38#10 ++ m) =
      decodeMtc ((a ++ 38#10 ++ m).extractLsb' 12 6) ((a ++ 38#10 ++ m).extractLsb' 0 12) := rfl
  have ha : (a ++ 38#10 ++ m).extractLsb' 12 6 = a := by simp (disch := decide) only [-Nat.reduceAdd, field_low, field_high, BitVec.extractLsb'_eq_self, Nat.reduceSub, Nat.sub_self]
  have hr : (a ++ 38#10 ++ m).extractLsb' 0 12 = 38#10 ++ m := lowPair_10 a 38#10 m
  rw [e, ha, hr]
  exact mtcGroup_mtcQv a m

theorem mtcTcfg (a : BitVec 6) (n : BitVec 5) : Statement (.mtcTcfg a n) := by
  intro _ p h
  cases h
  have e : decodeInstr 453#9 (a ++ 5#7 ++ n) =
      decodeMtc ((a ++ 5#7 ++ n).extractLsb' 12 6) ((a ++ 5#7 ++ n).extractLsb' 0 12) := rfl
  have ha : (a ++ 5#7 ++ n).extractLsb' 12 6 = a := by simp (disch := decide) only [-Nat.reduceAdd, field_low, field_high, BitVec.extractLsb'_eq_self, Nat.reduceSub, Nat.sub_self]
  have hr : (a ++ 5#7 ++ n).extractLsb' 0 12 = 5#7 ++ n := lowPair_7 a 5#7 n
  rw [e, ha, hr]
  exact mtcGroup_mtcTcfg a n

theorem mtcAcfg (a : BitVec 6) (n : BitVec 4) : Statement (.mtcAcfg a n) := by
  intro _ p h
  cases h
  have e : decodeInstr 453#9 (a ++ 12#8 ++ n) =
      decodeMtc ((a ++ 12#8 ++ n).extractLsb' 12 6) ((a ++ 12#8 ++ n).extractLsb' 0 12) := rfl
  have ha : (a ++ 12#8 ++ n).extractLsb' 12 6 = a := by simp (disch := decide) only [-Nat.reduceAdd, field_low, field_high, BitVec.extractLsb'_eq_self, Nat.reduceSub, Nat.sub_self]
  have hr : (a ++ 12#8 ++ n).extractLsb' 0 12 = 12#8 ++ n := lowPair_8 a 12#8 n
  rw [e, ha, hr]
  exact mtcGroup_mtcAcfg a n

theorem fence (e : BitVec 2) : Statement (.fence e) := by
  intro _ p h
  cases h
  refine (clear (reserved_14 e)).trans ?_
  simp (disch := decide) only [-Nat.reduceAdd, field_low, field_high, BitVec.extractLsb'_eq_self, Nat.reduceSub, Nat.sub_self]

theorem trap (i : BitVec 18) : Statement (.trap i) := by
  intro _ p h
  cases h
  refine (show decodeInstr 455#9 (i) = .ok (.trap ((i).extractLsb' 0 18)) from rfl).trans ?_
  simp (disch := decide) only [-Nat.reduceAdd, field_low, field_high, BitVec.extractLsb'_eq_self, Nat.reduceSub, Nat.sub_self]

theorem tshoot (t : BitVec 6) (a : BitVec 6) : Statement (.tshoot t a) := by
  intro _ p h
  cases h
  refine (clear (reserved_1 t a)).trans ?_
  simp (disch := decide) only [-Nat.reduceAdd, field_low, field_high, BitVec.extractLsb'_eq_self, Nat.reduceSub, Nat.sub_self]

theorem timedRdvDeadline (team : Nat) : Statement (.timedRdvDeadline team) := noWord rfl

theorem waitRelease (team : Nat) (strand : Nat) : Statement (.waitRelease team strand) := noWord rfl

theorem engineCommandStart (cmd : Nat) : Statement (.engineCommandStart cmd) := noWord rfl

theorem engineStep (cmd : Nat) : Statement (.engineStep cmd) := noWord rfl

theorem engineCommandComplete (cmd : Nat) : Statement (.engineCommandComplete cmd) := noWord rfl

theorem cubeCommandStart (cmd : Nat) : Statement (.cubeCommandStart cmd) := noWord rfl

theorem cubeStepFeed (cmd : Nat) : Statement (.cubeStepFeed cmd) := noWord rfl

theorem cubeStepCommit (cmd : Nat) : Statement (.cubeStepCommit cmd) := noWord rfl

theorem wldComplete (cmd : Nat) : Statement (.wldComplete cmd) := noWord rfl

theorem auditReplayComplete (tower : Nat) (row : Nat) (flip : BitVec 128) : Statement (.auditReplayComplete tower row flip) := noWord rfl

theorem auditSecondReplayComplete (tower : Nat) (flip : BitVec 128) : Statement (.auditSecondReplayComplete tower flip) := noWord rfl

theorem hsetTakeEffect (cmd : Nat) : Statement (.hsetTakeEffect cmd) := noWord rfl

theorem collBucketStart (cmd : Nat) (bucket : Nat) : Statement (.collBucketStart cmd bucket) := noWord rfl

theorem collBucketComplete (cmd : Nat) (bucket : Nat) : Statement (.collBucketComplete cmd bucket) := noWord rfl

theorem collectiveRequest (r : UntimedRequest) : Statement (.collectiveRequest r) := noWord rfl

theorem qvViewRead (team : Nat) (strand : Nat) (slot : Nat) : Statement (.qvViewRead team strand slot) := noWord rfl

theorem dqEntryArrive (team : Nat) (strand : Nat) : Statement (.dqEntryArrive team strand) := noWord rfl

theorem strandRetire (team : Nat) (strand : Nat) : Statement (.strandRetire team strand) := noWord rfl

theorem nopPacket (ctx : Nat) (queue : Nat) : Statement (.nopPacket ctx queue) := noWord rfl

theorem launchPacket (ctx : Nat) (queue : Nat) : Statement (.launchPacket ctx queue) := noWord rfl

theorem copyPacket (ctx : Nat) (queue : Nat) : Statement (.copyPacket ctx queue) := noWord rfl

theorem layoutPacket (ctx : Nat) (queue : Nat) : Statement (.layoutPacket ctx queue) := noWord rfl

theorem signalPacket (ctx : Nat) (queue : Nat) : Statement (.signalPacket ctx queue) := noWord rfl

theorem waitPacket (ctx : Nat) (queue : Nat) : Statement (.waitPacket ctx queue) := noWord rfl

theorem waitPacketSatisfied (ctx : Nat) (queue : Nat) : Statement (.waitPacketSatisfied ctx queue) := noWord rfl

theorem preemptPacket (ctx : Nat) (queue : Nat) : Statement (.preemptPacket ctx queue) := noWord rfl

theorem resumePacket (ctx : Nat) (queue : Nat) : Statement (.resumePacket ctx queue) := noWord rfl

theorem resumeFrozenTeam (ctx : Nat) (queue : Nat) : Statement (.resumeFrozenTeam ctx queue) := noWord rfl

theorem discardFrozenTeam (ctx : Nat) (queue : Nat) : Statement (.discardFrozenTeam ctx queue) := noWord rfl

theorem fencePacket (ctx : Nat) (queue : Nat) : Statement (.fencePacket ctx queue) := noWord rfl

theorem fencePacketComplete (ctx : Nat) (queue : Nat) : Statement (.fencePacketComplete ctx queue) := noWord rfl

theorem pendingLaunchTake (core : Nat) : Statement (.pendingLaunchTake core) := noWord rfl

theorem teamAdmit (grid : Nat) : Statement (.teamAdmit grid) := noWord rfl

theorem gridDue (grid : Nat) : Statement (.gridDue grid) := noWord rfl

theorem quantumExpiry (team : Nat) : Statement (.quantumExpiry team) := noWord rfl

theorem swapOut (team : Nat) (strand : Nat) : Statement (.swapOut team strand) := noWord rfl

theorem swappedCounterReached (team : Nat) : Statement (.swappedCounterReached team) := noWord rfl

theorem preemptStop (team : Nat) : Statement (.preemptStop team) := noWord rfl

theorem teamSave (team : Nat) : Statement (.teamSave team) := noWord rfl

theorem teamResume (team : Nat) : Statement (.teamResume team) := noWord rfl

theorem leaseBudgetExpiry (team : Nat) (claim : Nat) : Statement (.leaseBudgetExpiry team claim) := noWord rfl

theorem leaseGrant (team : Nat) (claim : Nat) : Statement (.leaseGrant team claim) := noWord rfl

theorem leaseReplayComplete (team : Nat) (claim : Nat) : Statement (.leaseReplayComplete team claim) := noWord rfl

theorem shortPageDeadline (page : Nat) : Statement (.shortPageDeadline page) := noWord rfl

theorem hotBandEnter (stack : Nat) : Statement (.hotBandEnter stack) := noWord rfl

theorem normalBandReturn (stack : Nat) : Statement (.normalBandReturn stack) := noWord rfl

theorem uncorrectableError (site : ErrorSite) : Statement (.uncorrectableError site) := noWord rfl

theorem timedArrival (a : Arrival) : Statement (.timedArrival a) := noWord rfl

theorem relayForward (port : Nat) : Statement (.relayForward port) := noWord rfl

theorem frecvKeyExpiry (cmd : Nat) : Statement (.frecvKeyExpiry cmd) := noWord rfl

theorem fsendTurnEnd (cmd : Nat) : Statement (.fsendTurnEnd cmd) := noWord rfl

theorem beacon (dev : Nat) (port : Nat) (sent : Nat) (inc : BitVec 16) : Statement (.beacon dev port sent inc) := noWord rfl

theorem linkControlFlit (port : Nat) (link : Nat) (ack : LinkAck) : Statement (.linkControlFlit port link ack) := noWord rfl

theorem linkFailure (port : Nat) (link : Nat) : Statement (.linkFailure port link) := noWord rfl

theorem untimedReadRequest (r : UntimedRequest) : Statement (.untimedReadRequest r) := noWord rfl

theorem untimedWriteRequest (r : UntimedRequest) : Statement (.untimedWriteRequest r) := noWord rfl

theorem untimedAtomicRequest (r : UntimedRequest) : Statement (.untimedAtomicRequest r) := noWord rfl

theorem untimedResponse (r : UntimedReply) : Statement (.untimedResponse r) := noWord rfl

theorem barrierRequest (h : MessageHead) (ctx : Nat) (group : Nat) (count : Nat) : Statement (.barrierRequest h ctx group count) := noWord rfl

theorem untimedTimeout (req : Nat) (replaying : Bool) : Statement (.untimedTimeout req replaying) := noWord rfl

theorem peerIncarnationChange (dev : Nat) (inc : BitVec 16) : Statement (.peerIncarnationChange dev inc) := noWord rfl

theorem gridDiscard (grid : Nat) : Statement (.gridDiscard grid) := noWord rfl

theorem faultQueueRoom (ctx : Nat) : Statement (.faultQueueRoom ctx) := noWord rfl

theorem thermalTrip (sensor : Nat) (temp : Nat) : Statement (.thermalTrip sensor temp) := noWord rfl

theorem towerOnline (tower : Nat) : Statement (.towerOnline tower) := noWord rfl

theorem governorEvaluate (tower : Nat) (tmax : Nat) (overPower : Bool) : Statement (.governorEvaluate tower tmax overPower) := noWord rfl

theorem govstepDeferredRise (tower : Nat) : Statement (.govstepDeferredRise tower) := noWord rfl

theorem rdmaWrite (r : RdmaRequest) : Statement (.rdmaWrite r) := noWord rfl

theorem rdmaRead (r : RdmaRequest) : Statement (.rdmaRead r) := noWord rfl

theorem atomicFetchAdd (r : RdmaRequest) : Statement (.atomicFetchAdd r) := noWord rfl

theorem atomicCmpSwap (r : RdmaRequest) : Statement (.atomicCmpSwap r) := noWord rfl

theorem createContext (c : ContextSpec) : Statement (.createContext c) := noWord rfl

theorem destroyContext (ctx : Nat) : Statement (.destroyContext ctx) := noWord rfl

theorem contextDestroyDrained (ctx : Nat) : Statement (.contextDestroyDrained ctx) := noWord rfl

theorem createKeys (ctx : Nat) (keys : BitVec 16) : Statement (.createKeys ctx keys) := noWord rfl

theorem bindQueuePair (qp : Nat) (ctx : Nat) : Statement (.bindQueuePair qp ctx) := noWord rfl

theorem setExportTable (ctx : Nat) (table : BitVec 64) (windows : Nat) : Statement (.setExportTable ctx table windows) := noWord rfl

theorem nameTimedOwner (owner : Option Nat) : Statement (.nameTimedOwner owner) := noWord rfl

theorem reserveTimedChannels (ctx : Nat) (stack : Nat) (groups : BitVec 24) : Statement (.reserveTimedChannels ctx stack groups) := noWord rfl

theorem setAuditn (ctx : Nat) (value : BitVec 6) : Statement (.setAuditn ctx value) := noWord rfl

theorem setSamplingInterval (n : Nat) : Statement (.setSamplingInterval n) := noWord rfl

theorem joinDomain (devid : Nat) (qlog : Nat) (flight : List Nat) : Statement (.joinDomain devid qlog flight) := noWord rfl

theorem acknowledgeJobRecords (rseq : Nat) : Statement (.acknowledgeJobRecords rseq) := noWord rfl

theorem jobRecordResend (rseq : Nat) : Statement (.jobRecordResend rseq) := noWord rfl

theorem quote (nonce : BitVec 256) : Statement (.quote nonce) := noWord rfl

theorem jobRecordEmit (grid : Nat) : Statement (.jobRecordEmit grid) := noWord rfl

theorem streamsLoaded (team : Nat) : Statement (.streamsLoaded team) := noWord rfl

theorem gridPriorityRise (grid : Nat) : Statement (.gridPriorityRise grid) := noWord rfl

theorem untimedRelayForward (r : RelayedFlits) : Statement (.untimedRelayForward r) := noWord rfl

theorem fsendFlitDeparture (cmd : Nat) : Statement (.fsendFlitDeparture cmd) := noWord rfl

theorem roceInvalidRequest (r : RdmaRequest) : Statement (.roceInvalidRequest r) := noWord rfl

theorem paced : Statement (.paced) := by
  intro _ p h
  cases h
  exact clear (reserved_15)

theorem endStrand : Statement (.endStrand) := by
  intro _ p h
  cases h
  exact clear (reserved_15)

theorem yield : Statement (.yield) := by
  intro _ p h
  cases h
  exact clear (reserved_15)

theorem minv : Statement (.minv) := by
  intro _ p h
  cases h
  exact clear (reserved_15)

theorem mpop : Statement (.mpop) := by
  intro _ p h
  cases h
  exact clear (reserved_15)

theorem nop : Statement (.nop) := by
  intro _ p h
  cases h
  exact clear (reserved_15)

theorem audit : Statement (.audit) := by
  intro _ p h
  cases h
  exact clear (reserved_15)

theorem viewj : Statement (.viewj) := by
  intro _ p h
  cases h
  exact clear (reserved_15)

theorem samplingIntervalEnd : Statement (.samplingIntervalEnd) := noWord rfl

theorem migrationCopyComplete : Statement (.migrationCopyComplete) := noWord rfl

theorem migrationShootComplete : Statement (.migrationShootComplete) := noWord rfl

theorem roundEnd : Statement (.roundEnd) := noWord rfl

theorem timedOwnerCutover : Statement (.timedOwnerCutover) := noWord rfl

theorem coolantFlowLow : Statement (.coolantFlowLow) := noWord rfl

theorem deviceReset : Statement (.deviceReset) := noWord rfl

theorem leaveDomain : Statement (.leaveDomain) := noWord rfl

theorem statusRequest : Statement (.statusRequest) := noWord rfl

theorem coolantFlowRestored : Statement (.coolantFlowRestored) := noWord rfl

theorem identityQuery : Statement (.identityQuery) := noWord rfl

end Sys2Proof.Laws.Words
end

