-- ==== Sys2Proof/Machine/Assembly.lean ====
section
/-! DEFINITION. The assembler `dwas` (R336 to R342), from source lines cut into slots to the bytes of an image: comments and the parts of a
bundle, numbers and expressions, prefixes, padding and idle counts, the tracking of team cycles, the lengths of timed sections, the errors it
reports, and the image header. How a slot's text names its instruction is each instruction's own entry, so a slot stands here as an
instruction with its guard, its tokens and the value of its immediate (log 71). -/

namespace Sys2Proof.Machine

/-- What `dwas` reports in place of an image. -/
inductive AsmError where
  /-- an immediate does not fit R320 at all, or stands where none may -/
  | immediate
  /-- a bundle would fault at decode (R341) -/
  | decode
  /-- an idle count that the version in force cannot carry (R337) -/
  | idle
  /-- `.cy N` with N not after the bundle before, or with the team cycle unknown (R340) -/
  | cycle
  /-- BR, JAL or JIND in timed code (R341) -/
  | branchInTimed
  /-- a timed section that cannot be measured, in an image without `.tlen` (R340) -/
  | unmeasured
  /-- a symbol that stands for no value, such as a label of another stream, or a division by zero -/
  | symbol
  /-- no image, no stream, or a stream or value beyond its range (R339, R342) -/
  | directive
  deriving DecidableEq, Repr

/-! ### Source lines (R336) -/

/-- A source line without its comment. -/
def stripComment : List Char → List Char
  | [] => []
  | ';' :: _ => []
  | '/' :: '/' :: _ => []
  | c :: l => c :: stripComment l

/-- The slots of a line, parted at every `|` that stands in no parentheses: the depth, and the slot read so far in reverse. -/
def splitSlots : List Char → Nat → List Char → List (List Char)
  | [], _, acc => [acc.reverse]
  | c :: l, depth, acc =>
    if c == '|' && depth == 0 then acc.reverse :: splitSlots l 0 []
    else splitSlots l (if c == '(' then depth + 1 else if c == ')' then depth - 1 else depth) (c :: acc)

/-- Whether a name may be a label or a symbol by its characters. -/
def symbolOk (l : List Char) : Bool :=
  match l with
  | c :: r => (c.isAlpha || c == '_') && r.all fun x => x.isAlphanum || x == '_' || x == '.'
  | [] => false

/-! ### Immediates (R338) -/

/-- The value of a digit in a base. -/
def digitOf (base : Nat) (c : Char) : Option Nat :=
  let v := if c.isDigit then c.toNat - 48 else if 'a' ≤ c && c ≤ 'f' then c.toNat - 87 else if 'A' ≤ c && c ≤ 'F' then c.toNat - 55 else 16
  if v < base then some v else none

/-- The number of digits, with `_` between them. -/
def digitsValue (base : Nat) : List Char → Nat → Option Nat
  | [], v => some v
  | '_' :: l, v => digitsValue base l v
  | c :: l, v => match digitOf base c with
    | some d => digitsValue base l (base * v + d)
    | none => none

/-- A number in decimal, with 0x or with 0b. -/
def numberValue (l : List Char) : Option Nat :=
  match l with
  | [] => none
  | '0' :: 'x' :: d :: r => digitsValue 16 (d :: r) 0
  | '0' :: 'b' :: d :: r => digitsValue 2 (d :: r) 0
  | d :: r => if d.isDigit then digitsValue 10 (d :: r) 0 else none

/-- An expression: numbers, symbols and the operators of R338. -/
inductive AsmExpr where
  | num (n : Nat)
  | sym (name : String)
  | neg (a : AsmExpr)
  | add (a b : AsmExpr)
  | sub (a b : AsmExpr)
  | mul (a b : AsmExpr)
  | div (a b : AsmExpr)
  | shl (a b : AsmExpr)
  | shr (a b : AsmExpr)
  | and (a b : AsmExpr)
  | or (a b : AsmExpr)
  deriving DecidableEq, Repr

/-- The value of an expression in 64-bit two's complement; the operators are those of R9 on signed operands. -/
def AsmExpr.eval (symbols : List (String × Word)) : AsmExpr → Except AsmError Word
  | .num n => .ok (BitVec.ofNat 64 n)
  | .sym x => match symbols.find? (·.1 == x) with
    | some e => .ok e.2
    | none => .error .symbol
  | .neg a => do return -(← a.eval symbols)
  | .add a b => do return (← a.eval symbols) + (← b.eval symbols)
  | .sub a b => do return (← a.eval symbols) - (← b.eval symbols)
  | .mul a b => do return (← a.eval symbols) * (← b.eval symbols)
  | .div a b => do
    let x ← a.eval symbols
    let y ← b.eval symbols
    if y = 0 then .error .symbol else return x.sdiv y
  | .shl a b => do return (← a.eval symbols) <<< (← b.eval symbols).toNat
  | .shr a b => do return (← a.eval symbols).sshiftRight (← b.eval symbols).toNat
  | .and a b => do return (← a.eval symbols) &&& (← b.eval symbols)
  | .or a b => do return (← a.eval symbols) ||| (← b.eval symbols)

/-! ### Slots and prefixes (R318 to R320, R336) -/

/-- The own immediate field of a slot (R320): its lowest bit and width, and whether it is signed without prefixes and with them. -/
def ownField (w : BitVec 32) : Option (Nat × Nat × Bool × Bool) :=
  if !extensible w then none
  else match wordClass w, wordOp w with
    | 0, op => if op = 29 then some (0, 12, true, true) else if op = 30 then some (0, 12, false, false) else some (0, 6, true, true)
    | 1, op =>
      if op = 1 then some (0, 14, true, true) else if op = 2 then some (0, 12, true, true)
      else if op = 5 then some (12, 6, false, false) else some (0, 18, false, false)
    | _, _ => some (0, 6, false, true)

/-- Whether a value fits a field of `w` bits. -/
def fitsField (v : Word) (w : Nat) (isSigned : Bool) : Bool :=
  if isSigned then -(2 ^ (w - 1) : Int) ≤ v.toInt && v.toInt < 2 ^ (w - 1) else v.toNat < 2 ^ w

/-- The values of the prefixes and the own field that build an immediate: no prefix where it fits the own field, else the fewest. -/
def cutImmediate (v : Word) (w : Nat) (plain wide : Bool) : Except AsmError (List Nat × Nat) :=
  let own := v.toNat % 2 ^ w
  let pfx (k : Nat) : Nat := v.toNat / 2 ^ (w + 18 * k) % 2 ^ 18
  if fitsField v w plain then .ok ([], own)
  else if fitsField v (w + 18) wide then .ok ([pfx 0], own)
  else if fitsField v (w + 36) wide then .ok ([pfx 1, pfx 0], own)
  else .error .immediate

/-- A slot of the source: a guard, the tokens of a DEPS before it, the instruction, and the value of an extensible immediate, which replaces
the own field of the instruction. -/
structure SourceSlot where
  guard : Option (Bool × BitVec 3)
  deps : Option (BitVec 6 × BitVec 6 × BitVec 6)
  op : Instr
  imm : Option Word
  deriving DecidableEq, Repr

/-- The word of an instruction with VER, S and SC at zero. -/
def plainWord (i : Instr) : Except AsmError (BitVec 32) :=
  match encode i with
  | some w => .ok w
  | none => .error .decode

/-- The prefixes of an immediate, and the slot's word with its own field filled in. -/
def fillImmediate (w : BitVec 32) (v : Word) : Except AsmError (List Nat × BitVec 32) :=
  match ownField w with
  | none => .error .immediate
  | some (lo, width, plain, wide) =>
    match cutImmediate v width plain wide with
    | .error e => .error e
    | .ok (l, own) => .ok (l, w &&& ~~~((BitVec.ofNat 32 (2 ^ width - 1)) <<< lo) ||| (BitVec.ofNat 32 own) <<< lo)

/-- The words of a slot, its prefixes directly before it: PFX.g, then PFX, then DEPS. A format-G or GR slot carries its guard itself. -/
def slotWords (x : SourceSlot) : Except AsmError (List (BitVec 32)) := do
  let w ← plainWord x.op
  let (ks, w) ← (match x.imm with
    | none => .ok ([], w)
    | some v => fillImmediate w v)
  let g ← (match x.guard with
    | none => .ok []
    | some (n, p) => (plainWord (.pfxG (BitVec.ofBool n) p)).map ([·]))
  let ps ← ks.mapM fun v => plainWord (.pfx (BitVec.ofNat 18 v))
  let d ← (match x.deps with
    | none => .ok []
    | some (a, b, c) => (plainWord (.deps a b c)).map ([·]))
  return g ++ ps ++ d ++ [w]

/-! ### Bundles and idle counts (R336, R337) -/

/-- The encoding choice in force. -/
inductive VerChoice where
  | zero | one | auto
  deriving DecidableEq, Repr

/-- The SC fields and VER of the slots of a bundle, with S on the last. -/
def stamp (ver : BitVec 2) (sc : Nat) (ws : List (BitVec 32)) : List (BitVec 32) :=
  ws.zipIdx.map fun e =>
    let last := e.2 + 1 == ws.length
    BitVec.ofBool last ++ ver ++ e.1.extractLsb' 20 9 ++ BitVec.ofNat 2 (sc / 4 ^ (ws.length - 1 - e.2)) ++ e.1.extractLsb' 0 18

/-- The word of a NOP. -/
def nopWord : BitVec 32 := 0x1C00_0000#32

/-- A bundle padded with NOPs to at least 4 slots, and on until `sc` fits the SC fields of 8 slots at most. -/
def padBundle (ws : List (BitVec 32)) (sc : Nat) : Option (List (BitVec 32)) :=
  ((List.range 9).filter fun n => 4 ≤ n && ws.length ≤ n && sc < 4 ^ n).head?.map fun n => ws ++ List.replicate (n - ws.length) nopWord

/-- One bundle under a version, its count in units of that version. -/
def oneBundle (ver : BitVec 2) (ws : List (BitVec 32)) (sc : Nat) : Except AsmError (List (List (BitVec 32))) :=
  match padBundle ws sc with
  | some l => .ok [stamp ver sc l]
  | none => .error .idle

/-- A bundle with an idle count, and the bundle of NOPs that the automatic choice adds where neither version alone carries the count. -/
def encodeBundle (v : VerChoice) (ws : List (BitVec 32)) (idle : Nat) : Except AsmError (List (List (BitVec 32))) :=
  match v with
  | .zero => oneBundle 0 ws idle
  | .one => if idle % 16 = 0 then oneBundle 1 ws (idle / 16) else .error .idle
  | .auto =>
    if idle ≤ 65535 then oneBundle 0 ws idle
    else if idle % 16 = 0 then oneBundle 1 ws (idle / 16)
    else do
      let a ← oneBundle 1 ws (idle / 16 - 1)
      let b ← oneBundle 0 (List.replicate 4 nopWord) (idle % 16 + 16 - 1)
      return a ++ b

/-! ### Team cycles (R340) -/

/-- A bundle of the source: its slots, and the `.cy` that stands before it. -/
structure SourceBundle where
  slots : List SourceSlot
  cy : Option Nat
  ver : VerChoice
  deriving DecidableEq, Repr

/-- What an instruction does to the tracking of team cycles. -/
inductive CycleEffect where
  | none
  | fixed (v : Nat)
  | lost
  deriving DecidableEq, Repr

/-- The effect of a slot on the team cycle of the next bundle (R340): a TIMED with an immediate fixes it, and after a LOOP, a TIMED naming a
register, a PACED or a branch it is unknown. -/
def SourceSlot.cycleEffect (x : SourceSlot) : CycleEffect :=
  match x.op with
  | .timedImm v => .fixed ((x.imm.map BitVec.toNat).getD v.toNat)
  | .timedReg _ | .loop _ _ | .paced | .br _ _ _ | .jal _ _ | .jind _ _ _ _ => .lost
  | _ => .none

/-- The effect of a bundle's slots together. -/
def bundleEffect (l : List SourceSlot) : CycleEffect :=
  l.foldl (fun e x => match x.cycleEffect with | .none => e | y => y) .none

/-- The idle counts of a stream's bundles and their team cycles, where known: `at_` is the team cycle of the next bundle. A `.cy` on the next
bundle sets the count of this one. -/
def trackCycles : List SourceBundle → Option Nat → Except AsmError (List (Nat × Option Nat))
  | [], _ => .ok []
  | b :: l, at_ =>
    let next := (l.head?).bind (·.cy)
    match bundleEffect b.slots, next, at_ with
    | .fixed v, some n, _ => if n = v then do return (0, at_) :: (← trackCycles l (some v)) else .error .cycle
    | .fixed v, none, _ => do return (0, at_) :: (← trackCycles l (some v))
    | _, some n, some c => if c < n then do return (n - c - 1, at_) :: (← trackCycles l (some n)) else .error .cycle
    | _, some _, none => .error .cycle
    | .lost, none, _ => do return (0, at_) :: (← trackCycles l none)
    | .none, none, _ => do return (0, at_) :: (← trackCycles l (at_.map (· + 1)))

/-- The idle counts of a stream: a `.cy` before the first bundle declares its team cycle. -/
def streamCycles (l : List SourceBundle) : Except AsmError (List (Nat × Option Nat)) := trackCycles l ((l.head?).bind (·.cy))

/-! ### Timed code (R340, R341) -/

/-- A bundle of a stream's course, loops of known count unrolled: its issue cycle relative to any start, whether it is in timed code, and the
latest start of a cube command or weight load it issues (R192). -/
structure CourseBundle where
  cycle : Nat
  timed : Bool
  entersTimed : Bool
  yields : Bool
  closes : Bool
  lastStart : Option Nat
  deriving DecidableEq, Repr

/-- The longest timed section less one: the open section's beginning and latest cycle, and the longest so far. -/
def longestSection : List CourseBundle → Option (Nat × Nat) → Nat → Nat
  | [], _, m => m
  | b :: l, open_, m =>
    let reach (e : Nat) : Nat := max (max e b.cycle) (b.lastStart.getD 0)
    let m' := match open_ with
      | some (s, e) => if b.closes then max m (reach e - s) else m
      | none => m
    let open' := if b.yields && b.timed then some (b.cycle, reach 0)
      else if b.closes then none
      else match open_ with
        | some (s, e) => some (s, reach e)
        | none => if b.entersTimed then ((l.head?).map fun n => (n.cycle, 0)) else none
    longestSection l open' m'

/-- TLENM1 of an image (R340): the longest section of its streams, and for a section that cannot be measured the length `.tlen` gives. -/
def imageTlenm1 (courses : List (List CourseBundle)) (unmeasured : Bool) (tlen : Option Nat) : Except AsmError Nat :=
  let m := courses.foldl (fun m c => max m (longestSection c none 0)) 0
  if !unmeasured then .ok m
  else match tlen with
    | some n => if 1 ≤ n && n ≤ 2 ^ 24 then .ok (max m (n - 1)) else .error .directive
    | none => .error .unmeasured

/-- Whether a bundle holds a branch that may not stand in timed code (R341). -/
def branches (l : List SourceSlot) : Bool :=
  l.any fun x => match x.op with | .br _ _ _ | .jal _ _ | .jind _ _ _ _ => true | _ => false

/-- The words of a bundle; none where it would fault at decode or branches in timed code. -/
def assembleBundle (b : SourceBundle) (timed : Bool) (idle : Nat) : Except AsmError (List (BitVec 32)) := do
  if timed && branches b.slots then .error .branchInTimed
  else
    let ws ← b.slots.mapM slotWords
    let bs ← encodeBundle b.ver ws.flatten idle
    if bs.all fun l => (decodeFaults l true).isEmpty && l.length ≤ 8 then return bs.flatten else .error .decode

/-- The words of a stream; `timed` says of each bundle whether it stands in timed code. -/
def assembleStream (l : List SourceBundle) (timed : List Bool) : Except AsmError (List (BitVec 32)) := do
  let cycles ← streamCycles l
  let parts ← (l.zipIdx).mapM fun e => assembleBundle e.1 (timed.getD e.2 false) (cycles.getD e.2 (0, none)).1
  return parts.flatten

/-! ### Images (R339, R342) -/

/-- The claims of an image (R339): belt in KiB, tiles, accumulator tiles and up to four bands of mask, track and tower. -/
structure AsmClaim where
  belt : Nat
  tiles : Nat
  accs : Nat
  bands : List (BitVec 16 × Nat × Nat)
  deriving DecidableEq, Repr

/-- The claims in the layout of bits 255..192 of a launch record (R101). -/
def AsmClaim.word (c : AsmClaim) : Nat :=
  packFields ([(12, c.belt), (6, c.tiles), (5, c.accs), (3, c.bands.length)] ++ ((List.range 4).map fun i => (2, ((c.bands[i]?).map (·.2.1)).getD 0)) ++
    (List.range 4).map fun i => (2, ((c.bands[i]?).map (·.2.2)).getD 0))

/-- The band masks in the layout of bits 319..256 of a launch record. -/
def AsmClaim.masks (c : AsmClaim) : Nat := packFields ((List.range 4).map fun i => (16, ((c.bands[i]?).map (·.1.toNat)).getD 0))

/-- The offsets of the parts of an image, one after another from `at_` on. -/
def offsets : List Nat → Nat → List Nat
  | [], _ => []
  | n :: l, at_ => at_ :: offsets l (at_ + n)

/-- An image without its signature (R342): the header, the streams, the data section and the tensor records. -/
def imageBody (streams : List (List (BitVec 32))) (timed : Bool) (tlenm1 : Nat) (c : AsmClaim) (data : List Byte)
    (tensors : List (BitVec 512)) : Except AsmError (List Byte) :=
  let code := streams.map fun ws => ws.flatMap slotWordBytes
  let lens := code.map List.length
  let offs := offsets lens 256
  let dataAt := 256 + lens.sum
  let pad := (64 - (dataAt + data.length) % 64) % 64
  let tensorAt := dataAt + data.length + pad
  let size := tensorAt + 64 * tensors.length + 1280
  if streams.isEmpty || 16 < streams.length || (lens.any fun n => 262144 < n) || 4 < c.bands.length || 2 ^ 24 ≤ tlenm1 then .error .directive
  else
    let stab := (List.range 16).map fun i => (64, offs.getD i 0 + 2 ^ 32 * lens.getD i 0)
    let header := packFields ([(32, 0x494B5744), (4, streams.length - 1), (1, if timed then 1 else 0), (24, tlenm1), (3, 0), (64, size), (64, c.word),
      (64, c.masks)] ++ stab ++ [(32, dataAt), (32, data.length), (32, tensorAt), (32, tensors.length)])
    .ok (bytesOf 256 header ++ code.flatten ++ data ++ List.replicate pad 0 ++ tensors.flatMap fun t => bytesOf 64 t.toNat)

/-- The hash of an image (R342): the first 8 bytes of SHAKE256 over it without its signature. -/
def imageHash (body : List Byte) : Word := BitVec.ofNat 64 (natOf ((Config.shake256 8 body).take 8))

end Sys2Proof.Machine
end

