-- ==== Sys2Proof/Tests/Slice0.lean ====
section
/-! SUPPORT. Checks of the model's own: words written out from the encodings of spec/opcode_table.json, ill-formed instructions, worked
examples of the spec, and a state that meets the hypotheses of each statement. -/

namespace Sys2Proof.Tests

open Sys2Proof.Machine Sys2Proof.Claims

set_option Elab.async false

/-! ### Decoding and well-formedness -/

/-- A word with S = 1, VER 0 and SC 2 reads as an instruction. -/
def reads (w : BitVec 32) (i : Instr) : Bool := match decodeSlot w with
  | .ok x => x == { stop := true, ver := 0, sc := 2, op := i }
  | .error _ => false

/-- Every word of a list reads as its instruction. -/
def allRead (l : List (BitVec 32 × Instr)) : Bool := l.all fun e => reads e.1 e.2


/-- A request of the operator. -/
def m0 : Mgmt := { frame := { sak := 0, vlan := 1 }, session := 0, opens := true, signer := 0 }
/-- The words of class SCL. -/
theorem test_words_scl : (
    allRead [(0x801AA3F4, .add 42 15 52), (0x802B56BF, .sub 53 26 63), (0x8038094A, .mul 0 37 10), (0x8048BC15, .mulh 11 48 21),
     (0x80596EE0, .mulhu 22 59 32), (0x806A11AB, .div 33 6 43), (0x807AC476, .divu 44 17 54), (0x808B7701, .rem 55 28 1),
     (0x809829CC, .remu 2 39 12), (0x80A8DC97, .and 13 50 23), (0x80B98F62, .or 24 61 34), (0x80CA322D, .xor 35 8 45)] &&
    allRead [(0x80DAE4F8, .shl 46 19 56), (0x80EB9783, .shr 57 30 3), (0x80F84A4E, .sar 4 41 14), (0x8108FD19, .min 15 52 25),
     (0x8119AFE4, .max 26 63 36), (0x812A52AF, .minu 37 10 47), (0x813B057A, .maxu 48 21 58), (0x814BB800, .clz 59 32),
     (0x81586AC0, .popc 6 43), (0x81691D9B, .addi 17 54 27), (0x8179C066, .andi 28 1 38), (0x818A7331, .ori 39 12 49)] &&
    allRead [(0x819B25FC, .xori 50 23 60), (0x81ABD887, .shli 61 34 7), (0x81B88B52, .shri 8 45 18), (0x81C93E1D, .sari 19 56 29),
     (0x81D9E183, .movi 30 387), (0x81EA918E, .movhi 41 398), (0x81F81FA3, .cmp 0 1 62 35), (0x8208C26E, .cmpi 1 4 9 46),
     (0x82AAF539, .sel 2 47 20 57)]) = true := by decide +kernel

/-- The words of class CTL. -/
theorem test_words_ctl : (
    allRead [(0x841A81DF, .br 1 2 479), (0x842A01C5, .jal 32 453), (0x843A3568, .jind 1 0 53 26), (0x844B61DB, .loop 54 475),
     (0x845811E6, .loopi 1 486), (0x846801CC, .timedImm 460), (0x847805C0, .timedReg 23), (0x84880000, .paced),
     (0x84980000, .endStrand), (0x84A80000, .yield), (0x84B80128, .barr 1 40), (0x84C8ECD8, .twait 14 51 24)] &&
    allRead [(0x84D8013F, .hwait 1 63), (0x84E80909, .waitc 36 9)]) = true := by decide +kernel

/-- The words of class VEC. -/
theorem test_words_vec : (
    allRead [(0x881AF539, .vadd 47 20 57), (0x882BA7C4, .vsub 58 31 4), (0x88385A8F, .vmul 5 42 15), (0x88490D5A, .vfma 16 53 26),
     (0x8859B025, .vmin 27 0 37), (0x886A62F0, .vmax 38 11 48), (0x887B1580, .vabs 49 22), (0x888BC840, .vneg 60 33),
     (0x88987B11, .vand 7 44 17), (0x88A92DDC, .vor 18 55 28), (0x88B9D0A7, .vxor 29 2 39), (0x88CA8372, .vshl 40 13 50)] &&
    allRead [(0x88DB363D, .vshr 51 24 61), (0x88EBE8C8, .vsar 62 35 8), (0x88F89B93, .vsel 9 46 19), (0x89094E40, .vmov 20 57),
     (0x8919F100, .vbcast 31 4), (0x892AA3F4, .vextr 42 15 52), (0x893B56BF, .vclamp 53 26 63)]) = true := by decide +kernel

/-- The words of class VMX. -/
theorem test_words_vmx : (
    allRead [(0x8C18094A, .vcmpEq 0 37 10), (0x8C28BC15, .vcmpNe 11 48 21), (0x8C396EE0, .vcmpLt 22 59 32), (0x8C4A11AB, .vcmpLe 33 6 43),
     (0x8C5AC476, .vperm 44 17 54), (0x8C6B7700, .vredsSum 55 28), (0x8C7829C0, .vredsMax 2 39), (0x8C88DC80, .vredsMin 13 50),
     (0x8C998F40, .vcvt 24 61), (0x8CAA322D, .vscale 35 8 45), (0x8CB80B80, .mpush 46), (0x8CC80000, .minv)] &&
    allRead [(0x8CD80000, .mpop), (0x8CE8038F, .vskip 911), (0x8D289B93, .vdot4 0 1 0 9 46 19), (0x8DD94E5E, .vdot8 1 0 1 20 57 30)]) = true := by decide +kernel

/-- The words of class SFN. -/
theorem test_words_sfn : (
    allRead [(0x901B0540, .sfexp 48 21), (0x902BB800, .sflog 59 32), (0x90386AC0, .sfrcp 6 43), (0x90491D80, .sfrsq 17 54),
     (0x9059C040, .sfsqrt 28 1), (0x906A7300, .sfsin 39 12), (0x907B25C0, .sfcos 50 23), (0x908BD880, .sftanh 61 34),
     (0x90988B40, .sfsigm 8 45), (0x90A93E00, .sferf 19 56), (0x90B9E0E8, .rngc 30 3 40)]) = true := by decide +kernel

/-- The words of class MEM. -/
theorem test_words_mem : (
    allRead [(0x941A93B3, .lds 41 14 51), (0x942B467E, .ldsChk 52 25 62), (0x943BF909, .sts 63 36 9), (0x9448ABD4, .ldv 10 47 20),
     (0x94595E9F, .ldvChk 21 58 31), (0x946A016A, .stv 32 5 42), (0x947AB435, .ldvd 43 16 53), (0x948B66C0, .ldvdChk 54 27 0),
     (0x9498198B, .stvd 1 38 11), (0x94A8CC56, .ldt 12 49 22), (0x94B97F21, .ldtChk 23 60 33), (0x94C821EC, .ldtm 2 7 44)] &&
    allRead [(0x94D8D4B7, .ldtmChk 13 18 55), (0x94E98742, .stt 24 29 2), (0x94F8300D, .tap 3 0 13), (0x95080398, .put 14 1 8),
     (0x9518B200, .qpush 1 0 3 8), (0x952A4001, .qpop 36 1), (0x95380007, .qsel 7), (0x954BA7C4, .accld 58 31 4),
     (0x95585A8F, .accldChk 5 42 15), (0x95690D5A, .accst 16 53 26)]) = true := by decide +kernel

/-- The words of class ENG. -/
theorem test_words_eng : (
    allRead [(0x9819B025, .cube 27 0 37), (0x982A62F0, .cubeh 38 11 48), (0x983B15BB, .wld 49 22 59), (0x984BC846, .wldSp 60 33 6),
     (0x98587B11, .wswap 7 44 17), (0x98692DC0, .lease 18 55), (0x9879D080, .unlease 29 2), (0x988A8372, .copy 40 13 50),
     (0x989B363D, .ccopy 51 24 61), (0x98ABE8C8, .layout 62 35 8), (0x98B89B93, .scat 9 46 19), (0x98C94E5E, .nmred 20 57 30)] &&
    allRead [(0x98D9F129, .nmcas 31 4 41), (0x98EAA3F4, .nmsac 42 15 52), (0x98FB5680, .probe 53 26), (0x99080940, .probeReq 0 37),
     (0x9918BC15, .fsend 11 48 21), (0x99296EE0, .frecv 22 59 32), (0x993A11AB, .fld 33 6 43), (0x994AC476, .fst 44 17 54),
     (0x995B7701, .fatom 55 28 1), (0x996829CC, .coll 2 39 12), (0x9978DC97, .sig 13 50 23), (0x99898F40, .launch 24 61)] &&
    allRead [(0x999A3200, .hset 35 8)]) = true := by decide +kernel

/-- The words of class SYS. -/
theorem test_words_sys : (
    allRead [(0x9C080000, .nop), (0x9C1B9783, .deps 57 30 3), (0x9C280644, .pfx 1604), (0x9C3B0000, .pfxG 1 4), (0x9C49A0A7, .mfc 26 167),
     (0x9C5A5093, .mtc 37 147), (0x9C5B0097, .mtcMbxst 48), (0x9C5BB098, .mtcQv 59 0), (0x9C5860AB, .mtcTcfg 6 11),
     (0x9C5910C6, .mtcAcfg 17 6), (0x9C680000, .fence 0), (0x9C7806A7, .trap 1703)] &&
    allRead [(0x9C8B25C0, .tshoot 50 23), (0x9C980000, .audit), (0x9CA80000, .viewj)]) = true := by decide +kernel
/-- The slot checks of well-formedness refuse a term each: condition 6, a tile register above T31, control numbers without a register, the
numbers with rows of their own for MTC, HWAIT on handle 0, and BARR with a group and no XD. -/
theorem test_ill_formed_slots :
    ([.cmp 6 1 2 3, .cmpi 7 1 2 3, .ldt 32 0 0, .ldtChk 32 0 0, .ldtm 40 0 0, .ldtmChk 63 0 0, .stt 32 0 0, .mfc 1 0x00D, .mfc 1 0x0D0,
      .mtc 1 0x014, .mtc 1 0x097, .mtc 1 0x098, .mtc 1 0x0A0, .mtc 1 0x0C0, .hwait 0 0, .barr 0 1] : List Instr).all
      (fun i => !i.wellFormed) = true := by decide +kernel

/-- The event checks refuse a name the device does not have. -/
theorem test_ill_formed_events :
    ([.beacon 256 0 0 0, .beacon 0 16 0 0, .linkControlFlit 16 0 ⟨0, 0⟩, .linkFailure 0 4, .relayForward 16, .thermalTrip 1216 0,
      .timedArrival { port := 16, src := 0, dst := 0, mc := false, relayed := false, inc := 0, ctx := 0, rid := 0, sendTurn := 0,
                      units := 0, data := [], pois := [], lost := [] },
      .towerOnline 4, .governorEvaluate 4 0 false, .govstepDeferredRise 4, .auditReplayComplete 4 0 0, .auditSecondReplayComplete 4 0,
      .hotBandEnter 32, .normalBandReturn 32, .pendingLaunchTake 16,
      .peerIncarnationChange 256 0]
      : List Instr).all (fun i => !i.wellFormed) = true := by decide +kernel

/-- A YIELD with a reserved bit set, and two words whose class and opcode have no row, are not decoded. -/
theorem test_words_refused :
    ([0x84A80001, 0x9FF80000, 0x80001000] : List (BitVec 32)).all
      (fun w => match decodeSlot w with | .ok _ => false | .error _ => true) = true := by decide +kernel

/-! ### Worked examples of the spec -/

/-- R20 (the example): a team of width 8 with t0 = 3 and c0 = 2: strand 0 on tower 3, core 2, strand 3 on core 1, strand 5 on tower 0,
core 3. -/
theorem test_placement :
    (let t : Team := { Team.initial with width := 8, t0 := 3, c0 := 2 }
     ([0, 3, 5].map fun i => (t.strandTower i, t.strandCore i)) = [(3, 2), (3, 1), (0, 3)]) := by decide

/-- R28, R37 (the example): a block whose largest magnitude is 10 has scale code 128 in MXFP4, 10 becomes code 0b0110 and 3 becomes 0b0011. -/
theorem test_mxfp4_block :
    (let ten := Fmt.decode .f32 0x41200000
     let three := Fmt.decode .f32 0x40400000
     (mxScale 14 [ten, three], mxCode 14 128 .rne 0 ten, mxCode 14 128 .rne 0 three) = (128, 6, 3)) := by decide +kernel

/-- R53 (the example): an f32 target of 2^24 to which 2 is added at once ends as 0x4B800001; adding 1 twice leaves it. -/
theorem test_f32_additions :
    f32Add 0x4B800000 0x40000000 = 0x4B800001 ∧ f32Add (f32Add 0x4B800000 0x3F800000) 0x3F800000 = 0x4B800000 := by decide +kernel

/-- R158 (the example): diagonal offset 8,512 is row 8, chunk 5: row 8's chunk lies at linear 9,024 and row 15's at 15,616. -/
theorem test_diagonal_column :
    (let t : Team := { Team.initial with belt := 16, beltBases := [0] }
     let k := t.accessKeys 8512#28 512 true
     (k.getD 0 0, k.getD 448 0) = (9024, 15616)) := by decide +kernel

/-- R176 (the example): the f32 row of 3.0, 1.0 and zeros has checksum 4.0. -/
theorem test_checksum : checksum .f32 (BitVec.ofNat 4096 (0x40400000 + 2 ^ 32 * 0x3F800000)) = 0x40800000#32 := by decide +kernel

/-- R130 (the example): strides (1, 4) of extents (4, 3) on one dimension are injective, and (1, 3) are not. -/
theorem test_injective_view :
    (let d : Desc := { fmt := 9, rank := 1, lay := 0, planes := 1, zeroFill := false, short := false, keyid := 0, retw := 0,
                       bshape := [16], root := 0, ext := [100], scaleid := 0 }
     let v (k : Int) : View := { tid := 1, pln := 0, org := [0], dims := [⟨4, 1, 0⟩, ⟨3, k, 0⟩], reserved := false }
     ((v 4).injective d, (v 3).injective d) = (true, false)) := by decide +kernel

/-- R131 (the example): of a bf16 tensor of extents (1000, 300, 5) and block exponents (8, 7, 0), coordinate (700, 260, 3) lies in block 46. -/
theorem test_block_number :
    (let d : Desc := { fmt := 3, rank := 3, lay := 0, planes := 1, zeroFill := false, short := false, keyid := 0, retw := 0,
                       bshape := [8, 7, 0], root := 0, ext := [1000, 300, 5], scaleid := 0 }
     (d.block [700, 260, 3]).1 = 46 ∧ d.indices = 60) := by decide +kernel

/-- R312: a tower below 92 degrees wants step 0, one at 92 step 1 and one at 102.5 step 8, in units of 1/64 degree. -/
theorem test_governor_steps : [5887, 5888, 5983, 5984, 6559, 6560].map desiredStep = [0, 1, 1, 2, 7, 8] := by decide

/-! ### States that meet the hypotheses of the statements: slots -/

/-- A team of one strand with 16 KiB of belt, every tile and every accumulator tile. -/
def slotTeam : Team :=
  { Team.initial with id := 1, grid := 1, st := .resident, belt := 16, beltBases := [0], ntile := 32, nacc := 16, tsec := true, tlen := 100 }

/-- Its strand: S1 holds the least integer, S2 minus one, S3 a ring address, S4 an unaligned one, S5 one beyond the belt, S6 128; S7 is
poisoned. -/
def slotStrand : Strand :=
  { Strand.initial with
      team := 1, st := .run, len := 64, tiles := List.range 32, accs := List.range 16
      s := (((((Vector.replicate 64 (0 : Word)).set 1 0x8000000000000000#64).set 2 (BitVec.allOnes 64)).set 4 4).set 5 0x8000#64).set 6 128
      spois := (Vector.replicate 64 false).set 7 true
      acfg := (Vector.replicate 16 (1 : Word)).set 1 7 }

/-- Four NOP slots. -/
def nopBundle : List (BitVec 32) := [0x1C000000, 0x1C000000, 0x1C000000, 0x9C000000]

/-- The bundle being issued: a slot of it, four words long, at the start of a stream. -/
def slotState : State :=
  { State.reset with
      teams := [slotTeam], strands := [slotStrand]
      istore := Memory.writeBytes [] 0 ((List.replicate 4 nopBundle).flatten.flatMap slotWordBytes)
      iss := { Issue.blank with st := slotStrand, tm := slotTeam, words := nopBundle } }

/-- The same after one and after two prefixes. -/
def prefixed (l : List (BitVec 18)) : State := { slotState with iss := { slotState.iss with pfx := l } }

/-- The same in timed mode. -/
def timedState : State := { slotState with iss := { slotState.iss with st := { slotStrand with mode := .timed } } }

/-- Every state meets the guard's hypothesis at reset, and a quotient corner has operands. -/
theorem test_hyp_scalar : State.reset.iss.guard = true ∧ slotState.iss.guard = true ∧
    reg slotState 1 = 0x8000000000000000#64 ∧ reg slotState 2 = BitVec.allOnes 64 := by decide +kernel

theorem pfx_none : slotState.iss.pfx = [] := rfl
theorem pfx_some (l : List (BitVec 18)) : (prefixed l).iss.pfx = l := rfl

/-- Signed immediates with no, one and two prefixes, at the sign's edge. -/
theorem test_hyp_signed_immediates :
    signedImm slotState 32#6 (BitVec.ofInt 64 (-32)) ∧ signedImm (prefixed [1]) 0#6 64 ∧
    signedImm (prefixed [0x20000, 0]) 0#6 (BitVec.ofInt 64 (-2199023255552)) ∧ (prefixed [0x20000, 0]).iss.pfx.length ≤ 2 := by
  refine ⟨?_, ?_, ?_, by simp [pfx_some]⟩ <;> simp [signedImm, pfx_none, pfx_some]

/-- Unsigned immediates with no, one and two prefixes. -/
theorem test_hyp_unsigned_immediates :
    unsignedImm slotState 32#6 32 ∧ unsignedImm (prefixed [1]) 0#12 4096 ∧ unsignedImm (prefixed [1, 0]) 0#18 68719476736 := by
  refine ⟨?_, ?_, ?_⟩ <;> simp [unsignedImm, pfx_none, pfx_some]

/-- Branch offsets at the edges of their field. -/
theorem test_hyp_branch : signedImm slotState 8192#14 (BitVec.ofInt 64 (-8192)) ∧ signedImm slotState 8191#14 8191 := by
  constructor <;> simp [signedImm, pfx_none]

/-- A loop frame that goes round, one that ends, and a body that ends elsewhere. -/
theorem test_hyp_loops :
    (let f : LoopFrame := { lc := 0, first := 0, after := 16, count := 2, index := 0 }
     f.after ≠ 0 ∧ f.index + 1 < f.count ∧ ({ f with index := 1 } : LoopFrame).count ≤ 2 ∧ f.index = 0 ∧ 1 < f.count) := by decide

/-- Rows of every kind: clean f32 rows V0 to V7 and i32 rows V8 on, one source the same as the other, and a claim that ends after 2,048
rows. -/
theorem test_hyp_rows :
    source slotState .f32 1 ∧ source slotState .f32 2 ∧ rowClaimed slotState 63 ∧ slotState.vtype 1 = .f32 ∧
    Fmt.isFloat .f32 = true ∧ Fmt.isFloat .i32 = false ∧ slotState.maskTwice = false ∧ poisoned slotState 2 = false ∧
    poisoned slotState 7 = true := by
  unfold source rowClaimed rowSound; decide +kernel

/-- The same of rows of an accumulator tile whose ACFG names i32. -/
def intState : State := { slotState with iss := { slotState.iss with st := { slotStrand with acfg := Vector.replicate 16 7, vwb := 0 } } }

theorem test_hyp_int_rows : source intState .i32 1 ∧ source intState .i32 2 ∧ source intState (intState.vtype 3) 3 := by
  unfold source rowClaimed rowSound; decide +kernel

/-- Indices of VEXTR inside and beyond a row of 128 elements. -/
theorem test_hyp_extract : (reg slotState 6).toNat = 128 ∧ (slotState.vtype 1).count = 128 ∧ (reg slotState 0).toNat < 128 ∧
    poisoned slotState 6 = false := by decide +kernel

/-- Mask stacks: empty, of one entry and full. -/
def masked (n : Nat) : State :=
  { slotState with iss := { slotState.iss with st := { slotStrand with masks := List.replicate n (BitVec.allOnes 512) } } }

theorem test_hyp_masks : (masked 0).iss.st.masks = [] ∧ (masked 1).iss.st.masks = BitVec.allOnes 512 :: [] ∧
    8 ≤ (masked 8).iss.st.masks.length ∧ (masked 7).iss.st.masks.length < 8 ∧ (masked 8).maskTwice = false := by decide +kernel

theorem test_hyp_masked_rows : source (masked 8) ((masked 8).vtype 1) 1 := by
  unfold source rowClaimed rowSound; decide +kernel

/-- VSKIP over the two bundles after this one. -/
theorem test_hyp_vskip : slotState.afterBundles 0 64 (nextBundle slotState) 2 = some 48 ∧ slotState.vrow 0 < 128 * 16 ∧
    slotState.loopPast 0 64 48 (nextBundle slotState) 2 = false ∧ leavesLoop slotState 48 = false := by decide +kernel

/-- Ring addresses in the belt, at its end, unaligned and beyond it; a column of a diagonal access; tags that agree. -/
theorem test_hyp_ring :
    ringOk slotState 0 8 ∧ ringOk slotState 0x3FF8#64 8 ∧ ringOk slotState 0x3E00#64 512 ∧ columnOk slotState 0 ∧
    ¬ inBelt slotState 0x8000#64 7 ∧ inBelt slotState 4 7 ∧ (4#64).toNat % 8 ≠ 0 ∧ accClaimed slotState 6 ∧
    tagsAgree slotState 0 8 false ∧ tagsAgree slotState 0 512 true := by
  unfold ringOk columnOk inBelt accClaimed tagsAgree; decide +kernel

/-- Another tag is expected than the parcel has. -/
theorem test_hyp_ring_tag : (0x0001000000000000#64).extractLsb' 48 16 ≠ 0xFFFF#16 ∧
    ∃ k ∈ slotTeam.accessKeys 0 8 false, slotState.tag k ≠ 1#16 := by decide +kernel

/-- Offsets of a ring access without and with prefixes. -/
theorem test_hyp_offsets : offsetM slotState 63#6 63 ∧ offsetM (prefixed [0x3FFFF]) 63#6 (BitVec.allOnes 64) := by
  constructor <;> simp [offsetM, pfx_none, pfx_some]

/-- Tile transfers: a tile with a format, the first and last lines, a scale chunk and a metadata chunk of the low tiles. -/
def tiledState : State :=
  { slotState with iss := { slotState.iss with st := { slotStrand with
      tcfg := (Vector.replicate 32 (0 : Word)).set 0 9
      s := ((Vector.replicate 64 (0 : Word)).set 1 124).set 2 0x10F } } }

theorem test_hyp_tiles : cfgFmt (tiledState.iss.st.tileCfg 0) ≠ 0 ∧ (reg tiledState 1).toNat % 4 = 0 ∧ (reg tiledState 1).toNat ≤ 124 ∧
    wbits (reg tiledState 0) 8 1 = 0 ∧ wbits (reg tiledState 0) 9 55 = 0 ∧ wbits (reg tiledState 2) 8 1 = 1 ∧
    wbits (reg tiledState 2) 0 8 ≤ 15 ∧ 0 < tiledState.iss.tm.ntile := by decide +kernel

/-- PUT on lanes of the core's own and another's. -/
theorem test_hyp_lanes : (3#4).toNat / 4 = slotState.iss.st.index % 4 ∧ (4#4).toNat / 4 ≠ slotState.iss.st.index % 4 ∧
    slotState.putBefore 3 = false := by decide +kernel

/-- Address queues: a valid view of 256 bytes in slot 0, an invalid one in slot 1, a poisoned one in slot 2, and DQ with an arrived entry,
one that an open group holds, one that is INVALID and none. -/
def testDesc : Desc := { fmt := 9, rank := 1, lay := 0, planes := 1, zeroFill := false, short := false, keyid := 0, retw := 0,
                         bshape := [16], root := 18, ext := [65536], scaleid := 0 }
def testView : View := { tid := 2, pln := 0, org := [0, 0, 0, 0, 0, 0, 0, 0], dims := [⟨256, 1, 0⟩], reserved := false }
def testBound : Bound := { view := testView, desc := testDesc, scale := none }
def testEntry (invalid open_ : Bool) : AqEntry :=
  { id := 1, pc := 0, slot := 0, bank := 0, open_, spec := open_, src := none, invalid, place := .arrived, pushed := 0, ready := 0, data := 0,
    pois := false, fetched := [] }
def queueState (l : List AqEntry) : State :=
  { slotState with iss := { slotState.iss with st := { slotStrand with
      aq := l
      s := (slotStrand.s.set 8 192).set 9 193
      qv := (slotStrand.qv.set 0 { reg := 0, readAt := none, st := .valid testBound }).set 2 { reg := 0, readAt := none, st := .poisoned } } } }

theorem test_hyp_queues :
    (let s := queueState []
     let q (m : Fin 4) : QvState := (s.iss.st.qv.get m).st
     q 0 = .valid testBound ∧ q 1 = .invalid ∧ q 2 = .poisoned ∧ s.iss.st.aq.length + s.earlier Effect.isPush < 2048 ∧
     (reg s 8).toNat + 64 / codeBytes 9 ≤ testView.count ∧ testView.count < (reg s 9).toNat + 64 / codeBytes 9 ∧
     s.earlier Effect.isPop = 0) := by decide +kernel

theorem queueState_aq (l : List AqEntry) : (queueState l).iss.st.aq = l := rfl

theorem test_hyp_pops :
    (queueState [testEntry false false]).iss.st.aq[0]? = some (testEntry false false) ∧
    (queueState [testEntry true false]).iss.st.aq[0]? = some (testEntry true false) ∧ (testEntry false false).place = .arrived ∧
    (∀ q, (queueState [testEntry false true]).iss.st.aq[0]? = some q → q.place ≠ .arrived ∨ q.open_ = true) ∧
    (∀ q, (queueState []).iss.st.aq[0]? = some q → q.place ≠ .arrived ∨ q.open_ = true) := by
  simp [queueState_aq, testEntry]

/-- Tokens: one that is pending, one that DEPS names, one that is free; and the tokenless places. -/
def tokenState (deps : Option (BitVec 6 × BitVec 6 × BitVec 6)) : State :=
  { slotState with iss := { slotState.iss with deps := deps, st := { slotStrand with
      tokens := slotStrand.tokens.set 9 { st := .pending, status := 0 } } } }

theorem test_hyp_tokens :
    tokenPending (tokenState none) 9 = true ∧ tokenPending (tokenState none) 8 = false ∧
    (tokenState (some (3, 4, 5))).iss.deps = some (3, 4, 5) ∧ engineToken (.copy 9 0 0) = some 9 ∧
    (∀ op, (tokenState none).continued op 9 = none) := by
  refine ⟨by decide +kernel, by decide +kernel, rfl, rfl, fun op => ?_⟩
  cases op <;> rfl

theorem test_hyp_token_free : tokenFree slotState .copy 1 ∧ tokenFree slotState .lease 0 ∧
    tokenFree (tokenState (some (3, 4, 5))) .fsend 8 := by
  refine ⟨⟨rfl, by decide +kernel, ?_, ?_⟩, ⟨rfl, by decide +kernel, ?_, ?_⟩, ⟨rfl, by decide +kernel, ?_, ?_⟩⟩
  · intro _ a b c h; cases h
  · intro h; exact absurd h (by decide)
  · intro h; exact absurd rfl h
  · intro _; decide +kernel
  · intro _ a b c h; cases h; decide
  · intro h; exact absurd h (by decide)

/-- Another PROBE is not waiting, and no slot is guarded off at reset. -/
theorem test_hyp_probe : slotState.probeOther = none ∧ timed slotState = false ∧ timed timedState = true := by decide +kernel

/-- A guard that is false. -/
theorem test_hyp_guarded_off :
    ({ slotState with iss := { slotState.iss with guard := false } } : State).iss.guard = false ∧
    (encodeInstr (.add 1 2 3)).isSome = true ∧ isPrefix (.add 1 2 3) = false := by decide +kernel

/-! ### States that meet the hypotheses of the statements: commands, queues and events -/

/-- A structure address. -/
def at_ (tid off : Nat) : Word := BitVec.ofNat 64 (tid + 2 ^ 20 * off)

/-- The descriptor of a rank-1 i8 tensor with a table at a 4 KiB unit. -/
def bytesDesc (root ext : Nat) : Nat := 9 + 2 ^ 13 + 2 ^ 23 + 2 ^ 96 * root + 2 ^ 128 * ext

/-- A view of `n` bytes of tensor 2 from an offset. -/
def bytesView (off n : Nat) : Nat := 2 + 2 ^ 64 * off + 2 ^ 320 * n + 2 ^ 352

/-- Tables of a context: tensor 1 is the table tensor, pages 0 and 1; tensor 2 lies on pages 512 to 767. -/
def tableBytes : List Host.Cell :=
  let m := Memory.writeBytes [] 0x10000 (bytesOf 8 4)
  let m := Memory.writeBytes m 0x10040 (bytesOf 64 (bytesDesc 0x11 131072))
  let m := Memory.writeBytes m 0x10080 (bytesOf 64 (bytesDesc 0x12 (2 ^ 24)))
  let m := Memory.writeBytes m 0x11000 (bytesOf 8 0x27)
  Memory.writeBytes m 0x12000 (bytesOf 8 (0x27 + 2 ^ 16 * 512))

/-- An export window onto the first page of tensor 2 at offset 0x1000, and two views of 256 bytes at 0x7000 and 0x7080. -/
def workBytes : List Host.Cell :=
  let m := Memory.writeBytes tableBytes 0x2001000 (bytesOf 32 (2 + 2 ^ 20 * 15 + 2 ^ 64))
  let m := Memory.writeBytes m 0x2007000 (bytesOf 128 (bytesView 0x9000 256))
  Memory.writeBytes m 0x2007080 (bytesOf 128 (bytesView 0x9800 256))

/-- A queue of 16 slots at 0x2000 of tensor 2, and its index granule. -/
def workQueue : Queue :=
  { slots := at_ 2 0x2000, idx := at_ 2 0x2400, szlog := 4, prio := 1, enabled := true, ridx := 0, seen := 4, known := 4, next := 0
    hold := .none, open_ := [], grids := [] }

/-- A context with one queue; group 1 holds devices 0 and 1. -/
def workContext : Context :=
  { num := 0, gen := 0, ttab := 0x10000, ndesc := 4, tblt := 1, tkey := 0, gtab := at_ 2 0x8000, qtab := 0, fq := at_ 2 0x5000, quantum := 100
    swpdef := 0, mtab := 0, migBudget := 0, peerPull := false, migUsed := 0, queues := [workQueue], groups := [(0, 3), (1, 3)], handles := []
    keys := 1, imageKeys := [], verified := [], exportTable := at_ 2 0x1000, windows := 1, auditn := 0, collCount := [], watches := []
    records := [], fwidx := 0, destroying := false }

def workLaunch : LaunchRec :=
  { hash := 0, image := 0, teams := 2, wm1 := 0, tsec := true, tlenm1 := 99, gfirst := 0, gcount := 0, belt := 16, ntile := 32, nacc := 16
    bands := [(0xFF, 0, 0)], ccaddr := 0, saveaddr := at_ 2 0x10000, grpaddr := 0, args := [10, 11, 12, 13, 14, 15, 16, 17] }

def workGrid : Grid :=
  { id := 1, ctx := 0, queue := 0, prio := 1, lrec := 0, launch := workLaunch, placed := [0], finished := 0, waitSince := 0, zeroSince := none
    due := false, held := false, live := true, closing := false, outcome := 0, keys := 1, start := 0, started := true, end_ := 0, zfill := 0
    pcons := 0, sampled := 0, skipped := 0, mismatch := 0, fqidx := 0 }

def workClaim : Claim :=
  { mask := 0xFF, trk := 0, btw := 0, st := .held, budget := .paced 256 5000, reqCyc := 0, reqCore := 0, replayEnd := 0, recActive := [], recShadow := [] }

/-- A team of one strand in team cycle 1000. -/
def workTeam : Team := { slotTeam with tcyc := 1000, claims := [workClaim], belt := 16 }

/-- Its strand, with a tile of format i8 and an accumulator of i32. -/
def workStrand : Strand :=
  { slotStrand with tcfg := Vector.replicate 32 (0x00017F09#64), acfg := Vector.replicate 16 7 }

/-- A running device with one context, grid, team and strand, in cycle 1,600 of a domain. -/
def work : State :=
  { State.reset with
      cyc := 1600, hbm := workBytes, contexts := [workContext], grids := [workGrid], teams := [workTeam], strands := [workStrand], nextId := 10
      choices := [0, 0, 0, 0], keep := { State.reset.keep with boot := .running }
      fabric := { Fabric.cold with joined := true, spent := true, peers := [(1, 5)] }
      cores := State.reset.cores.set 0 { Core.cold with occupant := some (1, 0) } }

/-- A command of the strand. -/
def workCmd (op : CmdOp) (w0 w1 : Word) : Cmd := { (work.newCmd op 1 w0 w1 0) with id := 5, team := 1, strand := 0, ctx := 0, tower := 0, core := 0 }

/-- The running device with a command. -/
def withCmd (c : Cmd) : State := { work with cmds := [c] }

theorem test_hyp_waitc_met : work.counterReached 0 (at_ 2 0x100) 0 = .ok true ∧ work.counterReached 0 (at_ 2 0x100) 1 = .ok false ∧
    wbits (at_ 2 0x100) 20 44 % 8 = 0 := by decide +kernel

theorem test_hyp_waitc_fault : ∃ r, work.counterReached 0 (at_ 3 0) 1 = .error r :=
  ⟨{ Raised.of .engDesc .access 0 with slot := 0 }, by decide +kernel⟩

/-- A COPY that may start, one whose consumed token is pending in timed code, one that runs, one that has done its steps. -/
def copyQueued : Cmd := workCmd .copy (at_ 2 0x7000) (at_ 2 0x7080)

theorem test_hyp_command_start :
    (let s := withCmd copyQueued
     (s.cmd 5, s.context 0, s.team 1) = (some copyQueued, some workContext, some workTeam) ∧ copyQueued.packet = none ∧
     s.mayStart workTeam copyQueued = true ∧ s.tokenFault copyQueued = none) := by decide +kernel

theorem test_hyp_command_token :
    (let c : Cmd := { copyQueued with timed := true, deps := [9] }
     let s : State := { withCmd c with strands := [{ workStrand with tokens := workStrand.tokens.set 9 { st := .pending, status := 0 } }] }
     (s.mayStart workTeam c = true ∧ (s.tokenFault c).isSome = true)) := by decide +kernel

theorem test_hyp_command_steps :
    (let c : Cmd := { copyQueued with st := .running, steps := 2 }
     let s := withCmd c
     s.movePacket c = some c ∧ s.stepReady c = true ∧ c.notBefore ≤ s.cyc ∧ c.op.plain = true ∧
     ({ c with xpc := 2 } : Cmd).steps ≤ 2 ∧ s.unanswered 5 = false ∧ CmdOp.hset ≠ .copy) := by decide +kernel

/-- A handle in each state that an HSET meets. -/
theorem test_hyp_handles : wbits (5 + 2 ^ 32 * 4096#64) 8 2 = 0 ∧ wbits (5 + 2 ^ 32 * 4096#64) 32 32 ≠ 0 ∧ wbits (5 + 0x100#64) 8 2 = 1 := by
  decide

/-- Cube commands: a CUBE that may start without a fault, one whose lease is missing, one that runs and is fed, one with a step to commit, and
a WLD 129 cycles after its start. -/
def cubeCmd : Cmd := { workCmd .cube 0 0xFF with issuedTc := 900, st := .queued }

theorem test_hyp_cube_start :
    (let s := withCmd cubeCmd
     (s.strand 1 0 = some workStrand ∧ cubeCmd.op.onTrack = true ∧ s.cubeReady workTeam cubeCmd = true ∧
      s.ticks 0 = true ∧ (s.cubeFault workTeam workStrand { cubeCmd with w1 := 0xFFFF }).isSome = true)) := by decide +kernel

theorem test_hyp_cube_sound : (withCmd cubeCmd).cubeFault workTeam workStrand cubeCmd = none := by decide +kernel

theorem test_hyp_cube_feed :
    (let c : Cmd := { cubeCmd with st := .running, start := 999, steps := 2, xpc := 1 }
     workTeam.before = true ∧ c.xpc < c.steps ∧ c.start + c.xpc = workTeam.tcyc ∧ (withCmd c).cmd 5 = some c) := by decide +kernel

theorem test_hyp_cube_commit :
    (let f : FedStep := { commit := 1000, acc := 0, step := 0, sums := [], checks := [], pois := [] }
     f.commit = workTeam.tcyc ∧ workTeam.onCores = true) := by decide +kernel

theorem test_hyp_wld :
    (let c : Cmd := { workCmd .wld 0 0xFF with st := .running, start := 871 }
     c.op.loads = true ∧ c.start + 129 = workTeam.tcyc ∧ c.tower < 4 ∧ SMap.wf Plane.blank (work.tower c.tower).planes = true) := by
  decide +kernel

/-- A view of four bytes. -/
def smallBound : Bound := { testBound with view := { testView with dims := [⟨4, 1, 0⟩] } }

/-- A COLL whose first bucket may start; alone in its group with its values here; and a peer's message, of a joined device of the group. -/
def soloContext : Context := { workContext with groups := [(0, 1), (1, 3)] }
def collCmd : Cmd := { workCmd .coll 0 0 with st := .running, sent := some 0, src := some (.view smallBound) }
def ownMessage : CollRequest := { dev := 0, ctx := 0, group := 0, seq := 0, word := 0, fmt := 9, count := 4, bucket := 0, data := [], pois := [], abort := false }
def collState (c : Cmd) (l : List CollRequest) : State :=
  { work with contexts := [soloContext], cmds := [c], fabric := { work.fabric with colls := l } }

theorem test_hyp_coll_start :
    (let s := collState collCmd []
     (s.cmd 5 = some collCmd ∧ 0 < collBuckets collCmd.w1 ∧ workTeam.before = true ∧ s.collFlag soloContext collCmd 0 = .ok true ∧
      s.collSeq collCmd = 0)) := by decide +kernel

theorem test_hyp_coll_read :
    ((mapStop (fun i => (collState collCmd []).viewElem soloContext 0 [] smallBound (0 + i)) (List.range 4)).toOption).isSome = true := by
  decide +kernel

theorem test_hyp_coll_complete :
    (let c : Cmd := { collCmd with slots := [0], members := [0] }
     let s := collState c [ownMessage]
     workTeam.onCores = true ∧ 0 ∈ c.slots ∧ 0 ∉ c.done_ ∧ bucketSent 0 ∉ c.done_ ∧ collArm c.w1 = false ∧ c.members.length ≤ 1 ∧
     s.bucketMessages c 0 = some [ownMessage] ∧
     (let d : Cmd := { c with done_ := [bucketSent 0] }
      bucketSent 0 ∈ d.done_ ∧ 0 ∉ d.done_ ∧ (collState d []).writing 5 = false)) := by decide +kernel

def collRequestOf (sseq : Nat) : UntimedRequest :=
  { UntimedRequest.blank with src := 1, inc := 5, sseq, body := .collective { ownMessage with dev := 1, group := 1 } }

theorem test_hyp_coll_request :
    ((work.context 0).isSome = true ∧ work.inGroup 0 1 1 = true ∧ work.accepts (collRequestOf 0) = true ∧
     work.fabric.expected (collRequestOf 0) = 0 ∧ seqAhead 0 1 = true ∧ seqAhead 0 (2 ^ 32 - 1) = false ∧ seqAhead (2 ^ 32 - 1) 0 = true ∧
     seqAhead 0 (2 ^ 31) = false) := by decide +kernel

/-- The device with a packet in the slot at RIDX. -/
def packetState (words : List Nat) : State :=
  { work with hbm := Memory.writeBytes workBytes 0x2002000 (words.flatMap (bytesOf 8)) }

/-- Word 0 of a packet of a type that fills index 0. -/
def word0 (type : Nat) : Nat := 2 ^ 63 + 2 ^ 24 * type

/-- A packet is read, and of a kind. -/
def packetIs (words : List Nat) (k : PacketType) : Bool :=
  match (packetState words).packetAt 0 0 with
  | some p => p.pois == none && p.kind == k
  | none => false

theorem test_hyp_packets :
    packetIs [word0 0] .nop = true ∧ packetIs [word0 9] .nop = true ∧ packetIs [word0 1, (at_ 2 0x3000).toNat] .launch = true ∧
    packetIs [word0 2, (at_ 2 0x7000).toNat, (at_ 2 0x7080).toNat] .copy = true ∧
    packetIs [word0 3, (at_ 2 0x7000).toNat, (at_ 2 0x7080).toNat] .layout = true := by decide +kernel

theorem test_hyp_more_packets :
    packetIs [word0 4, (at_ 2 0x100).toNat, 5, 1] .signal = true ∧ packetIs [word0 5, (at_ 2 0x100).toNat, 1] .wait = true ∧
    packetIs [word0 6, 2] .preempt = true ∧ packetIs [word0 7, 0] .resume = true ∧ packetIs [word0 7, 3, 0] .resumeFrozen = true ∧
    packetIs [word0 7, 4, 0] .discardFrozen = true ∧ packetIs [word0 8, 1] .fence = true ∧ packetIs [word0 4 + 1] .signal = true := by
  decide +kernel

theorem test_hyp_packet_fields :
    (work.chosen.counterOk workContext (at_ 2 0x100) = true ∧ work.chosen.counterOk workContext 0 = true ∧
     work.chosen.checkLaunch workContext (at_ 2 0x3000) = .malformed ∧ work.chosen.packetTower 0 = some 0 ∧
     (work.chosen.schedRead workContext (at_ 2 0x7000) 128 64).toOption.isSome = true) := by decide +kernel

/-- PREEMPT and RESUME find a grid by scope, and a frozen team by its record. -/
theorem test_hyp_scopes :
    (work.scopeGrids 0 0 0 = [1] ∧ work.placedTeams.map (·.id) = [1] ∧
     ({ work with teams := [{ workTeam with st := .frozen, records := [7] }] } : State).frozenTeam 0 7 =
       some { workTeam with st := .frozen, records := [7] } ∧ work.frozenTeam 0 7 = none) := by decide +kernel

/-- Queues that a WAIT and a FENCE hold. -/
theorem test_hyp_holds :
    (work.queueWaitMet 0 (at_ 2 0x100) 0 = true ∧ work.queueWaitMet 0 (at_ 2 0x100) 1 = false ∧
     work.queueDrained { workQueue with grids := [2] } = true ∧ work.queueDrained { workQueue with grids := [1] } = false) := by decide +kernel

/-- A pending launch at the head of core 0's queue, 16 cycles after its LAUNCH. -/
theorem test_hyp_pending_launch :
    (let l : PendingLaunch := { cmd := 5, addr := at_ 2 0x3000, issued := 984 }
     let s : State := (withCmd (workCmd .launch 0 0)).setCore 0 { Core.cold with occupant := some (1, 0), launches := [l] }
     (s.core 0).launches = [l] ∧ l.issued + 16 ≤ workTeam.tcyc ∧ workTeam.freezing = false ∧ s.ticks (0 / 4) = true ∧
     (s.popLaunch 0).checkLaunch workContext l.addr = .malformed) := by decide +kernel

/-- A grid whose next team fits; one whose saved team fits. -/
def waitingState : State := { work with teams := [], strands := [], cores := State.reset.cores, grids := [{ workGrid with placed := [] }] }

theorem test_hyp_admit :
    (let g : Grid := { workGrid with placed := [] }
     waitingState.nextGrid = some g ∧ waitingState.nextTeam g = some none ∧ waitingState.places g.need ≠ [] ∧
     waitingState.team waitingState.nextId = none) := by decide +kernel

def savedState : State := { work with teams := [{ workTeam with st := .saved }], cores := State.reset.cores }

theorem test_hyp_resume :
    (savedState.nextGrid = some workGrid ∧ savedState.nextTeam workGrid = some (some { workTeam with st := .saved }) ∧
     savedState.places (savedState.teamNeed { workTeam with st := .saved }) ≠ []) := by decide +kernel

/-- A strand that drains with nothing left to do. -/
theorem test_hyp_retire :
    (let x : Strand := { workStrand with st := .drain }
     let s : State := { work with strands := [x] }
     s.drained workTeam x = true ∧ s.strand 1 0 = some x ∧ ∀ y ∈ s.live 1, y.index = x.index) := by decide +kernel

/-- A strand whose wait is met, one whose wait is not, and one whose counter's access faults. -/
theorem test_hyp_waits :
    (work.waitsMet workTeam workStrand [.tokens 1 2 3] = .ok true ∧ work.waitsMet workTeam workStrand [.handle 5 1] = .ok false ∧
     (work.waitsMet workTeam workStrand [.counter (at_ 3 0) 1 0 0 0 none]).toOption = none ∧ workStrand.isPending 1 = false) := by decide +kernel

/-- A rendezvous whose deadline is now, with a strand that has not issued its TIMED. -/
theorem test_hyp_rendezvous :
    (let t : Team := { workTeam with pending := some 1016 }
     let s : State := { work with teams := [t], phase := .resolve }
     s.entryValue t = some 1016 ∧ t.issues = true ∧ ∃ x ∈ s.partners 1, s.hasEntered t x = false) := by decide +kernel

/-- A grid that has waited at priority 0 for an aging interval with no place; one whose rise is now. -/
def agedGrid : Grid := { workGrid with zeroSince := some 0, placed := [], prio := 0, launch := { workLaunch with nacc := 16, bands := [] } }
def agedState : State := { work with cyc := 2 ^ 22, grids := [agedGrid], cores := Vector.replicate 16 { Core.cold with occupant := some (1, 0) } }

theorem test_hyp_aging :
    ((agedState.nextTeam agedGrid).isSome = true ∧ 0 + Config.agingInterval ≤ agedState.cyc ∧ agedState.nextPlaces agedGrid = [] ∧
     agedGrid.waitSince < agedState.cyc ∧ (agedState.cyc - agedGrid.waitSince) % Config.agingInterval = 0) := by decide +kernel

/-- A team past its quantum, and a grid of its priority that would fit without it. -/
def quantumState : State :=
  { work with
      towers := work.towers.map fun t => t
      cores := Vector.replicate 16 { Core.cold with occupant := some (1, 0) }
      grids := [{ workGrid with placed := [0], launch := { workLaunch with teams := 1 } }, { workGrid with id := 2, placed := [] }] }

theorem test_hyp_quantum :
    (quantumState.quantumOver workTeam = true ∧ (∀ h ∈ quantumState.grids, ∀ x ∈ quantumState.teams, quantumState.outranks h x = false) ∧
     ∃ h ∈ quantumState.grids, (quantumState.nextTeam h).isSome = true ∧ quantumState.priority h ≤ 1 ∧ quantumState.nextPlaces h = [] ∧
      (quantumState.without quantumState.leaving).nextPlaces h = [] ∧
      (quantumState.without (quantumState.leaving ++ [1])).nextPlaces h ≠ []) := by decide +kernel

/-- A strand past its swap threshold, and a swapped team whose counter has come. -/
theorem test_hyp_swap :
    (let x : Strand := { workStrand with st := .wait, waits := [.counter (at_ 2 0x100) 1 0 100 0 none] }
     x.st = .wait ∧ (100 : BitVec 40) ≠ 0 ∧ 0 + (100 : BitVec 40).toNat ≤ work.cyc ∧ work.inFabricSection 1 = false ∧
     work.counterReached 0 (at_ 2 0x100) 0 = .ok true ∧ (withCmd (workCmd .fsend 0 0)).inFabricSection 1 = true) := by decide +kernel

/-- A stopping team whose engines are at rest, and one whose engines are not. -/
theorem test_hyp_rest :
    (work.timedOf 1 = [] ∧ work.atRest { workTeam with st := .stopping 990 false } 990 false = true ∧
     work.atRest { workTeam with st := .stopping 999 false } 999 false = false) := by decide +kernel

/-- A discarded grid's team is gone; a context with a record not ready. -/
theorem test_hyp_discard :
    (∃ t ∈ ({ work with teams := [{ workTeam with st := .gone }] } : State).teams, t.grid = 1 ∧ t.st = .gone) ∧ (work.grid 1).isSome = true :=
  by decide +kernel

/-- Leases: held, held with its budget at an end, waiting with and without a conflict, waiting with a recorded load, replaying. -/
theorem test_hyp_leases :
    (workClaim.heldAt 1000 = true ∧ ({ workClaim with budget := .paced 0 5000 } : Claim).heldAt 1000 = false ∧
     ({ workClaim with budget := .timed 1000 } : Claim).heldAt 1000 = false ∧
     work.grantable 1 (workTeam.tower 0) { workClaim with st := .waiting } 10 0 = true ∧
     work.grantable 2 0 { workClaim with st := .waiting } 10 0 = false ∧ workTeam.claims[0]? = some workClaim) := by decide +kernel

/-- A QV slot written and not yet read; DQ entries due 64 cycles after their push. -/
theorem test_hyp_entries :
    (let e : AqEntry := { testEntry false false with place := .outstanding, pushed := 0 }
     work.entryDue 64 e = true ∧ work.entryDue 63 e = false ∧ e.src = none ∧ ((workStrand.setControl 7 0x098 0).qv.get 0).readAt = some 7) := by decide +kernel

/-- An auditor's sample that is complete, with sound sites. -/
def testSample : Sample :=
  { cmd := 5, team := 1, strand := 0, record := 0, grid := 1, ctx := 0, op := .cube, w0 := 0, w1 := 0xFF, fmt := 9, srkey := 0, srctr := 0
    steps := [], tiles := [], sigs := List.replicate 128 0, complete := true, site1 := some 1, bad1 := none, site2 := none, doneCyc := 0 }

theorem test_hyp_audit :
    (let s := work.setTower 0 { work.tower 0 with sample := some testSample }
     (s.tower 0).sample = some testSample ∧ testSample.mismatch 3 0 = none ∧ testSample.mismatch 3 5 = some (3, 5) ∧
     (testSample.compared.find? (·.1 == 3)) = some (3, 0, 0) ∧ (testSample.compared.find? (·.1 == 200)) = none ∧
     s.auditSite (((List.range 4).map fun k => (0 + k) % 4).filter fun y => y != 0 && some y != testSample.site1) = some 2) := by decide +kernel

/-- A short-lived page at its deadline, and stacks in the two bands. -/
theorem test_hyp_pages :
    (let s : State := { work with shortPages := [(600, some { deadline := some 1600, window := 1024 })]
                                  memStacks := work.memStacks.set 0 { Stack.cold with hot := true } }
     SMap.get none s.shortPages 600 = some { deadline := some 1600, window := 1024 } ∧ 1600 ≤ s.cyc ∧
     (s.memStacks.toList.getD 0 Stack.cold).hot = true ∧ (s.memStacks.toList.getD 1 Stack.cold).hot = false) := by decide +kernel

/-- The end of a sampling interval, and a migration in each of its states. -/
theorem test_hyp_migration :
    (let s : State := { work with cyc := 2 ^ 24, migration := { Migration.idle with st := .copy } }
     s.cyc % 2 ^ s.keep.sampling = 0 ∧ s.migration.st ≠ .idle ∧ work.migration.st = .idle ∧ s.context s.migration.ctx = some workContext ∧
     (∀ o ∈ s.fabric.outstanding, o.pulls = false) ∧ s.migration.peer = none ∧ SMap.wf s.migration.oldPage s.forward = true) := by decide +kernel

/-- Timed arrivals: for this device with a posted receive, without one, for another device, of another owner. -/
def fabricState : State :=
  { work with cyc := 4096 + 200, fabric := { work.fabric with owner := some 0, posted := [{ cmd := 5, ctx := 0, port := 1, turn := 1, rid := 2, matched := false }] } }
def testArrival : Arrival :=
  { port := 1, src := 1, dst := 0, mc := false, relayed := false, inc := 5, ctx := 0, rid := 2, sendTurn := 1, units := 1
    data := List.replicate 64 7, pois := [false, false], lost := [] }

theorem test_hyp_arrival : arrives fabricState testArrival ∧ fabricState.arrivalTurn = 1 ∧ testArrival.dst = fabricState.fabric.devid ∧
    (fabricState.fabric.posted.find? fun k => k.port == 1 && k.turn == 1 && k.rid == 2 && !k.matched).isSome = true ∧
    (fabricState.fabric.posted.find? fun k => k.port == 1 && k.turn == 1 && k.rid == 3 && !k.matched) = none ∧
    64 * testArrival.units ≤ recvBytes 0 ∧ testArrival.data.length = 64 * testArrival.units := by
  unfold arrives; decide +kernel

theorem test_hyp_arrival_places :
    (let t := workTeam
     ((List.range 64).map fun i => t.byteKey (viewAddr 0) false i).Nodup ∧ Memory.wf work.ring = true ∧ 3 < work.fabric.devices ∧
     ({ testArrival with inc := 4 }).inc ≠ SMap.get 0 work.fabric.peers 1) := by decide +kernel

/-- The slots of a turn, the end of a receive's turn and of a send's, a change of owner at a round boundary. -/
theorem test_hyp_turns :
    96 ≤ fabricState.cyc % 4096 ∧ fabricState.cyc % 4096 ≤ slotOffset 1499 ∧ 4096 * (recvTurn 1 + 1) + 95 = 8287 ∧
    8191 + 1 = 4096 * ((4096#64).toNat / 4096 + 1) ∧ 8192 % work.fabric.round = 0 := by decide +kernel

/-- A peer's request in order, a duplicate of an earlier one, one ahead of its order; and a window that serves it. -/
def testRequest : UntimedRequest :=
  { src := 1, ctx := 0, cls := 0, sseq := 0, inc := 5, win := 0, off := 64, size := 8, data := [1, 2], mask := wholeMask 2, pois := [], op := 0, x := 1
    cmp := 0, body := .plain }

theorem test_hyp_requests :
    (work.accepts testRequest = true ∧ work.fabric.expected testRequest = 0 ∧
     (work.fabric.advance testRequest).expected testRequest = 1 ∧
     (work.windowRead workContext 0 64 8 0 (some 1)).toOption.isSome = true ∧ work.windowRead workContext 1 64 8 0 (some 1) = .error 1 ∧
     (work.windowWrite workContext 0 64 1 (some 1) [1, 2] (wholeMask 2) (poisAt [])).toOption.isSome = true ∧
     (work.windowWrite workContext 1 64 1 (some 1) [1, 2] (wholeMask 2) (poisAt [])).toOption.isSome = false ∧
     (work.windowElement workContext 0 64 (some 1) { fmt := 9, rop := 0, alpha := 0 } 1 false).toOption.isSome = true ∧
     work.context 1 = none ∧ work.inGroup 0 1 1 = true) := by decide +kernel

theorem test_hyp_atomic :
    (match work.windowAtomic workContext 0 64 0 (some 1) 1 0 with | .ok (_, some v) => v == 0 | _ => false) = true := by decide +kernel

/-- An outstanding request, its response, and its time-out with resends left and used up. -/
def testOutstanding : Outstanding :=
  { id := 3, cmd := 5, what := .own, req := testRequest, dev := 1, ctx := 0, cls := 0, sseq := 0, inc := 5, write := false, deadline := 1600
    extended := false, resent := 3, sent := true, tried := true, flits := 1, bytes := 0 }

theorem test_hyp_outstanding :
    (let s : State := { work with fabric := { work.fabric with outstanding := [testOutstanding] } }
     (s.fabric.outstanding.find? (·.id == 3) = some testOutstanding ∧ testOutstanding.deadline ≤ s.cyc ∧ 3 ≤ testOutstanding.resent ∧
      testOutstanding.cmd ≠ 0 ∧ SMap.get 0 s.fabric.peers 1 = testOutstanding.inc ∧
      testOutstanding.tried = true ∧ (s.fabric.outstanding.takeWhile (·.id != 3)).any testOutstanding.sameStream = false ∧
      testOutstanding.req.body = .plain)) := by decide +kernel

/-- A request that may leave again: it goes to a device that this one meets in the data interval, on the direct path. -/
theorem test_hyp_resend :
    (let o : Outstanding := { testOutstanding with resent := 1, sent := false }
     let s : State := { work with fabric := { work.fabric with outstanding := [o] } }
     s.maySend o = true) := by decide +kernel

/-- Relayed flits that fit and a credit returned; a peer whose incarnation is known and one whose is not; a beacon's interval; medians of
each size. -/
theorem test_hyp_links :
    (work.fabric.meets 1600 1 = true ∧ work.fabric.meets 50 1 = false ∧ work.fabric.roomFor 1 1600 4 = true ∧
     work.fabric.roomFor 1 4095 4 = false ∧ work.openTo none 1 2 = true ∧ work.openTo none 17 2 = false ∧
     work.fabric.retryOf 0 0 = (0, []) ∧ ((work.fabric.keepFlit 0 0 true 7 false 3).retryOf 0 0).2.map (·.num) = [0] ∧
     work.fabric.facing 1 0 = work.fabric.devid ∧ SMap.get 0 work.fabric.peers 1 = 5 ∧ SMap.get 0 work.fabric.peers 2 ≠ 6 ∧
     SMap.wf 0 work.fabric.peers = true ∧ work.fabric.facing (4144 / 4096) 1 = 1 ∧ 48 ≤ 4144 % 4096 ∧ 4144 % 4096 < 160 ∧
     (4095 + 1) % work.fabric.round = 0 ∧ (median []).natAbs ≤ 2 ∧ (median [3]).natAbs = 3 ∧ 16 < (median [-17]).natAbs) := by decide +kernel

/-- Governor evaluations, a deferred rise, a tripped tower that has been cool long enough. -/
theorem test_hyp_governor :
    (State.reset.cyc % 2 ^ 16 = 0 ∧ State.reset.tmaxOf 0 = 0 ∧ State.reset.keep.power = none ∧ SMap.wf 0 State.reset.sensors = true ∧ State.reset.keep.coolantLow = false ∧ 8192 % work.fabric.round = 0 ∧ 8193 % work.fabric.round ≠ 0 ∧
     (work.teams.map (·.id)).Nodup ∧ 6720 ≤ 6720 ∧ 5 + 2 ^ 24 ≤ 2 ^ 24 + 5 ∧ ∃ x ∈ work.live 1, workTeam.strandTower x.index = 0) := by
  decide +kernel

/-- The keep: running, a device in and out of a domain, a grid that is done, and stored records. -/
theorem test_hyp_keep :
    (State.reset.fabric.spent = false ∧ work.fabric.joined = true ∧ work.keep.store.length < 65536 ∧
     (List.replicate 16 3).length = 16 * 2 ^ 0 ∧ ∀ x ∈ List.replicate 16 3, x ≤ 64) := by decide +kernel

/-- The components verify under the root key. -/
theorem test_hyp_verified : State.reset.flash.verified State.reset.keep.rootHash := by
  have h : BuildRecord.sound.signature = 0 := rfl
  simp only [Flash.verified, State.reset, Keep.cold, Flash.sound, h, and_self]

/-- Requests of the operator, of another key, of another session, on another key of the port and off the management VLAN. -/
theorem test_hyp_ordered : ordered { work with frames := [m0] } m0 [] ∧ work.authentic { m0 with signer := 1 } = false ∧
    work.authentic { m0 with opens := false } = false ∧ (1 : BitVec 64) ≠ work.keep.sak ∧ (2 : BitVec 12) ≠ work.flash.mgmtVlan :=
  ⟨⟨rfl, by decide +kernel, by decide +kernel, rfl, by decide +kernel⟩, by decide +kernel, by decide +kernel, by decide +kernel, by decide +kernel⟩

theorem test_hyp_job_record :
    (let s : State := { work with grids := [{ workGrid with live := false }], teams := [], strands := [] }
     s.grid 1 = some { workGrid with live := false } ∧ (∀ t ∈ s.teams, t.grid ≠ 1) ∧ (s.tower 0).sample = none ∧
     s.context 0 = some workContext ∧ workContext.destroying = false ∧
     ({ s with contexts := [{ workContext with destroying := true }] } : State).context 0 = some { workContext with destroying := true } ∧
     workContext.queues ≠ []) := by decide +kernel

/-- Contexts: table contents beyond HBM, a number that is taken and one that is free, one that is destroyed with and without teams, channel
groups that are free and taken. -/
theorem test_hyp_contexts :
    (writePieces [] [(2 ^ 42, [1])] = none ∧ writePieces [] [(2 ^ 42 - 1, [1])] = some [(2 ^ 42 - 1, 1)] ∧ (work.context 0).isSome = true ∧
     work.context 1 = none ∧ workContext.queues ≠ [] ∧ (∃ t ∈ work.teams, t.ctx = 0 ∧ t.stopped = false) ∧ work.ringQueue = [] ∧
     ({ workTeam with st := .saved } : Team).stopped = true ∧ SMap.get none work.keep.qps 5 = none ∧
     SMap.get 0 (work.memStacks.get 0).owners 3 = 0) := by decide +kernel

/-- The specification of a context like the work context, on the tables of `tableBytes`. -/
def testSpec : ContextSpec :=
  { ctx := 1, record := BitVec.ofNat 512 (2 ^ 20 * 0x10000 + 2 ^ 64 * (at_ 2 0x8000).toNat + 2 ^ 128 * (at_ 2 0x600).toNat +
      2 ^ 192 * (at_ 2 0x500).toNat + 2 ^ 296 + 2 ^ 344)
    tables := [(0x10000, bytesOf 8 4), (0x10040, bytesOf 64 (bytesDesc 0x11 131072)), (0x10080, bytesOf 64 (bytesDesc 0x12 (2 ^ 24))),
               (0x11000, bytesOf 8 0x27), (0x12000, bytesOf 8 (0x27 + 2 ^ 16 * 512)),
               (0x2000500, bytesOf 9 ((at_ 2 0xA000).toNat + 2 ^ 64 * 4)),
               (0x2000600, bytesOf 32 ((at_ 2 0x2000).toNat + 2 ^ 64 * (at_ 2 0x2400).toNat + 2 ^ 128 * 4 + 2 ^ 135))]
    exportTable := 0, windows := 0, keys := 1, auditn := 0, imageKeys := [] }

/-- Its record and the structures it names are sound, and a group table of zeros is taken. -/
theorem test_hyp_create :
    (match writePieces work.hbm testSpec.tables with
     | some hbm =>
       let v := inSession work m0 []
       let x := contextOf testSpec v.nextId 4 0
       let placed : State := (pieceGranules testSpec.tables).foldl (fun s' g => s'.setGranule g { pois := none, key := some (1, 16 * v.nextId) })
         { v with hbm, nextId := v.nextId + 1 }
       let s : State := { placed with contexts := placed.contexts ++ [x] }
       !recordFieldsBad testSpec.record.toNat 4 && !s.structuresBad x 1 && s.groupsWith x 0 (List.replicate 256 0) == some []
     | none => false) = true := by decide +kernel

/-- Requests on a queue pair: of its own context's window, out of the window, of another context, misaligned. -/
def hostState : State :=
  { work with keep := { work.keep with qps := [(5, some { ctx := 0, psn := 7 })] } }

def testRdma : RdmaRequest :=
  { frame := { sak := 0, vlan := 0 }, qp := 5, psn := 7, rkey := 0, va := 0, len := 8, data := [1, 2, 3], x := 1, cmp := 0 }

theorem test_hyp_host :
    (onTurn hostState testRdma 0 ∧ packetCount 0 = 1 ∧ packetCount 4096 = 1 ∧ packetCount 4097 = 2 ∧ (0#32).extractLsb' 16 8 = 0#8 ∧ ((0x10000#32).extractLsb' 16 8).toNat ≠ 0 ∧
     ((pairOn hostState testRdma 0 3).windowWrite workContext 0 0 1 none [1, 2, 3] (wholeMask 3) (fun _ => false)).toOption.isSome = true ∧
     (match hostState.windowRead workContext 0 65536 8 0 none with | .error k => k | .ok _ => 0) = 4 ∧
     (match hostState.windowAtomic workContext 0 8 2 none 1 0 with | .ok (_, some v) => v == 0 | _ => false) = true) := by
  unfold onTurn; decide +kernel

/-- A read of a window onto a poisoned granule. -/
theorem test_hyp_host_poison :
    (let s := hostState.setGranule (512 * 1024 + 1) { pois := some (0, 1), key := none }
     (match s.windowRead workContext 0 64 8 0 none with | .ok g => g.pois.any id | .error _ => false) = true) := by decide +kernel

/-! ### Steps -/

/-- Two bundles of a NOP each and a word where the next step fetches it. -/
def fetched : State := State.reset.withFetchWord 32 0x001010C3

/-- The first slot of a bundle that is due: ADD S1, S3, S3. -/
theorem test_hyp_step :
    (fetched.phase = .issue 0 0 ∧ fetched.agenda = [] ∧
     (match fetched.dueOn 0 with
      | some (t, st) => st.nulls == 0 && (fetched.openBundle 0 t st).raised.isEmpty &&
          (match decodeInstr (wordOpcode (fetched.slotAt 0 st.pc)) (wordOpnd (fetched.slotAt 0 st.pc)) with
           | .ok i => i == .add 1 3 3
           | .error _ => false)
      | none => false) = true) := by decide +kernel

/-- The step runs it: the bundle's first act is to write S1. -/
theorem test_step_runs_add :
    (match step fetched with
     | .next t => t.iss.effects == [(0, .result 1 (.sreg 1 0 false))] && t.phase == .issue 0 1
     | _ => false) = true := by decide +kernel

/-- A later slot, and an event at the head of the agenda. -/
theorem test_hyp_later_slot :
    (let s : State := { slotState with phase := .issue 0 1 }
     s.iss.words[1]? = some 0x1C000000#32 ∧ decodeInstr (wordOpcode 0x1C000000#32) (wordOpnd 0x1C000000#32) = .ok .nop) :=
  ⟨rfl, rfl⟩

/-- Results: an accumulator row map in canonical form, a tower that commits no cube row, a ring in canonical form and the keys of an access. -/
theorem test_hyp_results :
    (SMap.wf AccRow.zero slotState.accs = true ∧ (slotState.tower 0).committed.contains (rowKey slotTeam slotStrand 5) = false ∧
     Memory.wf slotState.ring = true ∧ (slotTeam.accessKeys 0 8 false).Nodup ∧ slotState.strand 1 0 = some slotStrand ∧
     slotState.team 1 = some slotTeam ∧ slotStrand.loops = []) := by decide +kernel

/-- Two faults of a bundle, of which the earlier point is reported. -/
theorem test_first_fault :
    (firstFault [readStage slotState .poisonConsume 4, { readStage slotState .illegalVersion 0 with point := .decode }]).map (·.cause) =
      some .illegalVersion := by decide +kernel


/-- Malformed packets: a reserved bit of a later word, a counter that is not one, and fields out of their range. -/
theorem test_hyp_loose_packets :
    (∃ p, (packetState [word0 0, 1]).packetAt 0 0 = some p ∧ p.pois = none ∧ p.kind = .nop ∧ loosePacket p 0) ∧
    (∃ p, (packetState [word0 4, (at_ 2 0x101).toNat, 5, 2]).packetAt 0 0 = some p ∧ p.kind = .signal ∧
      work.counterOk p.x (p.word 1) = false ∧ 2 ≤ (p.word 3).toNat) ∧
    (∃ p, (packetState [word0 6, 3]).packetAt 0 0 = some p ∧ p.kind = .preempt ∧ 3 ≤ (p.word 1).toNat) ∧
    ∃ p, (packetState [word0 7, 256 + 3]).packetAt 0 0 = some p ∧ 256 ≤ (p.word 1).toNat := by
  have h (w : List Nat) : ((packetState w).packetAt 0 0).isSome = true → ∃ p, (packetState w).packetAt 0 0 = some p := Option.isSome_iff_exists.mp
  refine ⟨?_, ?_, ?_, ?_⟩
  all_goals
    first
    | exact ⟨((packetState [word0 0, 1]).packetAt 0 0).get (by decide +kernel), by unfold loosePacket; decide +kernel⟩
    | exact ⟨((packetState [word0 4, (at_ 2 0x101).toNat, 5, 2]).packetAt 0 0).get (by decide +kernel), by decide +kernel⟩
    | exact ⟨((packetState [word0 6, 3]).packetAt 0 0).get (by decide +kernel), by decide +kernel⟩
    | exact ⟨((packetState [word0 7, 256 + 3]).packetAt 0 0).get (by decide +kernel), by decide +kernel⟩

/-- A poisoned slot, and reports of which one has arrived. -/
theorem test_hyp_slots :
    (let s := (packetState [word0 0]).setGranule (512 * 1024 + 128) { pois := some (0, 1), key := none }
     (s.packetAt 0 0).any (·.pois.isSome) = true ∧
     firstReport [⟨0, 0, 7⟩, ⟨0, 1, 5⟩, ⟨0, 2, 5⟩] = some ⟨0, 1, 5⟩ ∧ 5 ≤ s.cyc ∧ s.cyc < 2000) := by decide +kernel

/-- A fault queue with room and one without, and records that wait and that may be dropped. -/
theorem test_hyp_record_room :
    (let h := work.deviceRead workContext workContext.fq 64
     let room (x : Context) : Prop := (x.fwidx + (2 ^ 64 - bits h 192 64)) % 2 ^ 64 < 2 ^ bits h 64 5
     room workContext ∧ ¬room { workContext with fwidx := 1 } ∧ work.context workContext.num = some workContext) := by decide +kernel

/-- A view whose bank is free and one whose bank is taken, before and in the 32nd tower cycle after its write. -/
theorem test_hyp_view_read :
    (let lines := workTeam.readLines [(0#28, false, 0, 128)]
     (∀ k ∈ lines, work.lineFree k = true) ∧ (∃ k ∈ lines, ({ work with busy := lines.map fun k => bankOf (64 * k) } : State).lineFree k = false) ∧
     (work.tower 0).time < (work.tower 0).time + 32 ∧ workTeam.onCores = true) := by decide +kernel

/-- A migration in SHOOT whose old translations an outstanding access still uses, and one whose accesses have performed. -/
theorem test_hyp_shoot :
    (let m := { work.migration with st := .shoot }
     let s : State := { work with fabric := { work.fabric with outstanding := [{ testOutstanding with what := .pageWrite, ctx := m.ctx }] } }
     work.shot m = true ∧ s.shot { m with sent := some 4 } = false ∧ s.shot { m with sent := some 3 } = true) := by decide +kernel

/-- The deadline of a request of a device that has left its domain; a response that waits for its path, which is open or not. -/
def testReply : ReplyHeld := { dev := 1, ctx := 0, cls := 0, sseq := 0, reply := ⟨3, 5, 0, false, [], []⟩, flits := 1 }

theorem test_hyp_replies : work.openTo (work.replyVia testReply) 1 1 = true ∧
    (let s : State := { work with fabric := { work.fabric with joined := false } }
     s.openTo (s.replyVia testReply) 1 1 = false) := by
  have h : ∀ k, k < 16 → work.openTo (some k) 1 1 = true := by decide +kernel
  refine ⟨?_, by simp [State.openTo]⟩
  unfold State.replyVia
  dsimp only
  split
  · rename_i e
    refine h _ ?_
    have : work.fabric.devices = 16 := by decide +kernel
    simp only [Bool.and_eq_true, decide_eq_true_eq, this] at e
    exact e.1.1
  · decide +kernel

/-- Relayed flits: of another device for a third, with the credit that opens their place, and a credit of this device's own. -/
theorem test_hyp_relay :
    (let x : RelayedFlits := { src := 1, dst := 2, via := 0, inc := 5, flits := [0, 0], credit := false }
     let f : Fabric := { work.fabric with untimedRelay := [x] }
     x.src ≠ f.devid ∧ x.via = f.devid ∧ x.dst ≠ f.devid ∧ SMap.get 0 f.peers x.src = x.inc ∧
     (f.untimedRelay.find? fun y => y.src == 1 && y.dst == 2) = some x ∧ f.meets 1600 x.dst = true ∧ f.roomFor (f.portTo x.dst) 1600 2 = true ∧
     f.roomFor (f.portTo x.dst) 4095 2 = false ∧ SMap.get 0 f.peers 1 = 5 ∧ SMap.get 0 f.peers 2 ≠ 5) := by decide +kernel

/-- An acknowledgement that covers a flit, one that covers none, and one of another incarnation. -/
theorem test_hyp_acknowledged :
    (let l := ((work.fabric.keepFlit 0 0 true 7 false 3).retryOf 0 0).2
     let peer := SMap.get 0 work.fabric.peers (work.fabric.facing (work.cyc / 4096) 0)
     (∃ x ∈ l, x.num < 1) ∧ (∀ x ∈ l, 0 ≤ x.num) ∧ peer ≠ 6 ∧ work.fabric.joined = true) := by decide +kernel

/-- A new owner at a round boundary while a FSEND and a FRECV of the old one run. -/
theorem test_hyp_cutover :
    (let c : Cmd := { workCmd .fsend 0 0 with st := .running, slots := [100] }
     let s : State := { withCmd c with cyc := 4096, fabric := { fabricState.fabric with nextOwner := some (some 1), claimed := [(fabPort c.w0, 0, 100)] } }
     s.fabric.nextOwner = some (some 1) ∧ s.cyc % s.fabric.round = 0 ∧ s.fabric.owner ≠ some 1 ∧ s.fabric.owner = some c.ctx ∧ c ∈ s.cmds ∧
     (∀ r ∈ s.fabric.relays, some r.a.ctx ≠ some 1)) := by decide +kernel

/-- A tower offline after a trip: a reading below 105 degrees with every sensor cool, and one that is not. -/
theorem test_hyp_cooling :
    (let s := work.setTower 0 { work.tower 0 with tripped := true, coolSince := some 5 }
     (s.tower (3 / 304)).tripped = true ∧ (6080 : Nat) < 6720 ∧ SMap.wf 0 s.sensors = true ∧
     (∀ k, k < 304 → SMap.get 0 (SMap.set 0 s.sensors 3 100) (3 / 304 * 304 + k) < 6080) ∧
     (∃ k, k < 304 ∧ 6080 ≤ SMap.get 0 (SMap.set 0 s.sensors 3 6080) (3 / 304 * 304 + k)) ∧ (s.tower 0).coolSince = some 5) := by decide +kernel

/-- A running keep that takes and refuses a status request, and a destroyed context with nothing left to wait for and one with a team. -/
theorem test_hyp_destroy :
    (let x : Context := { workContext with destroying := true }
     let s : State := { work with contexts := [x], teams := [{ workTeam with st := .stopping 900 true }], cmds := [] }
     s.context 0 = some x ∧ x.queues ≠ [] ∧
     ((∀ t ∈ s.teams, t.ctx = 0 → t.stopped = true ∧ ∀ w ∈ s.ringQueue, w.team ≠ t.id) ∧ (∀ c ∈ s.cmds, c.ctx ≠ 0) ∧
       ∀ o ∈ s.fabric.outstanding, o.ctx ≠ 0) ∧
     ∃ t ∈ work.teams, t.ctx = 0 ∧ t.stopped = false) := by decide +kernel
/-! ### Single slots, with results worked by hand from the rules -/

/-- The scalar value that a slot's first act writes, and the faults the slot raises. -/
def writes (i : Instr) : Option (Nat × Nat × Word) × List (Cause × Word) :=
  match exec i slotState with
  | .next t =>
    (match t.iss.effects with
      | (_, .result l (.sreg d v _)) :: _ => some (l, d.toNat, v)
      | _ => none,
     t.iss.raised.map fun r => (r.cause, r.detail))
  | _ => (none, [])

/-- R373, R441: the least integer divided by minus one. -/
theorem test_div_corner : writes (.div 3 1 2) = (some (24, 3, 0x8000000000000000#64), []) ∧ writes (.rem 3 1 2) = (some (24, 3, 0), []) := by
  decide +kernel

/-- R373, R441: a divisor of zero. -/
theorem test_div_zero : writes (.divu 3 1 0) = (some (24, 3, BitVec.allOnes 64), []) ∧ writes (.remu 3 1 0) = (some (24, 3, 0x8000000000000000#64), []) := by
  decide +kernel

/-- R415: (-2^63) * (-1) = 2^63, whose high half is 0; unsigned, 2^63 * (2^64 - 1) has the high half 2^63 - 1. -/
theorem test_mulh : writes (.mulh 3 1 2) = (some (4, 3, 0), []) ∧ writes (.mulhu 3 1 2) = (some (4, 3, 0x7FFFFFFFFFFFFFFF#64), []) := by
  decide +kernel

/-- R446: a count of 128 shifts by 0, and the arithmetic shift keeps the sign. -/
theorem test_shifts : writes (.shl 3 2 6) = (some (1, 3, BitVec.allOnes 64), []) ∧ writes (.sari 3 1 63) = (some (1, 3, BitVec.allOnes 64), []) := by
  decide +kernel

/-- R361, R428: the least integer has no leading zero and one bit set. -/
theorem test_counts : writes (.clz 3 1) = (some (1, 3, 0), []) ∧ writes (.clz 3 0) = (some (1, 3, 64), []) ∧
    writes (.popc 3 1) = (some (1, 3, 1), []) := by decide +kernel

/-- R413: MOVHI keeps the low half. -/
theorem test_movhi : writes (.movhi 2 1) = (some (1, 2, 0x00000001FFFFFFFF#64), []) := by decide +kernel

/-- R288, R287: a poisoned source raises POISON CONSUME with DETAIL 4 times its number. -/
theorem test_poisoned_source : (writes (.add 3 7 0)).2 = [(.poisonConsume, 28)] := by decide +kernel

/-- R391: JAL links the next bundle's offset and a target beyond the stream is an ILLEGAL OPERAND. -/
theorem test_jal : (writes (.jal 31 4)).1 = some (1, 31, 16) ∧ (writes (.jal 31 16)).2.map (·.1) = [.illegalOperand] := by decide +kernel

/-- R155: a load beyond the belt raises PROTECTION RING with the address, and one that is not aligned an ILLEGAL OPERAND. -/
theorem test_ring_faults : (writes (.lds 3 5 0)).2 = [(.protectionRing, 0x8000#64)] ∧ (writes (.lds 3 4 0)).2.map (·.1) = [.illegalOperand] := by
  decide +kernel

/-- R325: MFC of PHYSID and RETW.MAX; R4: a write of a read-only register is ignored. -/
theorem test_control_registers : (writes (.mfc 3 0x00B)).1 = some (1, 3, 54687) ∧ (writes (.mtc 1 0x000)) = (none, []) := by decide +kernel

/-- R41: an MTC of a reserved rounding mode to NUMCTL is an ILLEGAL OPERAND. -/
theorem test_mtc_numctl : (writes (.mtc 5 0x090)).2 = [] ∧ (writes (.mtc 2 0x090)).2.map (·.1) = [.illegalOperand] := by decide +kernel

/-- R76: a command on a token that is pending is an ILLEGAL OPERAND. -/
theorem test_pending_token :
    (match exec (.copy 9 0 0) (tokenState none) with
     | .next t => t.iss.raised.any fun r => r.cause == .illegalOperand
     | _ => false) = true := by decide +kernel

/-! ### A launch record that is accepted

The image hash is a value of SHAKE256, of which nothing is known, so this record is not read by evaluation alone. -/

/-- Cells at consecutive addresses. -/
def cells : Nat → List Byte → List Host.Cell
  | _, [] => []
  | a, b :: bs => (a, b) :: cells (a + 1) bs

theorem get_skip (m l : List Host.Cell) (k : Nat) (h : ∀ e ∈ m, e.1 ≠ k) : SMap.get (0 : Byte) (m ++ l) k = SMap.get 0 l k := by
  induction m with
  | nil => rfl
  | cons e m ih =>
    simp only [List.cons_append, SMap.get, h e (by simp), if_false]
    exact ih fun x hx => h x (by simp [hx])

theorem get_cells (bs : List Byte) (a i : Nat) : SMap.get (0 : Byte) (cells a bs) (a + i) = bs.getD i 0 := by
  induction bs generalizing a i with
  | nil => rfl
  | cons b bs ih =>
    cases i with
    | zero => simp [cells, SMap.get]
    | succ i =>
      have := ih (a + 1) i
      simp only [cells, SMap.get, show a ≠ a + (i + 1) by omega, if_false, List.getD_cons_succ]
      rw [← this]
      congr 1
      omega

theorem read_cells (m : List Host.Cell) (bs : List Byte) (a off n : Nat) (hm : ∀ e ∈ m, e.1 < a) (h : off + n ≤ bs.length) :
    Memory.readBytes (m ++ cells a bs) (a + off) n = (bs.drop off).take n := by
  induction n generalizing off with
  | zero => simp [Memory.readBytes]
  | succ n ih =>
    have e : a + off + 1 = a + (off + 1) := by omega
    rw [Memory.readBytes, Memory.read, get_skip _ _ _ (fun x hx => by have := hm x hx; omega), get_cells, e, ih (off + 1) (by omega)]
    rw [List.getD_eq_getElem _ _ (by omega), ← List.getElem_cons_drop (by omega : off < bs.length), List.take_succ_cons]

theorem bits_high (a k o n : Nat) (ha : a < 2 ^ 64) (ho : 64 ≤ o) : bits (a + 2 ^ 64 * k) o n = bits (2 ^ 64 * k) o n := by
  obtain ⟨j, rfl⟩ := Nat.exists_eq_add_of_le ho
  simp only [bits, Nat.pow_add, ← Nat.div_div_eq_div_mul]
  congr 2
  rw [Nat.add_mul_div_left _ _ (by decide), Nat.div_eq_of_lt ha, Nat.mul_div_cancel_left _ (by decide), Nat.zero_add]

/-- The signed part of an image of one stream of 16 bytes: magic, SIZE 1,552, stream 0 at 256. -/
def launchImage : List Byte := bytesOf 256 (0x494B5744 + 2 ^ 64 * 1552 + 2 ^ 256 * 256 + 2 ^ 288 * 16) ++ bytesOf 16 0

def launchHash : Word := BitVec.ofNat 64 (natOf ((Config.shake256 8 launchImage).take 8))

/-- A launch record but for its hash: 2 teams of one strand, 1 KiB of belt, 1 tile, 1 accumulator tile, and a save area at 0x10000. -/
def recordRest : Nat := (at_ 2 0x4000).toNat + 2 ^ 64 * 2 + 2 ^ 128 * 1 + 2 ^ 140 + 2 ^ 146 + 2 ^ 320 * (at_ 2 0x10000).toNat

def acceptedRec : LaunchRec := { launchRec (2 ^ 64 * recordRest) with hash := launchHash }

/-- The device with that image and record. -/
def launchContext : Context := { workContext with verified := [launchHash] }
def launchBytes : List Host.Cell :=
  Memory.writeBytes (Memory.writeBytes workBytes 0x2004000 launchImage) 0x2002000 ([word0 1, (at_ 2 0xB000).toNat].flatMap (bytesOf 8))
def launchBase : State :=
  { work with
      contexts := [launchContext]
      hbm := launchBytes ++
        cells 0x200B000 (bytesOf 64 (launchHash.toNat + 2 ^ 64 * recordRest) ++ bytesOf 64 0) }


theorem low_cells : ∀ e ∈ launchBytes, e.1 < 0x200B000 := by decide +kernel

theorem recordRest_small : recordRest < 2 ^ 448 := by decide +kernel

theorem record_lt (a k : Nat) (ha : a < 2 ^ 64) (hk : k < 2 ^ 448) : a + 2 ^ 64 * k < 2 ^ (8 * 64) := by
  have h : 2 ^ 64 * (k + 1) ≤ 2 ^ 64 * 2 ^ 448 := Nat.mul_le_mul_left _ hk
  rw [← Nat.pow_add] at h
  exact Nat.lt_of_lt_of_le (by rw [Nat.mul_succ]; omega) h

theorem natOf_small (n x : Nat) (h : x < 2 ^ (8 * n)) : natOf (bytesOf n x) = x := by
  rw [natOf_bytesOf, Nat.mod_eq_of_lt h]

theorem bits_whole (x : Nat) (h : x < 2 ^ (8 * 64)) : bits x 0 1024 = x := by
  rw [bits, Nat.pow_zero, Nat.div_one, Nat.mod_eq_of_lt]
  exact Nat.lt_of_lt_of_le h (Nat.pow_le_pow_right (by decide) (by decide))

theorem record_granules :
    launchBase.granuleData 0 0 (512 * 1024 + 0x2C0) = launchHash.toNat + 2 ^ 64 * recordRest ∧
    launchBase.granuleData 0 0 (512 * 1024 + 0x2C1) = 0 := by
  have hb : (bytesOf 64 (launchHash.toNat + 2 ^ 64 * recordRest) ++ bytesOf 64 0).length = 128 := by simp [bytesOf_length]
  have h0 := read_cells launchBytes
    (bytesOf 64 (launchHash.toNat + 2 ^ 64 * recordRest) ++ bytesOf 64 0) 0x200B000 0 64 low_cells (by omega)
  have h1 := read_cells launchBytes
    (bytesOf 64 (launchHash.toNat + 2 ^ 64 * recordRest) ++ bytesOf 64 0) 0x200B000 64 64 low_cells (by omega)
  constructor
  · refine (congrArg natOf h0).trans ?_
    rw [List.drop_zero, List.take_append_of_le_length (by simp [bytesOf_length]), List.take_of_length_le (by simp [bytesOf_length]),
      natOf_bytesOf,
      Nat.mod_eq_of_lt (record_lt _ _ launchHash.isLt recordRest_small)]
  · refine (congrArg natOf h1).trans ?_
    rw [List.drop_append_of_le_length (by simp [bytesOf_length]), List.drop_of_length_le (by simp [bytesOf_length]), List.nil_append,
      List.take_of_length_le (by simp [bytesOf_length])]
    exact natOf_small 64 0 (Nat.two_pow_pos _)

theorem launchRec_split (a k : Nat) (ha : a < 2 ^ 64) :
    launchRec (a + 2 ^ 64 * k) = { launchRec (2 ^ 64 * k) with hash := BitVec.ofNat 64 a } := by
  have hh : bits (a + 2 ^ 64 * k) 0 64 = a := by
    simp only [bits, Nat.pow_zero, Nat.div_one, Nat.add_mul_mod_self_left]
    exact Nat.mod_eq_of_lt ha
  have hk (o n : Nat) (ho : 64 ≤ o) := bits_high a k o n ha ho
  simp (disch := omega) only [launchRec, hh, hk]

theorem record_fields : launchRec (launchHash.toNat + 2 ^ 64 * recordRest) = acceptedRec := by
  rw [launchRec_split _ _ launchHash.isLt, BitVec.ofNat_toNat, BitVec.setWidth_eq]
  rfl

/-- The record's tensor is well formed, and its granules translate. -/
theorem record_place :
    launchBase.structAt launchContext 0 (at_ 2 0xB000) 128 64 =
      .ok (2, 0xB000, { testDesc with ext := [2 ^ 24] }) ∧
    (∀ k, k < 2 → launchBase.translate launchContext 0 2 { testDesc with ext := [2 ^ 24] } 0 (0x2C0 + k) false = .ok (.page 512)) ∧
    (∀ k, k < 2 → launchBase.poisonAt 0 false (512 * 1024 + 0x2C0 + k) = none) := by
  decide +kernel

theorem read_two (s : State) (c : Context) (addr : Word) (d : Desc) (x : Nat) (hz : d.zeroFill = false) (hsh : d.short = false)
    (hk : d.keyid = 0) (b0 : d.block [0xB000] = (0, 0xB000)) (b1 : d.block [0xB040] = (0, 0xB040))
    (hch : s.choice = 0) (h : s.structAt c 0 addr 128 64 = .ok (2, 0xB000, d))
    (t : ∀ k, k < 2 → s.translate c 0 2 d 0 (0x2C0 + k) false = .ok (.page 512))
    (p : ∀ k, k < 2 → s.poisonAt c.num false (512 * 1024 + (0x2C0 + k)) = none)
    (g0 : s.granuleData c.num 0 (512 * 1024 + 0x2C0) = x) (g1 : s.granuleData c.num 0 (512 * 1024 + 0x2C1) = 0) :
    ∃ g, s.schedRead c addr 128 64 = .ok g ∧ g.pois = none ∧ g.val = bits x 0 1024 := by
  have e : { d with zeroFill := false } = d := by cases d; cases hz; rfl
  have r0 := State.readGranule_local (f := []) (t 0 (by decide)) (by rw [hsh]; exact p 0 (by decide))
  have r1 := State.readGranule_local (f := []) (t 1 (by decide)) (by rw [hsh]; exact p 1 (by decide))
  rw [hk] at r0 r1
  have q := State.schedRead_ok (by rw [hch]; exact h) (by
    rw [e, hch]
    exact State.structGranules_succ b0 r0 (State.structGranules_succ b1 r1 rfl))
  refine ⟨_, q, rfl, ?_⟩
  rw [show 512 * 1024 + (0x2C0 + 0) = 512 * 1024 + 0x2C0 from rfl, show 512 * 1024 + (0x2C0 + 1) = 512 * 1024 + 0x2C1 from rfl, g0, g1]
  simp only [Nat.mul_zero, Nat.add_zero]

theorem record_read :
    ∃ g, launchBase.schedRead launchContext (at_ 2 0xB000) 128 64 = .ok g ∧ g.pois = none ∧ g.val = launchHash.toNat + 2 ^ 64 * recordRest := by
  obtain ⟨h, t, p⟩ := record_place
  obtain ⟨g0, g1⟩ := record_granules
  obtain ⟨g, e, q, v⟩ := read_two launchBase launchContext _ _ _ rfl rfl rfl (by decide) (by decide) rfl h t p g0 g1
  exact ⟨g, e, q, v.trans (bits_whole _ (record_lt _ _ launchHash.isLt recordRest_small))⟩

/-- What the device reads of the image. -/
theorem image_read :
    launchBase.deviceRead launchContext (at_ 2 0x4000) 256 = natOf (launchImage.take 256) ∧
    bytesOf 272 (launchBase.deviceRead launchContext (at_ 2 0x4000) 272) = launchImage ∧
    launchBase.structOk launchContext (at_ 2 0x4000) 256 64 = true ∧ launchBase.structOk launchContext (at_ 2 0x4000) 1552 64 = true := by
  decide +kernel

theorem image_sound : launchBase.imageBad launchContext acceptedRec = false := by
  obtain ⟨h1, h2, h3, h4⟩ := image_read
  have hi : acceptedRec.image = at_ 2 0x4000 := by decide +kernel
  have hw : acceptedRec.wm1 = 0 := by decide +kernel
  have hh : acceptedRec.hash = launchHash := rfl
  have hv : launchContext.verified.contains launchHash = true := by simp [launchContext]
  have hz : bits (natOf (launchImage.take 256)) 64 64 = 1552 := by decide +kernel
  have hs : bits (natOf (launchImage.take 256)) 32 4 = 0 := by decide +kernel
  unfold State.imageBad
  rewrite [hi, hw, hh, hv, h1]
  dsimp only
  rewrite [hz]
  simp only [Nat.reduceSub]
  rewrite [h2, h3, h4, hs]
  refine Bool.or_eq_false_iff.mpr ⟨Bool.or_eq_false_iff.mpr ⟨Bool.or_eq_false_iff.mpr ⟨by decide +kernel, ?_⟩, by decide +kernel⟩, rfl⟩
  exact bne_self_eq_false launchHash

theorem record_in_range : acceptedRec.inRange (launchHash.toNat + 2 ^ 64 * recordRest) = true := by
  have hk (o n : Nat) (ho : 64 ≤ o) := bits_high launchHash.toNat recordRest o n launchHash.isLt ho
  unfold LaunchRec.inRange
  rewrite [hk 190 2 (by decide), hk 215 3 (by decide), hk 234 22 (by decide)]
  decide +kernel

theorem record_sound : launchBase.recordBad launchContext acceptedRec (launchHash.toNat + 2 ^ 64 * recordRest) = false := by
  have h : acceptedRec.bandsOk = true ∧ acceptedRec.tilesOk = true ∧ (acceptedRec.saveaddr == 0) = false ∧
      launchBase.structOk launchContext acceptedRec.saveaddr (acceptedRec.teams * acceptedRec.saveSize) 64 = true ∧
      launchBase.counterOk launchContext acceptedRec.ccaddr = true := by decide +kernel
  obtain ⟨h1, h2, h3, h4, h5⟩ := h
  unfold State.recordBad
  rewrite [record_in_range, h1, h2, h3, h4, h5, image_sound]
  rfl

theorem launch_accepted : ∃ entries copy, launchBase.checkLaunch launchContext (at_ 2 0xB000) = .accepted acceptedRec entries copy := by
  obtain ⟨g, hg, hp, hv⟩ := record_read
  have hc : acceptedRec.gcount = 0 ∧ acceptedRec.gfirst = 0 ∧ launchBase.placeable acceptedRec.width = true ∧
      (launchBase.groupsWith launchContext 0 []).isSome = true := by decide +kernel
  obtain ⟨c0, c1, c2, c3⟩ := hc
  obtain ⟨copy, hcopy⟩ := Option.isSome_iff_exists.mp c3
  refine ⟨[], copy, ?_⟩
  unfold State.checkLaunch
  rewrite [hg]
  dsimp only
  rewrite [hp]
  dsimp only
  rewrite [hv, record_fields, record_sound, c0, c1, hcopy, c2]
  rfl

theorem packetAt_context {s : State} {ctx q : Nat} {p : Packet} (h : s.packetAt ctx q = some p) : s.context ctx = some p.x := by
  unfold State.packetAt at h
  split at h
  · cases h
  · split at h
    · cases h
    · split at h
      · cases h
      · split at h
        · cases h
        · split at h
          · cases h
            assumption
          · cases h

/-- A LAUNCH packet that is served, and whose record is accepted. -/
theorem test_hyp_launch_accepted :
    ∃ p r entries copy, served launchBase 0 0 .launch p ∧ plainPacket p 1 ∧
      launchBase.checkLaunch p.x (p.word 1) = .accepted r entries copy := by
  have h : (launchBase.packetAt 0 0).map (fun p => (p.bits, p.pois)) = some (word0 1 + 2 ^ 64 * (at_ 2 0xB000).toNat, none) := by decide +kernel
  obtain ⟨p, hp, e⟩ := Option.map_eq_some_iff.mp h
  have hx : some launchContext = some p.x := packetAt_context hp
  obtain ⟨hb, hq⟩ := Prod.mk.inj e
  have k : p.word 1 = at_ 2 0xB000 ∧ p.kind = .launch ∧ plainPacket p 1 := by
    have kk : ∀ b, b = word0 1 + 2 ^ 64 * (at_ 2 0xB000).toNat →
        BitVec.ofNat 64 (bits b (64 * 1) 64) = at_ 2 0xB000 ∧ bits b 24 8 = 1 ∧ b % 2 ^ 16 = 0 ∧ b < 2 ^ (64 * (1 + 1)) := by
      intro b hb
      subst hb
      decide +kernel
    obtain ⟨k1, k2, k3, k4⟩ := kk _ hb
    refine ⟨k1, ?_, k3, k4⟩
    unfold Packet.kind Packet.type
    rewrite [k2]
    rfl
  obtain ⟨entries, copy, hc⟩ := launch_accepted
  refine ⟨p, acceptedRec, entries, copy, ⟨hp, hq, k.2.1⟩, k.2.2, ?_⟩
  rewrite [k.1, ← Option.some.inj hx]
  exact hc
/-! ### The assembler -/

/-- The worked encoding of spec/14_encoding.md: two bundles at team cycles 2,000 and 2,004, their eight words as it lists them. -/
theorem test_worked_encoding :
    (assembleStream [
      ⟨[⟨none, none, .addi 5 6 0, some 100⟩, ⟨none, none, .lds 7 8 0, some 8⟩], some 2000, .auto⟩,
      ⟨[⟨some (false, 2), some (3, 0, 0), .cube 5 10 11, none⟩], some 2004, .auto⟩] [true, true]).toOption =
    some [0x1C200001, 0x016051A4, 0x14107208, 0x9C0C0000, 0x1C308000, 0x1C103000, 0x1810528B, 0x9C000000] := by decide +kernel

/-- R338: a bar inside parentheses belongs to its expression, and one outside parts two slots. -/
theorem test_split_slots : splitSlots (stripComment "a, (b | c) | d ; e".toList) 0 [] = ["a, (b | c) ".toList, " d ".toList] := by decide

/-- R337: a count that neither version carries alone takes a second bundle of NOPs. -/
theorem test_idle_split :
    (encodeBundle .auto [] 65537).toOption.map (fun l => l.map fun b => (b.length, idleCount b)) = some [(6, 65520), (4, 16)] := by decide +kernel

/-! ### A team whose save succeeds

Its save area is too large to be written by evaluation alone: the pages it needs translate, and no write touches the tables. -/

/-- The granules of a device but those of the pages from 513 on. -/
def sameBut (s u : State) : Prop :=
  (∀ ctx key g, g / 1024 < 513 → u.granuleData ctx key g = s.granuleData ctx key g) ∧ (∀ p, u.channelOwner p = s.channelOwner p) ∧
  u.forward = s.forward ∧ u.contexts = s.contexts ∧ u.choices = s.choices

theorem sameBut_refl (s : State) : sameBut s s := ⟨fun _ _ _ _ => rfl, fun _ => rfl, rfl, rfl, rfl⟩

theorem sameBut_trans {a b c : State} (h : sameBut a b) (k : sameBut b c) : sameBut a c :=
  ⟨fun x y g hg => (k.1 x y g hg).trans (h.1 x y g hg), fun p => (k.2.1 p).trans (h.2.1 p), k.2.2.1.trans h.2.2.1,
    k.2.2.2.1.trans h.2.2.2.1, k.2.2.2.2.trans h.2.2.2.2⟩

/-- The traces of accesses change none of it. -/
theorem traces_sameBut (s : State) (c : Context) (tower : Nat) (l : List Touch) : sameBut s (s.tracesOf (s.noteList c tower l)) :=
  ⟨fun _ _ _ _ => rfl, fun p => State.noteList_owner c tower p l s, rfl, rfl, rfl⟩

theorem readBytes_writeBytes_out (m : List Host.Cell) (a b n : Nat) (bs : List Byte) (h : b + n ≤ a ∨ a + bs.length ≤ b) :
    Memory.readBytes (Memory.writeBytes m a bs) b n = Memory.readBytes m b n := by
  induction n generalizing b with
  | zero => rfl
  | succ n ih => rw [Memory.readBytes, Memory.readBytes, ih (b + 1) (by omega), Memory.read_writeBytes_out _ _ _ _ (by omega)]

/-- A granule write changes no other granule. -/
theorem writeGranuleAt_sameBut (s : State) (ctx key page gran mask data : Nat) (pois : Option (Nat × Nat)) (hg : gran < 1024) (hp : 513 ≤ page) :
    sameBut s (s.writeGranuleAt ctx key (page * 1024 + gran) mask data pois) := by
  refine ⟨fun x y g h => ?_, fun p => by simp only [State.channelOwner, State.writeGranuleAt, State.setGranule],
    by simp only [State.writeGranuleAt, State.setGranule], by simp only [State.writeGranuleAt, State.setGranule],
    by simp only [State.writeGranuleAt, State.setGranule]⟩
  have hne : g ≠ page * 1024 + gran := by omega
  have e1 : (s.writeGranuleAt ctx key (page * 1024 + gran) mask data pois).granule g = s.granule g := by
    simp only [State.writeGranuleAt, State.setGranule, State.granule]
    exact SMap.get_set_ne _ _ _ _ _ hne
  have e2 : Memory.readBytes (s.writeGranuleAt ctx key (page * 1024 + gran) mask data pois).hbm (64 * g) 64 = Memory.readBytes s.hbm (64 * g) 64 := by
    simp only [State.writeGranuleAt, State.setGranule]
    exact readBytes_writeBytes_out _ _ _ _ _ (by rw [bytesOf_length]; omega)
  have e3 : (s.writeGranuleAt ctx key (page * 1024 + gran) mask data pois).keySerial x y = s.keySerial x y := by
    simp only [State.keySerial, State.context, State.writeGranuleAt, State.setGranule]
  simp only [State.granuleData, e1, e2, e3]

/-- The device about to save its team: one that has retired all its strands, in a save area at offset 0x10000 of tensor 2. -/
def savingTeam : Team := { workTeam with st := .stopping 990 false, belt := 0 }
def savingState : State := { work with teams := [savingTeam], strands := [{ workStrand with st := .retired }] }
def saveDesc : Desc := descFields (bytesDesc 0x12 (2 ^ 24))

/-- A word of the tables is the same in both. -/
theorem tableWord_same {s u : State} (h : sameBut s u) (a : Nat) (ha : a / 64 / 1024 < 513) :
    u.tableWord workContext a = s.tableWord workContext a := by
  simp only [State.tableWord, h.1 _ _ _ ha]

theorem tables_known :
    savingState.tableWord workContext 0x12000 = 0x2000027 ∧ savingState.tableWord workContext 0x11000 = 0x27 ∧
    savingState.granuleData 0 0 1026 = bytesDesc 0x12 (2 ^ 24) ∧ savingState.granuleData 0 0 1025 = bytesDesc 0x11 131072 := by decide +kernel

/-- The pages of the save area translate. -/
theorem saving_translates {u : State} (h : sameBut savingState u) (t gran : Nat) (ht : t < 512) :
    u.translate workContext 0 2 saveDesc t gran true = .ok (.page (512 + t)) := by
  have hr : saveDesc.root * 4096 + 8 * (t / 512) = 0x12000 := by
    rw [Nat.div_eq_of_lt ht]
    decide +kernel
  have tw : u.tableWord workContext 0x12000 = 0x2000027 := (tableWord_same h 0x12000 (by decide)).trans tables_known.1
  have e : u.tableEntry workContext saveDesc t = [0x2000027] := State.tableEntry_span (by rw [hr]; exact tw) (by decide)
  have m : u.mapping workContext 0 2 saveDesc t gran = .ok (0x2000027, true) := State.mapping_span e (by decide +kernel)
  have c : u.channelOwner (512 + t) = none := by
    have w : work.memStacks.toList[0]? = some Stack.cold := by decide +kernel
    have e1 : savingState.memStacks.toList[(512 + t) / 2 ^ 21]? = some Stack.cold := by
      rw [show (512 + t) / 2 ^ 21 = 0 by omega]
      exact w
    rw [h.2.1]
    unfold State.channelOwner
    rewrite [e1]
    rfl
  have o : u.home (512 + t) = 512 + t := by
    simp only [State.home, h.2.2.1]
    rfl
  exact State.translate_page m (by rw [Nat.mod_eq_of_lt ht, show bits 0x2000027 16 26 = 512 from by decide]) (by decide) (by decide) c o

/-- No page of the save area is a page of the tables. -/
theorem saving_outside {u : State} (h : sameBut savingState u) (page : Nat) (hp : 513 ≤ page) : u.inTables workContext (page * 16) = false := by
  have b1 : u.descBits workContext 0 1 = bytesDesc 0x11 131072 := by
    rw [← tables_known.2.2.2, ← h.1 0 0 1025 (by decide)]
    exact State.descBits_memory (by decide)
  have hw := (tableWord_same h 0x11000 (by decide)).trans tables_known.2.1
  have hn : (((descFields (bytesDesc 0x11 131072)).ext.headD 0 + 65535) / 65536 + 511) / 512 = 1 := by decide +kernel
  have hr : (descFields (bytesDesc 0x11 131072)).root * 4096 + 8 * 0 = 0x11000 := by decide +kernel
  have hm : min 512 (((descFields (bytesDesc 0x11 131072)).ext.headD 0 + 65535) / 65536 - 512 * 0) = 2 := by decide +kernel
  have k := State.entryCovers_span (s := u) (c := workContext) (e := 0x27) (n := 2) (unit := page * 16) (by decide)
  have hq : page * 16 / 16 = page := by omega
  have hb : bits 0x27 16 26 = 0 := by decide
  simp only [State.inTables, show workContext.tblt = 1 from rfl, b1, hn, List.range_one, List.any_cons, List.any_nil, hr, hw, hm, k, hq, hb]
  simp
  omega

/-- Where a device holds one context, no granule is another's. -/
theorem othersTable_alone {s : State} {c : Context} (h : s.contexts = [c]) (g : Nat) : s.othersTable c g = false := by
  unfold State.othersTable
  split
  · rfl
  · rename_i x _ _
    by_cases e : x = c.num
    · simp [e]
    · simp [State.context, h, Ne.symm e]

/-- Writes to those pages all succeed. -/
theorem saving_writes (l : List GranuleWrite) (u : State) (out : List (Nat × Nat × GranuleWrite)) (tch : List Touch)
    (h : sameBut savingState u) (hl : ∀ w ∈ l, w.tid = 2 ∧ 1 ≤ w.t ∧ w.t < 512 ∧ w.gran < 1024) :
    ∃ v tch', u.writeGranules workContext 0 saveDesc l out tch = (v, out, tch', none) ∧ sameBut savingState v := by
  induction l generalizing u tch with
  | nil => exact ⟨u, tch, rfl, h⟩
  | cons w l ih =>
    obtain ⟨h1, h2, h4, h3⟩ := hl w (by simp)
    have hs : saveDesc.short = false := by decide +kernel
    have hk : (512 + w.t) * 1024 + w.gran = (512 + w.t) * 1024 + w.gran := rfl
    have hd : ((512 + w.t) * 1024 + w.gran) / 1024 * 16 = (512 + w.t) * 16 := by omega
    have ho : u.othersTable workContext ((512 + w.t) * 1024 + w.gran) = false := othersTable_alone (h.2.2.2.1.trans rfl) _
    have hp : u.putGranule workContext 2 saveDesc.keyid none ((512 + w.t) * 1024 + w.gran) w.mask w.data w.pois =
        u.writeGranule workContext.num saveDesc.keyid none ((512 + w.t) * 1024 + w.gran) w.mask w.data w.pois :=
      State.putGranule_plain ho (by rw [hd]; exact saving_outside h (512 + w.t) (by omega))
    have k : sameBut savingState (u.writeGranule workContext.num saveDesc.keyid none ((512 + w.t) * 1024 + w.gran) w.mask w.data w.pois) :=
      sameBut_trans h (writeGranuleAt_sameBut u _ _ _ _ _ _ _ h3 (by omega))
    rw [State.writeGranules, h1, saving_translates h _ _ h4]
    simp only [hs, Bool.false_eq_true, if_false, hp]
    exact ih _ _ k fun x hx => hl x (by simp [hx])

/-- The granule writes of bytes at an offset of the save area are writes to its pages. -/
theorem structWrites_page (off : Nat) (bs : List Byte) (pois : Option (Nat × Nat)) (h0 : 65536 ≤ off) (hn : off + bs.length ≤ 2 ^ 24) :
    ∀ w ∈ structWrites 2 saveDesc off bs pois, w.tid = 2 ∧ 1 ≤ w.t ∧ w.t < 512 ∧ w.gran < 1024 := by
  let P (w : GranuleWrite) : Prop := w.tid = 2 ∧ 1 ≤ w.t ∧ w.t < 512 ∧ w.gran < 1024
  have merge (w : GranuleWrite) (hw : P w) (l : List GranuleWrite) (hl : ∀ x ∈ l, P x) : ∀ x ∈ mergeWrite w l, P x := by
    induction l with
    | nil => simpa [mergeWrite] using hw
    | cons y l ih =>
      rw [mergeWrite]
      split
      · intro x hx
        rcases List.mem_cons.mp hx with rfl | hx
        · exact hl y (by simp)
        · exact hl x (by simp [hx])
      · intro x hx
        rcases List.mem_cons.mp hx with rfl | hx
        · exact hl _ (by simp)
        · exact ih (fun z hz => hl z (by simp [hz])) x hx
  have d1 : saveDesc.lay = 0 ∧ saveDesc.fmt = 9 ∧ saveDesc.bshape = [16] ∧ saveDesc.ext = [2 ^ 24] := by decide +kernel
  have elem (i v : Nat) (hi : off + i < 2 ^ 24) : ∀ w ∈ elemWrites 2 saveDesc [off + i] v pois, P w := by
    have hb : saveDesc.block [off + i] = ((off + i) / 65536, (off + i) % 65536) := by
      simp only [Desc.block, d1.2.2.1, d1.2.2.2, List.zip_cons_cons, List.zip_nil_right, blockOf]
      congr 1 <;> omega
    have hc : codeBytes 9 = 1 := by decide
    simp only [elemWrites, hb, d1.1, Desc.offset, d1.2.1, hc]
    intro w hw
    simp only [show (0 : Nat) ≠ 1 by decide, show (0 : Nat) ≠ 2 by decide, if_false, List.mem_singleton] at hw
    subst hw
    exact ⟨rfl, by simp only; omega, by simp only; omega, by simp only; omega⟩
  have inner (ws : List GranuleWrite) (hw : ∀ w ∈ ws, P w) (l : List GranuleWrite) (hl : ∀ x ∈ l, P x) :
      ∀ x ∈ ws.foldl (fun l w => mergeWrite w l) l, P x := by
    induction ws generalizing l with
    | nil => exact hl
    | cons w ws ih => exact ih (fun x hx => hw x (by simp [hx])) _ (merge w (hw w (by simp)) l hl)
  have outer (es : List (Byte × Nat)) (he : ∀ e ∈ es, off + e.2 < 2 ^ 24) (l : List GranuleWrite) (hl : ∀ x ∈ l, P x) :
      ∀ x ∈ es.foldl (fun l e => (elemWrites 2 saveDesc [off + e.2] e.1.toNat pois).foldl (fun l w => mergeWrite w l) l) l, P x := by
    induction es generalizing l with
    | nil => exact hl
    | cons e es ih =>
      exact ih (fun x hx => he x (by simp [hx])) _ (inner _ (elem e.2 e.1.toNat (he e (by simp))) l hl)
  refine outer _ (fun e he => ?_) [] (by simp)
  have := List.snd_lt_of_mem_zipIdx he
  omega

/-- The descriptor of the save area's tensor reads the same. -/
theorem saving_desc {u : State} (h : sameBut savingState u) : u.plainDesc workContext 0 2 = some saveDesc := by
  have b2 : u.descBits workContext 0 2 = bytesDesc 0x12 (2 ^ 24) := by
    rw [← tables_known.2.2.1, ← h.1 0 0 1026 (by decide)]
    exact State.descBits_memory (by decide)
  have b1 : u.descBits workContext 0 1 = bytesDesc 0x11 131072 := by
    rw [← tables_known.2.2.2, ← h.1 0 0 1025 (by decide)]
    exact State.descBits_memory (by decide)
  have hw := (tableWord_same h 0x11000 (by decide)).trans tables_known.2.1
  have hn : (((descFields (bytesDesc 0x11 131072)).ext.headD 0 + 65535) / 65536 + 511) / 512 = 1 := by decide +kernel
  have hr : (descFields (bytesDesc 0x11 131072)).root * 4096 + 8 * 0 = 0x11000 := by decide +kernel
  have hm : min 512 (((descFields (bytesDesc 0x11 131072)).ext.headD 0 + 65535) / 65536 - 512 * 0) = 2 := by decide +kernel
  have ht : u.inTables workContext (descFields (bytesDesc 0x12 (2 ^ 24))).root = true := by
    have k := State.entryCovers_span (s := u) (c := workContext) (e := 0x27) (n := 2) (unit := (descFields (bytesDesc 0x12 (2 ^ 24))).root) (by decide)
    have k' : u.entryCovers workContext 0x27 2 (descFields (bytesDesc 0x12 (2 ^ 24))).root = true := k.trans (by decide +kernel)
    simp only [State.inTables, show workContext.tblt = 1 from rfl, b1, hn, List.range_one, List.any_cons, List.any_nil, hr, hw, hm, k', Bool.true_or]
  have hwf : descWellFormed workContext (bytesDesc 0x12 (2 ^ 24)) = true := by decide +kernel
  simp only [State.plainDesc, b2, hwf, ht]
  rfl

theorem saving_struct {u : State} (h : sameBut savingState u) (addr : Word) (off n : Nat) (ha : wbits addr 0 20 = 2)
    (ho : wbits addr 20 44 = off) (hn : off + n ≤ saveDesc.ext.headD 0) (hal : off % 64 = 0) :
    u.structAt workContext 0 addr n 64 = .ok (2, off, saveDesc) :=
  State.structAt_ok ha ho (saving_desc h) (by decide +kernel) (by decide +kernel) hn hal

theorem pieceWritten_ok (s u : State) (x : Context) (t : List Touch) : s.pieceWritten x (.ok (u, [], t)) = (u.tracesOf (u.noteList x 0 t), none) := by
  unfold State.pieceWritten
  rfl

theorem writePart_ok {s u : State} {x : Context} {base : Word} {o : Nat} {bs : List Byte} {t : List Touch} (hc : s.choice = 0)
    (h : s.writeStruct x 0 (structPlus base o) 64 bs none = .ok (u, [], t)) :
    s.writePart x base o bs = (u.tracesOf (u.noteList x 0 t), none) := by
  unfold State.writePart
  rw [hc, h, pieceWritten_ok]

theorem writeParts_cons {s u v : State} {x : Context} {base : Word} {o : Nat} {bs : List Byte} {l : List (Nat × List Byte)} {r : Option Raised}
    (h : s.writePart x base o bs = (u, none)) (k : u.writeParts x base l = (v, r)) : s.writeParts x base ((o, bs) :: l) = (v, r) := by
  rw [State.writeParts]
  rewrite [h]
  exact k

theorem mod_of_cong (a b m : Nat) (h : b < m) (k : ∃ q, a = b + m * q) : a % m = b := by
  obtain ⟨q, rfl⟩ := k
  rw [Nat.add_mul_mod_self_left, Nat.mod_eq_of_lt h]

/-- The offset and tensor of an address inside the tensor of the save area. -/
theorem plus_fields (d o : Nat) (h : d + o < 2 ^ 44) :
    wbits (structPlus (BitVec.ofNat 64 (2 + 2 ^ 20 * d)) o) 0 20 = 2 ∧ wbits (structPlus (BitVec.ofNat 64 (2 + 2 ^ 20 * d)) o) 20 44 = d + o := by
  have hv : (structPlus (BitVec.ofNat 64 (2 + 2 ^ 20 * d)) o).toNat = 2 + 2 ^ 20 * (d + o) := by
    have lt : 2 + 2 ^ 20 * (d + o) < 2 ^ 64 := by
      have : 2 ^ 20 * (d + o) ≤ 2 ^ 20 * (2 ^ 44 - 1) := Nat.mul_le_mul_left _ (Nat.le_sub_one_of_lt h)
      exact Nat.lt_of_le_of_lt (Nat.add_le_add_left this 2) (by decide)
    have e : structPlus (BitVec.ofNat 64 (2 + 2 ^ 20 * d)) o = BitVec.ofNat 64 (2 + 2 ^ 20 * (d + o)) := by
      rw [structPlus, ← BitVec.ofNat_add, Nat.mul_add, Nat.add_assoc]
      try rw [Nat.mul_comm o]
    rw [e, BitVec.toNat_ofNat, Nat.mod_eq_of_lt lt]
  unfold wbits bits
  rw [hv]
  generalize d + o = n at h
  constructor
  · rw [Nat.pow_zero, Nat.div_one]
    exact mod_of_cong _ _ _ (by decide) ⟨n, rfl⟩
  · rw [Nat.add_mul_div_left _ _ (by decide), show 2 / 2 ^ 20 = 0 by decide, Nat.zero_add, Nat.mod_eq_of_lt h]

/-- Pieces of the save area, each at a place of it, are all written. -/
theorem saving_parts (l : List (Nat × List Byte)) (u : State) (h : sameBut savingState u)
    (hl : ∀ p ∈ l, p.1 % 64 = 0 ∧ p.1 + p.2.length ≤ 2 ^ 23) : ∃ v, u.writeParts workContext (at_ 2 0x10000) l = (v, none) := by
  induction l generalizing u with
  | nil => exact ⟨u, rfl⟩
  | cons p l ih =>
    obtain ⟨o, bs⟩ := p
    have hx : saveDesc.ext.headD 0 = 2 ^ 24 := by decide +kernel
    have h1 : o % 64 = 0 := (hl _ (List.mem_cons_self ..)).1
    have h2 : o + bs.length ≤ 2 ^ 23 := (hl _ (List.mem_cons_self ..)).2
    have h3 : 0x10000 + o + bs.length ≤ 2 ^ 24 := by
      rw [Nat.add_assoc]
      exact Nat.le_trans (Nat.add_le_add_left h2 _) (by decide)
    have h4 : (0x10000 + o) % 64 = 0 := by rw [Nat.add_mod, h1]
    have h5 : 0x10000 + o < 2 ^ 44 := Nat.lt_of_le_of_lt (Nat.le_trans (Nat.le_add_right _ _) h3) (by decide)
    have hf : (at_ 2 0x10000) = BitVec.ofNat 64 (2 + 2 ^ 20 * 0x10000) := by decide +kernel
    obtain ⟨ha, ho⟩ := plus_fields 0x10000 o h5
    rw [← hf] at ha ho
    obtain ⟨v, tch, e, k⟩ := saving_writes _ u [] [] h (structWrites_page (0x10000 + o) bs none (Nat.le_add_right _ _) h3)
    obtain ⟨w, hw⟩ := ih _ (sameBut_trans k (traces_sameBut v workContext 0 tch)) fun q hq => hl q (List.mem_cons_of_mem _ hq)
    have hch : u.choice = 0 := by
      unfold State.choice
      rw [h.2.2.2.2]
      rfl
    exact ⟨w, writeParts_cons (writePart_ok hch (State.writeStruct_ok (saving_struct h _ _ _ ha ho (by rw [hx]; exact h3) h4) e)) hw⟩

theorem freeBytes_length (k n : Nat) : (freeBytes k (8 * n)).length = 8 * n := by
  simp [freeBytes, List.length_flatMap, bytesOf_length, Nat.mul_comm]

theorem padWords_length (k n : Nat) (l : List Nat) : (padWords k (8 * n) l).length = 8 * n := by
  have h : ((l.take (8 * n / 8)).flatMap fun w => bytesOf 8 w).length ≤ 8 * n := by
    simp [List.length_flatMap, bytesOf_length]
    omega
  simp only [padWords, List.length_append, List.length_drop, freeBytes_length]
  omega

theorem padWords_header (k : Nat) (l : List Nat) : (padWords k 65536 l).length = 65536 := padWords_length k 8192 l
theorem freeBytes_tags (k : Nat) : (freeBytes k 32768).length = 32768 := freeBytes_length k 4096

theorem flatMap_none {α β : Type} (l : List α) (f : α → List β) (h : l = []) : l.flatMap f = [] := by rw [h]; rfl

theorem saveParts_shape (s : State) (t : Team) (at_ : Nat) (hs : t.spans = 1) (hb : t.belt = 0) :
    s.saveParts t [] at_ = (0, padWords s.fresh 65536 (t.headerWords [] at_)) ::
      (t.strandOffset (4 * 0) + 409600, freeBytes (s.fresh + 2 ^ 20 + 4096 * 0) 32768) :: (List.range 32).map fun stn => (t.beltOffset 0 stn, []) := by
  have hp : t.parcelList 0 = [] := by simp [Team.parcelList, hb]
  unfold State.saveParts
  rw [hs, List.range_one, List.flatMap_nil, List.flatMap_singleton, hp, hb]
  generalize padWords s.fresh 65536 (t.headerWords [] at_) = head
  generalize freeBytes (s.fresh + 2 ^ 20 + 4096 * 0) 32768 = tags
  generalize t.strandOffset (4 * 0) + 409600 = place
  dsimp only
  rw [show List.range (1024 * 0) = [] from rfl, List.flatMap_nil, List.nil_append]
  simp only [List.map_nil]
  rfl

/-- Every piece that is saved of a team of one tower with no belt, all of whose strands have retired, lies in its save area. -/
theorem saveParts_retired (s : State) (t : Team) (at_ : Nat) (hs : t.spans = 1) (hb : t.belt = 0) (hw : 65536 + t.width * t.strandSize ≤ 2 ^ 22)
    (hm : t.strandSize % 64 = 0) : ∀ p ∈ s.saveParts t [] at_, p.1 % 64 = 0 ∧ p.1 + p.2.length ≤ 2 ^ 23 := by
  have hx : (t.width * t.strandSize) % 64 = 0 := by rw [Nat.mul_mod, hm, Nat.mul_zero, Nat.zero_mod]
  intro p hp'
  rw [saveParts_shape s t at_ hs hb, List.mem_cons, List.mem_cons, List.mem_map] at hp'
  rcases hp' with rfl | rfl | ⟨k, -, rfl⟩
  · refine ⟨rfl, ?_⟩
    dsimp only
    rw [padWords_header]
    decide
  · dsimp only
    rw [freeBytes_tags]
    rw [Team.strandOffset, Nat.mul_zero, Nat.zero_mul]
    decide
  · simp only [Team.beltOffset, hb, Nat.mul_zero, Nat.add_zero, List.length_nil]
    exact ⟨by rw [Nat.add_mod, hx], Nat.le_trans hw (by decide)⟩

/-- A team at rest whose save area can be written, and one whose save area has no tensor. -/
theorem test_hyp_save :
    savingState.team 1 = some savingTeam ∧ savingTeam.st = .stopping 990 false ∧ savingState.context 0 = some workContext ∧
    savingState.grid 1 = some workGrid ∧ workContext.destroying = false ∧ savingState.timedOf 1 = [] ∧
    savingState.atRest savingTeam 990 false = true ∧
    ∃ s1, savingState.writeParts workContext (structPlus workLaunch.saveaddr (savingTeam.index * savingTeam.saveSize))
      (savingState.saveParts savingTeam (savingState.savedStrands savingTeam 990) 990) = (s1, none) := by
  refine ⟨by decide +kernel, rfl, by decide +kernel, by decide +kernel, rfl, by decide +kernel, by decide +kernel, ?_⟩
  have e1 : savingState.savedStrands savingTeam 990 = [] := by decide +kernel
  have e2 : structPlus workLaunch.saveaddr (savingTeam.index * savingTeam.saveSize) = at_ 2 0x10000 := by decide +kernel
  rw [e1, e2]
  exact saving_parts _ _ (sameBut_refl _) (saveParts_retired _ _ _ (by decide) rfl (by decide) (by decide))

theorem writeParts_cons_fail {s : State} {x : Context} {base : Word} {o : Nat} {bs : List Byte} {l : List (Nat × List Byte)}
    (h : (s.writePart x base o bs).2.isSome = true) : (s.writeParts x base ((o, bs) :: l)).2.isSome = true := by
  rw [State.writeParts, if_pos h]
  exact h

theorem test_hyp_no_save :
    (savingState.writeParts workContext (at_ 3 0) (savingState.saveParts savingTeam (savingState.savedStrands savingTeam 990) 990)).2.isSome = true := by
  have hd : savingState.plainDesc workContext 0 (wbits (structPlus (at_ 3 0) 0) 0 20) = none := by decide +kernel
  have k (n : Nat) : ∃ e, savingState.structAt workContext 0 (structPlus (at_ 3 0) 0) n 64 = .error e := by
    unfold State.structAt
    dsimp only
    rewrite [hd]
    exact ⟨_, rfl⟩
  have h (bs : List Byte) : (savingState.writePart workContext (at_ 3 0) 0 bs).2.isSome = true := by
    obtain ⟨e, he⟩ := k bs.length
    unfold State.writePart State.writeStruct
    rewrite [show savingState.choice = 0 from rfl, he]
    cases e <;> rfl
  rw [show savingState.savedStrands savingTeam 990 = [] by decide +kernel, saveParts_shape _ _ _ rfl rfl]
  exact writeParts_cons_fail (h _)

end Sys2Proof.Tests
end

/-! # O39 and O40: the byte memories are in canonical form in the reset state, and every step keeps them so

One lemma says of each function of the model that yields a state what becomes of `State.memoryWf`: a function that leaves the three byte
memories alone does not change it (an equation, which `simp` rewrites with), and one that writes them keeps it (an implication). An operation that
yields an outcome keeps it in the state it goes on in (`NextWf`). The lemmas stand in the order of the model's files; `nextWf_exec` puts them
together for the instructions and events, and `State.memoryWf_nextWork` for the moves of the schedule. -/

namespace Sys2Proof.Machine

/-! ### The form of a state, of a choice and of a fold -/

/-- A record update is an application of the constructor: only three of the fields count. The proofs of this lemma and the next are not `rfl`, so
that `simp` does not leave the comparison of two states to the kernel. -/
@[simp] theorem State.memoryWf_mk (a0 a1 a2 a3 a4 a5 a6 a7 a8 a9 a10 hbm a12 a13 a14 a15 a16 ring a18 a19 a20 a21 a22 a23 a24 a25 istore
    a27 a28 a29 a30 a31 a32 a33 a34 a35 a36 a37 a38 a39 a40 a41 a42 a43) :
    (State.mk a0 a1 a2 a3 a4 a5 a6 a7 a8 a9 a10 hbm a12 a13 a14 a15 a16 ring a18 a19 a20 a21 a22 a23 a24 a25 istore
      a27 a28 a29 a30 a31 a32 a33 a34 a35 a36 a37 a38 a39 a40 a41 a42 a43).memoryWf = (Memory.wf hbm && Memory.wf ring && Memory.wf istore) := by
  simp only [State.memoryWf]

@[simp] theorem State.memoryWf_fold (s : State) : (Memory.wf s.hbm && Memory.wf s.ring && Memory.wf s.istore) = s.memoryWf := by
  rw [State.memoryWf]

theorem State.memoryWf_iff (s : State) :
    s.memoryWf = true ↔ Memory.wf s.hbm = true ∧ Memory.wf s.ring = true ∧ Memory.wf s.istore = true := by
  simp only [State.memoryWf, Bool.and_eq_true, and_assoc]

theorem State.memoryWf_congr {s t : State} (hhbm : t.hbm = s.hbm) (hring : t.ring = s.ring) (histore : t.istore = s.istore) :
    t.memoryWf = s.memoryWf := by
  rw [State.memoryWf, State.memoryWf, hhbm, hring, histore]

@[simp] theorem State.memoryWf_ite (c : Prop) [Decidable c] (a b : State) :
    (if c then a else b).memoryWf = if c then a.memoryWf else b.memoryWf := apply_ite State.memoryWf c a b

theorem State.memoryWf_ite_of {c : Prop} [Decidable c] {a b : State} (ha : a.memoryWf = true) (hb : b.memoryWf = true) :
    (if c then a else b).memoryWf = true := by
  split
  · exact ha
  · exact hb

@[simp] theorem State.memoryWf_foldl {α : Type} {f : State → α → State} (hf : ∀ s a, (f s a).memoryWf = s.memoryWf) (l : List α) (s : State) :
    (l.foldl f s).memoryWf = s.memoryWf := by
  induction l generalizing s with
  | nil => rfl
  | cons a l ih => rw [List.foldl_cons, ih, hf]

@[simp] theorem State.memoryWf_foldl_of {α : Type} {f : State → α → State} (hf : ∀ s a, s.memoryWf = true → (f s a).memoryWf = true) (l : List α)
    (s : State) (h : s.memoryWf = true) : (l.foldl f s).memoryWf = true := by
  induction l generalizing s with
  | nil => exact h
  | cons a l ih => exact ih _ (hf s a h)

/-- An outcome that goes on in a state goes on in one whose byte memories are in canonical form. -/
def NextWf (o : Host.Outcome State Fault Refusal) : Prop := ∀ t, o = .next t → t.memoryWf = true

@[simp] theorem nextWf_next (s : State) : NextWf (.next s) ↔ s.memoryWf = true :=
  ⟨fun h => h s rfl, fun h t e => by cases e; exact h⟩
@[simp] theorem nextWf_fault (r : Fault) : NextWf (.fault r) := fun _ e => by cases e
@[simp] theorem nextWf_ite (c : Prop) [Decidable c] (a b : Host.Outcome State Fault Refusal) :
    NextWf (if c then a else b) ↔ if c then NextWf a else NextWf b := by split <;> rfl

/-! ### Sys2Proof/Machine/State.lean -/

@[simp] theorem State.memoryWf_reset : State.reset.memoryWf = true := rfl

/-! ### Sys2Proof/Machine/Tensor.lean -/

@[simp] theorem State.memoryWf_setContext (s : State) (c : Context) : (s.setContext c).memoryWf = s.memoryWf := by simp [State.setContext]
@[simp] theorem State.memoryWf_setGranule (s : State) (g : Nat) (v : Granule) : (s.setGranule g v).memoryWf = s.memoryWf := by simp [State.setGranule]

@[simp] theorem State.memoryWf_writeGranuleAt (s : State) (ctx key g mask data : Nat) (pois : Option (Nat × Nat)) (h : s.memoryWf = true) :
    (s.writeGranuleAt ctx key g mask data pois).memoryWf = true := State.writeGranuleAt_wf _ _ _ _ _ _ _ h

@[simp] theorem State.memoryWf_putGranule (s : State) (c : Context) (tid key : Nat) (short : Option Nat) (g mask data : Nat)
    (pois : Option (Nat × Nat)) (h : s.memoryWf = true) : (s.putGranule c tid key short g mask data pois).memoryWf = true :=
  State.putGranule_wf _ _ _ _ _ _ _ _ _ h

@[simp] theorem State.memoryWf_writeGranules (s : State) (c : Context) (old : Nat) (d : Desc) (l : List GranuleWrite)
    (out : List (Nat × Nat × GranuleWrite)) (tch : List Touch) (h : s.memoryWf = true) :
    (s.writeGranules c old d l out tch).1.memoryWf = true := State.writeGranules_wf _ _ _ _ _ _ _ h

@[simp] theorem State.memoryWf_touchPage (s : State) (page tower tid t ctx : Nat) : (s.touchPage page tower tid t ctx).memoryWf = s.memoryWf := by
  simp [State.touchPage]

@[simp] theorem State.memoryWf_touchTable (s : State) (c : Context) (tower addr : Nat) : (s.touchTable c tower addr).memoryWf = s.memoryWf := by
  simp [State.touchTable]

@[simp] theorem State.memoryWf_cache (s : State) (unit ctx tid : Nat) (key : CacheKey) (words : List Nat) :
    (s.cache unit ctx tid key words).memoryWf = s.memoryWf := by
  simp [State.cache]

@[simp] theorem State.memoryWf_cacheDesc (s : State) (c : Context) (tower tid : Nat) : (s.cacheDesc c tower tid).memoryWf = s.memoryWf := by
  simp [State.cacheDesc]

@[simp] theorem State.memoryWf_touchEntry (s : State) (c : Context) (tower : Nat) (d : Desc) (t : Nat) :
    (s.touchEntry c tower d t).memoryWf = s.memoryWf := by
  unfold State.touchEntry
  dsimp only
  split <;> simp

@[simp] theorem State.memoryWf_cacheEntry (s : State) (c : Context) (tower tid : Nat) (d : Desc) (t : Nat) :
    (s.cacheEntry c tower tid d t).memoryWf = s.memoryWf := by
  simp [State.cacheEntry]

@[simp] theorem State.memoryWf_noteTouch (s : State) (c : Context) (tower : Nat) (x : Touch) : (s.noteTouch c tower x).memoryWf = s.memoryWf := by
  unfold State.noteTouch
  dsimp only
  repeat' split
  all_goals simp

@[simp] theorem State.memoryWf_noteList (s : State) (c : Context) (tower : Nat) (l : List Touch) :
    (s.noteList c tower l).memoryWf = s.memoryWf := State.memoryWf_foldl (by simp) _ _

/-! ### Sys2Proof/Machine/Ops.lean -/

@[simp] theorem State.memoryWf_setTeam (s : State) (t : Team) : (s.setTeam t).memoryWf = s.memoryWf := by simp [State.setTeam]
@[simp] theorem State.memoryWf_setStrand (s : State) (st : Strand) : (s.setStrand st).memoryWf = s.memoryWf := by simp [State.setStrand]

@[simp] theorem State.memoryWf_mapStrands (s : State) (team : Nat) (f : Strand → Strand) : (s.mapStrands team f).memoryWf = s.memoryWf := by
  simp [State.mapStrands]

@[simp] theorem State.memoryWf_setGrid (s : State) (g : Grid) : (s.setGrid g).memoryWf = s.memoryWf := by simp [State.setGrid]
@[simp] theorem State.memoryWf_setCmd (s : State) (c : Cmd) : (s.setCmd c).memoryWf = s.memoryWf := by simp [State.setCmd]
@[simp] theorem State.memoryWf_dropCmd (s : State) (id : Nat) : (s.dropCmd id).memoryWf = s.memoryWf := by simp [State.dropCmd]
@[simp] theorem State.memoryWf_setTower (s : State) (i : Nat) (t : Tower) : (s.setTower i t).memoryWf = s.memoryWf := by simp [State.setTower]
@[simp] theorem State.memoryWf_setCore (s : State) (i : Nat) (c : Core) : (s.setCore i c).memoryWf = s.memoryWf := by simp [State.setCore]
@[simp] theorem State.memoryWf_chosen (s : State) : (s.chosen).memoryWf = s.memoryWf := by simp [State.chosen]
@[simp] theorem State.memoryWf_freed (s : State) : (s.freed).memoryWf = s.memoryWf := by simp [State.freed]

@[simp] theorem State.memoryWf_releaseCmd (s : State) (c : Cmd) : (s.releaseCmd c).memoryWf = s.memoryWf := by
  unfold State.releaseCmd
  split <;> simp

@[simp] theorem State.memoryWf_poisonTags (s : State) (l : List Nat) : (s.poisonTags l).memoryWf = s.memoryWf := by simp [State.poisonTags]

@[simp] theorem State.memoryWf_performStore (s : State) (t : Team) (w : RingStore) (h : s.memoryWf = true) :
    (s.performStore t w).memoryWf = true := State.performStore_wf _ _ _ h

@[simp] theorem State.memoryWf_setLine (s : State) (k : Nat) (v : TileLine) : (s.setLine k v).memoryWf = s.memoryWf := by simp [State.setLine]
@[simp] theorem State.memoryWf_setAccRow (s : State) (k : Nat) (v : AccRow) : (s.setAccRow k v).memoryWf = s.memoryWf := by simp [State.setAccRow]

@[simp] theorem State.memoryWf_slotDone (s : State) (checks live : List Raised) (effects : List Effect) :
    (s.slotDone checks live effects).memoryWf = s.memoryWf := by
  simp [State.slotDone]

@[simp] theorem State.memoryWf_countRecord (s : State) (p : PendingRecord) : (s.countRecord p).memoryWf = s.memoryWf := by
  unfold State.countRecord
  split <;> simp

@[simp] theorem State.memoryWf_addRecord (s : State) (ctx : Nat) (p : PendingRecord) : (s.addRecord ctx p).memoryWf = s.memoryWf := by
  unfold State.addRecord
  split <;> simp

@[simp] theorem State.memoryWf_noteIndex (s : State) (p : PendingRecord) (fwidx : Nat) : (s.noteIndex p fwidx).memoryWf = s.memoryWf := by
  unfold State.noteIndex
  split <;> simp

@[simp] theorem State.memoryWf_deviceWrite (s : State) (c : Context) (addr : Word) (bs : List Byte) (h : s.memoryWf = true) :
    (s.deviceWrite c addr bs).memoryWf = true := State.deviceWrite_wf _ _ _ _ h

@[simp] theorem State.memoryWf_deviceNote (s : State) (c : Context) (addr : Word) (n : Nat) : (s.deviceNote c addr n).memoryWf = s.memoryWf := by
  unfold State.deviceNote
  split <;> simp

@[simp] theorem State.memoryWf_tracesOf (s u : State) : (s.tracesOf u).memoryWf = s.memoryWf := by simp [State.tracesOf]

@[simp] theorem State.memoryWf_deviceNotes (s : State) (c : Context) (l : List (Word × Nat)) : (s.deviceNotes c l).memoryWf = s.memoryWf := by
  simp [State.deviceNotes]

@[simp] theorem State.memoryWf_counterAdd (s : State) (ctx : Nat) (addr : Word) (inc : Nat) (h : s.memoryWf = true) :
    (s.counterAdd ctx addr inc).memoryWf = true := by
  unfold State.counterAdd
  split <;> simp [h]

@[simp] theorem State.memoryWf_writeRecord (s : State) (c : Context) (p : PendingRecord) (h : s.memoryWf = true) :
    (s.writeRecord c p).1.memoryWf = true := by
  unfold State.writeRecord
  dsimp only
  split
  · split
    · split
      · rw [State.memoryWf_setTeam]
        split <;> simp [h]
      · dsimp only
        split <;> simp [h]
    · dsimp only
      split <;> simp [h]
  · split <;> simp [h]

@[simp] theorem State.memoryWf_writeRecords (ctx : Nat) (l kept : List PendingRecord) (s : State) (h : s.memoryWf = true) :
    (s.writeRecords ctx l kept).memoryWf = true := by
  induction l generalizing s kept with
  | nil =>
    unfold State.writeRecords
    split <;> simp [h]
  | cons p l ih =>
    unfold State.writeRecords
    split
    · exact h
    · split
      · exact ih _ _ (State.memoryWf_writeRecord _ _ _ h)
      · simp [h]

@[simp] theorem State.memoryWf_flushRecords (s : State) (ctx : Nat) (h : s.memoryWf = true) : (s.flushRecords ctx).memoryWf = true := by
  unfold State.flushRecords
  split <;> simp [h]

@[simp] theorem State.memoryWf_logEvent (s : State) (ctx : Nat) (grid : Option Nat) (words : Chunk) :
    (s.logEvent ctx grid words).memoryWf = s.memoryWf := by
  simp [State.logEvent]

@[simp] theorem State.memoryWf_freezeStrands (s : State) (team : Nat) : (s.freezeStrands team).memoryWf = s.memoryWf := by simp [State.freezeStrands]

@[simp] theorem State.memoryWf_takeFault (s : State) (team stopAt : Nat) (l : List (Nat × Nat × Raised × Word)) :
    (s.takeFault team stopAt l).memoryWf = s.memoryWf := by
  unfold State.takeFault
  split <;> simp

@[simp] theorem State.memoryWf_commandFault (s : State) (c : Cmd) (r : Raised) : (s.commandFault c r).memoryWf = s.memoryWf := by
  unfold State.commandFault
  dsimp only
  repeat' split
  all_goals simp

/-! ### Sys2Proof/Machine/Control.lean -/

@[simp] theorem State.nextWf_loopOp (s : State) (count : Nat) (m : BitVec 12) (poison : List Raised) (h : s.memoryWf = true) :
    NextWf (State.loopOp s count m poison) := by
  simp [State.loopOp, h]

@[simp] theorem State.nextWf_timedOp (s : State) (v : Nat) (poison : List Raised) (h : s.memoryWf = true) : NextWf (State.timedOp s v poison) := by
  simp [State.timedOp, h]

@[simp] theorem nextWf_execWaitc (a b : BitVec 6) (s : State) (h : s.memoryWf = true) : NextWf (execWaitc a b s) := by
  unfold execWaitc
  dsimp only
  repeat' split
  all_goals simp [h]

/-! ### Sys2Proof/Machine/Mem.lean -/

@[simp] theorem State.nextWf_loadOp (s : State) (ea : Word) (size : Nat) (diag chk : Bool) (dst : LoadDst) (extra : List Raised)
    (live : List Raised := []) (h : s.memoryWf = true) :
    NextWf (State.loadOp s ea size diag chk dst extra live) := by
  simp [State.loadOp, h]

@[simp] theorem State.nextWf_loadTile (s : State) (chk : Bool) (d a b : BitVec 6) (h : s.memoryWf = true) : NextWf (State.loadTile s chk d a b) := by
  simp [State.loadTile, h]

@[simp] theorem State.nextWf_loadPlane (s : State) (chk : Bool) (d a b : BitVec 6) (h : s.memoryWf = true) :
    NextWf (State.loadPlane s chk d a b) := by
  simp [State.loadPlane, h]

@[simp] theorem State.nextWf_storeOp (s : State) (ea : Word) (size : Nat) (diag : Bool) (data : Row) (pois : BitVec 8) (extra live : List Raised)
    (h : s.memoryWf = true) :
    NextWf (State.storeOp s ea size diag data pois extra live) := by
  simp [State.storeOp, h]

@[simp] theorem nextWf_execQpush (e n : BitVec 1) (m : BitVec 2) (a : BitVec 6) (s : State) (h : s.memoryWf = true) :
    NextWf (execQpush e n m a s) := by
  unfold execQpush
  dsimp only
  split <;> simp [h]

@[simp] theorem nextWf_execQpop (d : BitVec 6) (m : BitVec 3) (s : State) (h : s.memoryWf = true) : NextWf (execQpop d m s) := by
  unfold execQpop
  dsimp only
  repeat' split
  all_goals simp [h]

/-! ### Sys2Proof/Machine/Vector.lean -/

@[simp] theorem State.nextWf_vecOp (s : State) (latency : Nat) (d : BitVec 6) (srcs : List (BitVec 6)) (extra : List Raised) (elems : List Nat)
    (more : List Effect) (live : List Raised := []) (h : s.memoryWf = true) :
    NextWf (State.vecOp s latency d srcs extra elems more live) := by
  simp [State.vecOp, h]

@[simp] theorem State.nextWf_vcmpOp (s : State) (d a b : BitVec 6) (rel : Num → Num → Bool) (h : s.memoryWf = true) :
    NextWf (State.vcmpOp s d a b rel) := by
  simp [State.vcmpOp, h]

@[simp] theorem State.nextWf_redOp (s : State) (d a : BitVec 6) (v : Word) (h : s.memoryWf = true) : NextWf (State.redOp s d a v) := by
  simp [State.redOp, h]

@[simp] theorem State.nextWf_maskOp (s : State) (checks : List Raised) (live : List Raised) (bad : Bool) (stack : List Mask) (h : s.memoryWf = true) :
    NextWf (State.maskOp s checks live bad stack) := by
  simp [State.maskOp, h]

@[simp] theorem nextWf_execMinv (s : State) (h : s.memoryWf = true) : NextWf (execMinv s) := by
  unfold execMinv
  split <;> simp [h]

@[simp] theorem State.nextWf_dotOp (s : State) (w t : Nat) (sat ua ub : BitVec 1) (d a b : BitVec 6) (h : s.memoryWf = true) :
    NextWf (State.dotOp s w t sat ua ub d a b) := by
  simp [State.dotOp, h]

@[simp] theorem State.nextWf_sfnOp (s : State) (f : SpecialFn) (d a : BitVec 6) (h : s.memoryWf = true) : NextWf (State.sfnOp s f d a) := by
  simp [State.sfnOp, h]

/-! ### Sys2Proof/Machine/System.lean -/

@[simp] theorem State.memoryWf_retype (s : State) (t : Team) (st : Strand) (tile : Nat) : (s.retype t st tile).memoryWf = s.memoryWf :=
  State.memoryWf_foldl (by simp) _ _

@[simp] theorem State.nextWf_engineIssue (s : State) (op : CmdOp) (token : BitVec 6) (w0 w1 w2 : Word) (checks live : List Raised)
    (more : List Effect) (h : s.memoryWf = true) :
    NextWf (State.engineIssue s op token w0 w1 w2 checks live more) := by
  simp [State.engineIssue, h]

/-! ### Sys2Proof/Machine/Cube.lean -/

@[simp] theorem State.nextWf_cubeOp (s : State) (op : CmdOp) (t a b : BitVec 6) (h : s.memoryWf = true) : NextWf (State.cubeOp s op t a b) := by
  simp [State.cubeOp, h]

@[simp] theorem State.memoryWf_auditStart (s : State) (c : Cmd) : (s.auditStart c).memoryWf = s.memoryWf := by
  unfold State.auditStart
  dsimp only
  repeat' split
  all_goals simp

@[simp] theorem State.memoryWf_mapSamples (s : State) (f : Sample → Sample) : (s.mapSamples f).memoryWf = s.memoryWf := by simp [State.mapSamples]
@[simp] theorem State.memoryWf_ownPlanes (s : State) (t : Team) (k : Claim) : (s.ownPlanes t k).memoryWf = s.memoryWf := by simp [State.ownPlanes]

@[simp] theorem State.memoryWf_cubeBegin (s : State) (t : Team) (st : Strand) (c : Cmd) : (s.cubeBegin t st c).memoryWf = s.memoryWf := by
  unfold State.cubeBegin
  dsimp only
  split <;> simp

@[simp] theorem nextWf_execCubeCommandStart (cmd : Nat) (s : State) (h : s.memoryWf = true) : NextWf (execCubeCommandStart cmd s) := by
  unfold execCubeCommandStart
  split
  · simp [h]
  · split
    · split
      · split <;> simp [h]
      · simp [h]
    · simp [h]

@[simp] theorem nextWf_execCubeStepFeed (cmd : Nat) (s : State) (h : s.memoryWf = true) : NextWf (execCubeStepFeed cmd s) := by
  unfold execCubeStepFeed
  split
  · simp [h]
  · split <;> simp [h]

@[simp] theorem State.memoryWf_addStep (s : State) (t : Team) (st : Strand) (c : Cmd) (f : FedStep) :
    (s.addStep t st c f).memoryWf = s.memoryWf := State.memoryWf_foldl (by simp) _ _

@[simp] theorem State.memoryWf_commitStep (s : State) (t : Team) (st : Strand) (c : Cmd) (f : FedStep) :
    (s.commitStep t st c f).memoryWf = s.memoryWf := by
  unfold State.commitStep
  dsimp only
  rw [State.memoryWf_setTower, State.memoryWf_mapSamples, State.memoryWf_addStep]

@[simp] theorem nextWf_execCubeStepCommit (cmd : Nat) (s : State) (h : s.memoryWf = true) : NextWf (execCubeStepCommit cmd s) := by
  unfold execCubeStepCommit
  split
  · simp [h]
  · split
    · split <;> simp [h]
    · simp [h]

@[simp] theorem State.memoryWf_keepStarts (s : State) (t : Team) (c : Cmd) : (s.keepStarts t c).memoryWf = s.memoryWf := by simp [State.keepStarts]

@[simp] theorem nextWf_execWldComplete (cmd : Nat) (s : State) (h : s.memoryWf = true) : NextWf (execWldComplete cmd s) := by
  unfold execWldComplete
  split
  · simp [h]
  · split <;> simp [h]

/-! ### Sys2Proof/Machine/Links.lean -/

@[simp] theorem State.memoryWf_replayLink (s : State) (port link : Nat) : (s.replayLink port link).memoryWf = s.memoryWf := by
  unfold State.replayLink
  dsimp only
  split <;> simp

@[simp] theorem State.memoryWf_replays (s : State) : (s.replays).memoryWf = s.memoryWf := by simp [State.replays]
@[simp] theorem State.memoryWf_markDown (s : State) : (s.markDown).memoryWf = s.memoryWf := by simp [State.markDown]

@[simp] theorem State.memoryWf_acknowledge (s : State) (port link ack : Nat) : (s.acknowledge port link ack).memoryWf = s.memoryWf := by
  simp [State.acknowledge]

/-! ### Sys2Proof/Machine/Engine.lean -/

@[simp] theorem State.memoryWf_queueWrites (s : State) (cid : Nat) (t : Team) (addr : BitVec 28) (diag : Bool) (b0 : Nat) (bs : List Byte)
    (pois : List Bool) (k : Nat) :
    (s.queueWrites cid t addr diag b0 bs pois k).memoryWf = s.memoryWf := by
  simp [State.queueWrites]

@[simp] theorem State.memoryWf_queueTag (s : State) (cid : Nat) (t : Team) (addr : BitVec 28) (p : Nat) (seq : BitVec 16) (whole : Bool) :
    (s.queueTag cid t addr p seq whole).memoryWf = s.memoryWf := by
  simp [State.queueTag]

@[simp] theorem State.memoryWf_queueTags (s : State) (cid : Nat) (t : Team) (addr : BitVec 28) (total b0 b1 : Nat) (seq : BitVec 16) :
    (s.queueTags cid t addr total b0 b1 seq).memoryWf = s.memoryWf := State.memoryWf_foldl (by simp) _ _

@[simp] theorem State.memoryWf_deliver (s : State) (cid : Nat) (t : Team) (addr : BitVec 28) (diag : Bool) (total b0 : Nat) (bs : List Byte)
    (pois : List Bool) (seq : BitVec 16) :
    (s.deliver cid t addr diag total b0 bs pois seq).memoryWf = s.memoryWf := by
  simp [State.deliver]

@[simp] theorem State.memoryWf_queueUpdate (s : State) (cid : Nat) (t : Team) (addr : BitVec 28) (diag : Bool) (i fmt op : Nat) (bs : List Byte)
    (bad : Bool) :
    (s.queueUpdate cid t addr diag i fmt op bs bad).memoryWf = s.memoryWf := by
  simp [State.queueUpdate]

@[simp] theorem State.memoryWf_noteRead (s : State) (c : Cmd) (l : List (BitVec 28 × Bool × Nat × Nat)) (new : List Nat) :
    (s.noteRead c l new).memoryWf = s.memoryWf := by
  unfold State.noteRead
  split <;> simp

@[simp] theorem State.memoryWf_noteTouches (c : Context) (cid : Nat) (l : List Touch) (s : State) :
    (s.noteTouches c cid l).memoryWf = s.memoryWf := by
  induction l generalizing s with
  | nil => rfl
  | cons x l ih =>
    rw [State.noteTouches, ih]
    split <;> simp

@[simp] theorem State.memoryWf_updateElem (s : State) (x : Context) (tid : Nat) (d : Desc) (page off : Nat) (o : NmOp) (v : Nat) (pois : Bool)
    (h : s.memoryWf = true) : (s.updateElem x tid d page off o v pois).memoryWf = true := State.memoryWf_putGranule _ _ _ _ _ _ _ _ _ h

@[simp] theorem State.memoryWf_choosePath (s : State) (ctx dev cls : Nat) : (s.choosePath ctx dev cls).memoryWf = s.memoryWf := by
  simp [State.choosePath]

@[simp] theorem State.memoryWf_sendUntimed (s : State) (via : Option Nat) (dev : Nat) (l : List (BitVec 1920)) :
    (s.sendUntimed via dev l).memoryWf = s.memoryWf := by
  simp [State.sendUntimed]

@[simp] theorem State.memoryWf_stepped (s : State) (cid : Nat) : (s.stepped cid).memoryWf = s.memoryWf := by
  unfold State.stepped
  split <;> simp

@[simp] theorem State.memoryWf_leftFor (s : State) (o : Outstanding) : (s.leftFor o).memoryWf = s.memoryWf := by simp [State.leftFor]
@[simp] theorem State.memoryWf_sendNow (s : State) (o : Outstanding) : (s.sendNow o).memoryWf = s.memoryWf := by simp [State.sendNow]

@[simp] theorem State.memoryWf_pumpReplies (l : List ReplyHeld) (s : State) (kept : List ReplyHeld) :
    (State.pumpReplies l s kept).memoryWf = s.memoryWf := by
  induction l generalizing s kept with
  | nil => simp [State.pumpReplies]
  | cons r l ih => simp [State.pumpReplies, ih]

@[simp] theorem State.memoryWf_pump (s : State) : s.pump.memoryWf = s.memoryWf := State.memoryWf_foldl (by simp) _ _

@[simp] theorem State.memoryWf_pumpAll (s : State) : s.pumpAll.memoryWf = s.memoryWf := by
  unfold State.pumpAll
  simp

@[simp] theorem State.memoryWf_sendRequest (s : State) (cid ctx dev cls : Nat) (what : ReqKind) (write : Bool) (bytes : Nat) (r : UntimedRequest) :
    (s.sendRequest cid ctx dev cls what write bytes r).memoryWf = s.memoryWf := by
  simp [State.sendRequest]

@[simp] theorem State.memoryWf_fetchGranule (s : State) (cid ctx dev page gran : Nat) :
    (s.fetchGranule cid ctx dev page gran).memoryWf = s.memoryWf := by
  simp [State.fetchGranule]

@[simp] theorem State.memoryWf_pollCounter (s : State) (ctx : Nat) (addr : Word) : (s.pollCounter ctx addr).memoryWf = s.memoryWf := by
  unfold State.pollCounter
  split <;> simp

@[simp] theorem State.memoryWf_forgetPoll (s : State) (ctx : Nat) (addr : Word) : (s.forgetPoll ctx addr).memoryWf = s.memoryWf := by
  simp [State.forgetPoll]

@[simp] theorem State.memoryWf_heardPoll (s : State) (ctx : Nat) (addr : Word) (data : Nat) (pois : Bool) (fault : Option Raised) :
    (s.heardPoll ctx addr data pois fault).memoryWf = s.memoryWf := by
  simp [State.heardPoll]

@[simp] theorem State.memoryWf_sendWrites (s : State) (cid ctx : Nat) (l : List ((Nat × Nat × GranuleWrite) × Nat)) :
    (s.sendWrites cid ctx l).memoryWf = s.memoryWf := by
  simp [State.sendWrites]

@[simp] theorem State.memoryWf_sendElem (s : State) (cid ctx dev page off : Nat) (o : NmOp) (v : Nat) (pois : Bool) :
    (s.sendElem cid ctx dev page off o v pois).memoryWf = s.memoryWf := by
  simp [State.sendElem]

@[simp] theorem State.memoryWf_begin (s : State) (c : Cmd) (steps : Nat) : (s.begin c steps).memoryWf = s.memoryWf := by simp [State.begin]

@[simp] theorem State.memoryWf_finish (s : State) (cid : Nat) (status : BitVec 4) : (s.finish cid status).memoryWf = s.memoryWf := by
  unfold State.finish
  split <;> simp

@[simp] theorem State.memoryWf_accessRaise (s : State) (cid : Nat) (r : Raised) : (s.accessRaise cid r).memoryWf = s.memoryWf := by
  unfold State.accessRaise
  split <;> simp

@[simp] theorem State.memoryWf_mailbox (s : State) (team strand m : Nat) (v : Word) (pois : Bool) (key : Nat) :
    (s.mailbox team strand m v pois key).memoryWf = s.memoryWf := by
  unfold State.mailbox
  split <;> simp

@[simp] theorem State.memoryWf_noteForeign (x : Context) (l : List Touch) (s : State) : (s.noteForeign x l).memoryWf = s.memoryWf := by
  induction l generalizing s with
  | nil => rfl
  | cons t l ih =>
    rw [State.noteForeign, ih]
    simp

theorem State.memoryWf_windowWrite {s u : State} {c : Context} {w o kind : Nat} {peer : Option Nat} {bs : List Byte} {mask : Nat}
    {pois : Nat → Bool} (h : s.memoryWf = true) (e : s.windowWrite c w o kind peer bs mask pois = .ok u) : u.memoryWf = true := by
  unfold State.windowWrite at e
  split at e
  · cases e
  · next x _ =>
    split at e
    · cases e
    · next d _ =>
      have hw := State.memoryWf_writeGranules s c s.choice d (windowWrites x o bs mask pois c.num) [] [] h
      split at e
      · next q =>
        cases e
        rw [q] at hw
        simpa using hw
      · cases e

theorem State.memoryWf_windowElement {s u : State} {c : Context} {w o : Nat} {peer : Option Nat} {op : NmOp} {v : Nat} {pois : Bool}
    (h : s.memoryWf = true) (e : s.windowElement c w o peer op v pois = .ok u) : u.memoryWf = true := by
  unfold State.windowElement at e
  dsimp only at e
  split at e
  · cases e
  · split at e
    · cases e
    · split at e
      · split at e
        · cases e
        · cases e
          simp [h]
      · cases e

/-! ### Sys2Proof/Machine/Copy.lean -/

@[simp] theorem State.memoryWf_startFault (s : State) (c : Cmd) (x : Cause) : (s.startFault c x).memoryWf = s.memoryWf := by simp [State.startFault]
@[simp] theorem State.memoryWf_startPoison (s : State) (c : Cmd) : (s.startPoison c).memoryWf = s.memoryWf := by simp [State.startPoison]

@[simp] theorem State.memoryWf_copyStart (s : State) (x : Context) (t : Team) (old : Nat) (c : Cmd) :
    (s.copyStart x t old c).memoryWf = s.memoryWf := by
  unfold State.copyStart
  split
  · simp
  · split <;> simp

@[simp] theorem State.memoryWf_ccopyStart (s : State) (x : Context) (t : Team) (old : Nat) (c : Cmd) :
    (s.ccopyStart x t old c).memoryWf = s.memoryWf := by
  unfold State.ccopyStart
  split <;> simp

@[simp] theorem State.memoryWf_setHandle (s : State) (ctx h : Nat) (f : Handle → Handle) : (s.setHandle ctx h f).memoryWf = s.memoryWf := by
  unfold State.setHandle
  split <;> simp

@[simp] theorem State.memoryWf_countFill (s : State) (c : Cmd) (n : Nat) : (s.countFill c n).memoryWf = s.memoryWf := by simp [State.countFill]
@[simp] theorem State.memoryWf_countDrain (s : State) (c : Cmd) (n : Nat) : (s.countDrain c n).memoryWf = s.memoryWf := by simp [State.countDrain]

@[simp] theorem State.memoryWf_performRing (s : State) (t : Team) (w : RingWrite) (h : s.memoryWf = true) : (s.performRing t w).memoryWf = true := by
  obtain ⟨hhbm, hring, histore⟩ := s.memoryWf_iff.mp h
  have hw (bs : List Byte) : Memory.wf (writeKeys s.ring (w.keys t) bs) = true := wf_writeKeys _ _ _ hring
  unfold State.performRing
  simp only [State.memoryWf_ite, State.memoryWf_poisonTags, ite_self]
  split <;> simp [hhbm, hw, histore, State.setTeam]

@[simp] theorem State.memoryWf_performTag (s : State) (t : Team) (w : RingWrite) (seq : BitVec 16) (whole : Bool) :
    (s.performTag t w seq whole).memoryWf = s.memoryWf := by
  unfold State.performTag
  dsimp only
  repeat' split
  all_goals simp

@[simp] theorem State.memoryWf_drainFrom (l : List RingWrite) (s : State) (taken : List Nat) (kept : List RingWrite) (h : s.memoryWf = true) :
    (State.drainFrom l s taken kept).memoryWf = true := by
  induction l generalizing s taken kept with
  | nil => simpa [State.drainFrom] using h
  | cons w l ih =>
    unfold State.drainFrom
    split
    · exact ih _ _ _ h
    · split
      · exact ih _ _ _ h
      · exact ih _ _ _ (by simpa using h)
    · split
      · exact ih _ _ _ (State.memoryWf_performRing _ _ _ h)
      · exact ih _ _ _ h

@[simp] theorem State.memoryWf_drainRing (s : State) (h : s.memoryWf = true) : s.drainRing.memoryWf = true := by
  unfold State.drainRing
  split
  · exact h
  · exact State.memoryWf_drainFrom _ _ _ _ (by simpa using h)

@[simp] theorem nextWf_execHsetTakeEffect (cmd : Nat) (s : State) (h : s.memoryWf = true) : NextWf (execHsetTakeEffect cmd s) := by
  unfold execHsetTakeEffect
  split <;> simp [h]

@[simp] theorem State.memoryWf_nmElems (x : Context) (old : Nat) (c : Cmd) (b : Bound) (op : NmOp) (l : List (Nat × Elem)) (s : State)
    (h : s.memoryWf = true) : (s.nmElems x old c b op l).1.memoryWf = true := by
  induction l generalizing s with
  | nil => exact h
  | cons e l ih =>
    unfold State.nmElems
    dsimp only
    split
    · exact h
    · exact h
    · exact ih _ (by simpa using h)
    · exact ih _ (by simp [h])

@[simp] theorem State.memoryWf_putView (s : State) (x : Context) (old : Nat) (c : Cmd) (b : Bound) (n0 : Nat) (l : List Elem) (f : Option NmOp)
    (h : s.memoryWf = true) : (s.putView x old c b n0 l f).memoryWf = true := by
  unfold State.putView
  split
  · dsimp only
    split
    · rw [State.memoryWf_accessRaise, State.memoryWf_countFill, State.memoryWf_noteTouches, State.memoryWf_sendWrites]
      split <;> simp [h]
    · rw [State.memoryWf_stepped, State.memoryWf_countFill, State.memoryWf_noteTouches, State.memoryWf_sendWrites]
      split <;> simp [h]
  · have hn := State.memoryWf_nmElems x old c b ‹_› (l.zipIdx.map fun e => (n0 + e.2, e.1)) s h
    split <;> rename_i e <;> rw [e] at hn <;> simpa using hn

@[simp] theorem State.memoryWf_ringCombine (s : State) (c : Cmd) (t : Team) (a : BitVec 28) (diag : Bool) (f op nel n0 : Nat) (l : List Elem) :
    (s.ringCombine c t a diag f op nel n0 l).memoryWf = s.memoryWf := by
  unfold State.ringCombine
  rw [State.memoryWf_queueTags, State.memoryWf_foldl]
  simp

@[simp] theorem State.memoryWf_putElems (s : State) (x : Context) (old : Nat) (c : Cmd) (t : Option Team) (n0 : Nat) (l : List Elem)
    (h : s.memoryWf = true) : (s.putElems x old c t n0 l).memoryWf = true := by
  unfold State.putElems
  dsimp only
  split
  · simp [h]
  · split <;> simp [h]
  · split
    · split
      · next e => simp [State.memoryWf_windowWrite h e]
      · simp [h]
    · simp [h]
  · exact h

@[simp] theorem State.memoryWf_copyStep (s : State) (x : Context) (old : Nat) (c : Cmd) (t : Option Team) (h : s.memoryWf = true) :
    (s.copyStep x old c t).memoryWf = true := by
  unfold State.copyStep
  dsimp only
  split
  · split
    · simp [h]
    · split <;> simp [h]
    · simp [h]
  · exact h

@[simp] theorem State.memoryWf_looseDst (s : State) (c : Cmd) (h : s.memoryWf = true) : (s.looseDst c).memoryWf = true := by
  unfold State.looseDst
  dsimp only
  split
  · split <;> simp [h]
  · split <;> simp [h]
  · exact h

@[simp] theorem State.memoryWf_ccopyStep (s : State) (x : Context) (old : Nat) (c : Cmd) (t : Team) (h : s.memoryWf = true) :
    (s.ccopyStep x old c t).memoryWf = true := by
  unfold State.ccopyStep
  dsimp only
  split
  · next b _ _ =>
    split
    · simp [h]
    · simp [h]
    · split
      · simp [h]
      · next e =>
        have hw := congrArg Prod.fst e ▸ State.memoryWf_writeGranules _ _ _ _ _ _ _ h
        split
        · simp [h]
        · split
          · simp [h]
          · simpa using hw
  · exact h

@[simp] theorem State.memoryWf_nmStart (s : State) (x : Context) (t : Team) (old : Nat) (c : Cmd) : (s.nmStart x t old c).memoryWf = s.memoryWf := by
  unfold State.nmStart
  split <;> simp

@[simp] theorem State.memoryWf_nmStep (s : State) (x : Context) (old : Nat) (c : Cmd) (t : Team) (h : s.memoryWf = true) :
    (s.nmStep x old c t).memoryWf = true := by
  unfold State.nmStep
  split <;> simp [h]

@[simp] theorem State.memoryWf_wordStart (s : State) (x : Context) (old : Nat) (c : Cmd) (addr : Word) :
    (s.wordStart x old c addr).memoryWf = s.memoryWf := by
  unfold State.wordStart
  split <;> simp

@[simp] theorem State.memoryWf_nmcasStart (s : State) (x : Context) (t : Team) (old : Nat) (c : Cmd) :
    (s.nmcasStart x t old c).memoryWf = s.memoryWf := by
  simp [State.nmcasStart]

@[simp] theorem State.memoryWf_wordResult (s : State) (t : Team) (c : Cmd) (mbx : Bool) (m : Nat) (addr : BitVec 28) (bs : List Byte)
    (pois : Nat → Bool) :
    (s.wordResult t c mbx m addr bs pois).memoryWf = s.memoryWf := by
  simp [State.wordResult]

@[simp] theorem State.memoryWf_nmcasStep (s : State) (x : Context) (old : Nat) (c : Cmd) (t : Team) (h : s.memoryWf = true) :
    (s.nmcasStep x old c t).memoryWf = true := by
  unfold State.nmcasStep
  dsimp only
  split
  · split
    · simp [h]
    · split
      · simp [h]
      · exact h
      · split <;> simp [h]
      · split <;> simp [h]
  · exact h

@[simp] theorem State.memoryWf_sigStep (s : State) (x : Context) (old : Nat) (c : Cmd) (h : s.memoryWf = true) :
    (s.sigStep x old c).memoryWf = true := by
  unfold State.sigStep
  split
  · next b _ =>
    have hw := State.memoryWf_writeGranules s x old b.desc
      (structWrites b.view.tid b.desc (b.view.org.headD 0) (bytesOf 8 c.w1.toNat) none) [] [] h
    split
    · simp [h]
    · next e =>
      rw [e] at hw
      simp [hw]
  · exact h

/-! ### Sys2Proof/Machine/Layout.lean -/

@[simp] theorem State.memoryWf_layoutBegin (s : State) (x : Context) (old : Nat) (c : Cmd) (a b : View) (pois : Bool) :
    (s.layoutBegin x old c a b pois).memoryWf = s.memoryWf := by
  unfold State.layoutBegin
  split
  · simp
  · split <;> simp

@[simp] theorem State.memoryWf_layoutStart (s : State) (x : Context) (t : Team) (old : Nat) (c : Cmd) :
    (s.layoutStart x t old c).memoryWf = s.memoryWf := by
  simp [State.layoutStart]

@[simp] theorem State.memoryWf_layoutStep (s : State) (x : Context) (old : Nat) (c : Cmd) (h : s.memoryWf = true) :
    (s.layoutStep x old c).memoryWf = true := by
  unfold State.layoutStep
  dsimp only
  split
  · split <;> simp [h]
  · exact h

@[simp] theorem State.memoryWf_scatStart (s : State) (x : Context) (t : Team) (old : Nat) (c : Cmd) :
    (s.scatStart x t old c).memoryWf = s.memoryWf := by
  unfold State.scatStart
  dsimp only
  repeat' split
  all_goals simp

@[simp] theorem State.memoryWf_scatRing (s : State) (t : Team) (c : Cmd) (e : Nat × Nat × Bool) : (s.scatRing t c e).memoryWf = s.memoryWf := by
  simp [State.scatRing]

@[simp] theorem State.memoryWf_scatTags (s : State) (t : Team) (c : Cmd) (l : List (Nat × Nat × Bool)) :
    (s.scatTags t c l).memoryWf = s.memoryWf := State.memoryWf_foldl (by simp) _ _

@[simp] theorem State.memoryWf_scatStep (s : State) (x : Context) (old : Nat) (c : Cmd) (t : Team) (h : s.memoryWf = true) :
    (s.scatStep x old c t).memoryWf = true := by
  unfold State.scatStep
  dsimp only
  split
  · exact h
  · split
    · simp [h]
    · split
      · split
        · simp [h]
        · split
          all_goals
            next e =>
              have hn := congrArg (·.1.memoryWf) e
              simp only [State.memoryWf_nmElems _ _ _ _ _ _ _ h] at hn
              simp [← hn]
      · split <;> simp [h]

/-! ### Sys2Proof/Machine/Collective.lean -/

@[simp] theorem State.memoryWf_probeStart (s : State) (x : Context) (t : Team) (old : Nat) (c : Cmd) :
    (s.probeStart x t old c).memoryWf = s.memoryWf := by
  unfold State.probeStart
  split <;> simp

@[simp] theorem State.memoryWf_probeNote (s : State) (x : Context) (old tower : Nat) (b : Bound) :
    (s.probeNote x old tower b).memoryWf = s.memoryWf := by
  simp [State.probeNote]

@[simp] theorem State.memoryWf_probeStep (s : State) (x : Context) (old : Nat) (c : Cmd) : (s.probeStep x old c).memoryWf = s.memoryWf := by
  unfold State.probeStep
  dsimp only
  repeat' split
  all_goals simp

@[simp] theorem State.memoryWf_dropCached (s : State) (ctx tid : Nat) : (s.dropCached ctx tid).memoryWf = s.memoryWf := by simp [State.dropCached]

@[simp] theorem State.memoryWf_tshootStep (s : State) (c : Cmd) : (s.tshootStep c).memoryWf = s.memoryWf := by
  unfold State.tshootStep
  split <;> simp

@[simp] theorem State.memoryWf_leaseRequest (s : State) (c : Cmd) : (s.leaseRequest c).memoryWf = s.memoryWf := by
  unfold State.leaseRequest
  split
  · rfl
  · split
    · rfl
    · split <;> simp

@[simp] theorem State.memoryWf_leaseStart (s : State) (t : Team) (c : Cmd) : (s.leaseStart t c).memoryWf = s.memoryWf := by
  unfold State.leaseStart
  split
  · simp
  · split <;> simp

@[simp] theorem State.memoryWf_unleaseStart (s : State) (t : Team) (c : Cmd) : (s.unleaseStart t c).memoryWf = s.memoryWf := by
  unfold State.unleaseStart
  split
  · simp
  · split <;> simp

@[simp] theorem State.memoryWf_collSend (s : State) (cid : Nat) (members : List Nat) (r : CollRequest) :
    (s.collSend cid members r).memoryWf = s.memoryWf := by
  unfold State.collSend
  rw [State.memoryWf_foldl] <;> simp

@[simp] theorem State.memoryWf_collCount (s : State) (x : Context) (g : Nat) : (s.collCount x g).1.memoryWf = s.memoryWf := by simp [State.collCount]
@[simp] theorem State.memoryWf_collAbort (s : State) (x : Context) (c : Cmd) : (s.collAbort x c).memoryWf = s.memoryWf := by simp [State.collAbort]

@[simp] theorem State.memoryWf_collStart (s : State) (x : Context) (t : Team) (old : Nat) (c : Cmd) :
    (s.collStart x t old c).memoryWf = s.memoryWf := by
  unfold State.collStart
  dsimp only
  split
  · simp
  · split
    · simp
    · split
      · simp
      · split <;> simp

@[simp] theorem State.memoryWf_flagAdd (s : State) (x : Context) (c : Cmd) (b : Nat) (h : s.memoryWf = true) : (s.flagAdd x c b).memoryWf = true := by
  unfold State.flagAdd
  split
  · next f _ =>
    dsimp only
    split
    · exact h
    · next g _ =>
      have hw := State.memoryWf_writeGranules s x s.choice f.desc (structWrites f.view.tid f.desc (f.view.org.headD 0 + 8 * b)
        (bytesOf 8 ((bits g.val (8 * ((f.view.org.headD 0 + 8 * b) % 64)) 64 + 2 ^ 32) % 2 ^ 64)) none) [] [] h
      split
      · next e =>
        rw [e] at hw
        simpa using hw
      · exact h
  · exact h

@[simp] theorem State.memoryWf_collFetch (s : State) (c : Cmd) (bucket dev page gran : Nat) :
    (s.collFetch c bucket dev page gran).memoryWf = s.memoryWf := by
  simp [State.collFetch]

@[simp] theorem nextWf_execCollBucketStart (cmd bucket : Nat) (s : State) (h : s.memoryWf = true) : NextWf (execCollBucketStart cmd bucket s) := by
  unfold execCollBucketStart
  split
  · simp [h]
  · split
    · split
      · split
        · simp [h]
        · simp [h]
        · dsimp only
          split <;> simp [h]
      · simp [h]
    · simp [h]

@[simp] theorem State.memoryWf_bucketDone (s : State) (x : Context) (cmd bucket : Nat) (h : s.memoryWf = true) :
    (s.bucketDone x cmd bucket).memoryWf = true := by
  unfold State.bucketDone
  split <;> simp [h]

@[simp] theorem State.memoryWf_bucketWrite (s : State) (x : Context) (c : Cmd) (v : Bound) (bucket : Nat) (msgs : List CollRequest)
    (h : s.memoryWf = true) : (s.bucketWrite x c v bucket msgs).memoryWf = true := by
  unfold State.bucketWrite
  dsimp only
  split
  · rw [State.memoryWf_accessRaise, State.memoryWf_noteTouches, State.memoryWf_sendWrites]
    split <;> simp [h]
  · refine State.memoryWf_ite_of (State.memoryWf_bucketDone _ _ _ _ ?_) ?_
    · rw [State.memoryWf_noteTouches, State.memoryWf_sendWrites]
      split <;> simp [h]
    · split
      · rw [State.memoryWf_setCmd, State.memoryWf_noteTouches, State.memoryWf_sendWrites]
        split <;> simp [h]
      · rw [State.memoryWf_noteTouches, State.memoryWf_sendWrites]
        split <;> simp [h]

@[simp] theorem nextWf_execCollBucketComplete (cmd bucket : Nat) (s : State) (h : s.memoryWf = true) :
    NextWf (execCollBucketComplete cmd bucket s) := by
  unfold execCollBucketComplete
  split
  · simp [h]
  · split
    · split
      · split
        · simp [h]
        · split <;> simp [h]
      · simp [h]
    · simp [h]

@[simp] theorem State.memoryWf_collReceive (s : State) (r : CollRequest) : (s.collReceive r).memoryWf = s.memoryWf := by
  unfold State.collReceive
  dsimp only
  repeat' split
  all_goals simp

/-! ### Sys2Proof/Machine/Pages.lean -/

@[simp] theorem nextWf_execShortPageDeadline (page : Nat) (s : State) (h : s.memoryWf = true) : NextWf (execShortPageDeadline page s) := by
  unfold execShortPageDeadline
  split <;> simp [h]

@[simp] theorem State.memoryWf_mapShort (s : State) (stack : Nat) (f : ShortPage → ShortPage) : (s.mapShort stack f).memoryWf = s.memoryWf := by
  simp [State.mapShort]

@[simp] theorem State.memoryWf_setBand (s : State) (stack : Nat) (hot : Bool) : (s.setBand stack hot).memoryWf = s.memoryWf := by simp [State.setBand]

@[simp] theorem nextWf_execUncorrectableError (site : ErrorSite) (s : State) (h : s.memoryWf = true) : NextWf (execUncorrectableError site s) := by
  unfold execUncorrectableError
  dsimp only
  repeat' split
  all_goals simp [h]

@[simp] theorem State.memoryWf_migNote (s : State) (x : Context) (d : Desc) (w : BitVec 128) : (s.migNote x d w).memoryWf = s.memoryWf := by
  unfold State.migNote
  rw [State.memoryWf_deviceNotes, State.memoryWf_touchEntry]

@[simp] theorem State.memoryWf_migLog (s : State) (x : Context) (tid tix result old new : Nat) (h : s.memoryWf = true) :
    (s.migLog x tid tix result old new).memoryWf = true := by
  simp [State.migLog, h]

@[simp] theorem State.memoryWf_setTableWord (s : State) (x : Context) (addr v : Nat) (h : s.memoryWf = true) :
    (s.setTableWord x addr v).memoryWf = true := by
  simp [State.setTableWord, h]

@[simp] theorem State.memoryWf_spendMig (s : State) (ctx : Nat) : (s.spendMig ctx).memoryWf = s.memoryWf := by
  unfold State.spendMig
  split <;> simp

@[simp] theorem State.memoryWf_migTry (s : State) (e : BitVec 128) (rest : List (BitVec 128)) (h : s.memoryWf = true) :
    (s.migTry e rest).memoryWf = true := by
  have idle {u : State} (hu : u.memoryWf = true) : ({ u with migration := Migration.idle } : State).memoryWf = true :=
    State.memoryWf_of_eq hu rfl rfl rfl
  -- the kernel compares the branches of the `match`: what the match is on is a variable there, so that it is not evaluated
  obtain ⟨mapped, hmapped⟩ : ∃ f, f = State.mapping := ⟨_, rfl⟩
  obtain ⟨target, htarget⟩ : ∃ f, f = State.migTarget := ⟨_, rfl⟩
  unfold State.migTry
  rw [← hmapped, ← htarget]
  dsimp only
  split
  · exact idle h
  · next x _ =>
    refine State.memoryWf_ite_of (idle h) ?_
    split
    · exact idle h
    · next d _ =>
      have noted : (s.migNote x d e).memoryWf = true := (State.memoryWf_migNote s x d e).trans h
      split
      · refine State.memoryWf_ite_of (idle noted) (State.memoryWf_ite_of (idle (State.memoryWf_migLog _ _ _ _ _ _ _ noted)) ?_)
        refine State.memoryWf_ite_of ((State.memoryWf_foldl (fun _ _ => State.memoryWf_fetchGranule _ _ _ _ _ _) _ _).trans ?_) ?_
        · refine State.memoryWf_of_eq (State.memoryWf_deviceWrite _ _ _ _ ?_) rfl rfl rfl
          exact (State.memoryWf_spendMig _ _).trans (State.memoryWf_setTableWord _ _ _ _ noted)
        · refine State.memoryWf_of_eq (State.memoryWf_deviceWrite _ _ _ _ ?_) rfl rfl rfl
          exact (State.memoryWf_spendMig _ _).trans (State.memoryWf_setTableWord _ _ _ _ noted)
      · exact idle noted

@[simp] theorem State.memoryWf_migNext (l : List (BitVec 128)) (s : State) (h : s.memoryWf = true) : (s.migNext l).memoryWf = true := by
  induction l generalizing s with
  | nil => simpa [State.migNext] using h
  | cons e l ih =>
    unfold State.migNext
    dsimp only
    split
    · simp [h]
    · exact ih _ (State.memoryWf_migTry _ _ _ h)

@[simp] theorem State.memoryWf_copyPage (s : State) (x : Context) (tid old new : Nat) (h : s.memoryWf = true) :
    (s.copyPage x tid old new).memoryWf = true := by
  unfold State.copyPage
  dsimp only
  simp only [State.memoryWf_mk, State.memoryWf_fold]
  refine State.memoryWf_foldl_of (fun u g hu => ?_) _ _ h
  obtain ⟨hhbm, hring, histore⟩ := u.memoryWf_iff.mp hu
  split
  · exact hu
  · simp [hring, histore, Memory.wf_writeBytes _ _ _ hhbm]

@[simp] theorem State.memoryWf_noteCopy (s : State) (x : Context) (m : Migration) : (s.noteCopy x m).memoryWf = s.memoryWf := by simp [State.noteCopy]

@[simp] theorem nextWf_execMigrationCopyComplete (s : State) (h : s.memoryWf = true) : NextWf (execMigrationCopyComplete s) := by
  unfold execMigrationCopyComplete
  dsimp only
  split <;> simp [h]

@[simp] theorem State.memoryWf_dropBlock (s : State) (m : Migration) : (s.dropBlock m).memoryWf = s.memoryWf := by simp [State.dropBlock]

@[simp] theorem nextWf_execMigrationShootComplete (s : State) (h : s.memoryWf = true) : NextWf (execMigrationShootComplete s) := by
  unfold execMigrationShootComplete
  dsimp only
  split
  · simp [h]
  · simp [h]

@[simp] theorem State.memoryWf_migFail (s : State) (h : s.memoryWf = true) : s.migFail.memoryWf = true := by
  unfold State.migFail
  dsimp only
  split <;> simp [h]

@[simp] theorem State.memoryWf_migReply (s : State) (gran : Nat) (r : UntimedReply) (h : s.memoryWf = true) :
    (s.migReply gran r).memoryWf = true := by
  unfold State.migReply
  dsimp only
  split
  · split
    · exact h
    · split
      · simp [h]
      · split <;> simp [h]
  · exact h

/-! ### Sys2Proof/Machine/Fabric.lean -/

@[simp] theorem State.memoryWf_fsendStart (s : State) (t : Team) (c : Cmd) : (s.fsendStart t c).memoryWf = s.memoryWf := by simp [State.fsendStart]
@[simp] theorem State.memoryWf_frecvStart (s : State) (t : Team) (c : Cmd) : (s.frecvStart t c).memoryWf = s.memoryWf := by simp [State.frecvStart]

@[simp] theorem State.memoryWf_emit (s : State) (port turn : Nat) (l : List (Nat × Nat)) (a : Arrival) :
    (s.emit port turn l a).memoryWf = s.memoryWf := by
  simp [State.emit]

@[simp] theorem nextWf_execFsendFlitDeparture (cmd : Nat) (s : State) (h : s.memoryWf = true) : NextWf (execFsendFlitDeparture cmd s) := by
  unfold execFsendFlitDeparture
  split
  · simp [h]
  · split <;> simp [h]

@[simp] theorem nextWf_execFsendTurnEnd (cmd : Nat) (s : State) (h : s.memoryWf = true) : NextWf (execFsendTurnEnd cmd s) := by
  unfold execFsendTurnEnd
  split <;> simp [h]

@[simp] theorem State.memoryWf_giveRelay (s : State) (c : Cmd) (n : Nat) : (s.giveRelay c n).memoryWf = s.memoryWf := by simp [State.giveRelay]

@[simp] theorem State.memoryWf_withdraw (s : State) (c : Cmd) : (s.withdraw c).memoryWf = s.memoryWf := by
  unfold State.withdraw
  split <;> simp

@[simp] theorem State.memoryWf_withdrawAll (s : State) (p : Cmd → Bool) : (s.withdrawAll p).memoryWf = s.memoryWf := by simp [State.withdrawAll]

@[simp] theorem State.memoryWf_placeArrival (s : State) (t : Team) (c : Cmd) (a : Arrival) (l : List (Nat × Byte × Nat)) :
    (s.placeArrival t c a l).memoryWf = s.memoryWf := by
  unfold State.placeArrival
  dsimp only
  rw [State.memoryWf_setCmd, State.memoryWf_foldl]
  intro u p
  split
  · simp
  · exact State.memoryWf_foldl (by simp) _ _

@[simp] theorem State.memoryWf_unposted (s : State) (a : Arrival) (g : Nat) : (s.unposted a g).memoryWf = s.memoryWf := by simp [State.unposted]

@[simp] theorem State.memoryWf_receive (s : State) (a : Arrival) (g : Nat) : (s.receive a g).memoryWf = s.memoryWf := by
  unfold State.receive
  dsimp only
  repeat' split
  all_goals simp

@[simp] theorem State.memoryWf_hold (s : State) (a : Arrival) (g d : Nat) : (s.hold a g d).memoryWf = s.memoryWf := by simp [State.hold]

@[simp] theorem nextWf_execTimedArrival (a : Arrival) (s : State) (h : s.memoryWf = true) : NextWf (execTimedArrival a s) := by
  have hold (g : Nat) (l : List Nat) (u : State) : (l.foldl (fun s d => s.hold a g d) u).memoryWf = u.memoryWf := State.memoryWf_foldl (by simp) _ _
  simp [execTimedArrival, hold, h]

@[simp] theorem nextWf_execRelayForward (port : Nat) (s : State) (h : s.memoryWf = true) : NextWf (execRelayForward port s) := by
  unfold execRelayForward
  dsimp only
  split
  · rw [nextWf_next, State.memoryWf_foldl (by simp)]
    simpa using h
  · simpa using h

@[simp] theorem State.memoryWf_receiveTags (s : State) (t : Team) (c : Cmd) (n : Nat) : (s.receiveTags t c n).memoryWf = s.memoryWf :=
  State.memoryWf_foldl (by simp) _ _

@[simp] theorem nextWf_execFrecvKeyExpiry (cmd : Nat) (s : State) (h : s.memoryWf = true) : NextWf (execFrecvKeyExpiry cmd s) := by
  unfold execFrecvKeyExpiry
  dsimp only
  repeat' split
  all_goals simp [h]

@[simp] theorem nextWf_execTimedOwnerCutover (s : State) (h : s.memoryWf = true) : NextWf (execTimedOwnerCutover s) := by
  unfold execTimedOwnerCutover
  split <;> simp [h]

@[simp] theorem State.nextWf_requestOp (s : State) (op : CmdOp) (t a b : BitVec 6) (h : s.memoryWf = true) : NextWf (State.requestOp s op t a b) := by
  simp [State.requestOp, h]

@[simp] theorem State.memoryWf_requestStart (s : State) (t : Team) (c : Cmd) : (s.requestStart t c).memoryWf = s.memoryWf := by
  simp [State.requestStart]

@[simp] theorem State.memoryWf_requestDone (s : State) (t : Team) (c : Cmd) (bs : List Byte) (pois : Nat → Bool) :
    (s.requestDone t c bs pois).memoryWf = s.memoryWf := by
  simp [State.requestDone]

theorem State.memoryWf_windowAtomic {s : State} {x : Context} {w o op : Nat} {peer : Option Nat} {v cmp : Word} {r : State × Option Word}
    (h : s.memoryWf = true) (e : s.windowAtomic x w o op peer v cmp = .ok r) : r.1.memoryWf = true := by
  unfold State.windowAtomic at e
  split at e
  · cases e
  · next g _ =>
    dsimp only at e
    cases q : s.windowWrite x w o 2 peer (bytesOf 8 (atomicOp op (BitVec.ofNat 64 g.val) v cmp).toNat) (wholeMask 8) (fun _ => false) with
    | error k =>
      rw [q] at e
      cases e
    | ok u =>
      rw [q] at e
      rw [← Except.ok.inj e]
      split
      · exact h
      · exact State.memoryWf_windowWrite h q

@[simp] theorem State.memoryWf_requestLocal (s : State) (x : Context) (t : Team) (c : Cmd) (data : Nat) (pois : Bool) (h : s.memoryWf = true) :
    (s.requestLocal x t c data pois).memoryWf = true := by
  unfold State.requestLocal
  dsimp only
  split
  · split <;> simp [h]
  · split
    · simp [h]
    · next e => simp [State.memoryWf_windowWrite h e]
  · split
    · simp [h]
    · simp [h]
    · next e => simpa using State.memoryWf_windowAtomic h e

@[simp] theorem State.memoryWf_requestStep (s : State) (x : Context) (t : Team) (c : Cmd) (h : s.memoryWf = true) :
    (s.requestStep x t c).memoryWf = true := by
  simp [State.requestStep, h]

@[simp] theorem State.memoryWf_fillEntry (s : State) (id : Nat) (got : Fetched) (bad : Bool) : (s.fillEntry id got bad).memoryWf = s.memoryWf := by
  simp [State.fillEntry]

@[simp] theorem State.memoryWf_deliverReply (s : State) (o : Outstanding) (r : UntimedReply) (h : s.memoryWf = true) :
    (s.deliverReply o r).memoryWf = true := by
  unfold State.deliverReply
  split
  · split <;> simp [h]
  · split
    · exact h
    · split
      · simp [h]
      · split
        · simp [h]
        · split
          · split <;> simp [h]
          all_goals simp [h]

@[simp] theorem State.memoryWf_barrierFail (s : State) (p : Nat → Nat → Nat → List Nat → Bool) : (s.barrierFail p).memoryWf = s.memoryWf := by
  simp [State.barrierFail]

@[simp] theorem State.memoryWf_requestFails (s : State) (o : Outstanding) (h : s.memoryWf = true) : (s.requestFails o).memoryWf = true := by
  unfold State.requestFails
  split
  · simp [h]
  · split
    · simp [h]
    · split <;> simp [h]

@[simp] theorem nextWf_execUntimedResponse (r : UntimedReply) (s : State) (h : s.memoryWf = true) : NextWf (execUntimedResponse r s) := by
  unfold execUntimedResponse
  split <;> simp [h]

@[simp] theorem nextWf_execUntimedTimeout (req : Nat) (replaying : Bool) (s : State) (h : s.memoryWf = true) :
    NextWf (execUntimedTimeout req replaying s) := by
  unfold execUntimedTimeout
  split <;> simp [h]

@[simp] theorem State.memoryWf_answer (s : State) (r : UntimedRequest) (status : BitVec 8) (poisonedTarget : Bool) (data : List Byte)
    (pois : List Bool) :
    (s.answer r status poisonedTarget data pois).memoryWf = s.memoryWf := by
  simp [State.answer]

@[simp] theorem State.memoryWf_remember (s : State) (r : UntimedRequest) (status : BitVec 8) (poisonedTarget : Bool) (data : List Byte) :
    (s.remember r status poisonedTarget data).memoryWf = s.memoryWf := by
  simp [State.remember]

@[simp] theorem State.memoryWf_answerAgain (s : State) (r : UntimedRequest) : (s.answerAgain r).memoryWf = s.memoryWf := by
  unfold State.answerAgain
  split <;> simp

@[simp] theorem nextWf_execUntimedReadRequest (r : UntimedRequest) (s : State) (h : s.memoryWf = true) : NextWf (execUntimedReadRequest r s) := by
  unfold execUntimedReadRequest
  dsimp only
  split
  · simp [h]
  · split
    · simp [h]
    · split <;> simp [h]

theorem State.memoryWf_perform (s : State) (r : UntimedRequest) {f : State → State × BitVec 8 × Bool × List Byte} (h : s.memoryWf = true)
    (hf : ∀ u : State, u.memoryWf = true → (f u).1.memoryWf = true) : (s.perform r f).memoryWf = true := by
  have hw := hf { s with fabric := s.fabric.advance r } h
  unfold State.perform
  split
  · exact h
  · split
    · simp [h]
    · simpa using hw

@[simp] theorem State.memoryWf_performWrite (s : State) (r : UntimedRequest) (h : s.memoryWf = true) : (s.performWrite r).1.memoryWf = true := by
  unfold State.performWrite
  split
  · exact h
  · split
    · split
      · exact h
      · next e => exact State.memoryWf_windowElement h e
    · split
      · exact h
      · next e => exact State.memoryWf_windowWrite h e

@[simp] theorem nextWf_execUntimedWriteRequest (r : UntimedRequest) (s : State) (h : s.memoryWf = true) :
    NextWf (execUntimedWriteRequest r s) := (nextWf_next _).mpr (State.memoryWf_perform _ _ h fun _ hu => State.memoryWf_performWrite _ _ hu)

@[simp] theorem State.memoryWf_performAtomic (s : State) (r : UntimedRequest) (h : s.memoryWf = true) : (s.performAtomic r).1.memoryWf = true := by
  unfold State.performAtomic
  split
  · exact h
  · split
    · exact h
    · split
      · exact h
      · next e => exact State.memoryWf_windowAtomic h e
      · next e => exact State.memoryWf_windowAtomic h e

@[simp] theorem nextWf_execUntimedAtomicRequest (r : UntimedRequest) (s : State) (h : s.memoryWf = true) :
    NextWf (execUntimedAtomicRequest r s) := (nextWf_next _).mpr (State.memoryWf_perform _ _ h fun _ hu => State.memoryWf_performAtomic _ _ hu)

@[simp] theorem nextWf_execCollectiveRequest (r : UntimedRequest) (s : State) (h : s.memoryWf = true) : NextWf (execCollectiveRequest r s) := by
  unfold execCollectiveRequest
  split
  · split
    · simp [h]
    · exact (nextWf_next _).mpr (State.memoryWf_perform _ _ h fun u hu => by simpa using hu)
  · simp [h]

@[simp] theorem nextWf_execBarrierRequest (h : MessageHead) (ctx group count : Nat) (s : State) (hs : s.memoryWf = true) :
    NextWf (execBarrierRequest h ctx group count s) := by
  unfold execBarrierRequest
  split
  · simpa using hs
  · exact (nextWf_next _).mpr (State.memoryWf_perform _ _ hs fun u hu => by simpa using hu)

@[simp] theorem nextWf_execUntimedRelayForward (r : RelayedFlits) (s : State) (h : s.memoryWf = true) : NextWf (execUntimedRelayForward r s) := by
  unfold execUntimedRelayForward
  dsimp only
  repeat' split
  all_goals simp [h]

@[simp] theorem State.memoryWf_peerReset (s : State) (c : Cmd) (h : s.memoryWf = true) : (s.peerReset c).memoryWf = true := by
  unfold State.peerReset
  dsimp only
  rw [State.memoryWf_finish]
  split <;> simp [h]

@[simp] theorem State.memoryWf_resetTraffic (s : State) (dev : Option Nat) (h : s.memoryWf = true) : (s.resetTraffic dev).memoryWf = true := by
  have hr (l : List Cmd) : (l.foldl State.peerReset s).memoryWf = true := State.memoryWf_foldl_of State.memoryWf_peerReset _ _ h
  unfold State.resetTraffic
  dsimp only
  split <;> simp [hr]

@[simp] theorem State.memoryWf_peerChange (s : State) (dev : Nat) (inc : BitVec 16) (h : s.memoryWf = true) :
    (s.peerChange dev inc).memoryWf = true := by
  simp [State.peerChange, h]

@[simp] theorem State.memoryWf_desync (s : State) (m : Int) (h : s.memoryWf = true) : (s.desync m).memoryWf = true := by simp [State.desync, h]

/-! ### Sys2Proof/Machine/Engines.lean -/

@[simp] theorem State.memoryWf_startOp (s : State) (x : Context) (t : Team) (old : Nat) (c : Cmd) : (s.startOp x t old c).memoryWf = s.memoryWf := by
  unfold State.startOp
  split <;> simp

@[simp] theorem State.memoryWf_cacheBound (s : State) (x : Context) (tower : Nat) (b : Bound) : (s.cacheBound x tower b).memoryWf = s.memoryWf := by
  simp [State.cacheBound]

@[simp] theorem State.memoryWf_cacheEnd (s : State) (x : Context) (tower : Nat) (e : Option Endpoint) :
    (s.cacheEnd x tower e).memoryWf = s.memoryWf := by
  unfold State.cacheEnd
  split <;> simp

@[simp] theorem State.memoryWf_cacheEnds (s : State) (x : Context) (cmd : Nat) : (s.cacheEnds x cmd).memoryWf = s.memoryWf := by
  unfold State.cacheEnds
  split <;> simp

theorem wf_foldl_writeKeys {α : Type} (f : α → List Nat) (g : α → List Byte) (l : List α) (m : List Host.Cell) (h : Memory.wf m = true) :
    Memory.wf (l.foldl (fun m e => writeKeys m (f e) (g e)) m) = true := by
  induction l generalizing m with
  | nil => exact h
  | cons e l ih =>
    rw [List.foldl_cons]
    exact ih _ (wf_writeKeys _ _ _ h)

@[simp] theorem State.memoryWf_withLines (s : State) (l : List (Nat × Nat × Bool)) (h : s.memoryWf = true) : (s.withLines l).memoryWf = true := by
  obtain ⟨hhbm, hring, histore⟩ := s.memoryWf_iff.mp h
  unfold State.withLines
  rw [State.memoryWf_iff]
  exact ⟨hhbm, wf_foldl_writeKeys _ _ l _ hring, histore⟩

@[simp] theorem State.memoryWf_countLines (s : State) (c c' : Cmd) : (s.countLines c c').memoryWf = s.memoryWf := by simp [State.countLines]

theorem State.memoryWf_overLines (s : State) (c : Cmd) (lines : List (Nat × Nat × Bool)) {f : State → State} (h : s.memoryWf = true)
    (hf : ∀ u : State, u.memoryWf = true → (f u).memoryWf = true) : (s.overLines c lines f).memoryWf = true := by
  obtain ⟨_, hring, _⟩ := s.memoryWf_iff.mp h
  obtain ⟨hhbm, _, histore⟩ := (f (s.withLines lines)).memoryWf_iff.mp (hf _ (State.memoryWf_withLines _ _ h))
  unfold State.overLines
  split
  · exact hf _ h
  · simp [hhbm, hring, histore]

@[simp] theorem nextWf_execEngineCommandStart (cmd : Nat) (s : State) (h : s.memoryWf = true) : NextWf (execEngineCommandStart cmd s) := by
  unfold execEngineCommandStart
  split
  · simp [h]
  · split
    · split
      · split
        · simp [h]
        · split
          · simp [h]
          · rw [nextWf_next, State.memoryWf_cacheEnds]
            exact State.memoryWf_overLines _ _ _ (by simp [h]) fun u hu => by simp [hu]
      · simp [h]
    · simp [h]

@[simp] theorem State.memoryWf_stepOp (s : State) (x : Context) (t : Option Team) (old : Nat) (c : Cmd) (h : s.memoryWf = true) :
    (s.stepOp x t old c).memoryWf = true := by
  unfold State.stepOp
  split <;> simp [h]

@[simp] theorem nextWf_execEngineStep (cmd : Nat) (s : State) (h : s.memoryWf = true) : NextWf (execEngineStep cmd s) := by
  unfold execEngineStep
  split
  · simp [h]
  · split
    · split
      · split
        · simp [h]
        · rw [nextWf_next]
          exact State.memoryWf_overLines _ _ _ (by simp [h]) fun u hu => by simp [hu]
      · simp [h]
    · simp [h]

@[simp] theorem nextWf_execEngineCommandComplete (cmd : Nat) (s : State) (h : s.memoryWf = true) : NextWf (execEngineCommandComplete cmd s) := by
  unfold execEngineCommandComplete
  split <;> simp [h]

@[simp] theorem State.memoryWf_cacheQv (s : State) (x : Context) (tower : Nat) (q : QvState) : (s.cacheQv x tower q).memoryWf = s.memoryWf := by
  unfold State.cacheQv
  split <;> simp

@[simp] theorem nextWf_execQvViewRead (team strand slot : Nat) (s : State) (h : s.memoryWf = true) : NextWf (execQvViewRead team strand slot s) := by
  unfold execQvViewRead
  dsimp only
  repeat' split
  all_goals simp [h]

@[simp] theorem State.memoryWf_noteEntry (x : Context) (t : Team) (strand : Nat) (e : AqEntry) (l : List Touch) (s : State) :
    (s.noteEntry x t strand e l).memoryWf = s.memoryWf := by
  induction l generalizing s with
  | nil => rfl
  | cons y l ih =>
    rw [State.noteEntry, ih]
    simp

@[simp] theorem State.memoryWf_readEntry (s : State) (x : Context) (t : Team) (st : Strand) (e : AqEntry) :
    (s.readEntry x t st e).memoryWf = s.memoryWf := by
  unfold State.readEntry
  split
  · split <;> simp
  · simp

@[simp] theorem nextWf_execDqEntryArrive (team strand : Nat) (s : State) (h : s.memoryWf = true) : NextWf (execDqEntryArrive team strand s) := by
  unfold execDqEntryArrive
  split
  · split <;> simp [h]
  · simp [h]

@[simp] theorem State.memoryWf_sendQueue (s : State) (t : Team) (i : Nat) : (s.sendQueue t i).memoryWf = s.memoryWf := by
  unfold State.sendQueue
  split <;> simp

/-! ### Sys2Proof/Machine/Teams.lean -/

@[simp] theorem State.memoryWf_askStop (s : State) (l : List Nat) : (s.askStop l).memoryWf = s.memoryWf := by simp [State.askStop]
@[simp] theorem State.memoryWf_preemptFor (s : State) (g : Grid) : (s.preemptFor g).memoryWf = s.memoryWf := by simp [State.preemptFor]
@[simp] theorem State.memoryWf_preemptCheck (s : State) : s.preemptCheck.memoryWf = s.memoryWf := State.memoryWf_foldl (by simp) _ _

@[simp] theorem State.memoryWf_giveTiles (s : State) (t : Team) (i : Nat) : (s.giveTiles t i).memoryWf = s.memoryWf := by
  unfold State.giveTiles
  split <;> simp

@[simp] theorem State.memoryWf_zeroTile (s : State) (tower p : Nat) : (s.zeroTile tower p).memoryWf = s.memoryWf := by simp [State.zeroTile]

@[simp] theorem State.memoryWf_zeroStrand (s : State) (t : Team) (st : Strand) : (s.zeroStrand t st).memoryWf = s.memoryWf := by
  unfold State.zeroStrand
  simp only [State.memoryWf_mk, State.memoryWf_fold]
  exact State.memoryWf_foldl (by simp) _ _

@[simp] theorem State.memoryWf_zeroBelt (s : State) (t : Team) (h : s.memoryWf = true) : (s.zeroBelt t).memoryWf = true := by
  refine State.memoryWf_foldl_of (fun u x hu => State.memoryWf_foldl_of (fun v stn hv => ?_) _ _ hu) _ _ h
  obtain ⟨hhbm, hring, histore⟩ := v.memoryWf_iff.mp hv
  simp [hhbm, histore, Memory.wf_erase _ _ _ hring]

@[simp] theorem State.memoryWf_zeroPlanes (s : State) (t : Team) : (s.zeroPlanes t).memoryWf = s.memoryWf := State.memoryWf_foldl (by simp) _ _

@[simp] theorem State.memoryWf_loadStream (s : State) (x : Context) (t : Team) (g : Grid) (i : Nat) (h : s.memoryWf = true) :
    (s.loadStream x t g i).memoryWf = true := by
  obtain ⟨hhbm, hring, histore⟩ := s.memoryWf_iff.mp h
  unfold State.loadStream
  dsimp only
  split
  · split <;> simp [h]
  · rw [State.memoryWf_deviceNotes]
    split <;> simp [State.setStrand, State.setCore, hhbm, hring, Memory.wf_writeBytes _ _ _ (Memory.wf_erase _ _ _ histore)]

@[simp] theorem State.memoryWf_loadTeam (s : State) (x : Context) (t : Team) (g : Grid) (h : s.memoryWf = true) :
    (s.loadTeam x t g).memoryWf = true := State.memoryWf_foldl_of (fun _ _ hu => State.memoryWf_loadStream _ _ _ _ _ hu) _ _ h

@[simp] theorem State.memoryWf_served (s : State) (gid : Nat) : (s.served gid).memoryWf = s.memoryWf := by
  unfold State.served
  split <;> simp

@[simp] theorem nextWf_execTeamAdmit (grid : Nat) (s : State) (h : s.memoryWf = true) : NextWf (execTeamAdmit grid s) := by
  unfold execTeamAdmit
  split
  · simp [h]
  · split
    · split
      · simp [h]
      · dsimp only
        split
        · simp [h]
        · rw [nextWf_next, State.memoryWf_preemptCheck, State.memoryWf_served]
          refine State.memoryWf_loadTeam _ _ _ _ ?_
          rw [State.memoryWf_zeroPlanes]
          refine State.memoryWf_zeroBelt _ _ ?_
          simp [h]
    · simp [h]

@[simp] theorem State.memoryWf_replayWld (s : State) (t : Team) (tower shadow : Nat) (e : Nat × Option (Word × Word × Nat)) :
    (s.replayWld t tower shadow e).memoryWf = s.memoryWf := by
  unfold State.replayWld
  split
  · simp
  · split <;> simp

@[simp] theorem State.memoryWf_replayClaim (s : State) (t : Team) (k : Claim) : (s.replayClaim t k).memoryWf = s.memoryWf := by
  simp [State.replayClaim]

@[simp] theorem nextWf_execStreamsLoaded (team : Nat) (s : State) (h : s.memoryWf = true) : NextWf (execStreamsLoaded team s) := by
  unfold execStreamsLoaded
  split <;> simp [h]

@[simp] theorem State.memoryWf_freeCore (s : State) (t : Team) (i : Nat) : (s.freeCore t i).memoryWf = s.memoryWf := by simp [State.freeCore]
@[simp] theorem State.memoryWf_freeTeam (s : State) (t : Team) : (s.freeTeam t).memoryWf = s.memoryWf := by simp [State.freeTeam]
@[simp] theorem State.memoryWf_dropTeam (s : State) (t : Team) : (s.dropTeam t).memoryWf = s.memoryWf := by simp [State.dropTeam]

@[simp] theorem State.memoryWf_gridDone (s : State) (gid : Nat) (h : s.memoryWf = true) : (s.gridDone gid).memoryWf = true := by
  unfold State.gridDone
  split <;> simp [h]

@[simp] theorem State.memoryWf_settleWatches (s : State) (ctx : Nat) (h : s.memoryWf = true) : (s.settleWatches ctx).memoryWf = true := by
  unfold State.settleWatches
  split
  · exact h
  · exact State.memoryWf_foldl_of (fun _ _ hu => State.memoryWf_counterAdd _ _ _ _ hu) _ _ (by simp [h])

@[simp] theorem nextWf_execStrandRetire (team strand : Nat) (s : State) (h : s.memoryWf = true) : NextWf (execStrandRetire team strand s) := by
  unfold execStrandRetire
  dsimp only
  repeat' split
  all_goals simp [h]

@[simp] theorem State.memoryWf_tellMembers (s : State) (team group n : Nat) (members : List Nat) :
    (s.tellMembers team group n members).memoryWf = s.memoryWf := by
  unfold State.tellMembers
  split <;> simp

@[simp] theorem State.memoryWf_passBarrier (s : State) (team group n : Nat) (members : List Nat) :
    (s.passBarrier team group n members).memoryWf = s.memoryWf := by
  unfold State.passBarrier
  split <;> simp

@[simp] theorem State.memoryWf_hearCounter (s : State) (t : Team) (w : Wait) : (s.hearCounter t w).2.memoryWf = s.memoryWf := by
  unfold State.hearCounter
  split
  · split <;> simp
  · rfl

@[simp] theorem State.memoryWf_hearWaits (t : Team) (l : List Wait) (s : State) : (s.hearWaits t l).2.memoryWf = s.memoryWf := by
  induction l generalizing s with
  | nil => rfl
  | cons w l ih => simp [State.hearWaits, ih]

@[simp] theorem State.memoryWf_acquire (s : State) (t : Team) (i tc : Nat) (all : Bool) : (s.acquire t i tc all).memoryWf = s.memoryWf := by
  unfold State.acquire
  split <;> simp

@[simp] theorem State.memoryWf_acquireTeam (s : State) (t : Team) (i tc : Nat) : (s.acquireTeam t i tc).memoryWf = s.memoryWf := by
  unfold State.acquireTeam
  split <;> simp

@[simp] theorem State.memoryWf_acquireWait (s : State) (t : Team) (i tc : Nat) (w : Wait) : (s.acquireWait t i tc w).memoryWf = s.memoryWf := by
  unfold State.acquireWait
  split <;> simp

@[simp] theorem State.memoryWf_serveWaits (s : State) (t : Team) (st : Strand) : (s.serveWaits t st).memoryWf = s.memoryWf := by
  unfold State.serveWaits
  dsimp only
  rw [State.memoryWf_foldl, State.memoryWf_setStrand, State.memoryWf_hearWaits]
  intro u w
  split <;> simp

@[simp] theorem nextWf_execWaitRelease (team strand : Nat) (s : State) (h : s.memoryWf = true) : NextWf (execWaitRelease team strand s) := by
  unfold execWaitRelease
  dsimp only
  repeat' split
  all_goals simp [h]

@[simp] theorem nextWf_execGridDue (grid : Nat) (s : State) (h : s.memoryWf = true) : NextWf (execGridDue grid s) := by
  unfold execGridDue
  split
  · split <;> simp [h]
  · simp [h]

@[simp] theorem nextWf_execGridPriorityRise (grid : Nat) (s : State) (h : s.memoryWf = true) : NextWf (execGridPriorityRise grid s) := by
  unfold execGridPriorityRise
  split <;> simp [h]

@[simp] theorem nextWf_execQuantumExpiry (team : Nat) (s : State) (h : s.memoryWf = true) : NextWf (execQuantumExpiry team s) := by
  unfold execQuantumExpiry
  split <;> simp [h]

@[simp] theorem nextWf_execSwapOut (team strand : Nat) (s : State) (h : s.memoryWf = true) : NextWf (execSwapOut team strand s) := by
  unfold execSwapOut
  split
  · split <;> simp [h]
  · simp [h]

@[simp] theorem nextWf_execSwappedCounterReached (team : Nat) (s : State) (h : s.memoryWf = true) : NextWf (execSwappedCounterReached team s) := by
  unfold execSwappedCounterReached
  dsimp only
  repeat' split
  all_goals simp [h]

@[simp] theorem nextWf_execPreemptStop (team : Nat) (s : State) (h : s.memoryWf = true) : NextWf (execPreemptStop team s) := by
  unfold execPreemptStop
  split <;> simp [h]

@[simp] theorem nextWf_execLeaseBudgetExpiry (team claim : Nat) (s : State) (h : s.memoryWf = true) :
    NextWf (execLeaseBudgetExpiry team claim s) := by
  unfold execLeaseBudgetExpiry
  split
  · split <;> simp [h]
  · simp [h]

@[simp] theorem State.memoryWf_finishLease (s : State) (t : Team) (claim : Nat) : (s.finishLease t claim).memoryWf = s.memoryWf := by
  simp [State.finishLease]

@[simp] theorem nextWf_execLeaseGrant (team claim : Nat) (s : State) (h : s.memoryWf = true) : NextWf (execLeaseGrant team claim s) := by
  unfold execLeaseGrant
  dsimp only
  repeat' split
  all_goals simp [h]

@[simp] theorem nextWf_execLeaseReplayComplete (team claim : Nat) (s : State) (h : s.memoryWf = true) :
    NextWf (execLeaseReplayComplete team claim s) := by
  unfold execLeaseReplayComplete
  dsimp only
  repeat' split
  all_goals simp [h]

/-! ### Sys2Proof/Machine/Saving.lean -/

theorem State.memoryWf_pieceWritten (s : State) (x : Context) (r : Except Stop (State × List (Nat × Nat × GranuleWrite) × List Touch))
    (h : s.memoryWf = true) (hr : ∀ p, r = .ok p → p.1.memoryWf = true) : (s.pieceWritten x r).1.memoryWf = true := by
  unfold State.pieceWritten
  split
  · simpa using hr _ rfl
  · exact h
  · exact h

@[simp] theorem State.memoryWf_writePart (s : State) (x : Context) (base : Word) (o : Nat) (bs : List Byte) (h : s.memoryWf = true) :
    (s.writePart x base o bs).1.memoryWf = true :=
  State.memoryWf_pieceWritten _ _ _ h fun _ e => State.writeStruct_wf h e

@[simp] theorem State.memoryWf_writeSome (s : State) (x : Context) (base : Word) (l : List (Nat × List Byte)) (k : Nat) (h : s.memoryWf = true) :
    (s.writeSome x base l k).memoryWf = true :=
  State.memoryWf_foldl_of (fun u e hu => by split <;> simp [hu]) _ _ h

@[simp] theorem State.memoryWf_writeParts (x : Context) (base : Word) (l : List (Nat × List Byte)) (s : State) (h : s.memoryWf = true) :
    (s.writeParts x base l).1.memoryWf = true := by
  induction l generalizing s with
  | nil => exact h
  | cons p l ih =>
    obtain ⟨o, bs⟩ := p
    have hp := State.memoryWf_writePart s x base o bs h
    rw [State.writeParts]
    split
    · exact hp
    · exact ih _ hp

@[simp] theorem State.memoryWf_fillRecords (s : State) (t : Team) (saved : Bool) (hard : Bool) (h : s.memoryWf = true) :
    (s.fillRecords t saved hard).memoryWf = true := by
  unfold State.fillRecords
  split <;> simp [h]

@[simp] theorem State.memoryWf_dropLaunches (s : State) (team : Nat) : (s.dropLaunches team).memoryWf = s.memoryWf := by simp [State.dropLaunches]

@[simp] theorem State.memoryWf_queueLaunches (s : State) (t : Team) : (s.queueLaunches t).memoryWf = s.memoryWf :=
  State.memoryWf_foldl (by simp) _ _

@[simp] theorem State.memoryWf_reenter (s : State) (gid : Nat) (anew : Bool) : (s.reenter gid anew).memoryWf = s.memoryWf := by
  unfold State.reenter
  split <;> simp

@[simp] theorem State.memoryWf_leaveSaved (s : State) (t : Team) (at_ : Nat) (frozen : Bool) (h : s.memoryWf = true) :
    (s.leaveSaved t at_ frozen).memoryWf = true := by
  simp [State.leaveSaved, h]

@[simp] theorem State.memoryWf_saveTeam (s : State) (t : Team) (at_ : Nat) (hard : Bool) (h : s.memoryWf = true) :
    (s.saveTeam t at_ hard).memoryWf = true := by
  -- the kernel compares the branches of the `match`: what the match is on is a variable there, so that it is not evaluated
  obtain ⟨write, hwrite⟩ : ∃ f, f = State.writeParts := ⟨_, rfl⟩
  have written (x : Context) (base : Word) (ps : List (Nat × List Byte)) : (write s x base ps).1.memoryWf = true := by
    rw [hwrite]; exact State.memoryWf_writeParts x base ps s h
  unfold State.saveTeam
  rw [← hwrite]
  split
  · next x g _ _ =>
    have hw := written x (structPlus g.launch.saveaddr (t.index * t.saveSize)) (s.saveParts t (s.savedStrands t at_) at_)
    split
    next s1 r e =>
    rw [e] at hw
    dsimp only
    split
    · have kept := State.memoryWf_writeSome s.chosen x (structPlus g.launch.saveaddr (t.index * t.saveSize))
        (s.saveParts t (s.savedStrands t at_) at_) s.choice ((State.memoryWf_chosen s).trans h)
      refine State.memoryWf_fillRecords _ _ _ _ ((State.memoryWf_freeTeam _ _).trans ((State.memoryWf_addRecord _ _ _).trans
        ((State.memoryWf_setTeam _ _).trans ?_)))
      exact State.memoryWf_of_eq kept rfl rfl rfl
    · have filled (k : Nat) (f : Strand → Strand) : ((({ s1 with fresh := k } : State).mapStrands t.id f).fillRecords t true hard).memoryWf = true :=
        State.memoryWf_fillRecords _ _ _ _ ((State.memoryWf_mapStrands _ _ _).trans (State.memoryWf_of_eq hw rfl rfl rfl))
      refine State.memoryWf_ite_of ?_ ?_
      · exact (State.memoryWf_freeTeam _ _).trans ((State.memoryWf_setTeam _ _).trans (filled _ _))
      · exact (State.memoryWf_preemptCheck _).trans (State.memoryWf_leaveSaved _ _ _ _ (filled _ _))
  · exact h

@[simp] theorem nextWf_execTeamSave (team : Nat) (s : State) (h : s.memoryWf = true) : NextWf (execTeamSave team s) := by
  unfold execTeamSave
  split
  · simp [h]
  · split <;> simp [h]

@[simp] theorem State.memoryWf_restoreTiles (s : State) (x : Context) (base : Word) (t : Team) (st : Strand) :
    (s.restoreTiles x base t st).memoryWf = s.memoryWf := by
  unfold State.restoreTiles
  refine (State.memoryWf_foldl (fun u e => ?_) _ _).trans (State.memoryWf_foldl (fun u e => ?_) _ _)
  · exact State.memoryWf_foldl (fun v r => State.memoryWf_setAccRow _ _ _) _ _
  · refine State.memoryWf_foldl (fun v l => ?_) _ _
    exact State.memoryWf_congr rfl rfl rfl

@[simp] theorem State.memoryWf_restoreParcel (s : State) (x : Context) (base : Word) (t : Team) (i stn p tag : Nat) (h : s.memoryWf = true) :
    (s.restoreParcel x base t i stn p tag).memoryWf = true := by
  obtain ⟨hhbm, hring, histore⟩ := s.memoryWf_iff.mp h
  simp [State.restoreParcel, hhbm, histore, Memory.wf_writeBytes _ _ _ hring]

@[simp] theorem State.memoryWf_restoreBelt (s : State) (x : Context) (base : Word) (t : Team) (i : Nat) (h : s.memoryWf = true) :
    (s.restoreBelt x base t i).memoryWf = true := State.memoryWf_foldl_of (fun _ _ hu => State.memoryWf_restoreParcel _ _ _ _ _ _ _ _ hu) _ _ h

@[simp] theorem State.memoryWf_restoreXpc (s : State) (x : Context) (base : Word) (t : Team) (st : Strand) :
    (s.restoreXpc x base t st).memoryWf = s.memoryWf := by
  simp [State.restoreXpc]

@[simp] theorem State.memoryWf_restore (s : State) (x : Context) (base : Word) (t : Team) (h : s.memoryWf = true) :
    (s.restore x base t).memoryWf = true := by
  unfold State.restore
  refine (State.memoryWf_foldl (fun _ _ => State.memoryWf_replayClaim _ _ _) _ _).trans ((State.memoryWf_chosen _).trans ?_)
  refine State.memoryWf_foldl_of (fun _ _ hu => State.memoryWf_restoreBelt _ _ _ _ _ hu) _ _ ?_
  refine (State.memoryWf_foldl (fun _ _ => ?_) _ _).trans ?_
  · rw [State.memoryWf_restoreXpc, State.memoryWf_restoreTiles]
  refine (State.memoryWf_foldl (fun _ _ => State.memoryWf_setStrand _ _) _ _).trans ?_
  refine State.memoryWf_zeroBelt _ _ ?_
  refine (State.memoryWf_foldl (fun _ _ => State.memoryWf_zeroStrand _ _ _) _ _).trans ?_
  exact (State.memoryWf_setTeam _ _).trans h

@[simp] theorem nextWf_execTeamResume (team : Nat) (s : State) (h : s.memoryWf = true) : NextWf (execTeamResume team s) := by
  unfold execTeamResume
  split
  · simp [h]
  · split
    · split
      · simp [h]
      · dsimp only
        split
        · simp [h]
        · rw [nextWf_next, State.memoryWf_preemptCheck, State.memoryWf_deviceNotes, State.memoryWf_served]
          refine State.memoryWf_loadTeam _ _ _ _ ((State.memoryWf_queueLaunches _ _).trans ?_)
          refine State.memoryWf_restore _ _ _ _ ((State.memoryWf_foldl (fun _ _ => State.memoryWf_giveTiles _ _ _) _ _).trans ?_)
          simp [h]
    · simp [h]

@[simp] theorem State.memoryWf_discardTeam (s : State) (t : Team) : (s.discardTeam t).memoryWf = s.memoryWf := by simp [State.discardTeam]

@[simp] theorem State.memoryWf_discardGrid (s : State) (gid : Nat) (h : s.memoryWf = true) : (s.discardGrid gid).memoryWf = true := by
  unfold State.discardGrid
  dsimp only
  split
  · exact h
  · rw [State.memoryWf_preemptCheck, State.memoryWf_setGrid]
    refine State.memoryWf_settleWatches _ _ (State.memoryWf_flushRecords _ _ ?_)
    split <;> simp [h]

@[simp] theorem State.memoryWf_closeGrid (s : State) (g : Grid) (h : s.memoryWf = true) : (s.closeGrid g).memoryWf = true := by
  simp [State.closeGrid, h]

@[simp] theorem nextWf_execGridDiscard (grid : Nat) (s : State) (h : s.memoryWf = true) : NextWf (execGridDiscard grid s) := by
  unfold execGridDiscard
  split <;> simp [h]

@[simp] theorem State.memoryWf_auditEvent (s : State) (tower : Nat) (x : Sample) (place verdict site2 : Nat) :
    (s.auditEvent tower x place verdict site2).memoryWf = s.memoryWf := by
  unfold State.auditEvent
  dsimp only
  split <;> simp

@[simp] theorem nextWf_execAuditReplayComplete (tower row : Nat) (flip : BitVec 128) (s : State) (h : s.memoryWf = true) :
    NextWf (execAuditReplayComplete tower row flip s) := by
  unfold execAuditReplayComplete
  dsimp only
  repeat' split
  all_goals simp [h]

@[simp] theorem nextWf_execAuditSecondReplayComplete (tower : Nat) (flip : BitVec 128) (s : State) (h : s.memoryWf = true) :
    NextWf (execAuditSecondReplayComplete tower flip s) := by
  unfold execAuditSecondReplayComplete
  dsimp only
  repeat' split
  all_goals simp [h]

/-! ### Sys2Proof/Machine/Queues.lean -/

@[simp] theorem State.memoryWf_setQueue (s : State) (ctx q : Nat) (f : Queue → Queue) : (s.setQueue ctx q f).memoryWf = s.memoryWf := by
  unfold State.setQueue
  split <;> simp

@[simp] theorem State.memoryWf_advance (s : State) (p : Packet) (h : s.memoryWf = true) : (s.advance p).memoryWf = true := by
  unfold State.advance
  rw [State.memoryWf_setQueue]
  exact State.memoryWf_deviceWrite _ _ _ _ h

@[simp] theorem State.memoryWf_consume (s : State) (p : Packet) (status : Nat) (h : s.memoryWf = true) : (s.consume p status).memoryWf = true :=
  State.memoryWf_advance _ _ (State.memoryWf_deviceWrite _ _ _ _ h)

@[simp] theorem State.memoryWf_packetPoison (s : State) (p : Packet) (pois : Nat × Nat) (h : s.memoryWf = true) :
    (s.packetPoison p pois).memoryWf = true := by
  simp [State.packetPoison, h]

@[simp] theorem State.memoryWf_consumePoisoned (s : State) (p : Packet) (pois : Nat × Nat) (h : s.memoryWf = true) :
    (s.consumePoisoned p pois).memoryWf = true :=
  State.memoryWf_advance _ _ (State.memoryWf_packetPoison _ _ _ (State.memoryWf_deviceWrite _ _ _ _ h))

@[simp] theorem State.memoryWf_readAgain (s : State) (ctx q : Nat) : (s.readAgain ctx q).memoryWf = s.memoryWf := by simp [State.readAgain]

@[simp] theorem State.memoryWf_noteSlot (s : State) (x : Context) (k : Queue) : (s.noteSlot x k).memoryWf = s.memoryWf :=
  State.memoryWf_deviceNotes _ _ _

theorem State.nextWf_serve (s : State) (ctx q : Nat) (k : PacketType) {f : State → Packet → State} (h : s.memoryWf = true)
    (hf : ∀ p, (f s p).memoryWf = true) : NextWf (s.serve ctx q k f) := by
  unfold State.serve
  split
  · simp [h]
  · split <;> simp [h, hf]

@[simp] theorem State.memoryWf_reportQueue (s : State) (x : Context) (q : Nat) (k : Queue) : (s.reportQueue x q k).memoryWf = s.memoryWf := by
  unfold State.reportQueue
  split <;> simp

@[simp] theorem State.memoryWf_pollQueue (s : State) (x : Context) (q : Nat) (k : Queue) : (s.pollQueue x q k).memoryWf = s.memoryWf := by
  simp [State.pollQueue]

@[simp] theorem State.memoryWf_watchQueues (s : State) : (s.watchQueues).memoryWf = s.memoryWf := by simp [State.watchQueues]

@[simp] theorem State.memoryWf_serveReport (s : State) : (s.serveReport).memoryWf = s.memoryWf := by
  unfold State.serveReport
  split <;> simp

@[simp] theorem nextWf_execNopPacket (ctx queue : Nat) (s : State) (h : s.memoryWf = true) : NextWf (execNopPacket ctx queue s) :=
  State.nextWf_serve _ _ _ _ h fun _ => State.memoryWf_consume _ _ _ h

@[simp] theorem State.memoryWf_acceptGrid (s : State) (ctx queue prio : Nat) (lrec : Word) (r : LaunchRec) (entries : List (BitVec 256))
    (copy : SMap (BitVec 256)) (h : s.memoryWf = true) : (s.acceptGrid ctx queue prio lrec r entries copy).memoryWf = true := by
  unfold State.acceptGrid
  dsimp only
  split <;> simp [h]

@[simp] theorem State.memoryWf_noteLaunch (s : State) (x : Context) (addr : Word) : (s.noteLaunch x addr).memoryWf = s.memoryWf := by
  unfold State.noteLaunch
  split <;> simp

@[simp] theorem nextWf_execLaunchPacket (ctx queue : Nat) (s : State) (h : s.memoryWf = true) : NextWf (execLaunchPacket ctx queue s) := by
  refine State.nextWf_serve _ _ _ _ h fun p => ?_
  split
  · simp [h]
  · rw [State.memoryWf_noteLaunch]
    split <;> simp [h]

@[simp] theorem State.memoryWf_viewPoison (s : State) (c : Cmd) (p : Nat × Nat) : (s.viewPoison c p).memoryWf = s.memoryWf := by
  simp [State.viewPoison]

@[simp] theorem State.memoryWf_copyPacketStart (s : State) (x : Context) (old : Nat) (c : Cmd) (a b : View) (pois : Option (Nat × Nat)) :
    (s.copyPacketStart x old c a b pois).memoryWf = s.memoryWf := by
  unfold State.copyPacketStart
  split
  · simp
  · split
    · simp
    · split <;> simp

@[simp] theorem State.memoryWf_layoutPacketStart (s : State) (x : Context) (old : Nat) (c : Cmd) (a b : View) (pois : Option (Nat × Nat)) :
    (s.layoutPacketStart x old c a b pois).memoryWf = s.memoryWf := by
  unfold State.layoutPacketStart
  split <;> simp

theorem State.memoryWf_engineAccept (s : State) (p : Packet) (bad : Bool) (counter : Word) (c : Nat → Cmd)
    {start : State → Nat → Cmd → View → View → Option (Nat × Nat) → State} (h : s.memoryWf = true)
    (hs : ∀ u n c a b e, (start u n c a b e).memoryWf = u.memoryWf) : (s.engineAccept p bad counter c start).memoryWf = true := by
  unfold State.engineAccept
  dsimp only
  split
  · split
    · simp [h]
    · split <;> simp [h, hs]
  · simp [h]

@[simp] theorem nextWf_execCopyPacket (ctx queue : Nat) (s : State) (h : s.memoryWf = true) : NextWf (execCopyPacket ctx queue s) :=
  State.nextWf_serve _ _ _ _ h fun _ => State.memoryWf_engineAccept _ _ _ _ _ h fun _ _ _ _ _ _ => State.memoryWf_copyPacketStart _ _ _ _ _ _ _

@[simp] theorem nextWf_execLayoutPacket (ctx queue : Nat) (s : State) (h : s.memoryWf = true) : NextWf (execLayoutPacket ctx queue s) :=
  State.nextWf_serve _ _ _ _ h fun _ => State.memoryWf_engineAccept _ _ _ _ _ h fun _ _ _ _ _ _ => State.memoryWf_layoutPacketStart _ _ _ _ _ _ _

@[simp] theorem nextWf_execSignalPacket (ctx queue : Nat) (s : State) (h : s.memoryWf = true) : NextWf (execSignalPacket ctx queue s) :=
  State.nextWf_serve _ _ _ _ h fun p => by simp [h]

@[simp] theorem nextWf_execWaitPacket (ctx queue : Nat) (s : State) (h : s.memoryWf = true) : NextWf (execWaitPacket ctx queue s) :=
  State.nextWf_serve _ _ _ _ h fun p => by simp [h]

@[simp] theorem nextWf_execWaitPacketSatisfied (ctx queue : Nat) (s : State) (h : s.memoryWf = true) :
    NextWf (execWaitPacketSatisfied ctx queue s) := by
  unfold execWaitPacketSatisfied
  split
  · simp [h]
  · split
    · simp [h]
    · split <;> simp [h]

@[simp] theorem nextWf_execFencePacket (ctx queue : Nat) (s : State) (h : s.memoryWf = true) : NextWf (execFencePacket ctx queue s) :=
  State.nextWf_serve _ _ _ _ h fun p => by simp [h]

@[simp] theorem nextWf_execFencePacketComplete (ctx queue : Nat) (s : State) (h : s.memoryWf = true) :
    NextWf (execFencePacketComplete ctx queue s) := by
  unfold execFencePacketComplete
  split
  · simp [h]
  · split
    · simp [h]
    · split <;> simp [h]

@[simp] theorem nextWf_execPreemptPacket (ctx queue : Nat) (s : State) (h : s.memoryWf = true) : NextWf (execPreemptPacket ctx queue s) := by
  refine State.nextWf_serve _ _ _ _ h fun p => ?_
  dsimp only
  split
  · simp [h]
  · refine State.memoryWf_consume _ _ _ ?_
    split
    · simp [h]
    · split <;> simp [h]

@[simp] theorem State.memoryWf_rewait (s : State) (gid : Nat) : (s.rewait gid).memoryWf = s.memoryWf := by
  unfold State.rewait
  split <;> simp

@[simp] theorem nextWf_execResumePacket (ctx queue : Nat) (s : State) (h : s.memoryWf = true) : NextWf (execResumePacket ctx queue s) :=
  State.nextWf_serve _ _ _ _ h fun p => by simp [h]

@[simp] theorem nextWf_execResumeFrozenTeam (ctx queue : Nat) (s : State) (h : s.memoryWf = true) : NextWf (execResumeFrozenTeam ctx queue s) := by
  refine State.nextWf_serve _ _ _ _ h fun p => ?_
  split
  · split
    · simp [h]
    · dsimp only
      split <;> simp [h]
  · simp [h]

@[simp] theorem nextWf_execDiscardFrozenTeam (ctx queue : Nat) (s : State) (h : s.memoryWf = true) : NextWf (execDiscardFrozenTeam ctx queue s) := by
  refine State.nextWf_serve _ _ _ _ h fun p => ?_
  split
  · split
    · simp [h]
    · dsimp only
      split <;> simp [h]
  · simp [h]

@[simp] theorem State.memoryWf_popLaunch (s : State) (core : Nat) : (s.popLaunch core).memoryWf = s.memoryWf := by simp [State.popLaunch]

@[simp] theorem nextWf_execPendingLaunchTake (core : Nat) (s : State) (h : s.memoryWf = true) : NextWf (execPendingLaunchTake core s) := by
  unfold execPendingLaunchTake
  dsimp only
  repeat' split
  all_goals simp [h]

/-! ### Sys2Proof/Machine/Platform.lean -/

@[simp] theorem State.memoryWf_report (s : State) (what : String) (a b : Nat) : (s.report what a b).memoryWf = s.memoryWf := by simp [State.report]
@[simp] theorem State.memoryWf_setStep (s : State) (tower n : Nat) : (s.setStep tower n).memoryWf = s.memoryWf := by simp [State.setStep]
@[simp] theorem State.memoryWf_applySteps (s : State) : (s.applySteps).memoryWf = s.memoryWf := by simp [State.applySteps]
@[simp] theorem State.memoryWf_mapTowers (s : State) (f : Tower → Tower) : (s.mapTowers f).memoryWf = s.memoryWf := by simp [State.mapTowers]

@[simp] theorem State.memoryWf_tripTeam (s : State) (tower detail : Nat) (t : Team) : (s.tripTeam tower detail t).memoryWf = s.memoryWf := by
  unfold State.tripTeam
  dsimp only
  split <;> simp

@[simp] theorem State.memoryWf_sense (s : State) (sensor temp : Nat) : (s.sense sensor temp).memoryWf = s.memoryWf := by simp [State.sense]

@[simp] theorem nextWf_execTowerOnline (tower : Nat) (s : State) (h : s.memoryWf = true) : NextWf (execTowerOnline tower s) := by
  unfold execTowerOnline
  dsimp only
  split <;> simp [h]

@[simp] theorem nextWf_execDeviceReset (s : State) : NextWf (execDeviceReset s) := by
  unfold execDeviceReset
  simp

theorem State.memoryWf_frame (s : State) (f : Frame) {act : State → State} (h : s.memoryWf = true)
    (ha : ∀ u : State, u.memoryWf = true → (act u).memoryWf = true) : (s.frame f act).memoryWf = true := by
  unfold State.frame
  split
  · exact ha _ h
  · simpa using h

theorem State.nextWf_onFrame (s : State) {act : State → Mgmt → State} (h : s.memoryWf = true)
    (ha : ∀ (u : State) m, u.memoryWf = true → (act u m).memoryWf = true) : NextWf (s.onFrame act) := by
  unfold State.onFrame
  split
  · simpa using h
  · refine (nextWf_next _).mpr (State.memoryWf_frame _ _ (by simpa using h) fun u hu => ?_)
    split
    · exact ha _ _ hu
    · exact hu

@[simp] theorem nextWf_execStatusRequest (s : State) (h : s.memoryWf = true) : NextWf (execStatusRequest s) :=
  State.nextWf_onFrame s h fun u m hu => by simp [hu]

theorem State.nextWf_managed (s : State) {f : State → State} (h : s.memoryWf = true)
    (hf : ∀ u : State, u.memoryWf = true → (f u).memoryWf = true) : NextWf (s.managed f) := by
  refine State.nextWf_onFrame s h fun u m hu => ?_
  split
  · exact hu
  · split
    · exact hf _ (by simpa using hu)
    · simpa using hu

@[simp] theorem nextWf_execIdentityQuery (s : State) (h : s.memoryWf = true) : NextWf (execIdentityQuery s) :=
  State.nextWf_managed s h fun u hu => by simp [hu]

@[simp] theorem nextWf_execQuote (nonce : BitVec 256) (s : State) (h : s.memoryWf = true) : NextWf (execQuote nonce s) :=
  State.nextWf_managed s h fun u hu => by simp [hu]

theorem State.memoryWf_createContext (s : State) (c : ContextSpec) (hbm : List Host.Cell) (h : s.memoryWf = true) (hb : Memory.wf hbm = true) :
    (s.createContext c hbm).memoryWf = true := by
  obtain ⟨_, hring, histore⟩ := s.memoryWf_iff.mp h
  unfold State.createContext
  dsimp only
  split
  · simp [h]
  · split
    · simp [h]
    · split
      · simp [hb, hring, histore]
      · simp [h]

theorem wf_writePieces (l : List (Nat × List Byte)) (m m' : List Host.Cell) (h : Memory.wf m = true) (e : writePieces m l = some m') :
    Memory.wf m' = true := by
  induction l generalizing m with
  | nil =>
    cases e
    exact h
  | cons p l ih =>
    unfold writePieces at e
    split at e
    · cases e
    · exact ih _ (Memory.wf_writeBytes _ _ _ h) e

@[simp] theorem nextWf_execCreateContext (c : ContextSpec) (s : State) (h : s.memoryWf = true) : NextWf (execCreateContext c s) := by
  obtain ⟨hhbm, _, _⟩ := s.memoryWf_iff.mp h
  unfold execCreateContext
  split
  · split
    · exact nextWf_fault _
    · exact State.nextWf_managed s h fun _ hu => hu
  · next hbm e => exact State.nextWf_managed s h fun u hu => State.memoryWf_createContext u c hbm hu (wf_writePieces _ _ _ hhbm e)

@[simp] theorem nextWf_execDestroyContext (ctx : Nat) (s : State) (h : s.memoryWf = true) : NextWf (execDestroyContext ctx s) := by
  refine State.nextWf_managed s h fun u hu => ?_
  split <;> simp [hu]

@[simp] theorem State.memoryWf_clearContext (s : State) (x : Context) : (s.clearContext x).memoryWf = s.memoryWf := by simp [State.clearContext]

@[simp] theorem nextWf_execContextDestroyDrained (ctx : Nat) (s : State) (h : s.memoryWf = true) : NextWf (execContextDestroyDrained ctx s) := by
  unfold execContextDestroyDrained
  split <;> simp [h]

@[simp] theorem nextWf_execCreateKeys (ctx : Nat) (keys : BitVec 16) (s : State) (h : s.memoryWf = true) : NextWf (execCreateKeys ctx keys s) := by
  refine State.nextWf_managed s h fun u hu => ?_
  split <;> simp [hu]

@[simp] theorem nextWf_execBindQueuePair (qp ctx : Nat) (s : State) (h : s.memoryWf = true) : NextWf (execBindQueuePair qp ctx s) :=
  State.nextWf_managed s h fun u hu => by simp [hu]

@[simp] theorem nextWf_execSetExportTable (ctx : Nat) (table : BitVec 64) (windows : Nat) (s : State) (h : s.memoryWf = true) :
    NextWf (execSetExportTable ctx table windows s) := by
  refine State.nextWf_managed s h fun u hu => ?_
  split <;> simp [hu]

@[simp] theorem nextWf_execNameTimedOwner (owner : Option Nat) (s : State) (h : s.memoryWf = true) : NextWf (execNameTimedOwner owner s) :=
  State.nextWf_managed s h fun u hu => by simp [hu]

@[simp] theorem nextWf_execReserveTimedChannels (ctx stack : Nat) (groups : BitVec 24) (s : State) (h : s.memoryWf = true) :
    NextWf (execReserveTimedChannels ctx stack groups s) := State.nextWf_managed s h fun u hu => by simp [hu]

@[simp] theorem nextWf_execSetAuditn (ctx : Nat) (value : BitVec 6) (s : State) (h : s.memoryWf = true) : NextWf (execSetAuditn ctx value s) := by
  refine State.nextWf_managed s h fun u hu => ?_
  split <;> simp [hu]

@[simp] theorem nextWf_execSetSamplingInterval (n : Nat) (s : State) (h : s.memoryWf = true) : NextWf (execSetSamplingInterval n s) :=
  State.nextWf_managed s h fun u hu => by simp [hu]

@[simp] theorem nextWf_execJoinDomain (devid qlog : Nat) (flight : List Nat) (s : State) (h : s.memoryWf = true) :
    NextWf (execJoinDomain devid qlog flight s) := State.nextWf_managed s h fun u hu => by simp [hu]

@[simp] theorem nextWf_execLeaveDomain (s : State) (h : s.memoryWf = true) : NextWf (execLeaveDomain s) :=
  State.nextWf_managed s h fun u hu => by simp [hu]

@[simp] theorem nextWf_execJobRecordEmit (grid : Nat) (s : State) (h : s.memoryWf = true) : NextWf (execJobRecordEmit grid s) := by
  unfold execJobRecordEmit
  split <;> simp [h]

@[simp] theorem nextWf_execAcknowledgeJobRecords (rseq : Nat) (s : State) (h : s.memoryWf = true) :
    NextWf (execAcknowledgeJobRecords rseq s) := State.nextWf_managed s h fun u hu => by simp [hu]

@[simp] theorem nextWf_execJobRecordResend (rseq : Nat) (s : State) (h : s.memoryWf = true) : NextWf (execJobRecordResend rseq s) := by
  refine State.nextWf_managed s h fun u hu => ?_
  split <;> simp [hu]

@[simp] theorem State.memoryWf_nak (s : State) (qp kind : Nat) : (s.nak qp kind).memoryWf = s.memoryWf := by simp [State.nak]

@[simp] theorem State.memoryWf_rdmaAnswer (s : State) (qp : Nat) (data : List Byte) : (s.rdmaAnswer qp data).memoryWf = s.memoryWf := by
  simp [State.rdmaAnswer]

theorem State.nextWf_onPair (s : State) (r : RdmaRequest) (n : Nat) {f : State → QueuePair → State} (h : s.memoryWf = true)
    (hf : ∀ (u : State) q, u.memoryWf = true → (f u q).memoryWf = true) : NextWf (s.onPair r n f) := by
  refine (nextWf_next _).mpr (State.memoryWf_frame _ _ h fun u hu => ?_)
  split
  · exact hu
  · split
    · exact hu
    · split
      · exact hu
      · exact hf _ _ (by simpa using hu)

theorem State.nextWf_rdma (s : State) (r : RdmaRequest) (n : Nat) {f : State → Context → State} (h : s.memoryWf = true)
    (hf : ∀ (u : State) x, u.memoryWf = true → (f u x).memoryWf = true) : NextWf (s.rdma r n f) := by
  refine State.nextWf_onPair s r n h fun u q hu => ?_
  split
  · simpa using hu
  · exact hf _ _ hu

@[simp] theorem nextWf_execRdmaWrite (r : RdmaRequest) (s : State) (h : s.memoryWf = true) : NextWf (execRdmaWrite r s) := by
  refine State.nextWf_rdma s r _ h fun u x hu => ?_
  split
  · simpa using hu
  · next e => simpa using State.memoryWf_windowWrite hu e

@[simp] theorem nextWf_execRdmaRead (r : RdmaRequest) (s : State) (h : s.memoryWf = true) : NextWf (execRdmaRead r s) := by
  refine State.nextWf_rdma s r _ h fun u x hu => ?_
  split <;> simp [hu]

theorem State.nextWf_rdmaAtomic (s : State) (r : RdmaRequest) (op : Nat) (h : s.memoryWf = true) : NextWf (s.rdmaAtomic r op) := by
  unfold State.rdmaAtomic
  split
  · exact State.nextWf_onPair s r 8 h fun u _ hu => by simpa using hu
  · refine State.nextWf_rdma s r 8 h fun u x hu => ?_
    split
    · simpa using hu
    · simpa using hu
    · next e => simpa using State.memoryWf_windowAtomic hu e

@[simp] theorem nextWf_execAtomicFetchAdd (r : RdmaRequest) (s : State) (h : s.memoryWf = true) : NextWf (execAtomicFetchAdd r s) :=
  State.nextWf_rdmaAtomic s r _ h

@[simp] theorem nextWf_execAtomicCmpSwap (r : RdmaRequest) (s : State) (h : s.memoryWf = true) : NextWf (execAtomicCmpSwap r s) :=
  State.nextWf_rdmaAtomic s r _ h

@[simp] theorem nextWf_execRoceInvalidRequest (r : RdmaRequest) (s : State) (h : s.memoryWf = true) : NextWf (execRoceInvalidRequest r s) :=
  State.nextWf_onPair s r _ h fun u _ hu => by simpa using hu

/-! ### Sys2Proof/Machine/Resolve.lean -/

@[simp] theorem State.memoryWf_raiseOn (s : State) (t : Team) (x : Strand) (r : Raised) : (s.raiseOn t x r).memoryWf = s.memoryWf := by
  simp [State.raiseOn]

@[simp] theorem nextWf_execTimedRdvDeadline (team : Nat) (s : State) (h : s.memoryWf = true) : NextWf (execTimedRdvDeadline team s) := by
  unfold execTimedRdvDeadline
  split
  · simp [h]
  · split <;> simp [h]

@[simp] theorem State.memoryWf_poisonRows (s : State) (l : List Raised) : (s.poisonRows l).memoryWf = s.memoryWf :=
  State.memoryWf_foldl (fun u r => by split <;> simp) _ _

@[simp] theorem State.memoryWf_cancelTeam (s : State) (t : Team) (l : List (Issue × List Raised)) : (s.cancelTeam t l).memoryWf = s.memoryWf := by
  simp [State.cancelTeam]

@[simp] theorem State.memoryWf_holdIssue (s : State) (b : Issue) (w : Wait) : (s.holdIssue b w).memoryWf = s.memoryWf := by
  unfold State.holdIssue
  split <;> simp

@[simp] theorem State.memoryWf_enterLaunch (s : State) (c : Cmd) : (s.enterLaunch c).memoryWf = s.memoryWf := by simp [State.enterLaunch]

@[simp] theorem State.memoryWf_enterCommand (s : State) (c : Cmd) : (s.enterCommand c).memoryWf = s.memoryWf := by
  unfold State.enterCommand
  dsimp only
  repeat' split
  all_goals simp

@[simp] theorem State.memoryWf_fenceStrand (s : State) (st : Strand) : (s.fenceStrand st).memoryWf = s.memoryWf := by simp [State.fenceStrand]

@[simp] theorem State.memoryWf_yieldTeam (s : State) (t : Team) (strand : Nat) (timed : Bool) :
    (s.yieldTeam t strand timed).memoryWf = s.memoryWf := by
  simp [State.yieldTeam]

@[simp] theorem State.memoryWf_takeEffect (s : State) (b : Issue) (e : Effect) : (s.takeEffect b e).memoryWf = s.memoryWf := by
  unfold State.takeEffect
  dsimp only
  repeat' split
  all_goals simp

@[simp] theorem State.memoryWf_applyBundle (s : State) (b : Issue) : (s.applyBundle b).memoryWf = s.memoryWf := by
  unfold State.applyBundle
  dsimp only
  repeat' split
  all_goals simp

@[simp] theorem State.memoryWf_applyTeam (s : State) (id : Nat) (l : List Issue) : (s.applyTeam id l).memoryWf = s.memoryWf := by
  unfold State.applyTeam
  dsimp only
  repeat' split
  all_goals simp

@[simp] theorem State.memoryWf_resolveTeam (s : State) (t : Team) : (s.resolveTeam t).memoryWf = s.memoryWf := by
  unfold State.resolveTeam
  dsimp only
  split
  · rw [State.memoryWf_cancelTeam, State.memoryWf_foldl]
    intro u b
    split <;> simp
  · rw [State.memoryWf_applyTeam, State.memoryWf_foldl]
    intro u b
    split <;> simp

@[simp] theorem State.memoryWf_resolveAll (s : State) : (s.resolveAll).memoryWf = s.memoryWf := by simp [State.resolveAll]

/-! ### Sys2Proof/Machine/Perform.lean -/

@[simp] theorem State.memoryWf_readPart (s : State) (t : Team) (st : Strand) (ea : BitVec 28) (diag : Bool) (m n : Nat) :
    (s.readPart t st ea diag m n).2.memoryWf = s.memoryWf := by
  unfold State.readPart
  dsimp only
  split <;> simp

@[simp] theorem State.memoryWf_readParts (t : Team) (st : Strand) (ea : BitVec 28) (diag : Bool) (n : Nat) (l : List Nat) (s : State) :
    (s.readParts t st ea diag n l).2.memoryWf = s.memoryWf := by
  induction l generalizing s with
  | nil => rfl
  | cons m l ih => simp [State.readParts, ih]

@[simp] theorem State.memoryWf_performRead (s : State) (t : Team) (st : Strand) (f : InFlight) : (s.performRead t st f).2.memoryWf = s.memoryWf := by
  unfold State.performRead
  split <;> simp

@[simp] theorem State.memoryWf_performReads (t : Team) (st : Strand) (l : List InFlight) (s : State) :
    (s.performReads t st l).2.memoryWf = s.memoryWf := by
  induction l generalizing s with
  | nil => rfl
  | cons f l ih =>
    rw [State.performReads]
    dsimp only
    rw [ih]
    split <;> simp

@[simp] theorem State.memoryWf_strandReads (s : State) (t : Team) (i : Nat) : (s.strandReads t i).memoryWf = s.memoryWf := by
  unfold State.strandReads
  split <;> simp

@[simp] theorem State.memoryWf_storeNow (s : State) (t : Team) (strand : Nat) (w : RingStore) (h : s.memoryWf = true) :
    (s.storeNow t strand w).memoryWf = true := State.memoryWf_performStore _ _ _ (by simp [h])

@[simp] theorem State.memoryWf_strandWrites (s : State) (t : Team) (i : Nat) (h : s.memoryWf = true) : (s.strandWrites t i).memoryWf = true := by
  unfold State.strandWrites
  split
  · exact State.memoryWf_foldl_of (fun _ _ hu => State.memoryWf_storeNow _ _ _ _ hu) _ _ (by simp [h])
  · exact h

@[simp] theorem State.memoryWf_performCores (s : State) (h : s.memoryWf = true) : s.performCores.memoryWf = true := by
  unfold State.performCores
  refine State.memoryWf_foldl_of (fun u t hu => State.memoryWf_foldl_of (fun _ _ hv => State.memoryWf_strandWrites _ _ _ hv) _ _ hu) _ _ ?_
  rw [State.memoryWf_foldl, State.memoryWf_foldl]
  · exact h
  · simp
  · exact fun u t => State.memoryWf_foldl (by simp) _ _

@[simp] theorem State.memoryWf_writeRow (s : State) (t : Team) (st : Strand) (rho : Nat) (data : Row) (m : Mask) (pois : BitVec 8) :
    (s.writeRow t st rho data m pois).memoryWf = s.memoryWf := by
  simp [State.writeRow]

@[simp] theorem State.memoryWf_placeLoad (s : State) (t : Team) (st : Strand) (dst : LoadDst) (data : Row) (pois : BitVec 8) :
    (s.placeLoad t st dst data pois).memoryWf = s.memoryWf := by
  unfold State.placeLoad
  split
  · split <;> simp
  · simp
  · exact State.memoryWf_foldl (by simp) _ _
  · exact State.memoryWf_foldl (by simp) _ _

@[simp] theorem State.memoryWf_commitResult (s : State) (t : Team) (st : Strand) (r : Result) : (s.commitResult t st r).memoryWf = s.memoryWf := by
  unfold State.commitResult
  split <;> simp

@[simp] theorem State.memoryWf_commitControls (s : State) (t : Team) (i : Nat) : (s.commitControls t i).memoryWf = s.memoryWf := by
  refine State.memoryWf_foldl (fun u b => State.memoryWf_foldl (fun v e => ?_) _ _) _ _
  dsimp only
  split <;> simp

@[simp] theorem State.memoryWf_commitStrand (s : State) (t : Team) (i : Nat) : (s.commitStrand t i).memoryWf = s.memoryWf := by
  unfold State.commitStrand
  dsimp only
  repeat' split
  all_goals simp

@[simp] theorem State.memoryWf_commitStrands (s : State) : (s.commitStrands).memoryWf = s.memoryWf := by simp [State.commitStrands]

@[simp] theorem State.memoryWf_applyHset (s : State) (c : Cmd) : (s.applyHset c).memoryWf = s.memoryWf := by
  unfold State.applyHset
  split <;> simp

@[simp] theorem State.memoryWf_settle (s : State) : (s.settle).memoryWf = s.memoryWf := by simp [State.settle]
@[simp] theorem State.memoryWf_applyHsets (s : State) : (s.applyHsets).memoryWf = s.memoryWf := by simp [State.applyHsets]

@[simp] theorem State.memoryWf_retireCmd (s : State) (c : Cmd) (status : BitVec 4) (h : s.memoryWf = true) :
    (s.retireCmd c status).memoryWf = true := by
  unfold State.retireCmd
  dsimp only
  repeat' split
  all_goals simp [h]

@[simp] theorem State.memoryWf_retireCmds (s : State) (h : s.memoryWf = true) : s.retireCmds.memoryWf = true :=
  State.memoryWf_foldl_of (fun u c hu => by split <;> simp [hu]) _ _ h

@[simp] theorem State.memoryWf_startTeams (s : State) : s.startTeams.memoryWf = s.memoryWf := by
  refine State.memoryWf_foldl (fun u t => ?_) _ _
  dsimp only
  split
  · split <;> simp
  · rfl

@[simp] theorem State.memoryWf_advanceTeam (s : State) (t : Team) : (s.advanceTeam t).memoryWf = s.memoryWf := by simp [State.advanceTeam]

@[simp] theorem State.memoryWf_advanceTeams (s : State) : s.advanceTeams.memoryWf = s.memoryWf :=
  State.memoryWf_foldl (fun u t => by split <;> simp) _ _

@[simp] theorem State.memoryWf_sendQueues (s : State) : (s.sendQueues).memoryWf = s.memoryWf := by simp [State.sendQueues]
@[simp] theorem State.memoryWf_advanceTowers (s : State) : (s.advanceTowers).memoryWf = s.memoryWf := by simp [State.advanceTowers]
@[simp] theorem State.memoryWf_fabricTick (s : State) : (s.fabricTick).memoryWf = s.memoryWf := by simp [State.fabricTick]

@[simp] theorem State.memoryWf_nextCycle (s : State) (h : s.memoryWf = true) : s.nextCycle.memoryWf = true := by
  unfold State.nextCycle
  simp only [State.memoryWf_mk, State.memoryWf_fold]
  refine State.memoryWf_foldl_of (fun u x hu => ?_) _ _ ?_
  · split <;> simp [hu]
  · simpa using h

@[simp] theorem State.memoryWf_endCycle (s : State) (h : s.memoryWf = true) : (s.endCycle).memoryWf = true := by simp [State.endCycle, h]

/-! ### Sys2Proof/Machine/Cycle.lean -/

@[simp] theorem State.memoryWf_nextCore (s : State) (core : Nat) : (s.nextCore core).memoryWf = s.memoryWf := by simp [State.nextCore]
@[simp] theorem State.memoryWf_closeBundle (s : State) (core : Nat) : (s.closeBundle core).memoryWf = s.memoryWf := by simp [State.closeBundle]

@[simp] theorem State.memoryWf_setTagList (l : List (Nat × BitVec 16)) (done_ : List Nat) (s : State) :
    (State.setTagList l done_ s).memoryWf = s.memoryWf := by
  induction l generalizing done_ s with
  | nil => rfl
  | cons e l ih =>
    rw [State.setTagList, ih]
    simp

@[simp] theorem State.memoryWf_setTags (s : State) : s.setTags.memoryWf = s.memoryWf := by simp [State.setTags]
@[simp] theorem State.memoryWf_performRings (s : State) (h : s.memoryWf = true) : (s.performRings).memoryWf = true := by simp [State.performRings, h]
@[simp] theorem State.memoryWf_openAgenda (s : State) (h : s.memoryWf = true) : (s.openAgenda).memoryWf = true := by simp [State.openAgenda, h]

/-! ### Sys2Proof/Machine/Scalar.lean -/

@[simp] theorem State.nextWf_scalarOp (s : State) (latency : Nat) (d : BitVec 6) (srcs : List (BitVec 6)) (v : Word) (h : s.memoryWf = true) :
    NextWf (State.scalarOp s latency d srcs v) := by
  simp [State.scalarOp, h]

@[simp] theorem State.nextWf_compareOp (s : State) (p : BitVec 3) (srcs : List (BitVec 6)) (v : Bool) (h : s.memoryWf = true) :
    NextWf (State.compareOp s p srcs v) := by
  simp [State.compareOp, h]


/-! ### Sys2Proof/Machine/Dispatch.lean -/

/-- An instruction whose meaning has no lemma above ends in `slotDone`, in an operation of a family, or in one state function: its meaning
unfolds to what the lemmas speak of. -/
theorem nextWf_exec (i : Instr) (s : State) (h : s.memoryWf = true) : NextWf (exec i s) := by
  cases i <;> simp [exec, h,
    execBr, execJal, execJind, execLoop, execLoopi, execTimedImm, execTimedReg, execPaced, execEndStrand, execYield, execBarr, execTwait,
    execHwait, execVskip, execLds, execLdsChk, execLdv, execLdvChk, execLdvd, execLdvdChk, execAccld, execAccldChk, execLdt, execLdtChk,
    execLdtm, execLdtmChk, execSts, execStv, execStvd, execAccst, execStt, execTap, execPut, execQsel, execVadd, execVsub, execVmul,
    execVfma, execVmin, execVmax, execVabs, execVneg, execVand, execVor, execVxor, execVshl, execVshr, execVsar, execVclamp, execVmov,
    execVbcast, execVsel, execVextr, execVcmpEq, execVcmpNe, execVcmpLt, execVcmpLe, execVperm, execVredsSum, execVredsMax, execVredsMin,
    execVcvt, execVscale, execMpush, execMpop, execVdot4, execVdot8, execSfexp, execSflog, execSfrcp, execSfrsq, execSfsqrt, execSfsin,
    execSfcos, execSftanh, execSfsigm, execSferf, execRngc, execNop, execDeps, execPfx, execPfxG, execMfc, execMtc, execMtcMbxst, execMtcQv,
    execMtcTcfg, execMtcAcfg, execFence, execTrap, execAudit, execViewj, execTshoot, execCube, execCubeh, execWld, execWldSp, execWswap,
    execCopy, execCcopy, execHset, execNmred, execNmsac, execNmcas, execSig, execLayout, execScat, execProbe, execProbeReq, execLease,
    execUnlease, execLaunch, execColl, execHotBandEnter, execNormalBandReturn, execSamplingIntervalEnd, execFsend, execFrecv, execFld,
    execFst, execFatom, execLinkControlFlit, execLinkFailure, execPeerIncarnationChange, execBeacon, execRoundEnd, execFaultQueueRoom,
    execGovernorEvaluate, execGovstepDeferredRise, execCoolantFlowLow, execCoolantFlowRestored, execThermalTrip, execAdd, execSub, execMul,
    execMulh, execMulhu, execDiv, execDivu, execRem, execRemu, execAnd, execOr, execXor, execShl, execShr, execSar, execMin, execMax,
    execMinu, execMaxu, execClz, execPopc, execAddi, execAndi, execOri, execXori, execShli, execShri, execSari, execMovi, execMovhi,
    execCmp, execCmpi, execSel]

/-! ### Sys2Proof/Machine/Cycle.lean, Sys2Proof/Machine/Step.lean -/

/-- The state that a piece of work starts from. -/
def Work.state : Work → State
  | .run _ s => s
  | .move s => s

@[simp] theorem Work.state_run (i : Instr) (s : State) : (Work.run i s).state = s := rfl
@[simp] theorem Work.state_move (s : State) : (Work.move s).state = s := rfl

@[simp] theorem State.memoryWf_slotWork (s : State) (core k : Nat) (w : BitVec 32) :
    (s.slotWork core k w).state.memoryWf = s.memoryWf := by
  unfold State.slotWork
  dsimp only
  split <;> simp

@[simp] theorem State.memoryWf_openWork (s : State) (core : Nat) : (s.openWork core).state.memoryWf = s.memoryWf := by
  unfold State.openWork
  split
  · simp
  · dsimp only
    split <;> simp

@[simp] theorem State.memoryWf_issueWork (s : State) (core k : Nat) : (s.issueWork core k).state.memoryWf = s.memoryWf := by
  unfold State.issueWork
  cases k with
  | zero =>
    dsimp only
    split <;> simp
  | succ k =>
    dsimp only
    split <;> simp

theorem State.memoryWf_nextWork (s : State) (h : s.memoryWf = true) : s.nextWork.state.memoryWf = true := by
  unfold State.nextWork
  split
  · simp [h]
  · split <;> simp [h]
  · split <;> simp [h]
  · simp [h]

theorem nextWf_step (s : State) (h : s.memoryWf = true) : NextWf (step s) := by
  have hw := State.memoryWf_nextWork s h
  unfold step
  split
  next i s' e =>
    rw [e] at hw
    exact nextWf_exec i s' hw
  next s' e =>
    rw [e] at hw
    exact (nextWf_next s').mpr hw

/-- Settles O39: the memories of the reset state are empty. -/
theorem resetMemory : Obligations.ResetMemory := State.memoryWf_reset

/-- Settles O40: the work of a step starts from a state with canonical memories, and each instruction and event keeps them. -/
theorem memoryStaysCanonical : Obligations.MemoryStaysCanonical := fun s t h e => nextWf_step s h t e

end Sys2Proof.Machine

/-! # O26: the word of what a word decodes to is that word

The rows of the opcode table fall into groups of one operand layout (R333). In each layout the operand bits are the fields put together again,
the reserved ones being zero where the row decodes (R4); so a row of the group is encoded as the opcode and the operand bits it was read from. -/

namespace Sys2Proof.Laws.Rows

/-! ### Operand bits put together from their fields -/

theorem fields_6_6_6 (o : BitVec 18) : o.extractLsb' 12 6 ++ o.extractLsb' 6 6 ++ o.extractLsb' 0 6 = o := by
  simp (disch := decide) only [BitVec.extractLsb'_append_extractLsb'_eq_extractLsb', BitVec.extractLsb'_eq_self]

theorem fields_6_12 (o : BitVec 18) : o.extractLsb' 12 6 ++ o.extractLsb' 0 12 = o := by
  simp (disch := decide) only [BitVec.extractLsb'_append_extractLsb'_eq_extractLsb', BitVec.extractLsb'_eq_self]

theorem fields_3_3_6_6 (o : BitVec 18) : o.extractLsb' 15 3 ++ o.extractLsb' 12 3 ++ o.extractLsb' 6 6 ++ o.extractLsb' 0 6 = o := by
  simp (disch := decide) only [BitVec.extractLsb'_append_extractLsb'_eq_extractLsb', BitVec.extractLsb'_eq_self]

theorem fields_1_3_14 (o : BitVec 18) : o.extractLsb' 17 1 ++ o.extractLsb' 14 3 ++ o.extractLsb' 0 14 = o := by
  simp (disch := decide) only [BitVec.extractLsb'_append_extractLsb'_eq_extractLsb', BitVec.extractLsb'_eq_self]

theorem fields_1_3_6_6_2 (o : BitVec 18) :
    o.extractLsb' 17 1 ++ o.extractLsb' 14 3 ++ o.extractLsb' 8 6 ++ o.extractLsb' 2 6 ++ o.extractLsb' 0 2 = o := by
  simp (disch := decide) only [BitVec.extractLsb'_append_extractLsb'_eq_extractLsb', BitVec.extractLsb'_eq_self]

theorem fields_9_1_8 (o : BitVec 18) : o.extractLsb' 9 9 ++ o.extractLsb' 8 1 ++ o.extractLsb' 0 8 = o := by
  simp (disch := decide) only [BitVec.extractLsb'_append_extractLsb'_eq_extractLsb', BitVec.extractLsb'_eq_self]

theorem fields_8_2_8 (o : BitVec 18) : o.extractLsb' 10 8 ++ o.extractLsb' 8 2 ++ o.extractLsb' 0 8 = o := by
  simp (disch := decide) only [BitVec.extractLsb'_append_extractLsb'_eq_extractLsb', BitVec.extractLsb'_eq_self]

theorem fields_6_7_1_4 (o : BitVec 18) : o.extractLsb' 12 6 ++ o.extractLsb' 5 7 ++ o.extractLsb' 4 1 ++ o.extractLsb' 0 4 = o := by
  simp (disch := decide) only [BitVec.extractLsb'_append_extractLsb'_eq_extractLsb', BitVec.extractLsb'_eq_self]

theorem fields_6_6_1_1_4 (o : BitVec 18) :
    o.extractLsb' 12 6 ++ o.extractLsb' 6 6 ++ o.extractLsb' 5 1 ++ o.extractLsb' 4 1 ++ o.extractLsb' 0 4 = o := by
  simp (disch := decide) only [BitVec.extractLsb'_append_extractLsb'_eq_extractLsb', BitVec.extractLsb'_eq_self]

theorem fields_2_1_1_2_6_6 (o : BitVec 18) :
    o.extractLsb' 16 2 ++ o.extractLsb' 15 1 ++ o.extractLsb' 14 1 ++ o.extractLsb' 12 2 ++ o.extractLsb' 6 6 ++ o.extractLsb' 0 6 = o := by
  simp (disch := decide) only [BitVec.extractLsb'_append_extractLsb'_eq_extractLsb', BitVec.extractLsb'_eq_self]

theorem fields_6_9_3 (o : BitVec 18) : o.extractLsb' 12 6 ++ o.extractLsb' 3 9 ++ o.extractLsb' 0 3 = o := by
  simp (disch := decide) only [BitVec.extractLsb'_append_extractLsb'_eq_extractLsb', BitVec.extractLsb'_eq_self]

theorem fields_15_3 (o : BitVec 18) : o.extractLsb' 3 15 ++ o.extractLsb' 0 3 = o := by
  simp (disch := decide) only [BitVec.extractLsb'_append_extractLsb'_eq_extractLsb', BitVec.extractLsb'_eq_self]

theorem fields_16_2 (o : BitVec 18) : o.extractLsb' 2 16 ++ o.extractLsb' 0 2 = o := by
  simp (disch := decide) only [BitVec.extractLsb'_append_extractLsb'_eq_extractLsb', BitVec.extractLsb'_eq_self]

/-- A field that lies in the reserved bits of an operand is zero (R4). -/
theorem field_eq_zero {o mask : BitVec 18} (h : o &&& mask = 0#18) (k n : Nat) (hm : mask.extractLsb' k n = BitVec.allOnes n) :
    o.extractLsb' k n = 0#n := by
  rw [← BitVec.and_allOnes (x := o.extractLsb' k n), ← hm, ← BitVec.extractLsb'_and, h]
  simp

theorem unreserved_eq_ok {o mask : BitVec 18} {i j : Instr} (h : unreserved o mask i = .ok j) : o &&& mask = 0#18 ∧ i = j := by
  unfold unreserved at h
  split at h
  · exact ⟨‹_›, Except.ok.inj h⟩
  · cases h

/-! ### The rows of each layout -/

/-- An opcode between two, both included. -/
def Within (a b n : Nat) : Prop := a ≤ n ∧ n ≤ b

/-- The row of an opcode encodes what it decodes. -/
def RoundTrips (n : Nat) : Prop := ∀ o i, decodeInstr (BitVec.ofNat 9 n) o = .ok i → encodeInstr i = some (BitVec.ofNat 9 n, o)

theorem roundTrips_6_6_6 (n : Nat) (hn : Within 1 19 n ∨ Within 22 28 n ∨ Within 40 47 n ∨ Within 76 76 n ∨ Within 129 134 n ∨ Within 137 143 n ∨
    Within 146 147 n ∨ Within 193 197 n ∨ Within 202 202 n ∨ Within 208 223 n ∨ Within 267 267 n ∨ Within 321 334 n ∨ Within 340 342 n ∨
    Within 385 389 n ∨ Within 392 398 n ∨ Within 401 407 n ∨ Within 449 449 n) : RoundTrips n := by
  intro o i h
  obtain ⟨_, _⟩ | ⟨_, _⟩ | ⟨_, _⟩ | ⟨_, _⟩ | ⟨_, _⟩ | ⟨_, _⟩ | ⟨_, _⟩ | ⟨_, _⟩ | ⟨_, _⟩ | ⟨_, _⟩ | ⟨_, _⟩ | ⟨_, _⟩ | ⟨_, _⟩ | ⟨_, _⟩ |
    ⟨_, _⟩ | ⟨_, _⟩ | ⟨_, _⟩ := hn <;>
    interval_cases n <;> cases h <;> exact congrArg (fun p => some (_, p)) (fields_6_6_6 o)

theorem roundTrips_6_6_zero (n : Nat) (hn : Within 20 21 n ∨ Within 135 136 n ∨ Within 144 145 n ∨ Within 198 201 n ∨ Within 257 266 n ∨
    Within 390 391 n ∨ Within 399 400 n ∨ Within 408 409 n ∨ Within 456 456 n) : RoundTrips n := by
  intro o i h
  have fields (hm : o &&& 0x0003F#18 = 0#18) : o.extractLsb' 12 6 ++ o.extractLsb' 6 6 ++ 0#6 = o := by
    rw [← field_eq_zero hm 0 6 rfl, fields_6_6_6]
  obtain ⟨_, _⟩ | ⟨_, _⟩ | ⟨_, _⟩ | ⟨_, _⟩ | ⟨_, _⟩ | ⟨_, _⟩ | ⟨_, _⟩ | ⟨_, _⟩ | ⟨_, _⟩ := hn <;>
    interval_cases n <;> obtain ⟨hm, rfl⟩ := unreserved_eq_ok h <;> exact congrArg (fun p => some (_, p)) (fields hm)

theorem roundTrips_6_12 (n : Nat) (hn : Within 29 30 n ∨ Within 66 66 n ∨ Within 68 69 n ∨ Within 452 452 n) : RoundTrips n := by
  intro o i h
  obtain ⟨_, _⟩ | ⟨_, _⟩ | ⟨_, _⟩ | ⟨_, _⟩ := hn <;>
    interval_cases n <;> cases h <;> exact congrArg (fun p => some (_, p)) (fields_6_12 o)

/-- CMP and CMPI. -/
theorem roundTrips_3_3_6_6 (n : Nat) (hn : Within 31 32 n) : RoundTrips n := by
  intro o i h
  obtain ⟨_, _⟩ := hn
  interval_cases n <;> cases h <;> exact congrArg (fun p => some (_, p)) (fields_3_3_6_6 o)

/-- The rows whose operand is one field. -/
theorem roundTrips_18 (n : Nat) (hn : Within 70 70 n ∨ Within 450 450 n ∨ Within 455 455 n) : RoundTrips n := by
  intro o i h
  obtain ⟨_, _⟩ | ⟨_, _⟩ | ⟨_, _⟩ := hn <;>
    interval_cases n <;> cases h <;> exact congrArg (fun p => some (_, p)) BitVec.extractLsb'_eq_self

theorem roundTrips_zero (n : Nat) (hn : Within 72 74 n ∨ Within 204 205 n ∨ Within 448 448 n ∨ Within 457 458 n) : RoundTrips n := by
  intro o i h
  have fields (hm : o &&& 0x3FFFF#18 = 0#18) : 0#18 = o := (field_eq_zero hm 0 18 rfl).symm.trans BitVec.extractLsb'_eq_self
  obtain ⟨_, _⟩ | ⟨_, _⟩ | ⟨_, _⟩ | ⟨_, _⟩ := hn <;>
    interval_cases n <;> obtain ⟨hm, rfl⟩ := unreserved_eq_ok h <;> exact congrArg (fun p => some (_, p)) (fields hm)

theorem roundTrips_zero_6_zero (n : Nat) (hn : Within 71 71 n ∨ Within 203 203 n) : RoundTrips n := by
  intro o i h
  have fields (hm : o &&& 0x3F03F#18 = 0#18) : 0#6 ++ o.extractLsb' 6 6 ++ 0#6 = o := by
    have := fields_6_6_6 o
    rwa [field_eq_zero hm 12 6 rfl, field_eq_zero hm 0 6 rfl] at this
  obtain ⟨_, _⟩ | ⟨_, _⟩ := hn <;>
    interval_cases n <;> obtain ⟨hm, rfl⟩ := unreserved_eq_ok h <;> exact congrArg (fun p => some (_, p)) (fields hm)

/-! ### The rows with a layout of their own -/

theorem roundTrips_br : RoundTrips 65 := by
  intro o i h
  cases h
  exact congrArg (fun p => some (_, p)) (fields_1_3_14 o)

theorem roundTrips_jind : RoundTrips 67 := by
  intro o i h
  obtain ⟨hm, rfl⟩ := unreserved_eq_ok h
  have fields := fields_1_3_6_6_2 o
  rw [field_eq_zero hm 0 2 rfl] at fields
  exact congrArg (fun p => some (_, p)) fields

theorem roundTrips_barr : RoundTrips 75 := by
  intro o i h
  obtain ⟨hm, rfl⟩ := unreserved_eq_ok h
  have fields := fields_9_1_8 o
  rw [field_eq_zero hm 9 9 rfl] at fields
  exact congrArg (fun p => some (_, p)) fields

theorem roundTrips_hwait : RoundTrips 77 := by
  intro o i h
  obtain ⟨hm, rfl⟩ := unreserved_eq_ok h
  have fields := fields_8_2_8 o
  rw [field_eq_zero hm 10 8 rfl] at fields
  exact congrArg (fun p => some (_, p)) fields

theorem roundTrips_waitc : RoundTrips 78 := by
  intro o i h
  obtain ⟨hm, rfl⟩ := unreserved_eq_ok h
  have fields := fields_6_6_6 o
  rw [field_eq_zero hm 12 6 rfl] at fields
  exact congrArg (fun p => some (_, p)) fields

theorem roundTrips_vskip : RoundTrips 206 := by
  intro o i h
  obtain ⟨hm, rfl⟩ := unreserved_eq_ok h
  have fields := fields_6_12 o
  rw [field_eq_zero hm 12 6 rfl] at fields
  exact congrArg (fun p => some (_, p)) fields

theorem roundTrips_tap : RoundTrips 335 := by
  intro o i h
  obtain ⟨hm, rfl⟩ := unreserved_eq_ok h
  have fields := fields_6_7_1_4 o
  rw [field_eq_zero hm 5 7 rfl] at fields
  exact congrArg (fun p => some (_, p)) fields

theorem roundTrips_put : RoundTrips 336 := by
  intro o i h
  obtain ⟨hm, rfl⟩ := unreserved_eq_ok h
  have fields := fields_6_6_1_1_4 o
  rw [field_eq_zero hm 12 6 rfl, field_eq_zero hm 5 1 rfl] at fields
  exact congrArg (fun p => some (_, p)) fields

theorem roundTrips_qpush : RoundTrips 337 := by
  intro o i h
  obtain ⟨hm, rfl⟩ := unreserved_eq_ok h
  have fields := fields_2_1_1_2_6_6 o
  rw [field_eq_zero hm 16 2 rfl, field_eq_zero hm 0 6 rfl] at fields
  exact congrArg (fun p => some (_, p)) fields

theorem roundTrips_qpop : RoundTrips 338 := by
  intro o i h
  obtain ⟨hm, rfl⟩ := unreserved_eq_ok h
  have fields := fields_6_9_3 o
  rw [field_eq_zero hm 3 9 rfl] at fields
  exact congrArg (fun p => some (_, p)) fields

theorem roundTrips_qsel : RoundTrips 339 := by
  intro o i h
  obtain ⟨hm, rfl⟩ := unreserved_eq_ok h
  have fields := fields_15_3 o
  rw [field_eq_zero hm 3 15 rfl] at fields
  exact congrArg (fun p => some (_, p)) fields

theorem roundTrips_pfxG : RoundTrips 451 := by
  intro o i h
  obtain ⟨hm, rfl⟩ := unreserved_eq_ok h
  have fields := fields_1_3_14 o
  rw [field_eq_zero hm 0 14 rfl] at fields
  exact congrArg (fun p => some (_, p)) fields

theorem roundTrips_fence : RoundTrips 454 := by
  intro o i h
  obtain ⟨hm, rfl⟩ := unreserved_eq_ok h
  have fields := fields_16_2 o
  rw [field_eq_zero hm 2 16 rfl] at fields
  exact congrArg (fun p => some (_, p)) fields

/-- The two fields of a control number, behind the register number. -/
theorem control_fields (a : BitVec 6) (r : BitVec 12) : a ++ r.extractLsb' 2 10 ++ r.extractLsb' 0 2 = a ++ r ∧
    a ++ r.extractLsb' 5 7 ++ r.extractLsb' 0 5 = a ++ r ∧ a ++ r.extractLsb' 4 8 ++ r.extractLsb' 0 4 = a ++ r := by
  refine ⟨?_, ?_, ?_⟩ <;> simp (disch := decide) only [BitVec.append_assoc, BitVec.extractLsb'_append_extractLsb'_eq_extractLsb',
    BitVec.extractLsb'_eq_self, BitVec.cast_eq]

/-- MTC: whichever of its five rows a control number belongs to (R325), the number is encoded as it was read. -/
theorem encodeInstr_of_decodeMtc {a : BitVec 6} {r : BitVec 12} {i : Instr} (h : decodeMtc a r = .ok i) : encodeInstr i = some (453#9, a ++ r) := by
  obtain ⟨qv, tcfg, acfg⟩ := control_fields a r
  unfold decodeMtc at h
  split at h
  · cases h
    subst r
    rfl
  split at h
  · next hr =>
    cases h
    rw [hr] at qv
    exact congrArg (fun p => some (_, p)) qv
  split at h
  · next hr =>
    cases h
    rw [hr] at tcfg
    exact congrArg (fun p => some (_, p)) tcfg
  split at h
  · next hr =>
    cases h
    rw [hr] at acfg
    exact congrArg (fun p => some (_, p)) acfg
  · cases h
    rfl

theorem roundTrips_mtc : RoundTrips 453 := by
  intro o i h
  rw [encodeInstr_of_decodeMtc (show decodeMtc (o.extractLsb' 12 6) (o.extractLsb' 0 12) = .ok i from h), fields_6_12]

/-! ### The opcodes -/

theorem roundTrips_unassigned (n : Nat) (hn : Within 0 0 n ∨ Within 33 39 n ∨ Within 48 64 n ∨ Within 79 128 n ∨ Within 148 192 n ∨ Within 207 207 n ∨
    Within 224 256 n ∨ Within 268 320 n ∨ Within 343 384 n ∨ Within 410 447 n ∨ Within 459 511 n) : RoundTrips n := by
  intro o i h
  obtain ⟨_, _⟩ | ⟨_, _⟩ | ⟨_, _⟩ | ⟨_, _⟩ | ⟨_, _⟩ | ⟨_, _⟩ | ⟨_, _⟩ | ⟨_, _⟩ | ⟨_, _⟩ | ⟨_, _⟩ | ⟨_, _⟩ := hn <;>
    interval_cases n <;> cases h

/-- Every opcode is in a row of the table, or unassigned. -/
theorem roundTrips_of_lt (n : Nat) (hn : n < 512) : RoundTrips n := by
  by_cases single : n = 65 ∨ n = 67 ∨ n = 75 ∨ n = 77 ∨ n = 78 ∨ n = 206 ∨ n = 335 ∨ n = 336 ∨ n = 337 ∨ n = 338 ∨ n = 339 ∨ n = 451 ∨ n = 453 ∨
      n = 454
  · obtain rfl | rfl | rfl | rfl | rfl | rfl | rfl | rfl | rfl | rfl | rfl | rfl | rfl | rfl := single
    exacts [roundTrips_br, roundTrips_jind, roundTrips_barr, roundTrips_hwait, roundTrips_waitc, roundTrips_vskip, roundTrips_tap,
      roundTrips_put, roundTrips_qpush, roundTrips_qpop, roundTrips_qsel, roundTrips_pfxG, roundTrips_mtc, roundTrips_fence]
  · by_contra hneg
    have h666 := mt (roundTrips_6_6_6 n) hneg
    have h66 := mt (roundTrips_6_6_zero n) hneg
    have h612 := mt (roundTrips_6_12 n) hneg
    have h3366 := mt (roundTrips_3_3_6_6 n) hneg
    have h18 := mt (roundTrips_18 n) hneg
    have hzero := mt (roundTrips_zero n) hneg
    have hmiddle := mt (roundTrips_zero_6_zero n) hneg
    have hnone := mt (roundTrips_unassigned n) hneg
    unfold Within at *
    omega

theorem encodeInstr_of_decodeInstr {opcode : BitVec 9} {o : BitVec 18} {i : Instr} (h : decodeInstr opcode o = .ok i) :
    encodeInstr i = some (opcode, o) := by
  have := roundTrips_of_lt opcode.toNat opcode.isLt o i
  rw [BitVec.ofNat_toNat, BitVec.setWidth_eq] at this
  exact this h

/-- The fields of a slot word (R314) put together again. -/
theorem slot_fields (w : BitVec 32) :
    BitVec.ofBool (w.getLsbD 31) ++ w.extractLsb' 29 2 ++ w.extractLsb' 20 9 ++ w.extractLsb' 18 2 ++ w.extractLsb' 0 18 = w := by
  have stop : BitVec.ofBool (w.getLsbD 31) = w.extractLsb' 31 1 := by
    apply BitVec.eq_of_getLsbD_eq
    intro i hi
    obtain rfl : i = 0 := by omega
    simp
  rw [stop]
  simp (disch := decide) only [BitVec.extractLsb'_append_extractLsb'_eq_extractLsb', BitVec.extractLsb'_eq_self]

/-- Settles O26: the row of the word's opcode encodes what it decodes, and the other fields stand as they were read. -/
theorem encodeOfDecode : Obligations.EncodeOfDecode := by
  intro x w h
  unfold decodeSlot at h
  split at h
  · next i hi =>
    cases h
    unfold encodeSlot
    rw [encodeInstr_of_decodeInstr hi]
    exact congrArg some (slot_fields w)
  · cases h

end Sys2Proof.Laws.Rows

/-! # O21: MTC as it issues and as it commits -/

namespace Sys2Proof.Machine

open Sys2Proof.Claims

/-! ### The slot being issued, in the words of the statements

The state functions of a slot on the left, what the statements say of it on the right. -/

theorem sreg_eq_reg (s : State) (a : BitVec 6) : s.iss.st.sreg a = reg s a := rfl

theorem State.poisonChecks_eq_consumed (s : State) (l : List (BitVec 6)) : s.poisonChecks l = consumed s l := rfl

theorem failed_badOperand (s : State) (bad : Bool) : failed [(bad, s.badOperand)] = illegalIf s bad := by
  cases bad <;> rfl

theorem illegalIf_false (s : State) : illegalIf s false = [] := rfl

/-- A slot whose guard is true raises both kinds of its faults, and acts. -/
theorem State.slotDone_of_guard {s : State} (hg : s.iss.guard = true) (checks live : List Raised) (effects : List Effect) :
    s.slotDone checks live effects = slotRan s (checks ++ live) effects := by
  simp [State.slotDone, slotRan, hg]

/-! ### The forms of MTC -/

theorem exec_mtc {s : State} (hg : s.iss.guard = true) (a : BitVec 6) (r : BitVec 12) :
    exec (.mtc a r) s = .next (slotRan s (illegalIf s (controlBad r.toNat (reg s a)) ++ consumed s [a])
      (if controlMask r.toNat = 0 then [] else [.control r.toNat (reg s a &&& BitVec.ofNat 64 (controlMask r.toNat))])) := by
  simp only [exec, execMtc, State.slotDone_of_guard hg, failed_badOperand, State.poisonChecks_eq_consumed, sreg_eq_reg, List.append_nil]

/-- The registers below NUMCTL are read-only: a write checks nothing and does nothing (R408). -/
theorem exec_mtc_readOnly {s : State} (hg : s.iss.guard = true) (a : BitVec 6) {r : BitVec 12} (hr : r.toNat < 0x090) :
    exec (.mtc a r) s = .next (slotRan s (consumed s [a]) []) := by
  have hbad : controlBad r.toNat (reg s a) = false := by
    simp [controlBad, show r.toNat ≠ 0x090 by omega, show r.toNat ≠ 0x094 by omega]
  have hmask : controlMask r.toNat = 0 := by
    simp [controlMask, show r.toNat ≠ 0x090 by omega, show r.toNat ≠ 0x091 by omega, show r.toNat ≠ 0x092 by omega,
      show r.toNat ≠ 0x093 by omega, show r.toNat ≠ 0x094 by omega, show r.toNat ≠ 0x095 by omega, show r.toNat ≠ 0x096 by omega]
  rw [exec_mtc hg, hbad, hmask]
  rfl

theorem and_allBits (v : Word) : v &&& 0xFFFFFFFFFFFFFFFF#64 = v := BitVec.and_allOnes

theorem acfgOk_eq (f : Nat) : (!acfgOk f) = decide (f ∉ [1, 2, 3, 7, 8, 9]) := by
  rw [Bool.eq_iff_iff]
  simp [acfgOk]
  omega

theorem controlWriteSlots : ControlWriteSlots := by
  intro s a hg
  dsimp only
  refine ⟨?_, ?_, ?_, ?_, ?_, ?_, ?_, fun r hr => exec_mtc_readOnly hg a hr, ?_, ?_, ?_, ?_⟩
  iterate 7 simp [exec_mtc hg, controlBad, controlMask, and_allBits]
  · simp [exec, execMtcMbxst, State.slotDone_of_guard hg, State.poisonChecks_eq_consumed, sreg_eq_reg, illegalIf_false]
  · intro m
    simp [exec, execMtcQv, State.slotDone_of_guard hg, State.poisonChecks_eq_consumed, sreg_eq_reg, illegalIf_false]
  · intro n
    simp [exec, execMtcTcfg, State.slotDone_of_guard hg, State.poisonChecks_eq_consumed, sreg_eq_reg, failed_badOperand]
  · intro n
    simp [exec, execMtcAcfg, State.slotDone_of_guard hg, State.poisonChecks_eq_consumed, sreg_eq_reg, failed_badOperand, acfgOk_eq]

theorem Strand.setControl_qv (st : Strand) (time : Nat) (k : Fin 4) (v : Word) :
    st.setControl time (0x098 + k) v = { st with qv := st.qv.set k { reg := v, readAt := some time, st := .invalid } } := by
  unfold Strand.setControl
  iterate 8 rw [if_neg (by omega)]
  rw [if_pos (by simp; omega)]
  simp only [Nat.add_sub_cancel_left, Fin.ofNat_val_eq_self]

theorem Strand.setControl_tcfg (st : Strand) (time : Nat) (k : Fin 32) (v : Word) :
    st.setControl time (0x0A0 + k) v = { st with tcfg := st.tcfg.set k v } := by
  unfold Strand.setControl
  iterate 8 rw [if_neg (by omega)]
  rw [if_neg (by simp; omega), if_pos (by simp; omega)]
  simp only [Nat.add_sub_cancel_left, Fin.ofNat_val_eq_self]

theorem Strand.setControl_acfg (st : Strand) (time : Nat) (k : Fin 16) (v : Word) :
    st.setControl time (0x0C0 + k) v = { st with acfg := st.acfg.set k v } := by
  unfold Strand.setControl
  iterate 8 rw [if_neg (by omega)]
  rw [if_neg (by simp; omega), if_neg (by simp), if_pos (by simp; omega)]
  simp only [Nat.add_sub_cancel_left, Fin.ofNat_val_eq_self]

theorem controlCommits : ControlCommits := fun st time v =>
  ⟨rfl, rfl, rfl, rfl, rfl, rfl, rfl, rfl, (st.setControl_qv time · v), (st.setControl_tcfg time · v), (st.setControl_acfg time · v)⟩

/-- Settles O21: each form of MTC by what its slot checks and writes, and a committed MTC register by register. -/
theorem controlWrites : Obligations.ControlWrites := ⟨controlWriteSlots, controlCommits⟩

end Sys2Proof.Machine

/-! # O44: queues, their slots and the packets that are done when taken -/

namespace Sys2Proof.Machine

open Sys2Proof.Claims

/-! ### Reports -/

/-- The report served is one of those held, and none arrives before it. -/
theorem firstReport_min (l : List Report) (r : Report) (h : firstReport l = some r) : (∀ q ∈ l, r.arrives ≤ q.arrives) ∧ r ∈ l := by
  induction l generalizing r with
  | nil => cases h
  | cons a l ih =>
    unfold firstReport at h
    split at h
    · next q hq =>
      obtain ⟨hmin, hmem⟩ := ih q hq
      split at h
      · next hle =>
        cases h
        refine ⟨fun k hk => ?_, by simp⟩
        obtain rfl | hk := List.mem_cons.mp hk
        · exact Nat.le_refl _
        · exact hle.trans (hmin k hk)
      · next hlt =>
        cases h
        refine ⟨fun k hk => ?_, by simp [hmem]⟩
        obtain rfl | hk := List.mem_cons.mp hk
        · omega
        · exact hmin k hk
    · next hq =>
      cases h
      cases l with
      | nil => simp
      | cons b l =>
        unfold firstReport at hq
        split at hq <;> cases hq

theorem State.serveReport_of_late {s : State} {r : Report} (h : firstReport s.reports = some r) (hr : s.cyc < r.arrives) : s.serveReport = s := by
  unfold State.serveReport
  rw [h]
  exact if_neg (by omega)

theorem State.serveReport_reports {s : State} {r : Report} (h : firstReport s.reports = some r) (hr : r.arrives ≤ s.cyc) :
    s.serveReport.reports = s.reports.erase r := by
  unfold State.serveReport
  rw [h]
  dsimp only
  rw [if_pos hr]

/-! ### The slot at RIDX -/

theorem State.context_num {s : State} {ctx : Nat} {x : Context} (h : s.context ctx = some x) : x.num = ctx := by
  simpa using List.find?_some h

theorem testBit_of_bits {x i : Nat} (h : bits x i 1 = 1) : x.testBit i = true := by
  rw [Nat.testBit_eq_decide_div_mod_eq]
  simpa [bits] using h

/-- What `packetAt` finds: the queue's own slot, with every condition on the queue, the context and the device met. -/
theorem State.packetAt_some {s : State} {ctx q : Nat} {p : Packet} (h : s.packetAt ctx q = some p) :
    s.context ctx = some p.x ∧ p.x.queues[q]? = some p.queue ∧ p.q = q ∧ p.queue.hold = .none ∧ p.queue.next ≤ s.cyc ∧ p.queue.enabled = true ∧
    s.keep.boot = .running ∧ (p.pois = none → p.bits.testBit 63 = true ∧ bits p.bits 32 31 = p.queue.round p.queue.ridx) := by
  unfold State.packetAt at h
  split at h
  · cases h
  next x hx =>
  split at h
  · cases h
  next k hk =>
  split at h
  · cases h
  next hopen =>
  simp only [Bool.or_eq_true, not_or, Bool.not_eq_true, Bool.not_eq_false', bne_eq_false_iff_eq, decide_eq_false_iff_not, Nat.not_lt] at hopen
  split at h
  · cases h
  next g _ =>
  split at h
  · next hfilled =>
    cases h
    obtain ⟨⟨⟨⟨⟨henabled, -⟩, hnext⟩, hhold⟩, -⟩, hboot⟩ := hopen
    refine ⟨hx, hk, rfl, hhold, hnext, henabled, hboot, fun hpois => ?_⟩
    dsimp only at hpois
    simp only [hpois, Option.isSome_none, Bool.false_or, Bool.and_eq_true, decide_eq_true_eq] at hfilled
    exact ⟨testBit_of_bits hfilled.1, hfilled.2⟩
  · cases h

/-! ### What consuming a slot changes -/

/-- A queue of the list is changed, the others stay. -/
theorem getElem?_changed (l : List Queue) (q : Nat) (f : Queue → Queue) (k : Nat) :
    (l.zipIdx.map fun e => if e.2 = q then f e.1 else e.1)[k]? = if k = q then l[k]?.map f else l[k]? := by
  rw [List.getElem?_map, List.getElem?_zipIdx]
  cases l[k]? <;> by_cases hk : k = q <;> simp [hk]

theorem State.context_setQueue {s : State} {ctx : Nat} {x : Context} (h : s.context ctx = some x) (q : Nat) (f : Queue → Queue) :
    (s.setQueue ctx q f).context ctx = some { x with queues := x.queues.zipIdx.map fun e => if e.2 = q then f e.1 else e.1 } := by
  obtain rfl := State.context_num h
  unfold State.setQueue
  rw [h]
  exact State.context_setContext s { x with queues := x.queues.zipIdx.map fun e => if e.2 = q then f e.1 else e.1 } (by simp [h])

theorem State.context_deviceWrite (s : State) (c : Context) (addr : Word) (bs : List Byte) (ctx : Nat) :
    (s.deviceWrite c addr bs).context ctx = s.context ctx := by
  unfold State.context
  rw [(deviceWrite_hbmOnly s c addr bs).all.1]

/-- Consuming a slot writes its word and RIDX in memory, and of the contexts changes only its queue's RIDX. -/
theorem State.context_consume {s : State} {ctx q : Nat} {p : Packet} (h : s.packetAt ctx q = some p) (n : Nat) :
    (s.consume p n).context ctx = some { p.x with queues := p.x.queues.zipIdx.map fun e =>
      if e.2 = q then { e.1 with ridx := (p.queue.ridx + 1) % 2 ^ 64 } else e.1 } := by
  obtain ⟨hx, -, hq, -⟩ := State.packetAt_some h
  have hn := State.context_num hx
  unfold State.consume State.advance
  rw [hn, hq]
  exact State.context_setQueue (by rw [State.context_deviceWrite, State.context_deviceWrite, hx]) _ _

/-! ### Serving a queue -/

theorem State.serve_of_served {s : State} {ctx q : Nat} {k : PacketType} {p : Packet} (h : Claims.served s ctx q k p) (f : State → Packet → State) :
    s.serve ctx q k f = then_ ctx q p (f s p) := by
  obtain ⟨hp, hpois, hkind⟩ := h
  unfold State.serve then_
  rw [hp]
  dsimp only
  rw [hpois]
  dsimp only
  rw [if_pos hkind]

theorem exec_nopPacket_poisoned {s : State} {ctx q : Nat} {p : Packet} {y : Nat × Nat} (h : s.packetAt ctx q = some p) (hy : p.pois = some y) :
    exec (.nopPacket ctx q) s = then_ ctx q p (s.consumePoisoned p y) := by
  simp only [exec, execNopPacket, State.serve, h, hy, if_pos, then_]

theorem queueSlots : QueueSlots := by
  refine ⟨fun s ctx q p h => ?_, fun s ctx q p n h => ?_, fun s ctx q p y h hy => exec_nopPacket_poisoned h hy, fun s r h => ?_⟩
  · obtain ⟨hx, hk, hq, rest⟩ := State.packetAt_some h
    exact ⟨p.x, hx, hk, rfl, hq, rest⟩
  · obtain ⟨hx, hk, -⟩ := State.packetAt_some h
    refine ⟨p.x, _, hx, State.context_consume h n, by simp, ?_, fun k hkq => ?_⟩
    · refine (getElem?_changed _ q (fun k => { k with ridx := (p.queue.ridx + 1) % 2 ^ 64 }) q).trans ?_
      rw [if_pos rfl, hk]
      rfl
    · exact (getElem?_changed _ q (fun k => { k with ridx := (p.queue.ridx + 1) % 2 ^ 64 }) k).trans (if_neg hkq)
  · obtain ⟨hmin, hmem⟩ := firstReport_min _ _ h
    exact ⟨hmin, hmem, State.serveReport_of_late h, State.serveReport_reports h⟩

/-! ### The reserved bits and the fields of a packet -/

theorem Packet.reserved_iff (p : Packet) (n : Nat) (extra : Bool) : p.reserved n extra = true ↔ loosePacket p n ∨ extra = true := by
  have hlow : Machine.bits p.bits 0 16 = p.bits % 2 ^ 16 := by rw [Machine.bits, pow_zero, Nat.div_one]
  have hhigh : p.bits / 2 ^ (64 * (n + 1)) ≠ 0 ↔ 2 ^ (64 * (n + 1)) ≤ p.bits := by
    rw [ne_eq, Nat.div_eq_zero_iff_lt (Nat.two_pow_pos _), not_lt]
  rw [Packet.reserved, loosePacket, hlow, Bool.or_eq_true, Bool.or_eq_true, bne_iff_ne, bne_iff_ne, hhigh, or_assoc, or_comm]

theorem Packet.reserved_of_plain {p : Packet} {n : Nat} (h : plainPacket p n) (extra : Bool) : p.reserved n extra = extra := by
  obtain ⟨hlow, hhigh⟩ := h
  rw [Bool.eq_iff_iff, Packet.reserved_iff]
  exact or_iff_right (not_or.mpr ⟨not_not.mpr hlow, not_le.mpr hhigh⟩)

/-- A word is its low byte unless a bit above it is set. -/
theorem wbits_byte (w : Word) : wbits w 0 8 = w.toNat % 256 ∧ (wbits w 8 56 = 0 ↔ w.toNat < 256) := by
  have := w.isLt
  simp only [wbits, bits]
  omega

theorem wbits_bit (w : Word) : wbits w 0 1 = w.toNat % 2 ∧ (wbits w 1 63 = 0 ↔ w.toNat < 2) := by
  have := w.isLt
  simp only [wbits, bits]
  omega

/-! ### The simple packets, well formed -/

theorem exec_nopPacket {s : State} {ctx q : Nat} {p : Packet} (h : Claims.served s ctx q .nop p) :
    exec (.nopPacket ctx q) s = then_ ctx q p (s.consume p (if p.type = 0 && !p.reserved 0 false then 1 else 2)) := by
  rw [exec, execNopPacket, State.serve_of_served h]

theorem exec_signalPacket {s : State} {ctx q : Nat} {p : Packet} (h : Claims.served s ctx q .signal p) (hp : plainPacket p 3)
    (hf : (p.word 3).toNat < 2) (hc : s.counterOk p.x (p.word 1) = true) :
    exec (.signalPacket ctx q) s = then_ ctx q p (
      (if p.word 3 = 0 then s.counterAdd ctx (p.word 1) (p.word 2).toNat
       else if p.word 1 = 0 then s
       else s.deviceWrite p.x (p.word 1) (bytesOf 8 (p.word 2).toNat)).consume p 1) := by
  obtain ⟨hbit, hrest⟩ := wbits_bit (p.word 3)
  have hzero : wbits (p.word 3) 0 1 = 0 ↔ p.word 3 = 0 := by
    rw [hbit, ← BitVec.toNat_inj]
    simp
    omega
  rw [exec, execSignalPacket, State.serve_of_served h]
  simp [Packet.reserved_of_plain hp, hrest.mpr hf, hc, hzero]

theorem exec_waitPacket {s : State} {ctx q : Nat} {p : Packet} (h : Claims.served s ctx q .wait p) (hp : plainPacket p 2)
    (hc : s.counterOk p.x (p.word 1) = true) :
    let u := s.forgetPoll ctx (p.word 1)
    exec (.waitPacket ctx q) s = then_ ctx q p ((u.consume p 1).setQueue ctx q fun k =>
      { k with hold := if u.queueWaitMet ctx (p.word 1) (p.word 2) then .none else .wait (p.word 1) (p.word 2) }) := by
  dsimp only
  rw [exec, execWaitPacket, State.serve_of_served h]
  simp [Packet.reserved_of_plain hp, hc]

theorem exec_fencePacket {s : State} {ctx q : Nat} {p : Packet} (h : Claims.served s ctx q .fence p) (hp : plainPacket p 3)
    (hf : (p.word 1).toNat < 2) (hc : s.counterOk p.x (p.word 2) = true) :
    exec (.fencePacket ctx q) s = then_ ctx q p ((s.consume p 1).setQueue ctx q fun k =>
      { k with hold := .fence (p.word 1).toNat (p.word 2) (p.word 3) }) := by
  rw [exec, execFencePacket, State.serve_of_served h]
  simp [Packet.reserved_of_plain hp, hc, show ¬ 2 ≤ (p.word 1).toNat by omega]

/-! ### The packets that are malformed -/

/-- What is served when a packet is not taken: the slot is consumed with status 2. -/
theorem State.serve_refused {s : State} {ctx q : Nat} {k : PacketType} {p : Packet} (h : Claims.served s ctx q k p) {f : State → Packet → State}
    (hf : f s p = s.consume p 2) : s.serve ctx q k f = then_ ctx q p (s.consume p 2) := by
  rw [State.serve_of_served h, hf]

theorem State.engineAccept_refused {s : State} {p : Packet} {bad : Bool} {counter : Word} {c : Nat → Cmd}
    {start : State → Nat → Cmd → View → View → Option (Nat × Nat) → State} (h : (bad || !s.counterOk p.x counter) = true) :
    s.engineAccept p bad counter c start = s.consume p 2 := by
  unfold State.engineAccept
  split
  · exact if_pos h
  · rfl

/-- A RESUME packet has SCOPE other than 3 and 4, which have types of their own. -/
theorem Packet.scope_of_resume {p : Packet} (h : p.kind = .resume) : wbits (p.word 1) 0 8 ≠ 3 ∧ wbits (p.word 1) 0 8 ≠ 4 := by
  unfold Packet.kind at h
  split at h
  case h_7 =>
    split at h
    · cases h
    · split at h
      · cases h
      · exact ⟨‹_›, ‹_›⟩
  all_goals cases h

/-! The malformed packets, type by type: a packet that is served and breaks a rule of its type is consumed with status 2. -/

theorem exec_nopPacket_refused {s : State} {ctx q : Nat} {p : Packet} (h : Claims.served s ctx q .nop p) (hb : loosePacket p 0) :
    exec (.nopPacket ctx q) s = then_ ctx q p (s.consume p 2) := by
  simp [exec_nopPacket h, (p.reserved_iff 0 false).mpr (.inl hb)]

theorem exec_signalPacket_refused {s : State} {ctx q : Nat} {p : Packet} (h : Claims.served s ctx q .signal p)
    (hb : loosePacket p 3 ∨ 2 ≤ (p.word 3).toNat ∨ s.counterOk p.x (p.word 1) = false) :
    exec (.signalPacket ctx q) s = then_ ctx q p (s.consume p 2) := by
  have hbad : (p.reserved 3 (wbits (p.word 3) 1 63 != 0) || !s.counterOk p.x (p.word 1)) = true := by
    rw [Bool.or_eq_true, Packet.reserved_iff, bne_iff_ne, ne_eq, (wbits_bit _).2, not_lt, Bool.not_eq_true']
    tauto
  rw [exec, execSignalPacket]
  exact State.serve_refused h (if_pos hbad)

theorem exec_waitPacket_refused {s : State} {ctx q : Nat} {p : Packet} (h : Claims.served s ctx q .wait p)
    (hb : loosePacket p 2 ∨ s.counterOk p.x (p.word 1) = false) : exec (.waitPacket ctx q) s = then_ ctx q p (s.consume p 2) := by
  have hbad : (p.reserved 2 false || !s.counterOk p.x (p.word 1)) = true := by
    rw [Bool.or_eq_true, Packet.reserved_iff, Bool.not_eq_true']
    tauto
  rw [exec, execWaitPacket]
  exact State.serve_refused h (if_pos hbad)

theorem exec_fencePacket_refused {s : State} {ctx q : Nat} {p : Packet} (h : Claims.served s ctx q .fence p)
    (hb : loosePacket p 3 ∨ 2 ≤ (p.word 1).toNat ∨ s.counterOk p.x (p.word 2) = false) :
    exec (.fencePacket ctx q) s = then_ ctx q p (s.consume p 2) := by
  have hbad : (p.reserved 3 (2 ≤ (p.word 1).toNat) || !s.counterOk p.x (p.word 2)) = true := by
    rw [Bool.or_eq_true, Packet.reserved_iff, decide_eq_true_eq, Bool.not_eq_true']
    tauto
  rw [exec, execFencePacket]
  exact State.serve_refused h (if_pos hbad)

theorem exec_launchPacket_refused {s : State} {ctx q : Nat} {p : Packet} (h : Claims.served s ctx q .launch p) (hb : loosePacket p 1) :
    exec (.launchPacket ctx q) s = then_ ctx q p (s.consume p 2) := by
  rw [exec, execLaunchPacket]
  exact State.serve_refused h (if_pos ((p.reserved_iff 1 false).mpr (.inl hb)))

theorem exec_copyPacket_refused {s : State} {ctx q : Nat} {p : Packet} (h : Claims.served s ctx q .copy p)
    (hb : loosePacket p 5 ∨ wbits (p.word 3) 12 52 ≠ 0 ∨ s.counterOk p.x (p.word 4) = false) :
    exec (.copyPacket ctx q) s = then_ ctx q p (s.consume p 2) := by
  have hbad : (p.reserved 5 (wbits (p.word 3) 12 52 != 0) || !s.counterOk p.x (p.word 4)) = true := by
    rw [Bool.or_eq_true, Packet.reserved_iff, bne_iff_ne, Bool.not_eq_true']
    tauto
  rw [exec, execCopyPacket]
  exact State.serve_refused h (State.engineAccept_refused hbad)

theorem exec_layoutPacket_refused {s : State} {ctx q : Nat} {p : Packet} (h : Claims.served s ctx q .layout p)
    (hb : loosePacket p 7 ∨ wbits (p.word 5) 12 52 ≠ 0 ∨ s.counterOk p.x (p.word 6) = false) :
    exec (.layoutPacket ctx q) s = then_ ctx q p (s.consume p 2) := by
  have hbad : (p.reserved 7 (wbits (p.word 5) 12 52 != 0) || !s.counterOk p.x (p.word 6)) = true := by
    rw [Bool.or_eq_true, Packet.reserved_iff, bne_iff_ne, Bool.not_eq_true']
    tauto
  rw [exec, execLayoutPacket]
  exact State.serve_refused h (State.engineAccept_refused hbad)

theorem exec_preemptPacket_refused {s : State} {ctx q : Nat} {p : Packet} (h : Claims.served s ctx q .preempt p)
    (hb : loosePacket p 3 ∨ 3 ≤ (p.word 1).toNat ∨ s.counterOk p.x (p.word 3) = false) :
    exec (.preemptPacket ctx q) s = then_ ctx q p (s.consume p 2) := by
  obtain ⟨hscope, hrest⟩ := wbits_byte (p.word 1)
  have hbad : (p.reserved 3 (wbits (p.word 1) 8 56 != 0) || 3 ≤ wbits (p.word 1) 0 8 || !s.counterOk p.x (p.word 3)) = true := by
    rw [Bool.or_eq_true, Bool.or_eq_true, Packet.reserved_iff, bne_iff_ne, ne_eq, hrest, hscope, decide_eq_true_eq, Bool.not_eq_true']
    obtain hb | hb | hb := hb
    · exact .inl (.inl (.inl hb))
    · omega
    · exact .inr hb
  rw [exec, execPreemptPacket]
  exact State.serve_refused h (if_pos hbad)

/-- SCOPE 3 and 4 are no RESUME packet's; 5 and above, and what stands above the byte, are refused. -/
theorem exec_resumePacket_refused {s : State} {ctx q : Nat} {p : Packet} (h : Claims.served s ctx q .resume p)
    (hb : loosePacket p 2 ∨ 3 ≤ (p.word 1).toNat) : exec (.resumePacket ctx q) s = then_ ctx q p (s.consume p 2) := by
  obtain ⟨hscope, hrest⟩ := wbits_byte (p.word 1)
  obtain ⟨h3, h4⟩ := Packet.scope_of_resume h.2.2
  have hbad : (p.reserved 2 (wbits (p.word 1) 8 56 != 0) || 5 ≤ wbits (p.word 1) 0 8) = true := by
    rw [Bool.or_eq_true, Packet.reserved_iff, bne_iff_ne, ne_eq, hrest, decide_eq_true_eq]
    obtain hb | hb := hb
    · exact .inl (.inl hb)
    · omega
  rw [exec, execResumePacket]
  exact State.serve_refused h (if_pos hbad)

/-- The reserved bits of RESUME's forms for frozen teams. -/
theorem frozenForm_reserved {p : Packet} (hb : loosePacket p 2 ∨ 256 ≤ (p.word 1).toNat) :
    p.reserved 2 (wbits (p.word 1) 8 56 != 0) = true := by
  rwa [Packet.reserved_iff, bne_iff_ne, ne_eq, (wbits_byte _).2, not_lt]

theorem exec_resumeFrozenTeam_refused {s : State} {ctx q : Nat} {p : Packet} (h : Claims.served s ctx q .resumeFrozen p)
    (hb : loosePacket p 2 ∨ 256 ≤ (p.word 1).toNat) : exec (.resumeFrozenTeam ctx q) s = then_ ctx q p (s.consume p 2) := by
  rw [exec, execResumeFrozenTeam]
  refine State.serve_refused h ?_
  split
  · exact if_pos (by simp [frozenForm_reserved hb])
  · rfl

theorem exec_discardFrozenTeam_refused {s : State} {ctx q : Nat} {p : Packet} (h : Claims.served s ctx q .discardFrozen p)
    (hb : loosePacket p 2 ∨ 256 ≤ (p.word 1).toNat) : exec (.discardFrozenTeam ctx q) s = then_ ctx q p (s.consume p 2) := by
  rw [exec, execDiscardFrozenTeam]
  refine State.serve_refused h ?_
  split
  · exact if_pos (frozenForm_reserved hb)
  · rfl

theorem simplePackets : SimplePackets := by
  refine ⟨fun s ctx q p h => ⟨fun ht hp => ?_, fun ht => ?_⟩, fun s ctx q p h hp hf hc => exec_signalPacket h hp hf hc,
    fun s ctx q p h hp hc => exec_waitPacket h hp hc, fun s ctx q p h hp hf hc => exec_fencePacket h hp hf hc, fun s ctx q p => ?_⟩
  · simp [exec_nopPacket h, ht, Packet.reserved_of_plain hp]
  · simp [exec_nopPacket h, ht]
  · exact ⟨exec_nopPacket_refused, exec_signalPacket_refused, exec_waitPacket_refused, exec_fencePacket_refused, exec_launchPacket_refused,
      exec_copyPacket_refused, exec_layoutPacket_refused, exec_preemptPacket_refused, exec_resumePacket_refused, exec_resumeFrozenTeam_refused,
      exec_discardFrozenTeam_refused⟩

/-- Settles O44: what taking a slot reads and changes, and each simple packet by what its type asks of it. -/
theorem packetsTaken : Obligations.PacketsTaken := ⟨queueSlots, simplePackets⟩

end Sys2Proof.Machine

/-! # O58: who may give the keep orders, and what it does on them -/

namespace Sys2Proof.Machine

open Sys2Proof.Claims

/-! ### A management frame -/

/-- The first frame that waits is taken, whatever becomes of it. -/
theorem State.onFrame_cons {s : State} {m : Mgmt} {rest : List Mgmt} (h : s.frames = m :: rest) (act : State → Mgmt → State) :
    s.onFrame act = .next (({ s with frames := rest } : State).frame m.frame fun u => if m.frame.vlan = u.flash.mgmtVlan then act u m else u) := by
  rw [State.onFrame, h]

theorem State.onFrame_invalid {s : State} {m : Mgmt} {rest : List Mgmt} (h : s.frames = m :: rest) (hs : m.frame.sak ≠ s.keep.sak)
    (act : State → Mgmt → State) :
    s.onFrame act = .next { s with frames := rest, keep := { s.keep with dropped := s.keep.dropped + 1 } } := by
  rw [State.onFrame_cons h]
  exact congrArg _ (if_neg hs)

theorem State.onFrame_offVlan {s : State} {m : Mgmt} {rest : List Mgmt} (h : s.frames = m :: rest) (hs : m.frame.sak = s.keep.sak)
    (hv : m.frame.vlan ≠ s.flash.mgmtVlan) (act : State → Mgmt → State) : s.onFrame act = .next { s with frames := rest } := by
  rw [State.onFrame_cons h, State.frame]
  exact congrArg _ ((if_pos hs).trans (if_neg hv))

theorem State.onFrame_valid {s : State} {m : Mgmt} {rest : List Mgmt} (h : s.frames = m :: rest) (hs : m.frame.sak = s.keep.sak)
    (hv : m.frame.vlan = s.flash.mgmtVlan) (act : State → Mgmt → State) : s.onFrame act = .next (act { s with frames := rest } m) := by
  rw [State.onFrame_cons h, State.frame]
  exact congrArg _ ((if_pos hs).trans (if_pos hv))

theorem State.authentic_iff (s : State) (m : Mgmt) :
    s.authentic m = true ↔ (m.opens = true ∨ s.keep.session = some m.session) ∧ m.signer = s.flash.operatorKey := by
  simp [State.authentic]

/-! ### The status request -/

theorem exec_statusRequest_reset {s : State} {m : Mgmt} {rest : List Mgmt} (h : s.frames = m :: rest) (hs : m.frame.sak = s.keep.sak)
    (hv : m.frame.vlan = s.flash.mgmtVlan) (hb : s.keep.boot = .reset) :
    exec .statusRequest s = .next (({ s with frames := rest } : State).report "status" 0 0) := by
  rw [exec, execStatusRequest, State.onFrame_valid h hs hv]
  simp [hb]

theorem exec_statusRequest_halted {s : State} {m : Mgmt} {rest : List Mgmt} (h : s.frames = m :: rest) (hs : m.frame.sak = s.keep.sak)
    (hv : m.frame.vlan = s.flash.mgmtVlan) (hb : s.keep.boot = .halted) :
    exec .statusRequest s = .next (({ s with frames := rest } : State).report "status" 2 0) := by
  rw [exec, execStatusRequest, State.onFrame_valid h hs hv]
  simp [hb]

theorem exec_statusRequest_ordered {s : State} {m : Mgmt} {rest : List Mgmt} (h : ordered s m rest) :
    exec .statusRequest s = .next ((inSession s m rest).report "status" 1 0) := by
  obtain ⟨hf, hs, hv, hb, ha⟩ := h
  have ha' : ({ s with frames := rest } : State).authentic m = true := ha
  rw [exec, execStatusRequest, State.onFrame_valid hf hs hv]
  simp [hb, ha', inSession]

theorem exec_statusRequest_unauthentic {s : State} {m : Mgmt} {rest : List Mgmt} (h : s.frames = m :: rest) (hs : m.frame.sak = s.keep.sak)
    (hv : m.frame.vlan = s.flash.mgmtVlan) (hb : s.keep.boot = .running) (ha : s.authentic m = false) :
    exec .statusRequest s = .next (({ s with frames := rest } : State).report "not authentic" m.session 0) := by
  have ha' : ({ s with frames := rest } : State).authentic m = false := ha
  rw [exec, execStatusRequest, State.onFrame_valid h hs hv]
  simp [hb, ha']

/-! ### The operations of a keep that runs -/

theorem State.managed_invalid {s : State} {m : Mgmt} {rest : List Mgmt} (h : s.frames = m :: rest) (hs : m.frame.sak ≠ s.keep.sak)
    (f : State → State) :
    s.managed f = .next { s with frames := rest, keep := { s.keep with dropped := s.keep.dropped + 1 } } := State.onFrame_invalid h hs _

theorem State.managed_idle {s : State} {m : Mgmt} {rest : List Mgmt} (h : s.frames = m :: rest) (hs : m.frame.sak = s.keep.sak)
    (hi : m.frame.vlan ≠ s.flash.mgmtVlan ∨ s.keep.boot ≠ .running) (f : State → State) : s.managed f = .next { s with frames := rest } := by
  by_cases hv : m.frame.vlan = s.flash.mgmtVlan
  · have hb : s.keep.boot ≠ .running := hi.resolve_left (not_not_intro hv)
    rw [State.managed, State.onFrame_valid h hs hv]
    exact congrArg _ (if_pos (bne_iff_ne.mpr hb))
  · exact State.onFrame_offVlan h hs hv _

theorem State.managed_unauthentic {s : State} {m : Mgmt} {rest : List Mgmt} (h : s.frames = m :: rest) (hs : m.frame.sak = s.keep.sak)
    (hv : m.frame.vlan = s.flash.mgmtVlan) (hb : s.keep.boot = .running) (ha : s.authentic m = false) (f : State → State) :
    s.managed f = .next (({ s with frames := rest } : State).report "not authentic" m.session 0) := by
  have ha' : ({ s with frames := rest } : State).authentic m = false := ha
  rw [State.managed, State.onFrame_valid h hs hv]
  simp [hb, ha']

/-- The keep performs what the operator asks for, in the state whose session is the request's. -/
theorem State.managed_ordered {s : State} {m : Mgmt} {rest : List Mgmt} (h : ordered s m rest) (f : State → State) :
    s.managed f = .next (f (inSession s m rest)) := by
  obtain ⟨hf, hs, hv, hb, ha⟩ := h
  have ha' : ({ s with frames := rest } : State).authentic m = true := ha
  rw [State.managed, State.onFrame_valid hf hs hv]
  simp [hb, ha', inSession]

/-- The operations that the statement lists (R299, R303). -/
def managedOrders : List Instr :=
  [.identityQuery, .quote 0, .createKeys 1 0, .destroyContext 1, .bindQueuePair 0 1, .setExportTable 1 0 0, .nameTimedOwner none,
    .reserveTimedChannels 1 0 0, .setAuditn 1 0, .setSamplingInterval 24, .joinDomain 0 0 [], .leaveDomain, .acknowledgeJobRecords 0,
    .jobRecordResend 0]

theorem exec_managedOrders (s : State) : ∀ i ∈ managedOrders, ∃ f, exec i s = s.managed f := by
  simp only [managedOrders, List.forall_mem_cons, List.not_mem_nil, false_implies, implies_true, and_true]
  exact ⟨⟨_, by rw [exec, execIdentityQuery]⟩, ⟨_, by rw [exec, execQuote]⟩, ⟨_, by rw [exec, execCreateKeys]⟩,
    ⟨_, by rw [exec, execDestroyContext]⟩, ⟨_, by rw [exec, execBindQueuePair]⟩, ⟨_, by rw [exec, execSetExportTable]⟩,
    ⟨_, by rw [exec, execNameTimedOwner]⟩, ⟨_, by rw [exec, execReserveTimedChannels]⟩, ⟨_, by rw [exec, execSetAuditn]⟩,
    ⟨_, by rw [exec, execSetSamplingInterval]⟩, ⟨_, by rw [exec, execJoinDomain]⟩, ⟨_, by rw [exec, execLeaveDomain]⟩,
    ⟨_, by rw [exec, execAcknowledgeJobRecords]⟩, ⟨_, by rw [exec, execJobRecordResend]⟩⟩

theorem managementAccess : ManagementAccess := by
  intro s m rest h
  refine ⟨s.authentic_iff m, fun hs hv => ⟨exec_statusRequest_reset h hs hv, exec_statusRequest_halted h hs hv,
    fun hb ha => exec_statusRequest_ordered ⟨h, hs, hv, hb, ha⟩, exec_statusRequest_unauthentic h hs hv⟩, fun i hi => ?_⟩
  obtain ⟨f, hf⟩ := exec_managedOrders s i hi
  rw [hf]
  exact ⟨fun hs => State.managed_invalid h hs f, fun hs hi => State.managed_idle h hs hi f,
    fun hs hv hb ha => State.managed_unauthentic h hs hv hb ha f⟩

/-! ### Device reset -/

/-- A property of every tower, read by number. -/
theorem all_towers (v : Vector Tower 4) (p : Tower → Bool) : v.toList.all p = true ↔ ∀ i, i < 4 → p (v.get (Fin.ofNat 4 i)) = true := by
  rw [List.all_eq_true]
  constructor
  · intro h i _
    exact h _ (Vector.mem_toList_iff.mpr (Vector.getElem_mem _))
  · intro h t ht
    obtain ⟨i, hi, rfl⟩ := Vector.mem_iff_getElem.mp (Vector.mem_toList_iff.mp ht)
    simpa [Vector.get, Nat.mod_eq_of_lt hi] using h i hi

/-- What halts a keep whose components have verified (R306): no tower is online, a stack has failed, or a port has no link. -/
theorem bringUp_halted_iff (towers : Vector Tower 4) (fail : BitVec 32) (down : SMap Bool) :
    (if (towers.toList.all fun t => !t.online) || fail != 0 ||
        ((List.range 16).any fun p => (List.range 4).all fun l => SMap.get false down (4 * p + l)) then Boot.halted else .running) = .halted ↔
      (∀ i, i < 4 → (towers.get (Fin.ofNat 4 i)).online = false) ∨ fail ≠ 0 ∨
        ∃ p, p < 16 ∧ ∀ l, l < 4 → SMap.get false down (4 * p + l) = true := by
  have dead : ((List.range 16).any fun p => (List.range 4).all fun l => SMap.get false down (4 * p + l)) = true ↔
      ∃ p, p < 16 ∧ ∀ l, l < 4 → SMap.get false down (4 * p + l) = true := by
    simp only [List.any_eq_true, List.all_eq_true, List.mem_range]
  have boot (b : Bool) : (if b = true then Boot.halted else .running) = .halted ↔ b = true := by cases b <;> simp
  rw [boot, Bool.or_eq_true, Bool.or_eq_true, all_towers, bne_iff_ne, dead, or_assoc]
  simp

/-- What a device reset leaves of the state (R26, R307), and when bring-up halts (R301, R306). -/
theorem exec_deviceReset (s : State) : ∃ u, exec .deviceReset s = .next u ∧ u.flash.incarn = s.flash.incarn + 1 ∧
    u.fabric.incarn = s.flash.incarn + 1 ∧
    u.contexts = [] ∧ u.teams = [] ∧ u.strands = [] ∧ u.cmds = [] ∧ u.grids = [] ∧ u.cyc = 0 ∧ u.fabric.joined = false ∧
    u.keep.session = none ∧ u.keep.rseq = s.keep.rseq ∧ u.keep.store = s.keep.store ∧
    let signed := Config.falconKey s.flash.firmware s.flash.firmwareSig = s.keep.rootHash ∧
      Config.falconKey s.flash.buildRecord.signed s.flash.buildRecord.signature = s.keep.rootHash ∧
      Config.falconKey s.flash.coreFirmware s.flash.coreSig = s.keep.rootHash
    (¬ signed → u.keep.boot = .halted) ∧
    (signed → (u.keep.boot = .halted ↔
      (∀ i, i < 4 → (u.tower i).online = false) ∨ s.flash.stackFail ≠ 0 ∨
        ∃ p, p < 16 ∧ ∀ l, l < 4 → SMap.get false u.fabric.down (4 * p + l) = true) ∧
      u.keep.identity = s.flash.wrappedIdentity ∧
      u.keep.measure =
        extendMeasure (extendMeasure (extendMeasure 0 s.flash.firmware) s.flash.buildRecord.bytes) s.flash.coreFirmware) := by
  rw [exec, execDeviceReset]
  by_cases hv : s.flash.verified s.keep.rootHash
  · refine ⟨_, congrArg _ (if_pos hv), rfl, rfl, rfl, rfl, rfl, rfl, rfl, rfl, rfl, rfl, rfl, rfl, fun h => absurd hv h,
      fun _ => ⟨?_, rfl, rfl⟩⟩
    exact bringUp_halted_iff _ _ _
  · exact ⟨_, congrArg _ (if_neg hv), rfl, rfl, rfl, rfl, rfl, rfl, rfl, rfl, rfl, rfl, rfl, rfl, fun _ => rfl, fun h => absurd h hv⟩

/-! ### What a running keep does on a request of the operator -/

section
variable {s : State} {m : Mgmt} {rest : List Mgmt} (h : ordered s m rest)
include h

theorem exec_identityQuery : exec .identityQuery s = .next ((inSession s m rest).report "identity" s.flash.serial s.flash.idpub) := by
  rw [exec, execIdentityQuery, State.managed_ordered h]
  rfl

theorem exec_quote (nonce : BitVec 256) : exec (.quote nonce) s = .next { inSession s m rest with
    out := s.out ++ [.quote s.keep.measure (Config.shake256 32 s.flash.buildRecord.bytes) nonce
      (Config.falconSign s.keep.identity
        (bytesOf 64 s.keep.measure.toNat ++ Config.shake256 32 s.flash.buildRecord.bytes ++ bytesOf 32 nonce.toNat))] } := by
  rw [exec, execQuote, State.managed_ordered h]
  rfl

theorem exec_setSamplingInterval {n : Nat} (hlo : 20 ≤ n) (hhi : n ≤ 30) : exec (.setSamplingInterval n) s =
    .next { inSession s m rest with keep := { (inSession s m rest).keep with sampling := n } } := by
  rw [exec, execSetSamplingInterval, State.managed_ordered h]
  simp [hlo, hhi]

theorem exec_setSamplingInterval_refused {n : Nat} (hn : n < 20 ∨ 30 < n) :
    exec (.setSamplingInterval n) s = .next ((inSession s m rest).report "refused" n 0) := by
  have hbad : ¬(20 ≤ n ∧ n ≤ 30) := by omega
  rw [exec, execSetSamplingInterval, State.managed_ordered h]
  simp [hbad]

theorem exec_acknowledgeJobRecords {n : Nat} (hn : n < s.keep.rseq) : exec (.acknowledgeJobRecords n) s =
    .next { inSession s m rest with
      keep := { (inSession s m rest).keep with store := s.keep.store.filter fun r => n < r.rseq } } := by
  rw [exec, execAcknowledgeJobRecords, State.managed_ordered h]
  exact congrArg _ (if_pos hn)

theorem exec_jobRecordResend {n : Nat} {r : JobRecord} (hr : s.keep.store.find? (·.rseq == n) = some r) : exec (.jobRecordResend n) s =
    .next { inSession s m rest with out := s.out ++ [.jobRecord r.rseq r.body r.signature] } := by
  have hr' : (inSession s m rest).keep.store.find? (·.rseq == n) = some r := hr
  rw [exec, execJobRecordResend, State.managed_ordered h, hr']
  rfl

theorem exec_jobRecordResend_unknown {n : Nat} (hr : s.keep.store.find? (·.rseq == n) = none) :
    exec (.jobRecordResend n) s = .next ((inSession s m rest).report "refused" n 0) := by
  have hr' : (inSession s m rest).keep.store.find? (·.rseq == n) = none := hr
  rw [exec, execJobRecordResend, State.managed_ordered h, hr']

end

/-! ### Joining a domain -/

/-- Each peer of the domain has the key of its own agreement (R302). -/
theorem State.get_agree (s : State) {devid qlog d : Nat} (hd : d < 16 * 2 ^ qlog) (hne : d ≠ devid) :
    SMap.get 0 (s.agree devid qlog) d = s.nextId + d := by
  have key (l : List Nat) (k : SMap Nat) (hk : SMap.wf 0 k = true) (hl : d ∈ l ∨ SMap.get 0 k d = s.nextId + d) :
      SMap.get 0 (l.foldl (fun k d => SMap.set 0 k d (s.nextId + d)) k) d = s.nextId + d := by
    induction l generalizing k with
    | nil => simpa using hl
    | cons e l ih =>
      refine ih _ (SMap.wf_set 0 k e _ hk) ?_
      by_cases he : d = e
      · subst he
        exact .inr (SMap.get_set_same 0 k 0 d _ hk)
      · rw [SMap.get_set_ne 0 k e d _ he]
        exact hl.imp_left fun hm => (List.mem_cons.mp hm).resolve_left he
  exact key _ [] rfl (.inl (List.mem_filter.mpr ⟨List.mem_range.mpr hd, bne_iff_ne.mpr hne⟩))

/-- What a join asks of the device and of the round it is given (R26, R255). -/
def State.mayJoin (s : State) (devid qlog : Nat) (flight : List Nat) : Prop :=
  s.fabric.joined = false ∧ s.fabric.spent = false ∧ qlog ≤ 4 ∧ devid < 16 * 2 ^ qlog ∧ flight.length = 16 * 2 ^ qlog ∧
    ∀ x ∈ flight, x ≤ 64

theorem exec_joinDomain {s : State} {m : Mgmt} {rest : List Mgmt} (h : ordered s m rest) {devid qlog : Nat} {flight : List Nat}
    (hj : s.mayJoin devid qlog flight) : exec (.joinDomain devid qlog flight) s = .next { inSession s m rest with
      fabric := { s.fabric with joined := true, spent := true, devid, qlog, flight, pairKeys := s.agree devid qlog }
      nextId := s.nextId + 16 * 2 ^ qlog } := by
  obtain ⟨hjoined, hspent, hq, hd, hl, hf⟩ := hj
  rw [exec, execJoinDomain, State.managed_ordered h]
  refine congrArg _ (if_pos ?_)
  simpa [inSession, hjoined, hspent, hq, hd, hl] using hf

theorem exec_joinDomain_refused {s : State} {m : Mgmt} {rest : List Mgmt} (h : ordered s m rest) {devid qlog : Nat} {flight : List Nat}
    (hj : ¬s.mayJoin devid qlog flight) :
    exec (.joinDomain devid qlog flight) s = .next ((inSession s m rest).report "refused" devid qlog) := by
  rw [exec, execJoinDomain, State.managed_ordered h]
  refine congrArg _ (if_neg fun hc => hj ?_)
  simpa [State.mayJoin, inSession, and_assoc] using hc

/-! ### Job records -/

theorem exec_jobRecordEmit_destroying {s : State} {g : Grid} {x : Context} (hg : s.grid g.id = some g) (hx : s.context g.ctx = some x)
    (hd : x.destroying = true) (hq : x.queues ≠ []) : exec (.jobRecordEmit g.id) s = .next s := by
  rw [exec, execJobRecordEmit, hg]
  simp [hx, hd, hq]

theorem exec_jobRecordEmit {s : State} {g : Grid} (hg : s.grid g.id = some g) (hlive : g.live = false) (hroom : s.keep.store.length < 65536)
    (hteams : ∀ t ∈ s.teams, t.grid ≠ g.id) (hctx : ∀ x, s.context g.ctx = some x → x.destroying = true → x.queues = [])
    (hsample : ∀ i x, (s.tower i).sample = some x → x.grid ≠ g.id) : exec (.jobRecordEmit g.id) s = .next { s with
      grids := s.grids.filter (·.id != g.id)
      keep := { s.keep with
        rseq := s.keep.rseq + 1
        store := s.keep.store ++ [{ rseq := s.keep.rseq, body := s.jobBody g
                                    signature := Config.falconSign s.keep.identity (bytesOf 256 (s.jobBody g).toNat) }] }
      out := s.out ++ [.jobRecord s.keep.rseq (s.jobBody g) (Config.falconSign s.keep.identity (bytesOf 256 (s.jobBody g).toNat))] } := by
  have ht : (s.teams.all fun t => t.grid != g.id) = true := by simpa using hteams
  have hx : ((s.context g.ctx).any fun x => x.destroying && !x.queues.isEmpty) = false := by
    cases hc : s.context g.ctx with
    | none => rfl
    | some x =>
      cases hd : x.destroying with
      | false => simp [hd]
      | true => simp [hctx x hc hd]
  have hs : (s.towers.toList.all fun t => match t.sample with | some x => x.grid != g.id | none => true) = true := by
    rw [all_towers]
    intro i _
    split
    · next x hx => exact bne_iff_ne.mpr (hsample i x hx)
    · rfl
  rw [exec, execJobRecordEmit, hg]
  refine if_pos ?_
  rw [hlive, decide_eq_true hroom, ht, hx]
  exact hs

/-! ### Leaving a domain: what the operations on traffic do to the commands and to the fabric -/

/-- The commands and the state of the fabric unit. -/
def State.traffic (s : State) : List Cmd × Fabric := (s.cmds, s.fabric)

theorem HbmOnly.traffic {s u : State} (h : HbmOnly s u) : u.traffic = s.traffic := by
  obtain ⟨_, _, _, _, _, _, _, rfl⟩ := h
  rfl

theorem deviceNotes_hbmOnly (s : State) (c : Context) (l : List (Word × Nat)) : HbmOnly s (s.deviceNotes c l) := ⟨_, _, _, _, _, _, _, rfl⟩

theorem migNote_hbmOnly (s : State) (x : Context) (d : Desc) (w : BitVec 128) : HbmOnly s (s.migNote x d w) :=
  (touchEntry_hbmOnly ..).trans (deviceNotes_hbmOnly ..)

theorem migLog_hbmOnly (s : State) (x : Context) (tid tix result old new : Nat) : HbmOnly s (s.migLog x tid tix result old new) :=
  (deviceWrite_hbmOnly ..).trans (deviceWrite_hbmOnly ..)

theorem setTableWord_hbmOnly (s : State) (x : Context) (addr v : Nat) : HbmOnly s (s.setTableWord x addr v) := by
  unfold State.setTableWord
  dsimp only
  split
  · exact .refl s
  · exact (writeGranuleAt_hbmOnly ..).trans (touchPage_hbmOnly ..)

@[simp] theorem State.traffic_spendMig (s : State) (ctx : Nat) : (s.spendMig ctx).traffic = s.traffic := by
  unfold State.spendMig
  split <;> rfl

theorem State.traffic_idle {s u : State} (h : u.traffic = s.traffic) (m : Migration) : ({ u with migration := m } : State).traffic = s.traffic := h

theorem State.traffic_withFabric {s u : State} (h : u.traffic = s.traffic) : ({ u with fabric := s.fabric } : State).traffic = s.traffic :=
  congrArg (fun l => (l, s.fabric)) (congrArg Prod.fst h)

theorem State.traffic_ite {s a b : State} {p : Prop} [Decidable p] (ha : a.traffic = s.traffic) (hb : ¬p → b.traffic = s.traffic) :
    (if p then a else b).traffic = s.traffic := by
  split
  · exact ha
  · next h => exact hb h

/-- Out of a domain, no page of a peer is pulled (R151). -/
theorem State.traffic_migTry {s : State} (hj : s.fabric.joined = false) (e : BitVec 128) (rest : List (BitVec 128)) :
    (s.migTry e rest).traffic = s.traffic := by
  -- as in `memoryWf_migTry`: what the `match` is on is a variable to the kernel
  obtain ⟨mapped, hmapped⟩ : ∃ f, f = State.mapping := ⟨_, rfl⟩
  obtain ⟨target, htarget⟩ : ∃ f, f = State.migTarget := ⟨_, rfl⟩
  unfold State.migTry
  rw [← hmapped, ← htarget]
  dsimp only
  split
  · exact State.traffic_idle rfl _
  · next x _ =>
    refine State.traffic_ite (State.traffic_idle rfl _) fun _ => ?_
    split
    · exact State.traffic_idle rfl _
    · next d _ =>
      have noted : (s.migNote x d e).traffic = s.traffic := (migNote_hbmOnly s x d e).traffic
      split
      · next f span k new _ _ =>
        refine State.traffic_ite (State.traffic_idle noted _) fun hgo => ?_
        refine State.traffic_ite (State.traffic_idle ((migLog_hbmOnly ..).traffic.trans noted) _) fun _ => ?_
        rw [if_neg (fun hpeer => hgo (by simp [hpeer, hj]))]
        refine State.traffic_idle ((deviceWrite_hbmOnly ..).traffic.trans ?_) _
        exact (State.traffic_spendMig _ _).trans ((setTableWord_hbmOnly ..).traffic.trans noted)
      · exact State.traffic_idle noted _

theorem State.traffic_migNext {s : State} (hj : s.fabric.joined = false) (l : List (BitVec 128)) : (s.migNext l).traffic = s.traffic := by
  induction l generalizing s with
  | nil => rfl
  | cons e l ih =>
    have htry : (s.migTry e l).traffic = s.traffic := State.traffic_migTry hj e l
    have hfabric : (s.migTry e l).fabric = s.fabric := congrArg Prod.snd htry
    unfold State.migNext
    exact State.traffic_ite htry fun _ => (ih (hfabric ▸ hj)).trans htry

theorem Fabric.filter_outstanding {f : Fabric} (h : f.outstanding = []) (p : Outstanding → Bool) :
    { f with outstanding := f.outstanding.filter p } = f := by
  cases f
  cases h
  rfl

/-- Out of a domain and with no request outstanding, a migration that fails sends none (R151). -/
theorem State.traffic_migFail {s : State} (hj : s.fabric.joined = false) (ho : s.fabric.outstanding = []) : s.migFail.traffic = s.traffic := by
  unfold State.migFail
  dsimp only
  rw [Fabric.filter_outstanding ho]
  split
  · next x _ =>
    refine (State.traffic_migNext ?_ _).trans (State.traffic_withFabric (setTableWord_hbmOnly s x _ _).traffic)
    exact hj
  · rfl

/-! ### Leaving a domain: the commands that end -/

/-- Whether a command is a timed fabric command that is not done. -/
def Cmd.timedOpen (c : Cmd) : Bool := (c.op == .fsend || c.op == .frecv) && (c.st == .queued || c.st == .running)

@[simp] theorem State.finish_fabric (s : State) (cid : Nat) (status : BitVec 4) : (s.finish cid status).fabric = s.fabric := by
  unfold State.finish
  split <;> rfl

/-- A command that ends is open no more, and no other opens. -/
theorem State.timedOpen_of_mem_finish {s : State} {cid : Nat} {status : BitVec 4} {d : Cmd} (hd : d ∈ (s.finish cid status).cmds)
    (hopen : d.timedOpen = true) : d ∈ s.cmds ∧ d.id ≠ cid := by
  unfold State.finish at hd
  cases hc : s.cmd cid with
  | none =>
    rw [hc] at hd
    exact ⟨hd, by simpa using List.find?_eq_none.mp hc d hd⟩
  | some c =>
    rw [hc] at hd
    have hid : c.id = cid := by simpa using List.find?_some hc
    obtain ⟨x, hx, rfl⟩ := List.mem_map.mp hd
    dsimp only at hopen ⊢
    by_cases hxc : x.id = c.id
    · rw [if_pos (beq_iff_eq.mpr hxc)] at hopen
      simp [Cmd.timedOpen] at hopen
    · rw [if_neg (by simpa using hxc)]
      exact ⟨hx, hid ▸ hxc⟩

theorem State.looseDst_traffic (s : State) (c : Cmd) : (s.looseDst c).traffic = s.traffic := by
  unfold State.looseDst
  split
  · next x b _ _ =>
    dsimp only
    split
    · exact ((writeGranules_hbmOnly ..).trans (writeGranules_hbmOnly ..)).traffic
    · exact (writeGranules_hbmOnly ..).traffic
  · split <;> rfl
  · rfl

theorem State.mailbox_traffic (s : State) (team strand m : Nat) (v : Word) (pois : Bool) (key : Nat) :
    (s.mailbox team strand m v pois key).traffic = s.traffic := by
  unfold State.mailbox
  split <;> rfl

theorem State.wordResult_traffic (s : State) (t : Team) (c : Cmd) (mbx : Bool) (m : Nat) (addr : BitVec 28) (bs : List Byte)
    (pois : Nat → Bool) : (s.wordResult t c mbx m addr bs pois).traffic = s.traffic := by
  unfold State.wordResult
  split
  · exact State.mailbox_traffic ..
  · rfl

/-- What a command that ends with PEER-RESET leaves behind is no command and no traffic (R277): it is done, and that is all. -/
theorem State.peerReset_traffic (s : State) (c : Cmd) : ∃ u : State, u.traffic = s.traffic ∧ s.peerReset c = u.finish c.id 4 := by
  unfold State.peerReset
  refine ⟨_, ?_, rfl⟩
  split
  · exact State.wordResult_traffic ..
  · exact State.wordResult_traffic ..
  · exact State.looseDst_traffic ..
  · exact State.looseDst_traffic ..
  · rfl

/-- The device is in no domain, and holds no response to send. -/
def Fabric.left (f : Fabric) : Prop := f.joined = false ∧ f.replies = []

theorem Fabric.keepTimed_left {f : Fabric} (h : f.left) (port turn : Nat) (l : List (Nat × BitVec 2048)) : (f.keepTimed port turn l).left := by
  induction l generalizing f with
  | nil => exact h
  | cons e l ih => exact ih (f := f.keepFlit port (f.linkOf port e.1) true turn false e.2) h

/-- The commands are the same, and a device that has left its domain stays out of it. -/
def State.StaysOut (s u : State) : Prop := u.cmds = s.cmds ∧ (s.fabric.left → u.fabric.left)

theorem State.StaysOut.refl (s : State) : s.StaysOut s := ⟨rfl, id⟩

theorem State.StaysOut.trans {s u v : State} (h : s.StaysOut u) (k : u.StaysOut v) : s.StaysOut v := ⟨k.1.trans h.1, k.2 ∘ h.2⟩

theorem State.emit_staysOut (s : State) (port turn : Nat) (l : List (Nat × Nat)) (a : Arrival) : s.StaysOut (s.emit port turn l a) :=
  ⟨rfl, fun h => Fabric.keepTimed_left h port turn _⟩

theorem State.giveRelay_staysOut (s : State) (c : Cmd) (n : Nat) : s.StaysOut (s.giveRelay c n) := by
  unfold State.giveRelay
  dsimp only
  split
  · exact ⟨rfl, id⟩
  · exact .refl s

/-- A withdrawal ends the command, and no other (R261, R385). -/
theorem State.withdraw_staysOut (s : State) (c : Cmd) : ∃ u, s.StaysOut u ∧ (u.finish c.id 5).StaysOut (s.withdraw c) := by
  unfold State.withdraw
  dsimp only
  refine ⟨_, ?_, rfl, id⟩
  refine State.StaysOut.trans ?_ (State.giveRelay_staysOut ..)
  split
  · split
    · exact State.emit_staysOut ..
    · exact .refl s
  · exact .refl s

/-- The commands that a list of withdrawals does not name are those left open. -/
theorem State.withdraw_foldl (l : List Cmd) (s : State) (hleft : s.fabric.left) :
    (l.foldl State.withdraw s).fabric.left ∧
      ∀ d ∈ (l.foldl State.withdraw s).cmds, d.timedOpen = true → d ∈ s.cmds ∧ ∀ c ∈ l, d.id ≠ c.id := by
  induction l generalizing s with
  | nil => exact ⟨hleft, fun d hd _ => ⟨hd, by simp⟩⟩
  | cons c l ih =>
    obtain ⟨u, ⟨hcmds, hu⟩, hcmds', hu'⟩ := s.withdraw_staysOut c
    obtain ⟨hout, hopen⟩ := ih (s.withdraw c) (hu' (by simpa using hu hleft))
    refine ⟨hout, fun d hd ho => ?_⟩
    obtain ⟨hmem, hne⟩ := hopen d hd ho
    obtain ⟨hin, hc⟩ := State.timedOpen_of_mem_finish (hcmds' ▸ hmem) ho
    exact ⟨hcmds ▸ hin, List.forall_mem_cons.mpr ⟨hc, hne⟩⟩

/-- Withdrawn as a whole, no timed fabric command is open. -/
theorem State.withdrawAll_spec (s : State) (hleft : s.fabric.left) :
    (s.withdrawAll fun _ => true).fabric.left ∧ ∀ d ∈ (s.withdrawAll fun _ => true).cmds, d.timedOpen = false := by
  obtain ⟨hout, hopen⟩ := State.withdraw_foldl (s.cmds.filter fun c =>
    (c.op == .fsend || c.op == .frecv) && (c.st == .queued || c.st == .running) && true) s hleft
  refine ⟨hout, fun d hd => Bool.eq_false_iff.mpr fun ho => ?_⟩
  obtain ⟨hmem, hne⟩ := hopen d hd ho
  exact hne d (List.mem_filter.mpr ⟨hmem, by simpa [Cmd.timedOpen] using ho⟩) rfl

/-- Ending commands with PEER-RESET opens none, and sends nothing (R277). -/
theorem State.peerReset_foldl (l : List Cmd) (s : State) (hclosed : ∀ d ∈ s.cmds, d.timedOpen = false) :
    (l.foldl State.peerReset s).fabric = s.fabric ∧ ∀ d ∈ (l.foldl State.peerReset s).cmds, d.timedOpen = false := by
  induction l generalizing s with
  | nil => exact ⟨rfl, hclosed⟩
  | cons c l ih =>
    obtain ⟨u, hu, hreset⟩ := s.peerReset_traffic c
    obtain ⟨hcmds, hfabric⟩ := Prod.mk.inj hu
    obtain ⟨hf, hc⟩ := ih (s.peerReset c) fun d hd => Bool.eq_false_iff.mpr fun ho => by
      obtain ⟨hmem, _⟩ := State.timedOpen_of_mem_finish (hreset ▸ hd) ho
      simp [hclosed d (hcmds ▸ hmem)] at ho
    exact ⟨by rw [List.foldl_cons, hf, hreset, State.finish_fabric, hfabric], hc⟩

/-- A device that is out of its domain and ends its traffic has no request outstanding, no response held, and no timed fabric command open. -/
theorem State.resetTraffic_spec (s : State) (hleft : s.fabric.left) (hclosed : ∀ d ∈ s.cmds, d.timedOpen = false) :
    (s.resetTraffic none).fabric.left ∧ (s.resetTraffic none).fabric.outstanding = [] ∧
      ∀ d ∈ (s.resetTraffic none).cmds, d.timedOpen = false := by
  obtain ⟨hfabric, hopen⟩ := State.peerReset_foldl (s.cmds.filter fun c => c.st == .running && s.engaged c none) s hclosed
  have hnone (l : List Outstanding) : (l.filter fun o => (none : Option Nat).isSome && none != some o.dev) = [] := by simp
  obtain ⟨hjoined, hreplies⟩ := hleft
  unfold State.resetTraffic
  dsimp only
  rw [hfabric, hnone]
  split
  · obtain ⟨hc, hf⟩ := Prod.mk.inj (State.traffic_migFail (s := { List.foldl State.peerReset s (s.cmds.filter fun c =>
      c.st == .running && s.engaged c none) with fabric := { s.fabric with outstanding := [], streams := _ } }) hjoined rfl)
    rw [hc, hf]
    exact ⟨⟨hjoined, hreplies⟩, rfl, hopen⟩
  · exact ⟨⟨hjoined, hreplies⟩, rfl, hopen⟩

theorem exec_leaveDomain {s : State} {m : Mgmt} {rest : List Mgmt} (h : ordered s m rest) (hj : s.fabric.joined = true) :
    ∃ u, exec .leaveDomain s = .next u ∧ u.fabric.left ∧ u.fabric.outstanding = [] ∧ ∀ c ∈ u.cmds, c.timedOpen = false := by
  obtain ⟨hleft, hclosed⟩ := State.withdrawAll_spec
    { inSession s m rest with fabric := { s.fabric with joined := false, replies := [] } } ⟨rfl, rfl⟩
  rw [exec, execLeaveDomain, State.managed_ordered h]
  exact ⟨_, congrArg _ (if_pos hj), State.resetTraffic_spec _ hleft hclosed⟩

theorem exec_leaveDomain_outside {s : State} {m : Mgmt} {rest : List Mgmt} (h : ordered s m rest) (hj : s.fabric.joined = false) :
    exec .leaveDomain s = .next (inSession s m rest) := by
  rw [exec, execLeaveDomain, State.managed_ordered h]
  exact congrArg _ (if_neg (Bool.not_eq_true _ ▸ hj))

/-- A command of the fabric that is not open is neither queued nor running. -/
theorem Cmd.not_timedOpen {c : Cmd} (h : c.timedOpen = false) (hop : c.op = .fsend ∨ c.op = .frecv) : c.st ≠ .queued ∧ c.st ≠ .running := by
  simpa [Cmd.timedOpen, hop] using h

theorem keepOrders : KeepOrders := by
  refine ⟨exec_deviceReset, fun s m rest h => ⟨exec_identityQuery h, exec_quote h, fun n => exec_setSamplingInterval h,
    fun n => exec_setSamplingInterval_refused h, fun devid qlog flight => ⟨fun hjoined hspent hq hd hl hf => ?_, fun hbad => ?_⟩, fun hj => ?_,
    exec_leaveDomain_outside h, fun n hn => ⟨_, exec_acknowledgeJobRecords h hn, fun r => ?_⟩, fun n r => exec_jobRecordResend h,
    fun n => exec_jobRecordResend_unknown h⟩, fun s g x => exec_jobRecordEmit_destroying,
    fun s g hg hlive hroom hteams hctx hsample => ?_⟩
  · refine ⟨_, _, exec_joinDomain h ⟨hjoined, hspent, hq, hd, hl, hf⟩, Nat.le_add_right _ _, fun d hlt hne => ?_⟩
    rw [State.get_agree s hlt hne]
    omega
  · refine exec_joinDomain_refused h fun ⟨hjoined, hspent, hq, hd, hl, hf⟩ => ?_
    obtain hj | hs | hq' | hd' | hl' | ⟨x, hx, hlt⟩ := hbad
    · simp [hjoined] at hj
    · simp [hspent] at hs
    · omega
    · omega
    · exact hl' hl
    · exact absurd (hf x hx) (by omega)
  · obtain ⟨u, hu, ⟨hout, hreplies⟩, hnone, hclosed⟩ := exec_leaveDomain h hj
    exact ⟨u, hu, hout, hnone, hreplies, fun c hc hop => Cmd.not_timedOpen (hclosed c hc) hop⟩
  · exact List.mem_filter.trans (and_congr_right fun _ => decide_eq_true_iff)
  · refine ⟨_, _, exec_jobRecordEmit hg hlive hroom hteams hctx hsample, rfl, rfl, rfl, rfl, rfl, ?_⟩
    simp [State.grid]

/-- Settles O58: what the keep does with a frame, whoever sent it, and on each order of the operator. -/
theorem keepOperations : Obligations.KeepOperations := ⟨managementAccess, keepOrders⟩

end Sys2Proof.Machine

/-! # O47: admitting, resuming, starting and retiring teams -/

namespace Sys2Proof.Machine

/-! ### Entries of a table that is changed entry by entry -/

theorem find?_map_of_key {α : Type} {f : α → α} {p : α → Bool} (h : ∀ x, p (f x) = p x) (l : List α) :
    (l.map f).find? p = (l.find? p).map f := by
  rw [List.find?_map, show p ∘ f = p from funext h]

theorem State.strand_key {s : State} {team i : Nat} {y : Strand} (h : s.strand team i = some y) : y.team = team ∧ y.index = i := by
  simpa using List.find?_some h

theorem State.strand_setStrand {s : State} {team i : Nat} {y : Strand} (h : s.strand team i = some y) (st : Strand) :
    (s.setStrand st).strand team i = some (if team = st.team ∧ i = st.index then st else y) := by
  obtain ⟨rfl, rfl⟩ := State.strand_key h
  have hmap : (s.setStrand st).strand y.team y.index = (s.strand y.team y.index).map _ := find?_map_of_key (fun x => by
    by_cases hx : x.team = st.team ∧ x.index = st.index
    · simp [hx]
    · rw [if_neg (by simpa using hx)]) _
  simp [hmap, h]

/-! ### The next grid and its next team -/

/-- What is chosen from a list, one by one, is an entry of it. -/
theorem mem_of_foldl_choose {α : Type} {f : Option α → α → Option α} (hf : ∀ b a, f b a = some a ∨ f b a = b) {l : List α}
    {b : Option α} {x : α} (h : l.foldl f b = some x) : b = some x ∨ x ∈ l := by
  induction l generalizing b with
  | nil => exact .inl h
  | cons a l ih =>
    obtain hb | hl := ih h
    · obtain ha | ha := hf b a
      · rw [ha] at hb
        exact .inr (Option.some.inj hb ▸ List.mem_cons_self)
      · exact .inl (ha ▸ hb)
    · exact .inr (List.mem_cons_of_mem _ hl)

theorem State.nextGrid_mem {s : State} {g : Grid} (h : s.nextGrid = some g) : g ∈ s.grids := by
  unfold State.nextGrid at h
  split at h
  · cases h
  · obtain hn | hl := mem_of_foldl_choose (fun b a => by
      cases b with
      | none => exact .inl rfl
      | some c => by_cases hc : s.servedBefore a c = true <;> simp [hc]) h
    · cases hn
    · exact List.mem_of_mem_filter hl

theorem State.grid_isSome_of_mem {s : State} {g : Grid} (h : g ∈ s.grids) : (s.grid g.id).isSome = true :=
  List.find?_isSome.mpr ⟨g, h, beq_self_eq_true _⟩

theorem State.nextTeam_mem {s : State} {g : Grid} {t : Team} (h : s.nextTeam g = some (some t)) : t ∈ s.teams := by
  unfold State.nextTeam at h
  split at h
  · cases h
  · split at h
    · next u hu =>
      cases h
      obtain hn | hl := mem_of_foldl_choose (fun b a => by
        cases b with
        | none => exact .inl rfl
        | some c => by_cases hc : a.waitSince + a.turn < c.waitSince + c.turn <;> simp [hc]) hu
      · cases hn
      · exact List.mem_of_mem_filter hl
    · split at h <;> cases h

theorem State.team_isSome_of_mem {s : State} {t : Team} (h : t ∈ s.teams) : (s.team t.id).isSome = true :=
  List.find?_isSome.mpr ⟨t, h, beq_self_eq_true _⟩

/-! ### Pre-emption only asks teams to stop -/

/-- Some teams may be asked to stop; strands, grids and the rotation stay. -/
def State.Asks (s u : State) : Prop :=
  u.strands = s.strands ∧ u.grids = s.grids ∧ u.rotation = s.rotation ∧ ∀ i, ∃ b, u.team i = (s.team i).map ({ · with stopAsked := b })

theorem State.Asks.refl (s : State) : s.Asks s := by
  refine ⟨rfl, rfl, rfl, fun i => ?_⟩
  cases h : s.team i with
  | none => exact ⟨false, rfl⟩
  | some t => exact ⟨t.stopAsked, rfl⟩

theorem State.Asks.trans {s u v : State} (h : s.Asks u) (k : u.Asks v) : s.Asks v := by
  obtain ⟨hs, hg, hr, ht⟩ := h
  obtain ⟨ks, kg, kr, kt⟩ := k
  refine ⟨ks.trans hs, kg.trans hg, kr.trans hr, fun i => ?_⟩
  obtain ⟨b, hb⟩ := ht i
  obtain ⟨c, hc⟩ := kt i
  exact ⟨c, by rw [hc, hb, Option.map_map]; rfl⟩

theorem State.preemptFor_asks (s : State) (g : Grid) : s.Asks (s.preemptFor g) := by
  refine ⟨rfl, rfl, rfl, fun i => ?_⟩
  have hmap : (s.preemptFor g).team i = (s.team i).map _ := find?_map_of_key (fun t => by split <;> rfl) _
  rw [hmap]
  cases h : s.team i with
  | none => exact ⟨false, rfl⟩
  | some t =>
    by_cases hc : (s.preempted g s.choice).contains t.id = true
    · exact ⟨true, congrArg some (if_pos hc)⟩
    · exact ⟨t.stopAsked, congrArg some (if_neg hc)⟩

theorem State.preemptCheck_asks (s : State) : s.Asks s.preemptCheck := by
  have all (l : List Grid) (u : State) : u.Asks (l.foldl (fun u g => u.preemptFor g) u) := by
    induction l generalizing u with
    | nil => exact .refl u
    | cons g l ih => exact (u.preemptFor_asks g).trans (ih _)
  exact all s.grids s

/-! ### What placing a team leaves as it was -/

/-- The teams, grids and strands, and the rotation. -/
def State.roster (s : State) : List Team × List Grid × (Nat × Nat) × List Strand := (s.teams, s.grids, s.rotation, s.strands)

/-- The same without the strands. -/
def State.rolls (s : State) : List Team × List Grid × (Nat × Nat) := (s.teams, s.grids, s.rotation)

theorem State.rolls_of_roster {s u : State} (h : u.roster = s.roster) : u.rolls = s.rolls :=
  congrArg (fun r : List Team × List Grid × (Nat × Nat) × List Strand => (r.1, r.2.1, r.2.2.1)) h

theorem State.teams_of_roster {s u : State} (h : u.roster = s.roster) : u.teams = s.teams := congrArg Prod.fst h

theorem State.teams_of_rolls {s u : State} (h : u.rolls = s.rolls) : u.teams = s.teams := congrArg Prod.fst h

theorem State.strands_of_roster {s u : State} (h : u.roster = s.roster) : u.strands = s.strands := congrArg (fun r => r.2.2.2) h

theorem State.foldl_keeps {α β : Type} {p : State → β} {f : State → α → State} (hf : ∀ s a, p (f s a) = p s) (l : List α) (s : State) :
    p (l.foldl f s) = p s := by
  induction l generalizing s with
  | nil => rfl
  | cons a l ih => exact (ih _).trans (hf s a)

@[simp] theorem State.roster_zeroStrand (s : State) (t : Team) (st : Strand) : (s.zeroStrand t st).roster = s.roster := by
  have tiles : (st.tiles.foldl (fun s p => s.zeroTile (t.strandTower st.index) p) s).roster = s.roster := by
    apply State.foldl_keeps
    intros
    rfl
  exact tiles

@[simp] theorem State.roster_zeroBelt (s : State) (t : Team) : (s.zeroBelt t).roster = s.roster := by
  apply State.foldl_keeps
  intros
  apply State.foldl_keeps
  intros
  rfl

@[simp] theorem State.roster_zeroPlanes (s : State) (t : Team) : (s.zeroPlanes t).roster = s.roster := by
  apply State.foldl_keeps
  intros
  rfl

@[simp] theorem State.roster_replayWld (s : State) (t : Team) (tower shadow : Nat) (e : Nat × Option (Word × Word × Nat)) :
    (s.replayWld t tower shadow e).roster = s.roster := by
  unfold State.replayWld
  split
  · rfl
  · split <;> rfl

@[simp] theorem State.roster_replayClaim (s : State) (t : Team) (k : Claim) : (s.replayClaim t k).roster = s.roster := by
  unfold State.replayClaim
  dsimp only
  rw [State.foldl_keeps (fun u e => u.roster_replayWld ..), State.foldl_keeps (fun u e => u.roster_replayWld ..), State.roster_zeroPlanes]

@[simp] theorem State.roster_queueLaunches (s : State) (t : Team) : (s.queueLaunches t).roster = s.roster := by
  apply State.foldl_keeps
  intros
  rfl

@[simp] theorem State.roster_freeCore (s : State) (t : Team) (i : Nat) : (s.freeCore t i).roster = s.roster := by
  unfold State.freeCore
  dsimp only
  split <;> rfl

@[simp] theorem State.rolls_giveTiles (s : State) (t : Team) (i : Nat) : (s.giveTiles t i).rolls = s.rolls := by
  unfold State.giveTiles
  split <;> rfl

@[simp] theorem State.rolls_loadStream (s : State) (x : Context) (t : Team) (g : Grid) (i : Nat) : (s.loadStream x t g i).rolls = s.rolls := by
  unfold State.loadStream
  dsimp only
  split
  · split <;> rfl
  · split <;> rfl

@[simp] theorem State.rolls_loadTeam (s : State) (x : Context) (t : Team) (g : Grid) : (s.loadTeam x t g).rolls = s.rolls :=
  State.foldl_keeps (fun u _ => u.rolls_loadStream ..) _ s

/-! ### What placing a team changes of a strand -/

/-- Every strand stands as it was, but for the length of its stream and the tiles it has been given. -/
def State.StrandsPlaced (s u : State) : Prop :=
  ∀ team i y, s.strand team i = some y → ∃ len tiles accs, u.strand team i = some { y with len, tiles, accs }

theorem State.StrandsPlaced.of_eq {s u : State} (h : u.strands = s.strands) : s.StrandsPlaced u := by
  intro team i y hy
  refine ⟨y.len, y.tiles, y.accs, ?_⟩
  rw [State.strand, h]
  exact hy

theorem State.StrandsPlaced.trans {s u v : State} (h : s.StrandsPlaced u) (k : u.StrandsPlaced v) : s.StrandsPlaced v := by
  intro team i y hy
  obtain ⟨len, tiles, accs, hu⟩ := h team i y hy
  obtain ⟨len', tiles', accs', hv⟩ := k team i _ hu
  exact ⟨len', tiles', accs', hv⟩

theorem State.StrandsPlaced.foldl {α : Type} {f : State → α → State} (hf : ∀ (s : State) a, s.StrandsPlaced (f s a)) (l : List α) (s : State) :
    s.StrandsPlaced (l.foldl f s) := by
  induction l generalizing s with
  | nil => exact .of_eq rfl
  | cons a l ih => exact (hf s a).trans (ih _)

theorem State.StrandsPlaced.setStrand {s : State} {team i : Nat} {st : Strand} (h : s.strand team i = some st) (len : Nat) (tiles accs : List Nat) :
    s.StrandsPlaced (s.setStrand { st with len, tiles, accs }) := by
  intro team' j y hy
  rw [State.strand_setStrand hy]
  split
  · next hkey =>
    obtain ⟨hteam, hindex⟩ := State.strand_key h
    obtain rfl : st = y := Option.some.inj (h.symm.trans (by rw [← hteam, ← hindex, ← hkey.1, ← hkey.2]; exact hy))
    exact ⟨len, tiles, accs, rfl⟩
  · exact ⟨y.len, y.tiles, y.accs, rfl⟩

theorem State.giveTiles_strandsPlaced (s : State) (t : Team) (i : Nat) : s.StrandsPlaced (s.giveTiles t i) := by
  unfold State.giveTiles
  split
  · next st h => exact .setStrand h st.len _ _
  · exact .of_eq rfl

theorem State.loadStream_strandsPlaced (s : State) (x : Context) (t : Team) (g : Grid) (i : Nat) : s.StrandsPlaced (s.loadStream x t g i) := by
  unfold State.loadStream
  dsimp only
  split
  · split
    · next st h => exact (State.StrandsPlaced.of_eq rfl).trans (.setStrand h _ st.tiles st.accs)
    · exact .of_eq rfl
  · split
    · next st h => exact (State.StrandsPlaced.setStrand h _ st.tiles st.accs).trans (.of_eq rfl)
    · exact .of_eq rfl

theorem State.loadTeam_strandsPlaced (s : State) (x : Context) (t : Team) (g : Grid) : s.StrandsPlaced (s.loadTeam x t g) :=
  .foldl (fun u i => u.loadStream_strandsPlaced x t g i) _ s

/-! ### TEAM_ADMIT -/

/-- The team that a grid's next index starts as, in a place (R20, R59, R103). -/
def State.newTeam (s : State) (g : Grid) (t0 c0 : Nat) (bases : List Nat) : Team :=
  { Team.initial with
    id := s.nextId, grid := g.id, ctx := g.ctx, index := g.nextIndex s.chosen.choice, width := g.launch.wm1 + 1, t0, c0, st := .loading
    belt := g.launch.belt, beltBases := bases, ntile := g.launch.ntile, nacc := g.launch.nacc, tsec := g.launch.tsec
    tlen := g.launch.tlenm1 + 1, claims := g.launch.claims, since := s.cyc }

/-- The state that lists a new team, its strands and its index among those of its grid. -/
def State.withTeam (s : State) (g : Grid) (x : Context) (t : Team) : State :=
  ({ s.chosen.chosen with
      teams := s.teams ++ [t], strands := s.strands ++ (List.range t.width).map fun i => Strand.launched t.id i g x
      nextId := s.nextId + 1 } : State).setGrid { g with placed := t.index :: g.placed }

/-- The state in which a listed team has its tiles, its belt and its planes, all zero, and its streams. -/
def State.placedTeam (s : State) (g : Grid) (x : Context) (t : Team) : State :=
  let u := (List.range t.width).foldl (fun s i => s.giveTiles t i) s
  ((((u.teamStrands t.id).foldl (fun s st => s.zeroStrand t st) u).zeroBelt t).zeroPlanes t).loadTeam x t g

/-- The state in which a new team of a grid waits for its streams, and the grid has been served. -/
def State.admitTeam (s : State) (g : Grid) (x : Context) (t : Team) : State := ((s.withTeam g x t).placedTeam g x t).served g.id

theorem exec_teamAdmit {s : State} {g : Grid} {x : Context} {t0 c0 : Nat} {bases : List Nat} (hg : s.nextGrid = some g)
    (ht : s.nextTeam g = some none) (hx : s.context g.ctx = some x)
    (hp : (s.places g.need)[s.choice % (s.places g.need).length]? = some (t0, c0, bases)) :
    exec (.teamAdmit g.id) s = .next (s.admitTeam g x (s.newTeam g t0 c0 bases)).preemptCheck := by
  rw [exec, execTeamAdmit, hg]
  dsimp only
  rw [ht, hx]
  dsimp only
  rw [if_neg (not_not_intro rfl), hp]
  rfl

theorem State.rolls_placedTeam (s : State) (g : Grid) (x : Context) (t : Team) : (s.placedTeam g x t).rolls = s.rolls := by
  have tiles : ((List.range t.width).foldl (fun s i => s.giveTiles t i) s).rolls = s.rolls :=
    State.foldl_keeps (fun u i => u.rolls_giveTiles t i) _ s
  rw [State.placedTeam, State.rolls_loadTeam]
  refine (State.rolls_of_roster ?_).trans tiles
  rw [State.roster_zeroPlanes, State.roster_zeroBelt]
  exact State.foldl_keeps (fun u st => u.roster_zeroStrand t st) _ _

theorem State.placedTeam_strandsPlaced (s : State) (g : Grid) (x : Context) (t : Team) : s.StrandsPlaced (s.placedTeam g x t) := by
  have tiles : s.StrandsPlaced ((List.range t.width).foldl (fun s i => s.giveTiles t i) s) := .foldl (fun u i => u.giveTiles_strandsPlaced t i) _ s
  refine (tiles.trans (.of_eq (State.strands_of_roster ?_))).trans (State.loadTeam_strandsPlaced _ x t g)
  rw [State.roster_zeroPlanes, State.roster_zeroBelt]
  exact State.foldl_keeps (fun u st => u.roster_zeroStrand t st) _ _

theorem Strand.launched_arg (team i : Nat) (g : Grid) (x : Context) (k : Fin 8) : (Strand.launched team i g x).arg.get k = g.launch.args.getD k 0 :=
  Vector.get_ofFn (fun k : Fin 8 => g.launch.args.getD k.val 0) k

theorem State.team_withTeam {s : State} (g : Grid) (x : Context) {t : Team} (h : s.team t.id = none) : (s.withTeam g x t).team t.id = some t := by
  have hnone : s.teams.find? (·.id == t.id) = none := h
  simp [State.withTeam, State.team, hnone]

theorem State.strand_withTeam {s : State} (g : Grid) (x : Context) {t : Team} (h : ∀ y ∈ s.strands, y.team ≠ t.id) {i : Nat}
    (hi : i < t.width) :
    (s.withTeam g x t).strand t.id i = some (Strand.launched t.id i g x) := by
  have hold : s.strands.find? (fun y => y.team == t.id && y.index == i) = none := by
    rw [List.find?_eq_none]
    intro y hy
    simp [h y hy]
  have hnew : ((List.range t.width).map fun j => Strand.launched t.id j g x).find? (fun y => y.team == t.id && y.index == i) =
      some (Strand.launched t.id i g x) := by
    have hrange : ((List.range t.width).find? fun j => j == i) = some i :=
      List.find?_range_eq_some.mpr ⟨beq_self_eq_true i, List.mem_range.mpr hi, fun j hj => by simp [Nat.ne_of_lt hj]⟩
    rw [List.find?_map, show ((fun y : Strand => y.team == t.id && y.index == i) ∘ fun j => Strand.launched t.id j g x) = fun j => j == i from
      funext fun j => by simp [Strand.launched], hrange]
    rfl
  simp [State.withTeam, State.strand, hold, hnew]

@[simp] theorem State.served_teams (s : State) (gid : Nat) : (s.served gid).teams = s.teams := by
  unfold State.served
  split <;> rfl

@[simp] theorem State.served_strands (s : State) (gid : Nat) : (s.served gid).strands = s.strands := by
  unfold State.served
  split <;> rfl

/-- Serving a grid keeps its list of placed teams, and puts its queue last in the rotation (R104). -/
theorem State.served_placed {s : State} {g : Grid} (h : s.grid g.id = some g) :
    ((s.served g.id).grid g.id).map (·.placed) = some g.placed ∧ (s.served g.id).rotation = (g.ctx, g.queue) := by
  unfold State.served
  rw [h]
  refine ⟨?_, rfl⟩
  exact congrArg (Option.map (·.placed)) (State.grid_setGrid s
    { g with waitSince := s.cyc, due := false, zeroSince := if g.prio = 0 then some s.cyc else none } (by simp [h]))

theorem State.grid_withTeam {s : State} {g : Grid} (h : g ∈ s.grids) (x : Context) (t : Team) :
    (s.withTeam g x t).grid g.id = some { g with placed := t.index :: g.placed } := by
  have hsome := State.grid_isSome_of_mem h
  exact State.grid_setGrid _ { g with placed := t.index :: g.placed } hsome

theorem State.team_admitTeam {s : State} (g : Grid) (x : Context) {t : Team} (h : s.team t.id = none) :
    (s.admitTeam g x t).team t.id = some t := by
  rw [State.admitTeam, State.team, State.served_teams, State.teams_of_rolls (State.rolls_placedTeam ..)]
  exact State.team_withTeam g x h

theorem State.grid_admitTeam {s : State} {g : Grid} (h : g ∈ s.grids) (x : Context) (t : Team) :
    ((s.admitTeam g x t).grid g.id).map (·.placed) = some (t.index :: g.placed) ∧ (s.admitTeam g x t).rotation = (g.ctx, g.queue) := by
  have hgrids : ((s.withTeam g x t).placedTeam g x t).grids = (s.withTeam g x t).grids :=
    congrArg (fun r => r.2.1) (State.rolls_placedTeam (s.withTeam g x t) g x t)
  have hgrid : ((s.withTeam g x t).placedTeam g x t).grid g.id = some { g with placed := t.index :: g.placed } := by
    rw [State.grid, hgrids]
    exact State.grid_withTeam h x t
  exact State.served_placed (g := { g with placed := t.index :: g.placed }) hgrid

theorem State.strand_admitTeam {s : State} (g : Grid) (x : Context) {t : Team} (h : ∀ y ∈ s.strands, y.team ≠ t.id) {i : Nat}
    (hi : i < t.width) :
    ∃ len tiles accs, (s.admitTeam g x t).strand t.id i = some { Strand.launched t.id i g x with len, tiles, accs } := by
  obtain ⟨len, tiles, accs, hy⟩ := State.placedTeam_strandsPlaced (s.withTeam g x t) g x t _ _ _ (State.strand_withTeam g x h hi)
  refine ⟨len, tiles, accs, ?_⟩
  rw [State.admitTeam, State.strand, State.served_strands]
  exact hy

/-- A grid's next new team takes one of its places, and its strands are as launched (R20, R59, R103). -/
theorem teamAdmit_places {s : State} {g : Grid} {x : Context} (hg : s.nextGrid = some g) (ht : s.nextTeam g = some none)
    (hx : s.context g.ctx = some x) (hplaces : s.places g.need ≠ []) (hstrands : ∀ y ∈ s.strands, y.team ≠ s.nextId)
    (hteam : s.team s.nextId = none) :
    ∃ u t, exec (.teamAdmit g.id) s = .next u ∧ u.team s.nextId = some t ∧ t.grid = g.id ∧ t.ctx = g.ctx ∧
      t.index = g.nextIndex s.chosen.choice ∧ t.width = g.launch.wm1 + 1 ∧ t.st = .loading ∧ (t.t0, t.c0, t.beltBases) ∈ s.places g.need ∧
      t.tcyc = 0 ∧ t.claims = g.launch.claims ∧ (u.grid g.id).map (·.placed) = some (t.index :: g.placed) ∧ u.rotation = (g.ctx, g.queue) ∧
      ∀ i, i < t.width → ∃ y, u.strand s.nextId i = some y ∧ y.pc = 0 ∧ y.st = .loading ∧ y.s = Vector.replicate 64 0 ∧
        ∀ k : Fin 8, y.arg.get k = g.launch.args.getD k 0 := by
  have hlt : s.choice % (s.places g.need).length < (s.places g.need).length := Nat.mod_lt _ (List.length_pos_iff.mpr hplaces)
  obtain ⟨⟨t0, c0, bases⟩, hp⟩ : ∃ e, (s.places g.need)[s.choice % (s.places g.need).length]? = some e := ⟨_, List.getElem?_eq_getElem hlt⟩
  let t := s.newTeam g t0 c0 bases
  obtain ⟨hstrands', hgrids', hrotation', hasked⟩ := State.preemptCheck_asks (s.admitTeam g x t)
  obtain ⟨b, hb⟩ := hasked t.id
  obtain ⟨hplaced, hrotation⟩ := State.grid_admitTeam (State.nextGrid_mem hg) x t
  refine ⟨_, { t with stopAsked := b }, exec_teamAdmit hg ht hx hp, ?_, rfl, rfl, rfl, rfl, rfl, List.mem_of_getElem? hp, rfl, rfl, ?_,
    hrotation'.trans hrotation, fun i hi => ?_⟩
  · exact hb.trans (congrArg (Option.map _) (State.team_admitTeam (t := t) g x hteam))
  · rw [State.grid, hgrids']
    exact hplaced
  · obtain ⟨len, tiles, accs, hy⟩ := State.strand_admitTeam (t := t) g x hstrands hi
    refine ⟨{ Strand.launched s.nextId i g x with len, tiles, accs }, ?_, rfl, rfl, rfl, Strand.launched_arg s.nextId i g x⟩
    rw [State.strand, hstrands']
    exact hy

/-! ### TEAM_RESUME -/

/-! The storage that a restore writes, with what is written there as a variable: the kernel is not to compare it with what stood there. -/

theorem State.teams_withLines (s : State) (tiles : SMap TileLine) (scales : SMap Word) (metas : SMap Chunk) :
    ({ s with tiles, scales, metas } : State).teams = s.teams := rfl

theorem State.teams_withRing (s : State) (ring : List Host.Cell) (tags : SMap (BitVec 16)) : ({ s with ring, tags } : State).teams = s.teams := rfl

theorem State.teams_withFresh (s : State) (fresh nextId : Nat) : ({ s with fresh, nextId } : State).chosen.teams = s.teams := rfl

@[simp] theorem State.teams_restoreTiles (s : State) (x : Context) (base : Word) (t : Team) (st : Strand) :
    (s.restoreTiles x base t st).teams = s.teams := by
  refine (State.foldl_keeps (p := State.teams) (fun u e => State.foldl_keeps (fun u r => State.setAccRow_teams u _ _) _ u) _ _).trans ?_
  exact State.foldl_keeps (p := State.teams) (fun u e => State.foldl_keeps (fun u l => State.teams_withLines u _ _ _) _ u) _ _

@[simp] theorem State.teams_restoreXpc (s : State) (x : Context) (base : Word) (t : Team) (st : Strand) :
    (s.restoreXpc x base t st).teams = s.teams := by
  apply State.foldl_keeps
  intro u e
  dsimp only
  split
  · exact State.setCmd_teams u _
  · rfl

@[simp] theorem State.teams_restoreBelt (s : State) (x : Context) (base : Word) (t : Team) (i : Nat) :
    (s.restoreBelt x base t i).teams = s.teams := by
  apply State.foldl_keeps
  intro u k
  exact State.teams_withRing u _ _

/-- Of the teams, a restore changes the restored one, which stands as its header has it (R118). -/
theorem State.teams_restore (s : State) (x : Context) (base : Word) (t : Team) :
    (s.restore x base t).teams =
      (s.setTeam (t.ofHeader (s.live t.id).length fun n => ((s.savedWords x base 0 8192).map (·.1)).getD n 0)).teams := by
  unfold State.restore
  dsimp only
  rw [State.foldl_keeps (p := State.teams) (fun u k => State.teams_of_roster (u.roster_replayClaim _ k)), State.teams_withFresh,
    State.foldl_keeps (p := State.teams) (fun u i => u.teams_restoreBelt _ _ _ i),
    State.foldl_keeps (p := State.teams) (fun u st => by rw [State.teams_restoreXpc, State.teams_restoreTiles]),
    State.foldl_keeps (p := State.teams) (fun u e => State.setStrand_teams u _), State.teams_of_roster (State.roster_zeroBelt _ _),
    State.foldl_keeps (p := State.teams) (fun u st => State.teams_of_roster (u.roster_zeroStrand _ st))]

/-- A saved team in the place it resumes in, before its contents are restored (R85, R103). -/
def Team.resumed (t : Team) (s : State) (t0 c0 : Nat) (bases : List Nat) : Team :=
  { t with t0, c0, beltBases := bases, st := .loading, moved := t0 != t.t0 || c0 != t.c0, nres := (t.nres + 1) % 2 ^ 16
           since := s.cyc, records := [], nores := false }

/-- The state in which a team that resumes has its place and its tiles. -/
def State.takePlace (s : State) (y : Team) : State :=
  (List.range y.width).foldl (fun s i => s.giveTiles y i)
    ((s.chosen.setTeam y).mapStrands y.id fun z => if z.st == .retired then z else { z with st := .loading })

/-- The commands of a team that has moved run on the towers and cores of its new place. -/
def State.moveCmds (s : State) (y : Team) : State :=
  { s with cmds := s.cmds.map fun c => if c.packet.isNone && c.team == y.id then
      { c with tower := y.strandTower c.strand, core := y.physCore c.strand } else c }

theorem exec_teamResume {s : State} {g : Grid} {x : Context} {t : Team} {t0 c0 : Nat} {bases : List Nat} (hg : s.nextGrid = some g)
    (ht : s.nextTeam g = some (some t)) (hx : s.context g.ctx = some x)
    (hp : (s.places (s.teamNeed t))[s.choice % (s.places (s.teamNeed t)).length]? = some (t0, c0, bases)) :
    let y := t.resumed s t0 c0 bases
    let base := structPlus g.launch.saveaddr (t.index * t.saveSize)
    exec (.teamResume t.id) s = .next ((((((((s.takePlace y).restore x base y).moveCmds y).queueLaunches y).loadTeam x y g).served
      g.id).deviceNotes x [(base, t.saveSize)]).preemptCheck) := by
  intro y base
  rw [exec, execTeamResume, hg]
  dsimp only
  rw [ht, hx]
  dsimp only
  rw [if_neg (not_not_intro rfl), hp]
  rfl

theorem State.teams_takePlace (s : State) (y : Team) : (s.takePlace y).teams = (s.setTeam y).teams :=
  State.foldl_keeps (p := State.teams) (fun u i => State.teams_of_rolls (u.rolls_giveTiles y i)) _ _

theorem State.teams_deviceNotes (s : State) (x : Context) (l : List (Word × Nat)) : (s.deviceNotes x l).teams = s.teams := rfl

/-- A grid's saved team resumes as the header of its save area has it (R85, R103, R118). -/
theorem teamResume_restores {s : State} {g : Grid} {x : Context} {t : Team} {t0 c0 : Nat} {bases : List Nat} (hg : s.nextGrid = some g)
    (ht : s.nextTeam g = some (some t)) (hx : s.context g.ctx = some x)
    (hp : (s.places (s.teamNeed t))[s.choice % (s.places (s.teamNeed t)).length]? = some (t0, c0, bases)) :
    let y := t.resumed s t0 c0 bases
    let v := s.takePlace y
    let head := (v.savedWords x (structPlus g.launch.saveaddr (t.index * t.saveSize)) 0 8192).map (·.1)
    ∃ u b, exec (.teamResume t.id) s = .next u ∧
      u.team t.id = some { y.ofHeader (v.live t.id).length (fun n => head.getD n 0) with stopAsked := b } := by
  intro y v head
  obtain ⟨_, _, _, hasked⟩ := State.preemptCheck_asks ((((((v.restore x (structPlus g.launch.saveaddr (t.index * t.saveSize)) y).moveCmds
    y).queueLaunches y).loadTeam x y g).served g.id).deviceNotes x [(structPlus g.launch.saveaddr (t.index * t.saveSize), t.saveSize)])
  obtain ⟨b, hb⟩ := hasked t.id
  refine ⟨_, b, exec_teamResume hg ht hx hp, hb.trans ?_⟩
  have hin : (s.team t.id).isSome = true := State.team_isSome_of_mem (State.nextTeam_mem ht)
  have hy : (s.setTeam y).team y.id = some y := State.team_setTeam s y hin
  have hv : (v.team y.id).isSome = true := by
    rw [State.team, State.teams_takePlace]
    exact Option.isSome_of_eq_some hy
  have hheader : (v.setTeam (y.ofHeader (v.live t.id).length fun n => head.getD n 0)).team t.id =
      some (y.ofHeader (v.live t.id).length fun n => head.getD n 0) := State.team_setTeam v _ hv
  rw [State.team, State.teams_deviceNotes, State.served_teams, State.teams_of_rolls (State.rolls_loadTeam ..),
    State.teams_of_roster (State.roster_queueLaunches ..)]
  show Option.map _ ((v.restore x _ y).teams.find? _) = _
  rw [State.teams_restore]
  exact congrArg (Option.map _) hheader

/-! ### STREAMS_LOADED -/

theorem Claim.granted_eq (k : Claim) (tc : Nat) :
    k.granted tc = if k.st = .waiting then { k with st := .held }
      else if k.budget = .none ∧ k.st = .held then { k with budget := .paced 256 (tc + 2 ^ 20) } else k := by
  unfold Claim.granted
  split
  · next h => rw [if_pos h]
  · next hst hbudget => rw [if_neg (by simp [hst]), if_pos ⟨hbudget, hst⟩, Budget.fresh]
  · next hwaiting hheld => rw [if_neg hwaiting, if_neg fun h => hheld h.2 h.1]

/-- A team whose streams are loaded starts, and holds its claims (R59, R83, R107, R118). -/
theorem streamsLoaded_starts {s : State} {t : Team} (ht : s.team t.id = some t) (hst : t.st = .loading) :
    ∃ u, exec (.streamsLoaded t.id) s = .next u ∧
      u.strands = s.strands.map (fun x => if x.team = t.id ∧ (x.st = .loading ∨ x.st = .saved) then
        { x with st := if x.prior = .drain then .drain else .run } else x) ∧
      (u.team t.id).map (·.claims) = some (t.claims.map fun k =>
        if k.st = .waiting then { k with st := .held }
        else if k.budget = .none ∧ k.st = .held then { k with budget := .paced 256 (t.tcyc + 2 ^ 20) } else k) := by
  rw [exec, execStreamsLoaded, ht]
  refine ⟨_, if_pos (beq_iff_eq.mpr hst), List.map_congr_left fun x _ => ?_, ?_⟩
  · by_cases hteam : x.team = t.id <;> simp [hteam]
  · have hset := State.team_setTeam s { t with claims := t.claims.map (·.granted t.tcyc), yieldAt := none } (Option.isSome_of_eq_some ht)
    refine (congrArg (Option.map (·.claims)) hset).trans (congrArg some (List.map_congr_left fun k _ => ?_))
    exact k.granted_eq t.tcyc

/-! ### STRAND_RETIRE -/

/-- A strand has retired, and has left its core (R84). -/
def State.retire (s : State) (t : Team) (st : Strand) : State := (s.setStrand { st with st := .retired }).freeCore t st.index

theorem State.roster_retire (s : State) (t : Team) (st : Strand) : (s.retire t st).roster = (s.setStrand { st with st := .retired }).roster :=
  State.roster_freeCore ..

/-- The strands that go on are those of another index. -/
theorem State.mem_live_retire {s : State} {t : Team} {st : Strand} (h : s.strand t.id st.index = some st) (y : Strand) :
    y ∈ (s.retire t st).live t.id ↔ y ∈ s.live t.id ∧ y.index ≠ st.index := by
  obtain ⟨hteam, _⟩ := State.strand_key h
  have hstrands : (s.retire t st).strands = s.strands.map _ := State.strands_of_roster (s.roster_retire t st)
  simp only [State.live, State.teamStrands, List.mem_filter, hstrands, List.mem_map]
  constructor
  · rintro ⟨⟨⟨x, hx, rfl⟩, hid⟩, hst⟩
    by_cases hkey : x.team = st.team ∧ x.index = st.index
    · simp [hkey] at hst
    · rw [if_neg (by simpa using hkey)] at hid hst ⊢
      exact ⟨⟨⟨hx, hid⟩, hst⟩, fun hi => hkey ⟨(beq_iff_eq.mp hid).trans hteam.symm, hi⟩⟩
  · rintro ⟨⟨⟨hy, hid⟩, hst⟩, hindex⟩
    exact ⟨⟨⟨y, hy, if_neg (by simp [hindex])⟩, hid⟩, hst⟩

/-- One more team of a grid has finished (R85). -/
def State.countFinished (s : State) (gid : Nat) : State :=
  match s.grid gid with
  | some g => s.setGrid { g with finished := g.finished + 1 }
  | none => s

/-- The last strand of a team has retired: the team is gone, and its grid counts it. -/
def State.retireTeam (s : State) (t : Team) (st : Strand) : State :=
  ((((s.retire t st).dropTeam t).countFinished t.grid).settleWatches t.ctx).gridDone t.grid

theorem HbmOnly.roster {s u : State} (h : HbmOnly s u) : u.roster = s.roster := by
  obtain ⟨_, _, _, _, _, _, _, rfl⟩ := h
  rfl

@[simp] theorem State.roster_settleWatches (s : State) (ctx : Nat) : (s.settleWatches ctx).roster = s.roster := by
  unfold State.settleWatches
  split
  · rfl
  · exact State.foldl_keeps (p := State.roster) (fun u (w : PreemptWatch) => (counterAdd_hbmOnly u ctx w.counter 1).roster) _ _

theorem State.rolls_freeTeam (s : State) (t : Team) : (s.freeTeam t).rolls = s.rolls :=
  State.foldl_keeps (p := State.rolls) (fun u i => State.rolls_of_roster (u.roster_freeCore t i)) _ _

/-- A team that is forgotten is gone with its strands, and no grid changes. -/
theorem State.dropTeam_spec (s : State) (t : Team) :
    (s.dropTeam t).team t.id = none ∧ (∀ x ∈ (s.dropTeam t).strands, x.team ≠ t.id) ∧ (s.dropTeam t).grids = s.grids := by
  refine ⟨?_, fun x hx => ?_, ?_⟩
  · simp [State.dropTeam, State.team]
  · simpa using (List.mem_filter.mp hx).2
  · exact congrArg (fun r => r.2.1) (s.rolls_freeTeam t)

/-- The grid of a team that has finished. -/
theorem State.grid_countFinished {s : State} {gid : Nat} {g : Grid} (h : s.grid gid = some g) :
    (s.countFinished gid).grid gid = some { g with finished := g.finished + 1 } := by
  obtain rfl : g.id = gid := by simpa using List.find?_some h
  unfold State.countFinished
  rw [h]
  exact State.grid_setGrid s { g with finished := g.finished + 1 } (Option.isSome_of_eq_some h)

theorem State.countFinished_tables (s : State) (gid : Nat) :
    (s.countFinished gid).teams = s.teams ∧ (s.countFinished gid).strands = s.strands := by
  unfold State.countFinished
  split <;> exact ⟨rfl, rfl⟩

theorem State.gridDone_tables (s : State) (gid : Nat) : (s.gridDone gid).teams = s.teams ∧ (s.gridDone gid).strands = s.strands := by
  unfold State.gridDone
  split
  · split
    · exact ⟨(State.teams_of_roster (counterAdd_hbmOnly ..).roster).trans (State.setGrid_teams _ _),
        (State.strands_of_roster (counterAdd_hbmOnly ..).roster).trans (State.setGrid_strands _ _)⟩
    · exact ⟨rfl, rfl⟩
  · exact ⟨rfl, rfl⟩

/-- A grid whose teams have all finished is complete (R85, R110). -/
theorem State.grid_gridDone {s : State} {gid : Nat} {g : Grid} (h : s.grid gid = some g) :
    ((s.gridDone gid).grid gid).map (·.finished) = some g.finished ∧
      (g.live = true → g.finished = g.launch.teams → ((s.gridDone gid).grid gid).map (·.live) = some false) := by
  obtain rfl : g.id = gid := by simpa using List.find?_some h
  unfold State.gridDone
  rw [h]
  dsimp only
  split
  · have hset := State.grid_setGrid s { g with live := false, outcome := 0, end_ := s.cyc, keys := s.keysOf g.ctx } (Option.isSome_of_eq_some h)
    have hadd := congrArg (fun r => r.2.1) (counterAdd_hbmOnly
      (s.setGrid { g with live := false, outcome := 0, end_ := s.cyc, keys := s.keysOf g.ctx }) g.ctx g.launch.ccaddr 1).roster
    rw [State.grid, show (State.counterAdd _ _ _ _).grids = _ from hadd]
    exact ⟨congrArg (Option.map (·.finished)) hset, fun _ _ => congrArg (Option.map (·.live)) hset⟩
  · next hopen => exact ⟨by rw [h]; rfl, fun hlive hall => absurd (by simp [hlive, hall]) hopen⟩

/-- Of a retired strand's team only the strand changes. -/
theorem State.retire_spec {s : State} {t : Team} {st : Strand} (hs : s.strand t.id st.index = some st) :
    ((s.retire t st).strand t.id st.index).map (·.st) = some .retired ∧ (s.retire t st).teams = s.teams ∧ (s.retire t st).grids = s.grids := by
  have hroster := s.roster_retire t st
  obtain ⟨hteam, _⟩ := State.strand_key hs
  have hset := State.strand_setStrand hs { st with st := .retired }
  rw [if_pos ⟨hteam.symm, rfl⟩] at hset
  refine ⟨?_, (State.teams_of_roster hroster).trans (State.setStrand_teams s _), congrArg (fun r => r.2.1) hroster⟩
  rw [State.strand, State.strands_of_roster hroster]
  exact congrArg (Option.map (·.st)) hset

/-- A team whose last strand retires is gone with its strands, and its grid has one more that has finished. -/
theorem State.retireTeam_spec {s : State} {t : Team} {st : Strand} (hs : s.strand t.id st.index = some st) :
    (s.retireTeam t st).team t.id = none ∧ (∀ x ∈ (s.retireTeam t st).strands, x.team ≠ t.id) ∧
      ∀ g, s.grid t.grid = some g → ((s.retireTeam t st).grid t.grid).map (·.finished) = some (g.finished + 1) ∧
        (g.live = true → g.finished + 1 = g.launch.teams → ((s.retireTeam t st).grid t.grid).map (·.live) = some false) := by
  let d := (s.retire t st).dropTeam t
  let w := (d.countFinished t.grid).settleWatches t.ctx
  obtain ⟨_, _, hgrids⟩ := State.retire_spec hs
  obtain ⟨hgone, hnone, hkept⟩ := (s.retire t st).dropTeam_spec t
  obtain ⟨hcountTeams, hcountStrands⟩ := d.countFinished_tables t.grid
  obtain ⟨hdoneTeams, hdoneStrands⟩ := w.gridDone_tables t.grid
  have hw : w.roster = (d.countFinished t.grid).roster := State.roster_settleWatches _ _
  refine ⟨?_, fun x hx => hnone x ?_, fun g hg => ?_⟩
  · rw [State.retireTeam, State.team, hdoneTeams, State.teams_of_roster hw, hcountTeams]
    exact hgone
  · rwa [State.retireTeam, hdoneStrands, State.strands_of_roster hw, hcountStrands] at hx
  · have hd : d.grid t.grid = some g := by
      rw [State.grid, hkept, hgrids]
      exact hg
    refine State.grid_gridDone (s := w) (g := { g with finished := g.finished + 1 }) ?_
    rw [State.grid, show w.grids = _ from congrArg (fun r => r.2.1) hw]
    exact State.grid_countFinished hd

section
variable {s : State} {t : Team} {st : Strand} (ht : s.team t.id = some t) (hs : s.strand t.id st.index = some st) (hd : st.st = .drain)
  (hr : t.st = .resident) (he : s.drained t st = true)
include ht hs hd hr he

theorem exec_strandRetire_others (hother : ∃ x ∈ s.live t.id, x.index ≠ st.index) :
    exec (.strandRetire t.id st.index) s = .next (s.retire t st).preemptCheck := by
  obtain ⟨x, hx, hne⟩ := hother
  have hlive : ((s.retire t st).live t.id).isEmpty = false :=
    List.isEmpty_eq_false_iff.mpr (List.ne_nil_of_mem ((State.mem_live_retire hs x).mpr ⟨hx, hne⟩))
  rw [exec, execStrandRetire, ht, hs]
  refine (if_pos (by simp [hd, hr, he])).trans (if_neg ?_)
  rw [Bool.not_eq_true]
  exact hlive

theorem exec_strandRetire_last (hlast : ∀ x ∈ s.live t.id, x.index = st.index) :
    exec (.strandRetire t.id st.index) s = .next (s.retireTeam t st).preemptCheck := by
  have hlive : ((s.retire t st).live t.id).isEmpty = true := by
    refine List.isEmpty_iff.mpr (List.eq_nil_iff_forall_not_mem.mpr fun y hy => ?_)
    obtain ⟨hin, hne⟩ := (State.mem_live_retire hs y).mp hy
    exact hne (hlast y hin)
  rw [exec, execStrandRetire, ht, hs]
  exact (if_pos (by simp [hd, hr, he])).trans (if_pos hlive)

/-- A draining strand whose engines are empty retires, and the last one takes its team with it (R84, R85). -/
theorem strandRetire_retires : ∃ u, exec (.strandRetire t.id st.index) s = .next u ∧
    ((∃ x ∈ s.live t.id, x.index ≠ st.index) →
      (u.strand t.id st.index).map (·.st) = some .retired ∧ (∃ b, u.team t.id = some { t with stopAsked := b }) ∧ u.grids = s.grids) ∧
    ((∀ x ∈ s.live t.id, x.index = st.index) → u.team t.id = none ∧ (∀ x ∈ u.strands, x.team ≠ t.id) ∧
      ∀ g, s.grid t.grid = some g → (u.grid t.grid).map (·.finished) = some (g.finished + 1) ∧
        (g.live = true → g.finished + 1 = g.launch.teams → (u.grid t.grid).map (·.live) = some false)) := by
  by_cases hother : ∃ x ∈ s.live t.id, x.index ≠ st.index
  · obtain ⟨hretired, hteams, hgrids⟩ := State.retire_spec hs
    obtain ⟨hstrands, hg, _, hasked⟩ := State.preemptCheck_asks (s.retire t st)
    obtain ⟨b, hb⟩ := hasked t.id
    refine ⟨_, exec_strandRetire_others ht hs hd hr he hother, fun _ => ⟨?_, ⟨b, ?_⟩, hg.trans hgrids⟩, fun hlast => ?_⟩
    · rw [State.strand, hstrands]
      exact hretired
    · rw [hb, State.team, hteams]
      exact congrArg (Option.map _) ht
    · obtain ⟨x, hx, hne⟩ := hother
      exact absurd (hlast x hx) hne
  · have hlast : ∀ x ∈ s.live t.id, x.index = st.index := fun x hx => by_contra fun hne => hother ⟨x, hx, hne⟩
    obtain ⟨hgone, hnone, hfinished⟩ := State.retireTeam_spec hs
    obtain ⟨hstrands, hg, _, hasked⟩ := State.preemptCheck_asks (s.retireTeam t st)
    obtain ⟨b, hb⟩ := hasked t.id
    refine ⟨_, exec_strandRetire_last ht hs hd hr he hlast, fun h => absurd h hother, fun _ => ⟨?_, fun x hx => hnone x (hstrands ▸ hx), ?_⟩⟩
    · rw [hb, hgone]
      rfl
    · simpa only [State.grid, hg] using hfinished

end

/-- Settles O47: a new team and a saved one take a place, a loaded team starts, and a strand that has drained retires. -/
theorem teamPlacement : Obligations.TeamPlacement :=
  ⟨fun _ _ _ => teamAdmit_places, fun _ _ _ _ _ _ _ => teamResume_restores, fun _ _ => streamsLoaded_starts, fun _ _ _ => strandRetire_retires⟩

end Sys2Proof.Machine

/-! # O10, O11 and O13: vector arithmetic, bits, comparisons, reductions and dot products

A vector slot lists its result elements by going through lists of digits. Every such list is here the list of a function over `List.range`, so that
a slot's elements are one function of the element's number; `writesRow_of_slotDone` and `State.vecOp_writesRow` then say once what a slot with such a
list does where its sources are in order. -/

namespace Sys2Proof.Machine

open Sys2Proof.Claims

/-! ### The elements of a row -/

theorem digits_eq_map (b n x : Nat) : digits b n x = (List.range n).map fun i => x / 2 ^ (b * i) % 2 ^ b := by
  refine List.ext_getElem (by simp [digits_length]) fun i hi _ => ?_
  rw [← List.getD_eq_getElem _ 0 hi, digits_getD b n x i (by rwa [digits_length] at hi)]
  simp

theorem undigits_digit (b : Nat) (l : List Nat) (i : Nat) : undigits b l / 2 ^ (b * i) % 2 ^ b = l.getD i 0 % 2 ^ b := by
  induction l generalizing i with
  | nil => simp [undigits]
  | cons x l ih =>
    cases i with
    | zero => simp [undigits]
    | succ i =>
      have hhead : undigits b (x :: l) / 2 ^ b = undigits b l := by
        rw [undigits, Nat.add_mul_div_left _ _ (by positivity), Nat.div_eq_of_lt (Nat.mod_lt _ (by positivity)), Nat.zero_add]
      rw [show b * (i + 1) = b + b * i by ring, pow_add, ← Nat.div_div_eq_div_mul, hhead, ih]
      simp

theorem elem_lt (ty : Fmt) (r : Row) (e : Nat) : elem ty r e < 2 ^ ty.width := Nat.mod_lt _ (by positivity)

/-- Element `e` of a row stands in its 4096 bits. -/
theorem Fmt.elem_within {ty : Fmt} {e : Nat} (he : e < ty.count) : ty.width * e + ty.width ≤ 4096 :=
  calc ty.width * e + ty.width = ty.width * (e + 1) := by ring
    _ ≤ ty.width * ty.count := Nat.mul_le_mul_left _ he
    _ ≤ 4096 := Nat.mul_div_le ..

theorem elem_rowOfElems {ty : Fmt} (l : List Nat) {e : Nat} (he : e < ty.count) :
    elem ty (rowOfElems ty l) e = l.getD e 0 % 2 ^ ty.width := by
  have hwithin := Fmt.elem_within he
  have hsplit : 2 ^ 4096 = 2 ^ (ty.width * e) * 2 ^ (4096 - ty.width * e) := by rw [← pow_add]; congr 1; omega
  rw [elem, rowOfElems, BitVec.toNat_ofNat, hsplit, Nat.mod_mul_right_div_self,
    Nat.mod_mod_of_dvd _ (pow_dvd_pow 2 (show ty.width ≤ 4096 - ty.width * e by omega)), undigits_digit]

theorem rowElems_eq_map (ty : Fmt) (r : Row) : rowElems ty r = (List.range ty.count).map (elem ty r) := digits_eq_map ..

theorem State.velems_eq_map (s : State) (ty : Fmt) (n : BitVec 6) :
    s.velems ty n = (List.range ty.count).map (elem ty (s.vget n).data) := rowElems_eq_map ..

theorem State.draws_eq_map (s : State) (n : Nat) : s.draws n = (List.range n).map (drawOf s) := by
  have hdraw : drawOf s = fun e => if s.iss.st.roundMode = .sr then s.draw e else 0 := rfl
  by_cases hsr : s.iss.st.roundMode = .sr
  · simp [State.draws, hdraw, hsr]
  · simp [State.draws, hdraw, hsr]

theorem State.map1_eq_map (s : State) (d a : BitVec 6) (f : Nat → Nat) :
    s.map1 d a f = (List.range (s.vtype d).count).map fun e => f (elem (s.vtype d) (s.vget a).data e) := by
  rw [State.map1, State.velems_eq_map, List.map_map]
  rfl

theorem State.map2_eq_map (s : State) (d a b : BitVec 6) (f : Nat → Nat → Nat) :
    s.map2 d a b f = (List.range (s.vtype d).count).map fun e =>
      f (elem (s.vtype d) (s.vget a).data e) (elem (s.vtype d) (s.vget b).data e) := by
  rw [State.map2, State.velems_eq_map, State.velems_eq_map, List.zipWith_map, List.zipWith_self]

theorem State.map2r_eq_map (s : State) (d a b : BitVec 6) (f : Nat → Nat → Nat → Nat) :
    s.map2r d a b f = (List.range (s.vtype d).count).map fun e =>
      f (drawOf s e) (elem (s.vtype d) (s.vget a).data e) (elem (s.vtype d) (s.vget b).data e) := by
  rw [State.map2r, State.velems_eq_map, State.velems_eq_map, State.draws_eq_map, List.zip_map', List.zip_map', List.map_map]
  rfl

theorem zipIdx_map_range {α : Type} (f : Nat → α) (n : Nat) : ((List.range n).map f).zipIdx = (List.range n).map fun e => (f e, e) :=
  List.ext_getElem (by simp) fun i _ _ => by simp

theorem maskedElems_map_range {α : Type} (m : Mask) (id : α) (f : Nat → α) (n : Nat) :
    maskedElems m id ((List.range n).map f) = (List.range n).map fun e => if m.getLsbD e then f e else id := by
  rw [maskedElems, zipIdx_map_range, List.map_map]
  rfl

/-! ### The mask over a whole row -/

theorem maskBelow_getLsbD (m : Mask) (n e : Nat) : (maskBelow m n).getLsbD e = (m.getLsbD e && decide (e < n)) := by
  rw [maskBelow, BitVec.getLsbD_and, BitVec.getLsbD_ofNat, Nat.testBit_two_pow_sub_one]
  by_cases he : e < 512
  · simp [he]
  · simp [BitVec.getLsbD_of_ge m e (by omega)]

theorem maskBytes_maskBelow_count (m : Mask) (ty : Fmt) : maskBytes (maskBelow m ty.count) ty = maskBytes m ty := by
  refine congrArg (fun l => BitVec.ofNat 512 (undigits (ty.width / 8) l)) (List.map_congr_left fun e he => ?_)
  rw [maskBelow_getLsbD, decide_eq_true (List.mem_range.mp he), Bool.and_true]

/-! ### The checks of rows that are in order -/

theorem State.vrowCheck_eq_nil {s : State} {n : BitVec 6} (h : rowClaimed s n) : s.vrowCheck n = [] :=
  if_pos (show s.rowInClaim (s.vrow n) = true from decide_eq_true (p := s.vrow n < 128 * s.iss.tm.nacc) h)

theorem State.rowPoison_eq_nil {s : State} {n : BitVec 6} (h : (s.vget n).pois = 0) : s.rowPoison n = [] := if_pos h

theorem State.typeCheck_eq_nil {s : State} {ty : Fmt} {n : BitVec 6} (h : s.vtype n = ty) : s.typeCheck ty n = [] := if_pos h

theorem State.rowCheck_eq_nil {s : State} {n : BitVec 6} (h : rowSound s n) : s.rowCheck (s.vrow n) = [] := by
  have hok : rowOk (s.iss.st.rowType (s.vrow n)) (s.rowOf (s.vrow n)).data (s.rowOf (s.vrow n)).ck (s.iss.st.acktol.extractLsb' 0 32) = true := h
  rw [State.rowCheck, if_pos hok, ite_self]

section
variable {s : State} {ty : Fmt} {n : BitVec 6} (h : source s ty n)
include h

theorem State.vtype_of_source : s.vtype n = ty := by
  obtain ⟨_, htype, _, _⟩ := h
  exact htype

theorem State.rowCheck_of_source : s.rowCheck (s.vrow n) = [] := by
  obtain ⟨_, _, _, hsound⟩ := h
  exact State.rowCheck_eq_nil hsound

/-- A source in order raises none of the checks a slot makes of it whatever its guard is. -/
theorem State.srcChecks_eq_nil : s.srcChecks n = [] := by
  obtain ⟨hclaim, _, hpois, _⟩ := h
  rw [State.srcChecks, State.vrowCheck_eq_nil hclaim, State.rowPoison_eq_nil hpois, List.append_nil]

/-- A source in order raises none of the checks a slot makes of it where its guard is true. -/
theorem State.liveChecks_eq_nil : s.typeCheck ty n ++ s.rowCheck (s.vrow n) = [] := by
  rw [State.typeCheck_eq_nil (State.vtype_of_source h), State.rowCheck_of_source h, List.append_nil]

end

/-! ### What a vector slot does where its sources are in order -/

/-- A slot that raises nothing and whose row result lists `f` over the first `n` elements, `f` being `g` in the bits of an element. -/
theorem writesRow_of_slotDone {s : State} {i : Instr} {L : Nat} {d : BitVec 6} {n : Nat} {pois : BitVec 8} {more : List Effect}
    {f g : Nat → Nat} {checks live : List Raised} (hg : s.iss.guard = true) (hn : n ≤ (s.vtype d).count)
    (hchecks : checks = []) (hlive : live = [])
    (hexec : exec i s = .next (s.slotDone checks live (s.rowEffect L d (rowOfElems (s.vtype d) ((List.range n).map f))
      (maskBytes (maskBelow s.iss.st.maskTop n) (s.vtype d)) pois :: more)))
    (hfg : ∀ e, f e % 2 ^ (s.vtype d).width = g e % 2 ^ (s.vtype d).width) :
    writesRow s i L d n pois more g := by
  refine ⟨rowOfElems (s.vtype d) ((List.range n).map f), ?_, fun e he => ?_⟩
  · rw [hexec, State.slotDone_of_guard hg, hchecks, hlive]
    rfl
  · rw [elem_rowOfElems _ (he.trans_le hn), ← hfg]
    simp [he]

section
variable {s : State} {i : Instr} {L : Nat} {d a b : BitVec 6} {more : List Effect} {g : Nat → Nat} (hg : s.iss.guard = true) (hd : rowClaimed s d)
include hg hd

/-- The common form of R467. -/
theorem State.vecOp_writesRow {srcs : List (BitVec 6)} {f : Nat → Nat} (hsrcs : ∀ v ∈ srcs, source s (s.vtype d) v)
    (hexec : exec i s = s.vecOp L d srcs [] ((List.range (s.vtype d).count).map f) more)
    (hfg : ∀ e, f e % 2 ^ (s.vtype d).width = g e % 2 ^ (s.vtype d).width) :
    writesRow s i L d (s.vtype d).count 0 more g := by
  refine writesRow_of_slotDone hg le_rfl ?_ ?_ (hexec.trans ?_) hfg (checks := s.vrowCheck d ++ srcs.flatMap s.srcChecks ++ [])
    (live := srcs.flatMap fun v => s.typeCheck (s.vtype d) v ++ s.rowCheck (s.vrow v))
  · rw [State.vrowCheck_eq_nil hd, List.flatMap_eq_nil_iff.mpr fun v hv => State.srcChecks_eq_nil (hsrcs v hv)]
    rfl
  · exact List.flatMap_eq_nil_iff.mpr fun v hv => State.liveChecks_eq_nil (hsrcs v hv)
  · rw [maskBytes_maskBelow_count]
    rfl

variable (ha : source s (s.vtype d) a)
include ha

/-- One source, element by element. -/
theorem State.map1_writesRow {f : Nat → Nat} (hexec : exec i s = s.vecOp L d [a] [] (s.map1 d a f) more)
    (hfg : ∀ e, f (elem (s.vtype d) (s.vget a).data e) % 2 ^ (s.vtype d).width = g e % 2 ^ (s.vtype d).width) :
    writesRow s i L d (s.vtype d).count 0 more g :=
  State.vecOp_writesRow hg hd (by simpa using ha) (s.map1_eq_map d a f ▸ hexec) hfg

variable (hb : source s (s.vtype d) b)
include hb

/-- Two sources, element by element. -/
theorem State.map2_writesRow {f : Nat → Nat → Nat} (hexec : exec i s = s.vecOp L d [a, b] [] (s.map2 d a b f) more)
    (hfg : ∀ e, f (elem (s.vtype d) (s.vget a).data e) (elem (s.vtype d) (s.vget b).data e) % 2 ^ (s.vtype d).width =
      g e % 2 ^ (s.vtype d).width) :
    writesRow s i L d (s.vtype d).count 0 more g :=
  State.vecOp_writesRow hg hd (by simpa using ⟨ha, hb⟩) (s.map2_eq_map d a b f ▸ hexec) hfg

/-- Two sources with the draw of each element. -/
theorem State.map2r_writesRow {f : Nat → Nat → Nat → Nat} (hexec : exec i s = s.vecOp L d [a, b] [] (s.map2r d a b f) more)
    (hfg : ∀ e, f (drawOf s e) (elem (s.vtype d) (s.vget a).data e) (elem (s.vtype d) (s.vget b).data e) % 2 ^ (s.vtype d).width =
      g e % 2 ^ (s.vtype d).width) :
    writesRow s i L d (s.vtype d).count 0 more g :=
  State.vecOp_writesRow hg hd (by simpa using ⟨ha, hb⟩) (s.map2r_eq_map d a b f ▸ hexec) hfg

end

/-! ### O10: arithmetic -/

/-- VFMA carries two elements of at most 32 bits in one number: the elements it computes are those of the three rows. -/
theorem State.fmaElems_eq_map (s : State) (d a b : BitVec 6) (f : Nat → Nat → Nat → Nat → Nat) :
    (((s.velems (s.vtype d) d).zip (s.map2 d a b fun x y => x + 2 ^ 32 * y)).zip (s.draws (s.vtype d).count)).map
        (fun e => f e.2 (e.1.2 % 2 ^ 32) (e.1.2 / 2 ^ 32) e.1.1) =
      (List.range (s.vtype d).count).map fun e => f (drawOf s e) (elem (s.vtype d) (s.vget a).data e)
        (elem (s.vtype d) (s.vget b).data e) (elem (s.vtype d) (s.vget d).data e) := by
  rw [State.velems_eq_map, State.map2_eq_map, State.draws_eq_map, List.zip_map', List.zip_map', List.map_map]
  refine List.map_congr_left fun e _ => ?_
  have hx : elem (s.vtype d) (s.vget a).data e < 2 ^ 32 :=
    (elem_lt ..).trans_le (Nat.pow_le_pow_right (by decide) (by cases s.vtype d <;> decide))
  dsimp only [Function.comp]
  rw [Nat.add_mul_mod_self_left, Nat.mod_eq_of_lt hx, Nat.add_mul_div_left _ _ (by decide), Nat.div_eq_of_lt hx, Nat.zero_add]

theorem State.scaleElems_eq_map (s : State) (d a : BitVec 6) (f : Nat → Nat → Nat) :
    List.zipWith f (s.draws (s.vtype d).count) (s.velems (s.vtype d) a) =
      (List.range (s.vtype d).count).map fun e => f (drawOf s e) (elem (s.vtype d) (s.vget a).data e) := by
  rw [State.velems_eq_map, State.draws_eq_map, List.zipWith_map, List.zipWith_self]

/-- Settles O10: each form by the function that its elements are listed with. -/
theorem vectorArithmetic : Obligations.VectorArithmetic := by
  intro s d a b hg hd
  dsimp only
  refine fun ha => ⟨?_, ?_, fun hb => ?_, fun hb => ⟨?_, ?_, ?_, fun hold => ?_⟩⟩
  · exact State.map1_writesRow hg hd ha rfl fun _ => rfl
  · exact State.map1_writesRow hg hd ha rfl fun _ => rfl
  · refine State.vecOp_writesRow (srcs := [a]) hg hd (by simpa using ha) ?_ fun _ => rfl
    rw [exec, execVscale, State.poisonChecks_nil s [b] (List.forall_mem_singleton.mpr hb), State.scaleElems_eq_map]
    rfl
  · exact State.map2r_writesRow hg hd ha hb rfl fun _ => rfl
  · exact State.map2r_writesRow hg hd ha hb rfl fun _ => rfl
  · exact State.map2r_writesRow hg hd ha hb rfl fun _ => rfl
  · refine State.vecOp_writesRow (srcs := [a, b, d]) hg hd (by simpa using ⟨ha, hb, hold⟩) ?_ fun _ => rfl
    rw [exec, execVfma]
    exact congrArg (s.vecOp 5 d [a, b, d] [] · s.srEffect) (s.fmaElems_eq_map d a b fun r x y c =>
      s.arith d r (Num.sum s.iss.st.roundMode [((s.vtype d).decode x).mul ((s.vtype d).decode y), (s.vtype d).decode c]))

/-! ### O11: bits, comparisons and choices -/

theorem vectorLogic : VectorLogic := by
  intro s d a b k hg hd
  dsimp only
  refine fun ha => ⟨?_, ?_, ?_, fun hb => ⟨?_, ?_, ?_⟩⟩
  · exact State.map1_writesRow hg hd ha rfl fun _ => Nat.mod_mod ..
  · exact State.map1_writesRow hg hd ha rfl fun _ => rfl
  · exact State.map1_writesRow hg hd ha rfl fun _ => rfl
  · exact State.map2_writesRow hg hd ha hb rfl fun _ => rfl
  · exact State.map2_writesRow hg hd ha hb rfl fun _ => rfl
  · exact State.map2_writesRow hg hd ha hb rfl fun _ => rfl

theorem State.clampElems_eq_map (s : State) (ty : Fmt) (d a b : BitVec 6) (f g : Nat → Nat → Nat) :
    List.zipWith f (List.zipWith g (s.velems ty d) (s.velems ty a)) (s.velems ty b) = (List.range ty.count).map fun e =>
      f (g (elem ty (s.vget d).data e) (elem ty (s.vget a).data e)) (elem ty (s.vget b).data e) := by
  rw [State.velems_eq_map, State.velems_eq_map, State.velems_eq_map, List.zipWith_map, List.zipWith_self, List.zipWith_map, List.zipWith_self]

theorem vectorComparisons : VectorComparisons := by
  intro s d a b hg hd
  dsimp only
  refine fun ha hb => ⟨?_, ?_, ?_, ?_, ?_, ?_, fun hold => ?_⟩
  iterate 6 exact State.map2_writesRow hg hd ha hb rfl fun _ => rfl
  refine State.vecOp_writesRow (srcs := [a, b, d]) hg hd (by simpa using ⟨ha, hb, hold⟩) ?_ fun _ => rfl
  rw [exec, execVclamp, State.clampElems_eq_map]

/-- Settles O11: the forms on bits, and those that compare and choose. -/
theorem vectorLogicAndComparisons : Obligations.VectorLogicAndComparisons := ⟨vectorLogic, vectorComparisons⟩

/-! ### O13: the reductions -/

theorem State.redOp_eq_writesS {s : State} {ty : Fmt} {a : BitVec 6} (hg : s.iss.guard = true) (ha : source s ty a) (d : BitVec 6) (v : Word) :
    s.redOp d a v = writesS s [] 8 d v := by
  have hchecks : s.vrowCheck a ++ s.rowPoison a = [] := State.srcChecks_eq_nil ha
  rw [State.redOp, State.slotDone_of_guard hg, hchecks, State.rowCheck_of_source ha]
  rfl

theorem vectorReductions : VectorReductions := by
  intro s d a hg
  dsimp only
  refine fun ha => ⟨fun hint => ?_, fun hfloat => ?_, State.redOp_eq_writesS hg ha d _, State.redOp_eq_writesS hg ha d _⟩
  · rw [exec, execVredsSum, State.redOp_eq_writesS hg ha, hint, if_neg Bool.false_ne_true, State.velems_eq_map, List.map_map,
      maskedElems_map_range, ← List.sum_eq_foldl]
    rfl
  · rw [exec, execVredsSum, State.redOp_eq_writesS hg ha, hfloat, if_pos rfl, State.velems_eq_map, List.map_map, maskedElems_map_range]
    rfl

/-! ### O13: the dot products -/

/-- The digits from `k` on, `t` of them. -/
theorem take_drop_digits (w : Nat) {n k t : Nat} (x : Nat) (h : k + t ≤ n) :
    ((digits w n x).drop k).take t = (List.range t).map fun j => x / 2 ^ (w * (k + j)) % 2 ^ w := by
  rw [digits_eq_map]
  exact List.ext_getElem (by simp; omega) fun i _ _ => by simp

/-- An operand of a dot product, in the words of the statement. -/
def dotField (w : Nat) (u : BitVec 1) (x k : Nat) : Int :=
  let y := x / 2 ^ (w * k) % 2 ^ w
  if u = 1#1 then y else signed w y

/-- The addend and the products of the fields of one element of a dot product. -/
def dotSum (w t : Nat) (ua ub : BitVec 1) (c x y k : Nat) : Int :=
  signed 32 c + ((List.range t).map fun j => dotField w ua x (k + j) * dotField w ub y (k + j)).sum

theorem dotElem_eq_dotSum (w : Nat) (sat : Bool) (ua ub : BitVec 1) (c x y : Nat) {n k t : Nat} (h : k + t ≤ n) :
    dotElem w sat (ua == 1#1) (ub == 1#1) c (((digits w n x).drop k).take t) (((digits w n y).drop k).take t) =
      intResult 32 sat (dotSum w t ua ub c x y k) := by
  have hfold (l : List Int) : l.foldl (· + ·) (signed 32 c) = signed 32 c + l.sum := by
    rw [List.sum_eq_foldl, ← List.foldl_assoc (op := fun p q : Int => p + q), Int.add_zero]
  rw [dotElem, take_drop_digits w x h, take_drop_digits w y h, List.zipWith_map, List.zipWith_self, hfold]
  simp only [dotSum, dotField, beq_iff_eq]

/-- The elements that a dot product lists. -/
theorem State.dotElems_eq_map (s : State) (w t : Nat) (sat : Bool) (ua ub : BitVec 1) (d a b : BitVec 6) :
    ((rowElems .i32 (s.vget d).data).zipIdx.map fun e => dotElem w sat (ua == 1#1) (ub == 1#1) e.1
        (((digits w (128 * t) (s.vget a).data.toNat).drop (t * e.2)).take t)
        (((digits w (128 * t) (s.vget b).data.toNat).drop (t * e.2)).take t)) =
      (List.range 128).map fun e => intResult 32 sat
        (dotSum w t ua ub (elem .i32 (s.vget d).data e) (s.vget a).data.toNat (s.vget b).data.toNat (t * e)) := by
  rw [rowElems_eq_map, zipIdx_map_range, List.map_map]
  refine List.map_congr_left fun e he => dotElem_eq_dotSum w sat ua ub _ _ _ ?_
  have hlt : e < 128 := List.mem_range.mp he
  calc t * e + t = (e + 1) * t := by ring
    _ ≤ 128 * t := Nat.mul_le_mul_right t hlt

theorem State.dotOp_writesRow {s : State} {i : Instr} {w t : Nat} {sat ua ub : BitVec 1} {d a b : BitVec 6} (hg : s.iss.guard = true)
    (hd : source s .i32 d) (ha : source s (s.vtype a) a) (hb : source s (s.vtype b) b) (hexec : exec i s = s.dotOp w t sat ua ub d a b) :
    writesRow s i 5 d 128 0 [] fun e => intResult 32 (sat == 1#1)
      (dotSum w t ua ub (elem .i32 (s.vget d).data e) (s.vget a).data.toNat (s.vget b).data.toNat (t * e)) := by
  have htype : s.vtype d = .i32 := State.vtype_of_source hd
  refine writesRow_of_slotDone hg (htype ▸ le_rfl) ?_ ?_ (hexec.trans ?_) (fun _ => rfl) (checks := s.srcChecks d ++ [a, b].flatMap s.srcChecks)
    (live := s.typeCheck .i32 d ++ [d, a, b].flatMap fun v => s.rowCheck (s.vrow v))
  · simp [State.srcChecks_eq_nil hd, State.srcChecks_eq_nil ha, State.srcChecks_eq_nil hb]
  · simp [State.typeCheck_eq_nil htype, State.rowCheck_of_source hd, State.rowCheck_of_source ha, State.rowCheck_of_source hb]
  · rw [State.dotOp, htype, State.dotElems_eq_map, ← maskBytes_maskBelow_count]
    rfl

theorem dotProducts : DotProducts := by
  intro s sat ua ub d a b hg hd ha hb
  exact ⟨State.dotOp_writesRow hg hd ha hb rfl, State.dotOp_writesRow hg hd ha hb rfl⟩

/-- Settles O13: the reductions and the dot products. -/
theorem reductionsAndDotProducts : Obligations.ReductionsAndDotProducts := ⟨vectorReductions, dotProducts⟩

end Sys2Proof.Machine

/-! # O38: the state after reset, and a strand after its launch -/

namespace Sys2Proof.Machine

open Sys2Proof.Claims

theorem State.reset_tower (i : Nat) : State.reset.tower i = Tower.cold := Vector.get_replicate ..

theorem State.reset_core (i : Nat) : State.reset.core i = Core.cold := Vector.get_replicate ..

theorem resetState : ResetState := by
  refine ⟨rfl, rfl, rfl, rfl, rfl, rfl, rfl, rfl, rfl, rfl, rfl, rfl, rfl, rfl, rfl, fun i => ?_, fun i => ?_⟩
  · rw [State.reset_tower]
    exact ⟨rfl, rfl⟩
  · rw [State.reset_core]
    exact ⟨rfl, rfl⟩

theorem Strand.launched_token (team i : Nat) (g : Grid) (x : Context) (n : Nat) : (Strand.launched team i g x).token n = Token.launch :=
  Vector.get_replicate ..

theorem launchRegisters : LaunchRegisters := by
  intro team i g x
  refine ⟨rfl, rfl, rfl, rfl, rfl, rfl, rfl, rfl, rfl, rfl, rfl, rfl, rfl, rfl, fun n => ?_, fun n => ?_, fun n => ?_, fun n => ?_, fun n => ?_,
    rfl, rfl, Strand.launched_arg team i g x⟩
  · rw [Strand.launched_token]
    exact ⟨rfl, rfl⟩
  · exact Vector.get_replicate ..
  · exact Vector.get_replicate ..
  · exact Vector.get_replicate ..
  · exact congrArg QvSlot.st (Vector.get_replicate ..)

/-- Settles O38: the reset state field by field, and a launched strand register by register. -/
theorem resetAndLaunch : Obligations.ResetAndLaunch := ⟨resetState, launchRegisters⟩

end Sys2Proof.Machine

/-! # O6, O8, O9 and O15: loops, modes, waits and masks as they issue -/

namespace Sys2Proof.Machine

open Sys2Proof.Claims

/-! ### The slot being issued, in the words of the statements -/

theorem State.isTimed_eq_timed (s : State) : s.isTimed = timed s := rfl

theorem failed_badInstr (s : State) (bad : Bool) : failed [(bad, s.badInstr)] = noInstrIf s bad := by
  cases bad <;> rfl

theorem failed_waitFault (s : State) (cause : Nat) (bad : Bool) : failed [(bad, s.waitFault cause)] = lateIf s cause bad := by
  cases bad <;> rfl

theorem isPending_eq_tokenPending (s : State) (t : BitVec 6) : s.iss.st.isPending t.toNat = tokenPending s t := by
  have hzero : (t.toNat != 0) = (t != 0) := by
    rw [Bool.eq_iff_iff, bne_iff_ne, bne_iff_ne, ne_eq, ne_eq, BitVec.toNat_eq]
    rfl
  rw [Strand.isPending, hzero]
  rfl

/-- An unsigned immediate, with none, one and two prefixes (R320). -/
theorem State.imm_of_unsignedImm {s : State} {w : Nat} {own : BitVec w} {v : Word} (hv : unsignedImm s own v) (hlen : s.iss.pfx.length ≤ 2) :
    s.imm own.toNat w false false = v := by
  obtain ⟨hnone, hone, htwo⟩ := hv
  have himm : s.imm own.toNat w false false = BitVec.ofNat 64 (immBits own.toNat w s.iss.pfx) := by simp [State.imm]
  rw [himm]
  match hp : s.iss.pfx with
  | [] => rw [hnone hp, immBits_nil, BitVec.zeroExtend, BitVec.ofNat_toNat]
  | [p] => rw [hone p hp, immBits_append, BitVec.zeroExtend, BitVec.ofNat_toNat]
  | [p, q] => rw [htwo p q hp, immBits_append₂, BitVec.zeroExtend, BitVec.ofNat_toNat]
  | _ :: _ :: _ :: _ => simp [hp] at hlen

/-! ### O6: loops -/

theorem State.loopOp_of_guard {s : State} (hg : s.iss.guard = true) (n : Nat) (m : BitVec 12) (poison : List Raised) :
    let depth := s.iss.st.loops.length
    let body := s.afterBundles s.iss.core s.iss.st.len (nextBundle s) (m.toNat + 1)
    s.loopOp n m poison = .next (slotRan s
      (illegalIf s (decide (2 ^ 32 ≤ n) || body.isNone) ++ poison ++ illegalIf s (decide (4 ≤ depth) || leavesLoop s (body.getD 0)))
      (if n = 0 then [.emptyLoop depth (body.getD 0) 0]
       else [.openLoop { lc := depth, first := nextBundle s, after := body.getD 0, count := n, index := 0 }])) := by
  dsimp only
  rw [State.loopOp, State.slotDone_of_guard hg, failed_badOperand, failed_badOperand, leavesLoop]
  cases s.iss.st.loops <;> rfl

/-- Settles O6: both forms are `State.loopOp` with the count read. -/
theorem loops : Obligations.Loops := by
  intro s m hg
  refine ⟨fun a => State.loopOp_of_guard hg _ m _, fun i v hv hlen => ?_⟩
  rw [exec, execLoopi, State.imm_of_unsignedImm hv hlen]
  exact State.loopOp_of_guard hg _ m []

/-! ### O8: modes and barriers -/

theorem State.timedOp_of_guard {s : State} (hg : s.iss.guard = true) (v : Nat) (poison : List Raised) :
    s.timedOp v poison = .next (slotRan s (poison ++ noInstrIf s (!s.iss.tm.tsec)) [.timed v]) := by
  rw [State.timedOp, State.slotDone_of_guard hg, failed_badInstr]

/-- Settles O8: each form by what its slot checks and does. -/
theorem modesAndBarriers : Obligations.ModesAndBarriers := by
  intro s hg
  refine ⟨?_, ?_, ?_, fun i v hv hlen => ?_, fun a => State.timedOp_of_guard hg _ _, fun g => ?_, fun g => ?_⟩
  · rw [exec, execPaced, State.slotDone_of_guard hg, List.append_nil]
  · rw [exec, execEndStrand, State.slotDone_of_guard hg, List.append_nil]
  · rw [exec, execYield, State.slotDone_of_guard hg, List.append_nil]
  · rw [exec, execTimedImm, State.imm_of_unsignedImm hv hlen, State.timedOp_of_guard hg, List.nil_append]
  · rw [exec, execBarr, if_neg (by decide), State.slotDone_of_guard hg, List.append_nil]
  · rw [exec, execBarr, if_pos (by decide), State.slotDone_of_guard hg, failed_cons, failed_cons, failed_nil, List.append_nil]
    rfl

/-! ### O9: waits -/

theorem tokenAndHandleWaits : TokenAndHandleWaits := by
  intro s hg
  refine ⟨fun a b c => ?_, fun e h => ?_⟩
  · rw [exec, execTwait, State.slotDone_of_guard hg, failed_waitFault]
    simp only [isPending_eq_tokenPending]
    rfl
  · rw [exec, execHwait, State.slotDone_of_guard hg, failed_waitFault]
    rfl

/-- A granule that nothing has written for 256 cycles holds the one value that a timed WAITC may find (log 16). -/
theorem State.counterPasses_of_unwritten {s : State} {ctx : Nat} {addr target : Word} {g v : Nat}
    (hplace : s.counterPlace ctx addr = .ok (.page g v)) (hrecent : ∀ e ∈ s.recent, e.1 ≠ g) :
    s.counterPasses ctx addr target = .ok (decide (target.toNat ≤ counterWord addr v)) := by
  have hpast : (s.recent.filter fun e => e.1 == g && decide (s.cyc < e.2.1 + 256)) = [] :=
    List.filter_eq_nil_iff.mpr fun e he => by simp [hrecent e he]
  rw [State.counterPasses, hplace]
  simp only [hpast, List.map_nil, List.nil_append, List.headD_cons, List.any_cons, List.any_nil, Bool.or_false]
  cases decide (target.toNat ≤ counterWord addr v) <;> rfl

theorem counterWaits : CounterWaits := by
  intro s a b hg
  have hchecks : failed [(wbits (s.iss.st.sreg a) 20 44 % 8 != 0, s.badOperand)] ++ s.poisonChecks [a, b] =
      illegalIf s (wbits (reg s a) 20 44 % 8 != 0) ++ consumed s [a, b] := by rw [failed_badOperand]; rfl
  refine ⟨fun hpaced => ?_, fun htimed met hmet => ?_, fun htimed r hr => ?_, fun g v => State.counterPasses_of_unwritten⟩
  · rw [exec, execWaitc, hchecks, State.isTimed_eq_timed, if_neg (Bool.eq_false_iff.mp hpaced), State.slotDone_of_guard hg, List.append_nil]
    rfl
  · rw [exec, execWaitc, hchecks, State.isTimed_eq_timed, if_pos htimed, sreg_eq_reg, sreg_eq_reg, hmet]
    dsimp only
    rw [State.slotDone_of_guard hg, failed_waitFault]
  · rw [exec, execWaitc, hchecks, State.isTimed_eq_timed, if_pos htimed, sreg_eq_reg, sreg_eq_reg, hr]
    dsimp only
    rw [State.slotDone_of_guard hg, List.append_nil]

/-- Settles O9: the three waits. -/
theorem waits : Obligations.Waits := ⟨tokenAndHandleWaits, counterWaits⟩

/-! ### O15: the mask stack -/

theorem State.maskOp_of_guard {s : State} (hg : s.iss.guard = true) (htwice : s.maskTwice = false) (bad : Bool) (stack : List Mask) :
    s.maskOp [] [] bad stack = .next (slotRan s (illegalIf s bad) [.setMask stack]) := by
  rw [State.maskOp, State.slotDone_of_guard hg, htwice, failed_badOperand, failed_badOperand, illegalIf_false, List.append_nil, List.append_nil,
    List.nil_append]

/-- The mask that MPUSH makes of a row: its non-zero elements under a mask. -/
def pushedMask (s : State) (a : BitVec 6) : Mask :=
  BitVec.ofNat 512 (undigits 1 ((s.velems (s.vtype a) a).map fun x => if x = 0 then 0 else 1)) &&& s.iss.st.maskTop

theorem execMpush_of_source {s : State} (hg : s.iss.guard = true) (htwice : s.maskTwice = false) {a : BitVec 6} (ha : source s (s.vtype a) a) :
    exec (.mpush a) s = .next (slotRan s (illegalIf s (decide (8 ≤ s.iss.st.masks.length))) [.setMask (pushedMask s a :: s.iss.st.masks)]) := by
  have hchecks : s.vrowCheck a ++ s.rowPoison a = [] := State.srcChecks_eq_nil ha
  rw [exec, execMpush, hchecks, State.rowCheck_of_source ha]
  exact State.maskOp_of_guard hg htwice _ _

theorem undigits_testBit (l : List Nat) (i : Nat) : (undigits 1 l).testBit i = decide (l.getD i 0 % 2 = 1) := by
  have hdigit := undigits_digit 1 l i
  rw [Nat.one_mul, pow_one] at hdigit
  rw [Nat.testBit_eq_decide_div_mod_eq, hdigit]

theorem pushedMask_getLsbD (s : State) {a : BitVec 6} {e : Nat} (he : e < (s.vtype a).count) :
    (pushedMask s a).getLsbD e = (s.iss.st.maskTop.getLsbD e && elem (s.vtype a) (s.vget a).data e != 0) := by
  by_cases hwithin : e < 512
  · rw [pushedMask, BitVec.getLsbD_and, Bool.and_comm, BitVec.getLsbD_ofNat, undigits_testBit, State.velems_eq_map, List.map_map]
    by_cases hx : elem (s.vtype a) (s.vget a).data e = 0 <;> simp [hwithin, he, hx]
  · rw [BitVec.getLsbD_of_ge _ e (by omega), BitVec.getLsbD_of_ge _ e (by omega), Bool.false_and]

theorem execMinv_of_cons {s : State} (hg : s.iss.guard = true) (htwice : s.maskTwice = false) {m : Mask} {l : List Mask}
    (hmasks : s.iss.st.masks = m :: l) :
    exec .minv s = .next (slotRan s [] [.setMask ((~~~m &&& l.headD (BitVec.allOnes 512)) :: l)]) := by
  rw [exec, execMinv, hmasks]
  cases l with
  | nil =>
    rw [List.headD_nil, BitVec.and_allOnes]
    exact State.maskOp_of_guard hg htwice false _
  | cons b l => exact State.maskOp_of_guard hg htwice false _

theorem maskStack : MaskStack := by
  intro s hg htwice
  refine ⟨fun a ha hroom => ⟨pushedMask s a, ?_, fun e he => pushedMask_getLsbD s he⟩, fun m l hmasks => ⟨?_, ?_⟩, fun a hfull ha => ?_, fun hempty => ?_⟩
  · rw [execMpush_of_source hg htwice ha, decide_eq_false (by omega), illegalIf_false]
  · rw [exec, execMpop, State.maskOp_of_guard hg htwice, hmasks, List.isEmpty_cons, illegalIf_false, List.tail_cons]
  · exact execMinv_of_cons hg htwice hmasks
  · exact ⟨_, execMpush_of_source hg htwice ha, by rw [decide_eq_true hfull]; rfl⟩
  · have hpop : exec .mpop s = .next (slotRan s (illegalIf s true) [.setMask []]) := by
      rw [exec, execMpop, hempty]
      exact State.maskOp_of_guard hg htwice true []
    have hinv : exec .minv s = .next (slotRan s (illegalIf s true) [.setMask []]) := by
      rw [exec, execMinv, hempty]
      exact State.maskOp_of_guard hg htwice true []
    exact ⟨_, _, hpop, rfl, hinv, rfl⟩

/-! ### O15: VSKIP -/

theorem maskBelow_eq_zero (m : Mask) (n : Nat) : (maskBelow m n == 0) = decide (∀ e, e < n → m.getLsbD e = false) := by
  rw [Bool.eq_iff_iff, beq_iff_eq, decide_eq_true_iff]
  constructor
  · intro hzero e he
    have hbit := maskBelow_getLsbD m n e
    rw [hzero, decide_eq_true he, Bool.and_true] at hbit
    exact hbit.symm.trans BitVec.getLsbD_zero
  · intro hoff
    refine BitVec.eq_of_getLsbD_eq fun e _ => ?_
    rw [maskBelow_getLsbD, show BitVec.getLsbD (0 : Mask) e = false from BitVec.getLsbD_zero]
    by_cases he : e < n
    · rw [hoff e he, Bool.false_and]
    · rw [decide_eq_false he, Bool.and_false]

theorem execVskip_of_guard {s : State} (hg : s.iss.guard = true) (n : BitVec 12) :
    let region := s.afterBundles s.iss.core s.iss.st.len (nextBundle s) (n.toNat + 1)
    exec (.vskip n) s = .next (slotRan s
      (illegalIf s (region.isNone || !s.rowInClaim (s.vrow 0) ||
        s.loopPast s.iss.core s.iss.st.len (region.getD 0) (nextBundle s) (n.toNat + 1)) ++ illegalIf s (leavesLoop s (region.getD 0)))
      (if maskBelow s.iss.st.maskTop (s.vtype 0).count == 0 then (if timed s then [.nulls (n.toNat + 1)] else [.skip (region.getD 0)]) else [])) := by
  dsimp only
  rw [exec, execVskip, State.slotDone_of_guard hg, failed_badOperand, failed_badOperand, leavesLoop]
  cases s.iss.st.loops <;> rfl

theorem vskip : Vskip := by
  intro s n stop hg hregion hclaim hpast hinside
  have hrow : s.rowInClaim (s.vrow 0) = true := decide_eq_true hclaim
  dsimp only
  rw [execVskip_of_guard hg, hregion, Option.getD_some, hrow, hpast, hinside, maskBelow_eq_zero]
  rfl

/-- Settles O15: the mask stack and VSKIP. -/
theorem masksAndSkips : Obligations.MasksAndSkips := ⟨maskStack, vskip⟩

end Sys2Proof.Machine

/-! # O7, O31, O32 and O34: the ends of loops, the bundle that follows, and results as they commit -/

namespace Sys2Proof.Machine

open Sys2Proof.Claims

/-! ### O7: rounds of a loop -/

theorem loopEnd_elsewhere {f : LoopFrame} (fs : List LoopFrame) {e : Nat} (lc : Vector (BitVec 32) 4) (h : f.after ≠ e) :
    loopEnd (f :: fs) e lc = (e, f :: fs, lc) := by
  rw [loopEnd, if_pos h]

theorem loopEnd_goesRound {f : LoopFrame} (fs : List LoopFrame) (lc : Vector (BitVec 32) 4) (h : f.index + 1 < f.count) :
    loopEnd (f :: fs) f.after lc =
      (f.first, { f with index := f.index + 1 } :: fs, lc.setIfInBounds f.lc (BitVec.ofNat 32 (f.index + 1))) := by
  rw [loopEnd, if_neg (by simp), if_pos h]

theorem loopEnd_ends {f : LoopFrame} (fs : List LoopFrame) (lc : Vector (BitVec 32) 4) (h : f.count ≤ f.index + 1) :
    loopEnd (f :: fs) f.after lc = loopEnd fs f.after (lc.setIfInBounds f.lc (BitVec.ofNat 32 f.count)) := by
  rw [loopEnd, if_neg (by simp), if_neg (by omega)]

theorem loopEnds : LoopEnds := by
  intro f fs e lc
  refine ⟨loopEnd_elsewhere fs lc, ?_, ?_⟩
  · rintro rfl
    exact loopEnd_goesRound fs lc
  · rintro rfl
    exact loopEnd_ends fs lc

/-- One end of the body of `f`, as `LoopCounts` repeats it. -/
def loopRound (f : LoopFrame) (x : Nat × List LoopFrame × Vector (BitVec 32) 4) : Nat × List LoopFrame × Vector (BitVec 32) 4 :=
  loopEnd x.2.1 f.after x.2.2

/-- Before its last end, the loop stands open with the number of the ends so far as its index. -/
theorem loopRound_iterate {f : LoopFrame} (hindex : f.index = 0) (lc : Vector (BitVec 32) 4) {k : Nat} (hk : k < f.count) :
    ∃ lc', (loopRound f)^[k] (f.first, [f], lc) = (f.first, [{ f with index := k }], lc') := by
  induction k with
  | zero => exact ⟨lc, by rw [Function.iterate_zero_apply, ← hindex]⟩
  | succ k ih =>
    obtain ⟨lc', hbefore⟩ := ih (by omega)
    exact ⟨_, by rw [Function.iterate_succ_apply', hbefore]; exact loopEnd_goesRound (f := { f with index := k }) [] lc' hk⟩

theorem loopCounts : LoopCounts := by
  intro f lc k hindex hk
  obtain ⟨n, hn⟩ : ∃ n, f.count = n + 1 := ⟨f.count - 1, by omega⟩
  obtain ⟨_, hopen⟩ := loopRound_iterate hindex lc hk
  obtain ⟨lc', hlast⟩ := loopRound_iterate hindex lc (show n < f.count by omega)
  have hend : (loopRound f)^[f.count] (f.first, [f], lc) = (f.after, [], lc'.setIfInBounds f.lc (BitVec.ofNat 32 f.count)) := by
    rw [hn, Function.iterate_succ_apply', hlast, ← hn]
    exact loopEnd_ends (f := { f with index := n }) [] lc' hn.le
  exact ⟨congrArg (·.2.1) hopen, congrArg (·.2.1) hend, congrArg (·.1) hend⟩

/-- Settles O7: the three cases of a body's end, and the rounds by induction on their number. -/
theorem loopRounds : Obligations.LoopRounds := ⟨loopEnds, loopCounts⟩

/-! ### O34: the bundle that follows -/

/-- Going on after a bundle changes the strand's place, and what holds it and counts its cycles. -/
theorem Strand.follow_frame (st : Strand) (b : Issue) : ∃ pc loops lc, st.follow b =
    { st with pc, loops, lc, st := .run, waits := [], back := none, qlossHeld := false, nextIssue := b.tm.tcyc + 1 + b.idle, nulls := st.nulls - 1 } := by
  unfold Strand.follow
  dsimp only
  split
  next x hx =>
    obtain ⟨e, -, he⟩ := List.exists_of_findSome?_eq_some hx
    split at he
    all_goals cases he
    all_goals exact ⟨_, _, _, rfl⟩
  next => exact ⟨_, _, _, rfl⟩

/-- A bundle none of whose effects moves the strand is followed by what its end leads to. -/
theorem Strand.follow_of_plain {st : Strand} {b : Issue} (hjump : ∀ e ∈ b.effects, ∀ x, e.2 ≠ .jump x ∧ e.2 ≠ .skip x)
    (hopen : ∀ e ∈ b.effects, ∀ f, e.2 ≠ .openLoop f) (hempty : ∀ e ∈ b.effects, ∀ k a v, e.2 ≠ .emptyLoop k a v) :
    ((st.follow b).pc, (st.follow b).loops, (st.follow b).lc) = loopEnd st.loops (b.pc + 4 * b.words.length) st.lc := by
  unfold Strand.follow
  dsimp only
  split
  next x hx =>
    obtain ⟨e, hmem, he⟩ := List.exists_of_findSome?_eq_some hx
    split at he
    next t heq => exact absurd heq (hjump e hmem t).1
    next t heq => exact absurd heq (hjump e hmem t).2
    next f heq => exact absurd heq (hopen e hmem f)
    next k a v heq => exact absurd heq (hempty e hmem k a v)
    next => cases he
  next => rfl

theorem mem_loopsAt {fs : List LoopFrame} {target : Nat} {f : LoopFrame} (h : f ∈ loopsAt fs target) : f ∈ fs ∧ f.first ≤ target ∧ target < f.after := by
  simpa [loopsAt] using h

/-- Settles O34: a bundle that moves its strand nowhere, one that jumps, and what any bundle leaves alone. -/
protected theorem nextBundle : Obligations.NextBundle := by
  intro st b
  refine ⟨fun hjump hopen hempty hloops => ?_, fun x k heff => ?_, ?_⟩
  · have hplace := Strand.follow_of_plain (st := st) hjump hopen hempty
    rw [hloops] at hplace
    simpa [loopEnd] using hplace
  · have hfollow : (st.follow b).pc = x ∧ (st.follow b).loops = loopsAt st.loops x := by
      rw [Strand.follow, heff]
      exact ⟨rfl, rfl⟩
    obtain ⟨hpc, hloops⟩ := hfollow
    exact ⟨hpc, fun f hf => mem_loopsAt (hloops ▸ hf)⟩
  · obtain ⟨pc, loops, lc, hfollow⟩ := st.follow_frame b
    rw [hfollow]
    exact ⟨rfl, rfl, rfl, rfl, rfl⟩

/-! ### O31: scalar results -/

theorem get_set_ofNat {α : Type} {n : Nat} [NeZero n] (xs : Vector α n) (i j : Nat) (x : α) :
    (xs.set (Fin.ofNat n i) x).get (Fin.ofNat n j) = if i % n = j % n then x else xs.get (Fin.ofNat n j) :=
  Vector.getElem_set (Fin.ofNat n i).isLt (Fin.ofNat n j).isLt

/-- Registers of two numbers are the same place of their file only where the numbers are the same. -/
theorem register_place_eq {w n : Nat} (hn : n = 2 ^ w) (d e : BitVec w) : d.toNat % n = e.toNat % n ↔ e = d := by
  rw [hn, Nat.mod_eq_of_lt d.isLt, Nat.mod_eq_of_lt e.isLt, ← BitVec.toNat_eq, eq_comm]

theorem Strand.sreg_setSreg (x : Strand) (d e : BitVec 6) (v : Word) (p : Bool) :
    (x.setSreg d v p).sreg e = if e = d ∧ d ≠ 0 then v else x.sreg e := by
  by_cases hzero : d = 0
  · rw [hzero, Strand.setSreg_zero, if_neg (by simp)]
  · by_cases he : e = d
    · rw [he, Strand.sreg_setSreg_same x d v p hzero, if_pos ⟨rfl, hzero⟩]
    · rw [Strand.sreg_setSreg_ne x d e v p he, if_neg (by simp [he])]

theorem Strand.spoisoned_setSreg (x : Strand) (d e : BitVec 6) (v : Word) (p : Bool) :
    (x.setSreg d v p).spoisoned e = if e = d ∧ d ≠ 0 then p else x.spoisoned e := by
  by_cases hzero : d = 0
  · rw [hzero, Strand.setSreg_zero, if_neg (by simp)]
  · rw [Strand.setSreg, if_neg hzero, Strand.spoisoned, get_set_ofNat, if_congr (register_place_eq (show 64 = 2 ^ 6 from rfl) d e) rfl rfl]
    by_cases he : e = d
    · simp [he, show ¬d = 0#6 from hzero]
    · simp [he, Strand.spoisoned]

theorem Strand.preg_setPreg (x : Strand) (d e : BitVec 3) (v : Bool) :
    (x.setPreg d v).preg e = if e = d ∧ d ≠ 0 then v else x.preg e := by
  by_cases hzero : d = 0
  · rw [hzero, Strand.setPreg_zero, if_neg (by simp)]
  · rw [Strand.setPreg, if_neg hzero, Strand.preg, get_set_ofNat, if_congr (register_place_eq (show 8 = 2 ^ 3 from rfl) d e) rfl rfl]
    by_cases he : e = d
    · simp [he, show ¬d = 0#3 from hzero]
    · simp [he, Strand.preg]

/-- The strand that a strand in its place is changed to stands there. -/
theorem State.strand_setStrand_self {s : State} {team i : Nat} {y z : Strand} (h : s.strand team i = some y) (hteam : z.team = y.team)
    (hindex : z.index = y.index) : (s.setStrand z).strand team i = some z := by
  obtain ⟨rfl, rfl⟩ := State.strand_key h
  rw [State.strand_setStrand h, if_pos ⟨hteam.symm, hindex.symm⟩]

theorem State.commitResult_sreg {s : State} {t : Team} {st x : Strand} (d : BitVec 6) (v : Word) (p : Bool) (h : s.strand t.id st.index = some x) :
    s.commitResult t st (.sreg d v p) = s.setStrand (x.setSreg d v p) := by
  simp only [State.commitResult, h]

theorem State.commitResult_preg {s : State} {t : Team} {st x : Strand} (d : BitVec 3) (v : Bool) (h : s.strand t.id st.index = some x) :
    s.commitResult t st (.preg d v) = s.setStrand (x.setPreg d v) := by
  simp only [State.commitResult, h]

/-- Settles O31: a result in flight, the strand it commits to, and the registers after that. -/
theorem scalarResults : Obligations.ScalarResults := by
  refine ⟨fun st b L d v p => rfl, fun s t st x d v p h => ?_, fun s t st x d v h => ?_, fun x d e v p => ?_, fun x d e v => ?_,
    fun x => ⟨rfl, rfl, rfl⟩⟩
  · rw [State.commitResult_sreg d v p h]
    exact State.strand_setStrand_self h (x.setSreg_team d v p) (x.setSreg_index d v p)
  · rw [State.commitResult_preg d v h]
    exact State.strand_setStrand_self h (x.setPreg_team d v) (x.setPreg_index d v)
  · exact ⟨x.sreg_setSreg d e v p, x.spoisoned_setSreg d e v p, x.setSreg_p d v p⟩
  · exact ⟨x.preg_setPreg d e v, x.setPreg_s d v⟩

/-! ### O32: row results -/

/-- Byte `i` of a row of bytes. -/
theorem rowOfBytes_byte (l : List Byte) {i : Nat} (hi : i < 512) : (rowOfBytes l).extractLsb' (8 * i) 8 = l.getD i 0 := by
  have helem : elem .i8 (rowOfBytes l) i = (l.map BitVec.toNat).getD i 0 % 2 ^ 8 := elem_rowOfElems (ty := .i8) _ hi
  refine BitVec.eq_of_toNat_eq ?_
  rw [BitVec.extractLsb'_toNat, Nat.shiftRight_eq_div_pow]
  refine helem.trans ?_
  rw [show (0 : Nat) = BitVec.toNat (0 : Byte) from rfl, List.getD_map, Nat.mod_eq_of_lt (BitVec.isLt _)]

theorem mergeBytes_byte (old new : Row) (m : Mask) {i : Nat} (hi : i < 512) :
    (mergeBytes old new m).extractLsb' (8 * i) 8 = if m.getLsbD i then new.extractLsb' (8 * i) 8 else old.extractLsb' (8 * i) 8 := by
  rw [mergeBytes, rowOfBytes_byte _ hi]
  simp [hi]

theorem mergePois_getLsbD (old new : BitVec 8) (m : Mask) {c : Nat} (hc : c < 8) :
    (mergePois old new m).getLsbD c = ((new.getLsbD c && maskSome m c) || (!maskWhole m c && old.getLsbD c)) := by
  have hbit : ∀ written whole old : Bool,
      decide ((if written then 1 else if whole then 0 else old.toNat) % 2 = 1) = (written || (!whole && old)) := by decide
  rw [← hbit, mergePois, BitVec.getLsbD_ofNat, undigits_testBit, decide_eq_true hc, Bool.true_and, List.getD_eq_getElem _ _ (by simpa using hc),
    List.getElem_map, List.getElem_range]

/-- Settles O32: the row is read back after its write, byte by byte and chunk by chunk. -/
theorem rowResults : Obligations.RowResults := by
  intro s t st rho data m pois hwf hfree
  have hwrite : s.writeRow t st rho data m pois = (s.setAccRow (rowKey t st rho)
      ((s.accRow (rowKey t st rho)).write (st.rowType rho) data m pois)).mapSamples fun x => x.disturb t.id st.index (rho / 128) := by
    rw [State.writeRow, if_neg (Bool.eq_false_iff.mp hfree)]
  have hrow : (s.writeRow t st rho data m pois).accRow (rowKey t st rho) = (s.accRow (rowKey t st rho)).write (st.rowType rho) data m pois := by
    rw [hwrite]
    exact SMap.get_set_same _ _ 0 _ _ hwf
  dsimp only
  rw [hrow]
  refine ⟨fun i hi => mergeBytes_byte _ _ _ hi, rfl, fun c hc => mergePois_getLsbD _ _ _ hc, fun k hk => ?_, ?_⟩
  · rw [hwrite]
    exact SMap.get_set_ne _ _ _ _ _ hk
  · rw [hwrite]
    exact ⟨rfl, rfl, rfl⟩

end Sys2Proof.Machine

/-! # O22, O23 and O24: engine commands as they issue and as they enter -/

namespace Sys2Proof.Machine

open Sys2Proof.Claims

/-! ### The issue of a command -/

/-- The DEPS of a slot name the token it produces (R371). -/
def depsName (s : State) (t : BitVec 6) : Prop := ∃ a b c, s.iss.deps = some (a, b, c) ∧ (t = a ∨ t = b ∨ t = c)

theorem newCmd_deps_contains {s : State} {t : BitVec 6} (ht : t ≠ 0) (op : CmdOp) (n : Nat) (w0 w1 w2 : Word) :
    (s.newCmd op n w0 w1 w2).deps.contains t.toNat = true ↔ depsName s t := by
  have hnat (a : BitVec 6) : t.toNat = a.toNat ↔ t = a := BitVec.toNat_inj
  have hpos : t.toNat ≠ 0 := fun h => ht (BitVec.eq_of_toNat_eq h)
  have hdeps : (s.newCmd op n w0 w1 w2).deps =
      (s.iss.deps.elim [] fun d => [d.1.toNat, d.2.1.toNat, d.2.2.toNat].filter (· != 0)) := by
    unfold State.newCmd
    cases s.iss.deps <;> rfl
  rw [hdeps, depsName]
  cases s.iss.deps with
  | none => simp
  | some d =>
    obtain ⟨a, b, c⟩ := d
    simp [hpos, hnat]

/-- Token 0 is the zero of its field. -/
theorem toNat_ne_zero_iff (t : BitVec 6) : (t.toNat != 0) = true ↔ t ≠ 0 := by
  rw [bne_iff_ne, ne_eq, ne_eq, BitVec.toNat_eq]
  rfl

/-- A produced token that the slot's own DEPS name, as the issue of a command asks for it. -/
theorem ownToken_iff (s : State) (t : BitVec 6) (op : CmdOp) (n : Nat) (w0 w1 w2 : Word) :
    (t.toNat != 0 && (s.newCmd op n w0 w1 w2).deps.contains t.toNat) = true ↔ t ≠ 0 ∧ depsName s t := by
  rw [Bool.and_eq_true, toNat_ne_zero_iff]
  exact and_congr_right fun ht => newCmd_deps_contains ht op n w0 w1 w2

section
variable {s : State} {op : CmdOp} {t : BitVec 6} (h : tokenFree s op t)
include h

theorem busyToken_of_tokenFree : (s.iss.st.isPending t.toNat && (s.continued op t.toNat).isNone) = false := by
  obtain ⟨-, hpending, -, -⟩ := h
  rw [isPending_eq_tokenPending, hpending, Bool.false_and]

theorem ownToken_of_tokenFree (w0 w1 w2 : Word) : (t.toNat != 0 && (s.newCmd op t.toNat w0 w1 w2).deps.contains t.toNat) = false := by
  obtain ⟨-, -, hdeps, -⟩ := h
  refine Bool.eq_false_iff.mpr fun hown => ?_
  obtain ⟨ht, a, b, c, hnamed, hone⟩ := (ownToken_iff s t op _ w0 w1 w2).mp hown
  obtain ⟨ha, hb, hc⟩ := hdeps ht a b c hnamed
  exact hone.elim ha fun hone => hone.elim hb hc

theorem shortToken_of_tokenFree :
    (t.toNat == 0 && (s.continued op t.toNat).isNone && decide (64 < s.iss.st.tokenless + s.tokenlessNeed)) = false := by
  obtain ⟨-, -, -, hroom⟩ := h
  by_cases ht : t = 0
  · simp [Nat.not_lt.mpr (hroom ht)]
  · rw [show (t.toNat == 0) = false from Bool.eq_false_iff.mpr fun hz => (bne_iff_ne.mp ((toNat_ne_zero_iff t).mpr ht)) (beq_iff_eq.mp hz),
      Bool.false_and, Bool.false_and]

/-- A command whose token is free issues with its checks and acts. -/
theorem State.engineIssue_of_tokenFree (hg : s.iss.guard = true) (w0 w1 w2 : Word) (checks live : List Raised) (more : List Effect) :
    s.engineIssue op t w0 w1 w2 checks live more = issues s op t w0 w1 w2 (checks ++ live) more := by
  rw [State.engineIssue, if_pos hg, busyToken_of_tokenFree h, ownToken_of_tokenFree h, shortToken_of_tokenFree h]
  simp only [Bool.false_and, Bool.false_eq_true, if_false]
  rw [State.slotDone_of_guard hg]
  simp only [failed_cons, failed_nil, Bool.false_eq_true, if_false, List.append_nil]
  rfl

end

/-! ### O22: transfer, near-memory, collective and handle commands -/

/-- The commands of two words: a check of their operands, and both registers consumed. -/
theorem State.engineIssue_of_operands {s : State} {op : CmdOp} {t : BitVec 6} (h : tokenFree s op t) (hg : s.iss.guard = true) (w0 w1 w2 : Word)
    (bad : Bool) (srcs : List (BitVec 6)) :
    s.engineIssue op t w0 w1 w2 (failed [(bad, s.badOperand)] ++ s.poisonChecks srcs) [] [] =
      issues s op t w0 w1 w2 (illegalIf s bad ++ consumed s srcs) [] := by
  rw [State.engineIssue_of_tokenFree h hg, failed_badOperand, State.poisonChecks_eq_consumed, List.append_nil]

theorem scatFmt_eq_zero_iff (w : Word) : scatFmt w = 0 ↔ wbits w 59 2 = 3 := by
  have htype : wbits w 59 2 < 4 := Nat.mod_lt _ (by decide)
  obtain h | h | h | h : wbits w 59 2 = 0 ∨ wbits w 59 2 = 1 ∨ wbits w 59 2 = 2 ∨ wbits w 59 2 = 3 := by omega
  all_goals simp [scatFmt, h]

/-- The check of SCAT, in the words of the statement: its operation, its type, its reserved bits and its two addresses. -/
theorem scat_bad_iff (w : Word) :
    (decide (3 ≤ scatOp w) || scatFmt w == 0 || wbits w 62 2 != 0 || wbits w 0 28 % 4 != 0 ||
      (scatFmt w != 0 && wbits w 28 28 % codeBytes (scatFmt w) != 0)) = false ↔
    wbits w 56 3 < 3 ∧ wbits w 59 2 ≠ 3 ∧ wbits w 62 2 = 0 ∧ wbits w 0 28 % 4 = 0 ∧ wbits w 28 28 % codeBytes (scatFmt w) = 0 := by
  rw [ne_eq, ← scatFmt_eq_zero_iff]
  rw [Bool.or_eq_false_iff, Bool.or_eq_false_iff, Bool.or_eq_false_iff, Bool.or_eq_false_iff, decide_eq_false_iff_not, Nat.not_le, scatOp]
  by_cases hfmt : scatFmt w = 0 <;> simp [hfmt, and_assoc]

/-- Settles O22: every command of the family issues with its operand checks and the registers it consumes. -/
theorem transferCommandsIssue : Obligations.TransferCommandsIssue := by
  intro s t a b hg
  dsimp only
  refine ⟨fun h => ?_, fun h => ?_, fun h => ?_, fun h => ⟨_, ?_, scat_bad_iff _⟩, fun h => ?_, fun h => ?_, fun h => ?_, fun h => ?_,
    fun h => ?_, fun h => ?_, fun h => ?_, fun h => ?_, fun h => ?_, fun h htimed hother => ?_⟩
  iterate 11 exact State.engineIssue_of_operands h hg _ _ _ _ _
  · rw [exec, execLaunch, State.engineIssue_of_tokenFree h hg, List.append_nil]
    rfl
  · exact State.engineIssue_of_operands h hg _ _ _ _ _
  · rw [exec, execProbe, State.pacedOnly, State.isTimed_eq_timed, htimed, hother]
    exact State.engineIssue_of_operands h hg _ _ _ _ _

/-! ### O23: cube, fabric and lease commands -/

theorem State.cubeOp_of_tokenFree {s : State} {op : CmdOp} {t : BitVec 6} (h : tokenFree s op t) (hg : s.iss.guard = true) (a b : BitVec 6) :
    s.cubeOp op t a b = issues s op t (reg s a) (reg s b) 0 (s.cubeChecks op (reg s a) (reg s b) ++ consumed s [a, b])
      (if (op == .cube || op == .cubeh) && wbits (reg s a) 27 3 == 4 then [.stochastic] else []) := by
  rw [State.cubeOp, State.engineIssue_of_tokenFree h hg, List.append_nil]
  rfl

theorem cubeCommandsIssue : CubeCommandsIssue := by
  intro s t a b hg
  refine ⟨fun h => ?_, fun h => ?_, fun h => ?_, fun h => ?_, fun h => ?_⟩
  · refine (State.cubeOp_of_tokenFree h hg a b).trans ?_
    simp
  · refine (State.cubeOp_of_tokenFree h hg a b).trans ?_
    simp
  iterate 3 exact State.cubeOp_of_tokenFree h hg a b

theorem bandBad_eq (w : Word) : bandBad w = (wbits w 18 46 != 0 || wbits w 0 16 == 0) := by
  have hmask : bandMask w = 0 ↔ wbits w 0 16 = 0 := by
    rw [BitVec.toNat_eq, bandMask, BitVec.extractLsb'_toNat, Nat.shiftRight_eq_div_pow]
    rfl
  rw [bandBad, Bool.beq_eq_decide_eq, Bool.beq_eq_decide_eq, decide_eq_decide.mpr hmask]

theorem fabricAndLeaseCommandsIssue : FabricAndLeaseCommandsIssue := by
  intro s t a b hg
  dsimp only
  refine ⟨fun h => ?_, fun h => ?_, fun h => ?_, fun h => ?_, fun h => ?_, fun h => ?_, fun h => ?_⟩
  · rw [exec, execFsend, State.engineIssue_of_tokenFree h hg, failed_badOperand, failed_cons, failed_nil]
    simp only [List.append_nil, decide_eq_true_eq]
    rfl
  iterate 4 exact State.engineIssue_of_operands h hg _ _ _ _ _
  · rw [← bandBad_eq]
    exact State.engineIssue_of_operands h hg _ _ _ _ _
  · rw [← bandBad_eq, exec, execLease, State.engineIssue_of_tokenFree h hg, failed_badOperand, failed_waitFault]
    rfl

/-- Settles O23: the cube commands, and those of the fabric and the leases. -/
theorem cubeFabricAndLeaseIssue : Obligations.CubeFabricAndLeaseIssue := ⟨cubeCommandsIssue, fabricAndLeaseCommandsIssue⟩

end Sys2Proof.Machine

/-! # O29 and O30: what a slot by itself can do

Every slot that is no prefix ends in `State.slotDone` (`EndsSlot`) or issues an engine command (`IssuesCommand`), and what it raises whatever its
guard is names no fault of class SCHEDULE (R69). -/

namespace Sys2Proof.Machine

open Sys2Proof.Claims

/-! ### Checks that are made whatever the guard is -/

/-- No fault of a list is of class SCHEDULE (R279). -/
def NoSchedule (l : List Raised) : Prop := ∀ r ∈ l, r.cause.code.1 ≠ 1

@[simp] theorem noSchedule_nil : NoSchedule [] := fun _ h => absurd h List.not_mem_nil
@[simp] theorem noSchedule_append (l m : List Raised) : NoSchedule (l ++ m) ↔ NoSchedule l ∧ NoSchedule m := List.forall_mem_append
@[simp] theorem noSchedule_cons (r : Raised) (l : List Raised) : NoSchedule (r :: l) ↔ r.cause.code.1 ≠ 1 ∧ NoSchedule l := List.forall_mem_cons

theorem noSchedule_ite {c : Prop} [Decidable c] {l m : List Raised} (hl : NoSchedule l) (hm : NoSchedule m) : NoSchedule (if c then l else m) := by
  split
  · exact hl
  · exact hm

@[simp] theorem State.badOperand_code (s : State) : s.badOperand.cause.code = (4, 3) := rfl

@[simp] theorem noSchedule_failed_badOperand (s : State) (bad : Bool) : NoSchedule (failed [(bad, s.badOperand)]) := by
  cases bad <;> simp [failed_cons]

@[simp] theorem State.noSchedule_poisonChecks (s : State) (l : List (BitVec 6)) : NoSchedule (s.poisonChecks l) := by
  intro r hr
  obtain ⟨d, -, rfl⟩ := List.mem_map.mp hr
  exact show (2 : Nat) ≠ 1 by decide

@[simp] theorem State.noSchedule_vrowCheck (s : State) (n : BitVec 6) : NoSchedule (s.vrowCheck n) := noSchedule_ite (by simp) (by simp)
@[simp] theorem State.noSchedule_accCheck (s : State) (n : BitVec 6) : NoSchedule (s.accCheck n) := noSchedule_ite (by simp) (by simp)
@[simp] theorem State.noSchedule_tagOperand (s : State) (ea : Word) : NoSchedule (s.tagOperand ea) := noSchedule_ite (by simp) (by simp)
@[simp] theorem State.noSchedule_rowPoison (s : State) (n : BitVec 6) : NoSchedule (s.rowPoison n) :=
  noSchedule_ite (by simp) (by simp [State.poisonUse, State.fault, Cause.code])
@[simp] theorem State.noSchedule_srcChecks (s : State) (n : BitVec 6) : NoSchedule (s.srcChecks n) := by simp [State.srcChecks]
@[simp] theorem State.noSchedule_targetChecks (s : State) (t : Int) : NoSchedule (s.targetChecks t) := by simp [State.targetChecks]
@[simp] theorem State.noSchedule_probeChecks (s : State) (a : BitVec 6) : NoSchedule (s.probeChecks a) := by simp [State.probeChecks]
@[simp] theorem State.noSchedule_cubeChecks (s : State) (op : CmdOp) (cw bw : Word) : NoSchedule (s.cubeChecks op cw bw) := by
  simp [State.cubeChecks]

@[simp] theorem State.noSchedule_ringChecks (s : State) (ea : Word) (size : Nat) : NoSchedule (s.ringChecks ea size) :=
  noSchedule_ite (by simp [State.fault, Cause.code]) (noSchedule_ite (by simp) (by simp))

@[simp] theorem State.noSchedule_diagChecks (s : State) (ea : Word) : NoSchedule (s.diagChecks ea) :=
  noSchedule_ite (by simp [State.fault, Cause.code]) (noSchedule_ite (by simp) (by simp))

/-! ### Slots that are no engine commands -/

/-- The slot ends with its checks and its acts recorded. -/
def EndsSlot (s : State) (o : Out) : Prop := ∃ checks live effects, o = .next (s.slotDone checks live effects) ∧ NoSchedule checks

theorem endsSlot_next {s : State} {checks live : List Raised} {effects : List Effect} (h : NoSchedule checks) :
    EndsSlot s (.next (s.slotDone checks live effects)) := ⟨checks, live, effects, rfl, h⟩

theorem endsSlot_execBarr (x : BitVec 1) (g : BitVec 8) (s : State) : EndsSlot s (execBarr x g s) := by
  unfold execBarr
  split
  · exact endsSlot_next noSchedule_nil
  · exact endsSlot_next noSchedule_nil

theorem endsSlot_execWaitc (a b : BitVec 6) (s : State) : EndsSlot s (execWaitc a b s) := by
  unfold execWaitc
  dsimp only
  split
  · split
    · exact endsSlot_next (by simp)
    · exact endsSlot_next (by simp)
  · exact endsSlot_next (by simp)

theorem endsSlot_execQpush (e n : BitVec 1) (m : BitVec 2) (a : BitVec 6) (s : State) : EndsSlot s (execQpush e n m a s) := by
  unfold execQpush
  dsimp only
  split
  · exact endsSlot_next (by simp)
  · exact endsSlot_next (by simp)
  · split
    · exact endsSlot_next (by simp)
    · exact endsSlot_next (by simpa using noSchedule_ite (by simp) (by simp))

theorem endsSlot_execQpop (d : BitVec 6) (m : BitVec 3) (s : State) : EndsSlot s (execQpop d m s) := by
  unfold execQpop
  dsimp only
  split
  · split
    · split
      · exact endsSlot_next (by simp)
      · exact endsSlot_next (by simp)
    · exact endsSlot_next (by simp)
  · split
    · exact endsSlot_next (by simp)
    · exact endsSlot_next (by simp)

theorem endsSlot_execMinv (s : State) : EndsSlot s (execMinv s) := by
  unfold execMinv
  split
  · exact endsSlot_next (by simp)
  · exact endsSlot_next (by simp)
  · exact endsSlot_next (by simp)

/-- A slot that is neither a prefix nor an engine command. -/
theorem endsSlot_exec {i : Instr} (hslot : (encodeInstr i).isSome = true) (hprefix : isPrefix i = false) (htoken : engineToken i = none)
    (s : State) : EndsSlot s (exec i s) := by
  cases i <;> cases hslot <;> cases hprefix <;> cases htoken
  case barr x g => exact endsSlot_execBarr x g s
  case waitc a b => exact endsSlot_execWaitc a b s
  case qpush e n m a => exact endsSlot_execQpush e n m a s
  case qpop d m => exact endsSlot_execQpop d m s
  case minv => exact endsSlot_execMinv s
  all_goals exact endsSlot_next (by simp)

/-! ### Engine commands -/

/-- The slot issues an engine command that produces token `t`. -/
def IssuesCommand (s : State) (t : BitVec 6) (o : Out) : Prop :=
  ∃ op w0 w1 w2 checks live more, o = s.engineIssue op t w0 w1 w2 checks live more ∧ NoSchedule checks

theorem issuesCommand_engineIssue {s : State} {op : CmdOp} {t : BitVec 6} {w0 w1 w2 : Word} {checks live : List Raised} {more : List Effect}
    (h : NoSchedule checks) : IssuesCommand s t (s.engineIssue op t w0 w1 w2 checks live more) := ⟨op, w0, w1, w2, checks, live, more, rfl, h⟩

theorem issuesCommand_execProbe (t a : BitVec 6) (s : State) : IssuesCommand s t (execProbe t a s) := by
  refine issuesCommand_engineIssue ((noSchedule_append _ _).mpr ⟨?_, s.noSchedule_probeChecks a⟩)
  split
  · simp
  · exact noSchedule_nil

theorem issuesCommand_exec {i : Instr} {t : BitVec 6} (htoken : engineToken i = some t) (s : State) : IssuesCommand s t (exec i s) := by
  cases i <;> cases htoken
  case probe a => exact issuesCommand_execProbe t a s
  all_goals exact issuesCommand_engineIssue (by simp)

/-- A command's slot whose guard is true ends like any other slot: its checks, and the one of a busy token, come first. -/
theorem State.engineIssue_guarded {s : State} (hg : s.iss.guard = true) (op : CmdOp) (t : BitVec 6) (w0 w1 w2 : Word) (checks live : List Raised)
    (more : List Effect) : ∃ live' effects, s.engineIssue op t w0 w1 w2 checks live more = .next (s.slotDone
      (checks ++ illegalIf s (s.iss.st.isPending t.toNat && (s.continued op t.toNat).isNone)) live' effects) := by
  rw [State.engineIssue, if_pos hg, failed_badOperand]
  split
  · exact ⟨_, _, rfl⟩
  · exact ⟨_, _, rfl⟩

/-- A command's slot whose guard is false keeps those checks, and leaves its token SKIPPED. -/
theorem State.engineIssue_guardedOff {s : State} (hg : s.iss.guard = false) (op : CmdOp) (t : BitVec 6) (w0 w1 w2 : Word)
    (checks live : List Raised) (more : List Effect) : s.engineIssue op t w0 w1 w2 checks live more = .next { s with iss := { s.iss with
      raised := s.iss.raised ++ (checks ++ illegalIf s (s.iss.st.isPending t.toNat && (s.continued op t.toNat).isNone))
      effects := s.iss.effects ++ if t = 0 then [] else [(s.iss.slot, .skipped t.toNat)]
      pfx := [], guard := true, deps := none } } := by
  have hzero : t.toNat = 0 ↔ t = 0 := by rw [BitVec.toNat_eq]; rfl
  rw [State.engineIssue, if_neg (Bool.eq_false_iff.mp hg), failed_badOperand, State.slotDone_false _ _ _ _ hg]
  simp only [hzero]

/-! ### O29: the frame of a slot -/

/-- What a slot keeps of its bundle, and what it adds to. -/
def Issue.extends (b u : Issue) : Prop :=
  u.st = b.st ∧ u.tm = b.tm ∧ u.core = b.core ∧ u.pc = b.pc ∧ u.words = b.words ∧ u.slot = b.slot ∧ u.idle = b.idle ∧
    b.effects <+: u.effects ∧ b.raised <+: u.raised

theorem State.slotDone_extends (s : State) (checks live : List Raised) (effects : List Effect) :
    ∃ u : Issue, s.slotDone checks live effects = { s with iss := u } ∧ s.iss.extends u :=
  ⟨_, rfl, rfl, rfl, rfl, rfl, rfl, rfl, rfl, List.prefix_append .., (List.prefix_append ..).trans (List.prefix_append ..)⟩

theorem EndsSlot.extends {s : State} {o : Out} (h : EndsSlot s o) : ∃ u : Issue, o = .next { s with iss := u } ∧ s.iss.extends u := by
  obtain ⟨checks, live, effects, rfl, -⟩ := h
  obtain ⟨u, hu, hext⟩ := s.slotDone_extends checks live effects
  exact ⟨u, by rw [hu], hext⟩

theorem IssuesCommand.extends {s : State} {t : BitVec 6} {o : Out} (h : IssuesCommand s t o) :
    ∃ u : Issue, o = .next { s with iss := u } ∧ s.iss.extends u := by
  obtain ⟨op, w0, w1, w2, checks, live, more, rfl, hchecks⟩ := h
  cases hg : s.iss.guard with
  | true =>
    obtain ⟨live', effects, hdone⟩ := State.engineIssue_guarded hg op t w0 w1 w2 checks live more
    obtain ⟨u, hu, hext⟩ := s.slotDone_extends _ live' effects
    exact ⟨u, by rw [hdone, hu], hext⟩
  | false =>
    exact ⟨_, State.engineIssue_guardedOff hg op t w0 w1 w2 checks live more, rfl, rfl, rfl, rfl, rfl, rfl, rfl, List.prefix_append ..,
      List.prefix_append ..⟩

/-- A prefix is kept for the slot after it. -/
theorem exec_prefix_extends {i : Instr} (hprefix : isPrefix i = true) (s : State) :
    ∃ u : Issue, exec i s = .next { s with iss := u } ∧ s.iss.extends u := by
  cases i <;> cases hprefix
  all_goals exact ⟨_, rfl, rfl, rfl, rfl, rfl, rfl, rfl, rfl, List.prefix_rfl, List.prefix_rfl⟩

/-- Settles O29: a prefix, an engine command and every other slot. -/
theorem slotFrame : Obligations.SlotFrame := by
  intro i s hslot
  cases hprefix : isPrefix i with
  | true => exact exec_prefix_extends hprefix s
  | false =>
    cases htoken : engineToken i with
    | some t => exact (issuesCommand_exec htoken s).extends
    | none => exact (endsSlot_exec hslot hprefix htoken s).extends

/-! ### O30: a slot that is guarded off -/

/-- Settles O30: a command's slot leaves its token SKIPPED, and any other records its checks alone. -/
theorem guardedOff : Obligations.GuardedOff := by
  intro i s hslot hg hprefix
  have hnew {checks : List Raised} (h : NoSchedule checks) : ∀ r ∈ s.iss.raised ++ checks, r ∈ s.iss.raised ∨ r.cause.code.1 ≠ 1 :=
    fun r hr => (List.mem_append.mp hr).imp_right (h r)
  cases htoken : engineToken i with
  | some t =>
    obtain ⟨op, w0, w1, w2, checks, live, more, hexec, hchecks⟩ := issuesCommand_exec htoken s
    refine ⟨_, hexec.trans (State.engineIssue_guardedOff hg ..), rfl, hnew ((noSchedule_append _ _).mpr ⟨hchecks, ?_⟩)⟩
    exact noSchedule_ite (by simp [readStage, Cause.code]) noSchedule_nil
  | none =>
    obtain ⟨checks, live, effects, hexec, hchecks⟩ := endsSlot_exec hslot hprefix htoken s
    rw [State.slotDone_false _ _ _ _ hg] at hexec
    exact ⟨_, hexec, (List.append_nil _).symm, hnew hchecks⟩

/-! ### O24: a busy token -/

/-- A command with a token needs no tokenless place: it issues, with the checks of its token before and after its own. -/
theorem State.engineIssue_of_token {s : State} (hg : s.iss.guard = true) {t : BitVec 6} (ht : t ≠ 0) (op : CmdOp) (w0 w1 w2 : Word)
    (checks live : List Raised) (more : List Effect) : s.engineIssue op t w0 w1 w2 checks live more = issues s op t w0 w1 w2
      (checks ++ illegalIf s (s.iss.st.isPending t.toNat && (s.continued op t.toNat).isNone) ++
        (live ++ illegalIf s ((s.newCmd op t.toNat w0 w1 w2).deps.contains t.toNat))) more := by
  have hzero : (t.toNat != 0) = true := (toNat_ne_zero_iff t).mpr ht
  have hnone : (t.toNat == 0) = false := by simpa using hzero
  rw [State.engineIssue, if_pos hg, failed_badOperand, hzero, hnone]
  simp only [Bool.false_and, Bool.true_and, Bool.false_eq_true, if_false]
  rw [State.slotDone_of_guard hg, failed_cons, failed_cons, failed_nil, if_neg Bool.false_ne_true, List.append_nil, List.append_nil]
  rfl

theorem mem_illegalIf_true (s : State) : ∃ r ∈ illegalIf s true, r.cause = .illegalOperand ∧ r.slot = s.iss.slot :=
  ⟨_, List.mem_singleton_self _, rfl, rfl⟩

theorem tokenBusy : TokenBusy := by
  intro s i t hg htoken ht hcont hbusy
  obtain ⟨op, w0, w1, w2, checks, live, more, hexec, -⟩ := issuesCommand_exec htoken s
  refine ⟨_, hexec.trans (State.engineIssue_of_token hg ht ..), ?_⟩
  obtain ⟨r, hr, hcause⟩ := mem_illegalIf_true s
  refine ⟨r, List.mem_append_right _ ?_, hcause⟩
  obtain hpending | hnamed := hbusy
  · have hbusy : (s.iss.st.isPending t.toNat && (s.continued op t.toNat).isNone) = true := by
      rw [isPending_eq_tokenPending, hpending, hcont op]
      rfl
    rw [hbusy]
    simp [hr]
  · rw [(newCmd_deps_contains ht op _ w0 w1 w2).mpr hnamed]
    simp [hr]

/-! ### O24: a command enters -/

/-- The command that a bundle goes on with, if any (R76). -/
theorem State.enterCommand_again {s : State} {c o : Cmd} (hop : c.op ≠ .lease)
    (h : (s.cmds.find? fun o => o.team == c.team && o.strand == c.strand && o.packet.isNone && o.again && o.op == c.op && o.token == c.token &&
      o.pc == c.pc && o.slot == c.slot) = some o) :
    s.enterCommand c = s.setCmd { o with st := .queued, again := false, issuedTc := c.issuedTc, issuedCyc := c.issuedCyc, timed := c.timed
                                         notBefore := 0, core := c.core } := by
  rw [State.enterCommand, h]
  simp [hop]

/-- The command as it joins those of the device. -/
def State.newcomer (s : State) (st : Strand) (c : Cmd) : Cmd :=
  { c with id := s.nextId, notBefore := s.cyc + (if c.op.delayed then c.op.delay s.choice else 0)
           audited := st.auditMark && (c.op == .cube || c.op == .cubeh) }

/-- The state that a command has entered: its strand's token is pending, and the command is the device's newest. -/
def State.entered (s : State) (st : Strand) (c : Cmd) : State :=
  { (if c.op.delayed then s.chosen else s).setStrand (st.giveToken c) with
    cmds := (if c.op.delayed then s.chosen else s).cmds ++ [s.newcomer st c], nextId := (if c.op.delayed then s.chosen else s).nextId + 1 }

theorem State.enterCommand_new {s : State} {c : Cmd} {st : Strand} (hst : s.strand c.team c.strand = some st) (hlaunch : c.op ≠ .launch)
    (hlease : c.op ≠ .lease) (hagain : ∀ o ∈ s.cmds, o.again = false) :
    s.enterCommand c = if c.op = .fsend ∨ c.op = .frecv then (s.team c.team).elim (s.entered st c) fun t => (s.entered st c).setTeam t.deferStop
      else s.entered st c := by
  have hnone : (s.cmds.find? fun o => o.team == c.team && o.strand == c.strand && o.packet.isNone && o.again && o.op == c.op &&
      o.token == c.token && o.pc == c.pc && o.slot == c.slot) = none :=
    List.find?_eq_none.mpr fun o ho => by simp [hagain o ho]
  have hteam : (s.entered st c).team c.team = s.team c.team := by
    unfold State.entered
    cases c.op.delayed <;> rfl
  have htransfer (hop : c.op = .fsend ∨ c.op = .frecv) :
      (match (s.entered st c).team c.team with | some t => (s.entered st c).setTeam t.deferStop | none => s.entered st c) =
        if c.op = .fsend ∨ c.op = .frecv then (s.team c.team).elim (s.entered st c) fun t => (s.entered st c).setTeam t.deferStop
          else s.entered st c := by
    rw [if_pos hop, ← hteam]
    cases (s.entered st c).team c.team <;> rfl
  rw [State.enterCommand, hnone]
  dsimp only
  rw [hst]
  dsimp only
  split
  next hop => exact absurd hop hlaunch
  next hop => exact absurd hop hlease
  next hop => exact htransfer (.inl hop)
  next hop => exact htransfer (.inr hop)
  next hfsend hfrecv => rw [if_neg (not_or.mpr ⟨hfsend, hfrecv⟩)]; rfl

/-- Only the team's own entry differs from what `State.entered` has, and only for an FSEND or FRECV. -/
theorem State.enterCommand_fields {s : State} {c : Cmd} {st : Strand} (hst : s.strand c.team c.strand = some st) (hlaunch : c.op ≠ .launch)
    (hlease : c.op ≠ .lease) (hagain : ∀ o ∈ s.cmds, o.again = false) :
    ∃ teams, s.enterCommand c = { s.entered st c with teams } := by
  rw [State.enterCommand_new hst hlaunch hlease hagain]
  split
  · cases s.team c.team with
    | none => exact ⟨_, rfl⟩
    | some t => exact ⟨_, rfl⟩
  · exact ⟨_, rfl⟩

section
variable (s : State) (st : Strand) (c : Cmd)

theorem State.entered_cmds : (s.entered st c).cmds = s.cmds ++ [s.newcomer st c] := by
  unfold State.entered
  cases c.op.delayed <;> rfl

theorem State.entered_nextId : (s.entered st c).nextId = s.nextId + 1 := by
  unfold State.entered
  cases c.op.delayed <;> rfl

theorem State.entered_ring : (s.entered st c).ring = s.ring := by
  unfold State.entered
  cases c.op.delayed <;> rfl

theorem State.entered_hbm : (s.entered st c).hbm = s.hbm := by
  unfold State.entered
  cases c.op.delayed <;> rfl

theorem State.entered_teams : (s.entered st c).teams = s.teams := by
  unfold State.entered
  cases c.op.delayed <;> rfl

theorem State.entered_strands : (s.entered st c).strands = (s.setStrand (st.giveToken c)).strands := by
  unfold State.entered
  cases c.op.delayed <;> rfl

/-- A new command takes its token or a place, and a CUBE or CUBEH the audit mark; it changes nothing else of its strand. -/
theorem Strand.giveToken_eq : st.giveToken c = { st with
    tokens := (st.giveToken c).tokens, tokenless := (st.giveToken c).tokenless
    auditMark := st.auditMark && c.op != .cube && c.op != .cubeh } := by
  unfold Strand.giveToken Strand.setToken
  by_cases htoken : c.token = 0 <;> cases hcube : c.op == .cube <;> cases hcubeh : c.op == .cubeh <;> simp [bne, htoken, hcube, hcubeh]

theorem Strand.giveToken_tokens : (st.giveToken c).tokens =
    if c.token = 0 then st.tokens else st.tokens.set (Fin.ofNat 64 c.token) { st.token c.token with st := .pending } := by
  unfold Strand.giveToken Strand.setToken
  by_cases htoken : c.token = 0 <;> simp [htoken, apply_ite Strand.tokens]

theorem Strand.giveToken_tokenless : (st.giveToken c).tokenless = if c.token = 0 then st.tokenless + 1 else st.tokenless := by
  unfold Strand.giveToken
  by_cases htoken : c.token = 0 <;> simp [htoken, apply_ite Strand.tokenless]

end

theorem State.strand_congr {s u : State} (h : u.strands = s.strands) (team i : Nat) : u.strand team i = s.strand team i := by
  rw [State.strand, h]
  rfl

theorem commandEntry : CommandEntry := by
  refine ⟨fun s c st hst hlaunch hlease hagain => ?_, fun s c o hop h => State.enterCommand_again hop h⟩
  obtain ⟨teams, hfields⟩ := State.enterCommand_fields hst hlaunch hlease hagain
  have hplaced : (s.enterCommand c).strand c.team c.strand = some (st.giveToken c) := by
    have hself : (s.setStrand (st.giveToken c)).strand c.team c.strand = some (st.giveToken c) :=
      State.strand_setStrand_self hst (by rw [st.giveToken_eq]) (by rw [st.giveToken_eq])
    rw [hfields, ← hself]
    exact State.strand_congr (s.entered_strands st c) _ _
  refine ⟨⟨s.newcomer st c, by rw [hfields]; exact s.entered_cmds st c, rfl, rfl, rfl, rfl, rfl, rfl, Nat.le_add_right ..⟩,
    by rw [hfields]; exact s.entered_nextId st c, ⟨_, hplaced, st.giveToken_eq c, fun hzero => ?_, fun hzero => ?_⟩,
    by rw [hfields]; exact s.entered_ring st c, by rw [hfields]; exact s.entered_hbm st c, fun hfsend hfrecv => ?_, fun hop t ht => ?_⟩
  · rw [st.giveToken_tokenless, st.giveToken_tokens, if_pos hzero, if_pos hzero]
    exact ⟨rfl, rfl⟩
  · rw [st.giveToken_tokenless, Strand.token, st.giveToken_tokens, if_neg hzero, if_neg hzero, get_set_ofNat, if_pos rfl]
    exact ⟨rfl, rfl, fun k hk => Vector.getElem_set_ne _ k.isLt (Ne.symm hk)⟩
  · rw [State.enterCommand_new hst hlaunch hlease hagain, if_neg (not_or.mpr ⟨hfsend, hfrecv⟩), State.entered_teams]
  · rw [State.enterCommand_new hst hlaunch hlease hagain, if_pos hop, ht]
    exact congrArg (List.map _) (s.entered_teams st c)

/-- Settles O24: a busy token, and what a command leaves as it enters. -/
theorem commandsEnter : Obligations.CommandsEnter := ⟨tokenBusy, commandEntry⟩

end Sys2Proof.Machine

/-! # O48: the end of a wait, and the missed rendezvous -/

namespace Sys2Proof.Machine

open Sys2Proof.Claims

/-! ### A held strand goes on -/

/-- What becomes of strand `z` of team `y` as its waits are judged: it stops with a fault, goes on, or stays. -/
def State.judged (s : State) (y : Team) (z : Strand) : Except Raised Bool → State
  | .error r => s.chosen.takeFault y.id (stopCycle (y.tcyc + 1) s.choice) [(z.index, (z.back.elim z.pc (·.pc)), r, 0)]
  | .ok true => z.waits.foldl (fun u w => u.acquireWait y z.index (y.tcyc - 1) w) (s.setStrand (z.release y.tcyc))
  | .ok false => s

section
variable {s : State} {t : Team} {st : Strand} (ht : s.team t.id = some t) (hst : s.strand t.id st.index = some st)
include ht hst

theorem execWaitRelease_of_gated (hgated : s.ticks (t.strandTower st.index) = false) : exec (.waitRelease t.id st.index) s = .next s := by
  rw [exec, execWaitRelease, ht, hst]
  simp [hgated]

/-- In a tower cycle, what comes to the waits is served, and then they are judged. -/
theorem execWaitRelease_of_ticks (hwait : st.st = .wait) (hbefore : t.before = true) (hticks : s.ticks (t.strandTower st.index) = true)
    {y : Team} {z : Strand} (hy : (s.serveWaits t st).team t.id = some y) (hz : (s.serveWaits t st).strand t.id st.index = some z) :
    exec (.waitRelease t.id st.index) s =
      .next ((s.serveWaits t st).judged y z ((s.serveWaits t st).waitsMet y z z.waits)) := by
  have hteam : y.id = t.id := by simpa using List.find?_some hy
  obtain ⟨-, hindex⟩ := State.strand_key hz
  rw [exec, execWaitRelease, ht, hst]
  dsimp only
  rw [hwait, hbefore, hticks, if_pos (by decide), hy, hz]
  dsimp only
  rw [← hteam, ← hindex]
  match (s.serveWaits t st).waitsMet y z z.waits with
  | .error r => cases hback : z.back <;> simp only [State.judged, hback] <;> rfl
  | .ok true => rfl
  | .ok false => rfl

omit ht in
/-- A strand that waits for tokens alone stays as it is while its waits are served. -/
theorem State.serveWaits_tokens {a b c : Nat} (hwaits : st.waits = [.tokens a b c]) :
    (s.serveWaits t st).strand t.id st.index = some { st with waits := [.tokens a b c] } := by
  have hserve : s.serveWaits t st = s.setStrand { st with waits := [.tokens a b c] } := by
    rw [State.serveWaits, hwaits]
    rfl
  rw [hserve]
  exact State.strand_setStrand_self hst rfl rfl

end

theorem State.waitsMet_tokens (s : State) (t : Team) {st : Strand} {a b c : Nat} (ha : st.isPending a = false) (hb : st.isPending b = false)
    (hc : st.isPending c = false) : s.waitsMet t st [.tokens a b c] = .ok true := by
  simp [State.waitsMet, State.waitMet, ha, hb, hc]

theorem stopCycle_bounds (tcyc n : Nat) : tcyc < stopCycle (tcyc + 1) n ∧ stopCycle (tcyc + 1) n ≤ tcyc + 64 := by
  have hlt : n % Config.stopWithin < Config.stopWithin := Nat.mod_lt _ (by decide)
  have hwithin : Config.stopWithin = 64 := rfl
  unfold stopCycle
  omega

/-! ### The missed rendezvous -/

/-- Bundle `b` of a strand of a team carries a SCHEDULE RDV for entry value `v`. -/
def missesRdv (t : Team) (i v : Nat) (b : Issue) : Prop :=
  b.tm.id = t.id ∧ b.st.index = i ∧ ∃ r ∈ b.raised, r.cause = .scheduleRdv ∧ r.detail = BitVec.ofNat 64 v

theorem State.raiseOn_frame (s : State) (t : Team) (x : Strand) (r : Raised) :
    (s.raiseOn t x r).strands = s.strands ∧ (s.raiseOn t x r).teams = s.teams := by
  unfold State.raiseOn
  dsimp only
  split
  · exact ⟨rfl, rfl⟩
  · exact ⟨rfl, rfl⟩

/-- The strand that a missed rendezvous is raised on has a bundle with it. -/
theorem State.raiseOn_missesRdv (s : State) (t : Team) (x : Strand) (v : Nat) :
    ∃ b ∈ (s.raiseOn t x (readFault .scheduleRdv 0 v)).bundles, missesRdv t x.index v b := by
  unfold State.raiseOn
  dsimp only
  split
  next hissues =>
    obtain ⟨b, hb, hheld⟩ := List.any_eq_true.mp hissues
    have hmine : (b.tm.id == t.id && b.st.index == x.index) = true := (Bool.and_eq_true_iff.mp hheld).1
    obtain ⟨hteam, hindex⟩ : b.tm.id = t.id ∧ b.st.index = x.index := by simpa using hmine
    refine ⟨_, List.mem_map.mpr ⟨b, hb, if_pos hmine⟩, hteam, hindex, readFault .scheduleRdv 0 v, ?_, rfl, rfl⟩
    exact List.mem_append_right _ (List.mem_singleton_self _)
  next => exact ⟨_, List.mem_append_right _ (List.mem_singleton_self _), rfl, rfl, readFault .scheduleRdv 0 v, List.mem_singleton_self _, rfl, rfl⟩

/-- The bundles of other strands stay as they are. -/
theorem State.mem_raiseOn_of_other {s : State} {t : Team} {x : Strand} (r : Raised) {b : Issue} (hb : b ∈ s.bundles)
    (hother : ¬(b.tm.id = t.id ∧ b.st.index = x.index)) : b ∈ (s.raiseOn t x r).bundles := by
  have hmine : ¬(b.tm.id == t.id && b.st.index == x.index) = true := by simpa using hother
  unfold State.raiseOn
  dsimp only
  split
  · exact List.mem_map.mpr ⟨b, hb, if_neg hmine⟩
  · exact List.mem_append_left _ (List.mem_filter.mpr ⟨hb, by rw [Bool.eq_false_iff.mpr hmine]; rfl⟩)

/-- Raising it on another strand, or on the same one again, keeps that bundle or another like it. -/
theorem State.raiseOn_keeps_missesRdv {s : State} {t : Team} {i v : Nat} (x : Strand) (h : ∃ b ∈ s.bundles, missesRdv t i v b) :
    ∃ b ∈ (s.raiseOn t x (readFault .scheduleRdv 0 v)).bundles, missesRdv t i v b := by
  obtain ⟨b, hb, hmiss⟩ := h
  by_cases hown : b.tm.id = t.id ∧ b.st.index = x.index
  · obtain ⟨-, hindex, -⟩ := hmiss
    rw [← hindex, hown.2]
    exact s.raiseOn_missesRdv t x v
  · exact ⟨b, State.mem_raiseOn_of_other _ hb hown, hmiss⟩

/-- A missed rendezvous raised on one strand after another. -/
def State.raiseRdv (s : State) (t : Team) (v : Nat) (l : List Strand) : State :=
  l.foldl (fun s x => s.raiseOn t x (readFault .scheduleRdv 0 v)) s

theorem State.raiseRdv_frame (s : State) (t : Team) (v : Nat) (l : List Strand) :
    (s.raiseRdv t v l).strands = s.strands ∧ (s.raiseRdv t v l).teams = s.teams := by
  induction l generalizing s with
  | nil => exact ⟨rfl, rfl⟩
  | cons x l ih =>
    obtain ⟨hstrands, hteams⟩ := ih (s.raiseOn t x (readFault .scheduleRdv 0 v))
    obtain ⟨hstrand, hteam⟩ := s.raiseOn_frame t x (readFault .scheduleRdv 0 v)
    exact ⟨hstrands.trans hstrand, hteams.trans hteam⟩

theorem State.raiseRdv_keeps_missesRdv {s : State} {t : Team} {i v : Nat} (l : List Strand) (h : ∃ b ∈ s.bundles, missesRdv t i v b) :
    ∃ b ∈ (s.raiseRdv t v l).bundles, missesRdv t i v b := by
  induction l generalizing s with
  | nil => exact h
  | cons x l ih => exact ih (State.raiseOn_keeps_missesRdv x h)

theorem State.raiseRdv_missesRdv (s : State) (t : Team) (v : Nat) {l : List Strand} {x : Strand} (hx : x ∈ l) :
    ∃ b ∈ (s.raiseRdv t v l).bundles, missesRdv t x.index v b := by
  induction l generalizing s with
  | nil => cases hx
  | cons y l ih =>
    cases hx with
    | head => exact State.raiseRdv_keeps_missesRdv l (s.raiseOn_missesRdv t x v)
    | tail _ hx => exact ih _ hx

/-- At the deadline, the strands that take part and have not entered miss the rendezvous. -/
theorem execTimedRdvDeadline_due {s : State} {t : Team} {v : Nat} (ht : s.team t.id = some t) (hentry : s.entryValue t = some v)
    (hissues : t.issues = true) (hdue : v = t.tcyc + 16) (hphase : s.phase = .resolve) :
    exec (.timedRdvDeadline t.id) s = .next (s.raiseRdv t v ((s.partners t.id).filter fun x => !s.hasEntered t x)) := by
  rw [exec, execTimedRdvDeadline, ht]
  dsimp only
  rw [hentry]
  dsimp only
  rw [if_pos (by simp [hissues, hdue, hphase])]
  rfl

/-- Settles O48: the end of a wait by how its waits are judged, and the deadline by the strands that miss it. -/
theorem waitsEnd : Obligations.WaitsEnd := by
  refine ⟨fun s t st ht hst hwait hbefore => ⟨execWaitRelease_of_gated ht hst, fun hticks => ?_⟩,
    fun s t v ht hentry hissues hdue hphase => ?_⟩
  · dsimp only
    intro y z hy hz
    have hexec := execWaitRelease_of_ticks ht hst hwait hbefore hticks hy hz
    have hteam : y.id = t.id := by simpa using List.find?_some hy
    obtain ⟨-, hindex⟩ := State.strand_key hz
    refine ⟨fun hmet => ?_, fun hunmet => ?_, fun r hr => ?_, fun a b c hwaits ha hb hc => ?_⟩
    · rw [hexec, hmet, ← hindex]
      rfl
    · rw [hexec, hunmet]
      rfl
    · obtain ⟨hlow, hhigh⟩ := stopCycle_bounds y.tcyc (s.serveWaits t st).choice
      refine ⟨_, z.back.elim z.pc (·.pc), hlow, hhigh, ?_⟩
      rw [hexec, hr, ← hindex, ← hteam]
      rfl
    · rw [State.serveWaits_tokens hst hwaits] at hz
      obtain rfl := Option.some.inj hz
      exact State.waitsMet_tokens _ y ha hb hc
  · have hexec := execTimedRdvDeadline_due ht hentry hissues hdue hphase
    refine ⟨fun hall => ?_, _, hexec, (State.raiseRdv_frame ..).1, (State.raiseRdv_frame ..).2, fun x hx hmissed => ?_⟩
    · rw [hexec, List.filter_eq_nil_iff.mpr fun x hx => by simp [hall x hx]]
      rfl
    · exact s.raiseRdv_missesRdv t v (List.mem_filter.mpr ⟨hx, by simp [hmissed]⟩)

end Sys2Proof.Machine

/-! # O41: the life of an engine command -/

namespace Sys2Proof.Machine

open Sys2Proof.Claims

/-! ### Reads of the ring -/

/-- A command has all it needs of some ranges where each of their lines is one it has read or one that is free (R157). -/
theorem State.gather_all_iff (s : State) (t : Team) (c : Cmd) (l : List (BitVec 28 × Bool × Nat × Nat)) :
    (s.gather t c l).2 = true ↔ ∀ k ∈ t.readLines l, (∃ e ∈ c.lines, e.1 = k) ∨ s.lineFree k = true := by
  rw [State.gather, List.all_eq_true]
  refine forall₂_congr fun k hk => ?_
  have hread : (c.lines.any (·.1 == k)) = true ↔ ∃ e ∈ c.lines, e.1 = k := by simp
  have hcond (j : Nat) : (!(c.lines.any (·.1 == j)) && s.lineFree j) = true ↔ ¬(c.lines.any (·.1 == j)) = true ∧ s.lineFree j = true := by
    rw [Bool.and_eq_true, Bool.not_eq_true', Bool.not_eq_true]
  have hnew : (((t.readLines l).filter fun k => !(c.lines.any (·.1 == k)) && s.lineFree k).map fun k =>
      (k, natOf (Memory.readBytes s.ring (64 * k) 64), s.tag (64 * k) == 0xFFFF#16)).any (·.1 == k) = true ↔
      (¬∃ e ∈ c.lines, e.1 = k) ∧ s.lineFree k = true := by
    rw [← hread, List.any_map, List.any_eq_true]
    constructor
    · rintro ⟨j, hj, hjk⟩
      obtain rfl : j = k := by simpa using hjk
      exact (hcond j).mp (List.mem_filter.mp hj).2
    · intro hfree
      exact ⟨k, List.mem_filter.mpr ⟨hk, (hcond k).mpr hfree⟩, beq_self_eq_true k⟩
  rw [List.any_append, Bool.or_eq_true, hread, hnew]
  exact or_congr_right' fun hunread => and_iff_right hunread

/-- A command that needs nothing of the ring has it at once. -/
theorem State.gather_nil (s : State) (t : Team) (c : Cmd) : s.gather t c [] = (c, true) := by
  have hlines : t.readLines [] = [] := rfl
  rw [State.gather, hlines]
  simp

theorem Cmd.newLines_self (c : Cmd) : c.newLines c = [] := by
  rw [Cmd.newLines, List.drop_length, List.map_nil]

theorem State.noteRead_nil (s : State) (c : Cmd) (l : List (BitVec 28 × Bool × Nat × Nat)) : s.noteRead c l [] = s := by
  unfold State.noteRead
  split <;> rfl

theorem State.overLines_nil {c : Cmd} (hlines : c.lines = []) (s : State) (lines : List (Nat × Nat × Bool)) (f : State → State) :
    s.overLines c lines f = f s := by
  rw [State.overLines, hlines]
  rfl

theorem Cmd.newBytes_self (t : Team) (c : Cmd) : Cmd.newBytes t c c = 0 := by
  unfold Cmd.newBytes
  split
  · simp
  · rfl

theorem State.countLines_self (s : State) (c : Cmd) : s.countLines c c = s := by
  have hnone : (s.team c.team).elim 0 (fun t => Cmd.newBytes t c c) = 0 := by
    cases s.team c.team with
    | none => rfl
    | some t => exact Cmd.newBytes_self t c
  rw [State.countLines, hnone, State.countDrain]
  simp

/-! ### The start of a command -/

section
variable {s : State} {cmd : Nat} {c : Cmd} {x : Context} (hcmd : s.cmd cmd = some c) (hctx : s.context c.ctx = some x)
include hcmd hctx

section
variable {t : Team} (ht : s.team c.team = some t) (hpacket : c.packet = none) (hmay : s.mayStart t c = true)
include ht hpacket hmay

theorem execEngineCommandStart_of_tokenFault {r : Raised} (hfault : s.tokenFault c = some r) :
    exec (.engineCommandStart cmd) s = .next ((if c.op = .coll then s.collAbort x c else s).commandFault c r) := by
  simp [exec, execEngineCommandStart, hcmd, ht, hctx, hpacket, hmay, hfault]

variable (hfault : s.tokenFault c = none)
include hfault

theorem execEngineCommandStart_of_gathered {d : Cmd} (hgather : s.gather t c c.startReads = (d, true)) :
    exec (.engineCommandStart cmd) s = .next
      (((s.noteRead c c.startReads (c.newLines d)).chosen.overLines c d.lines fun u => u.startOp x t s.choice c).cacheEnds x cmd) := by
  simp [exec, execEngineCommandStart, hcmd, ht, hctx, hpacket, hmay, hfault, hgather]

theorem execEngineCommandStart_of_gathering {d : Cmd} (hgather : s.gather t c c.startReads = (d, false)) :
    exec (.engineCommandStart cmd) s = .next ((s.noteRead c c.startReads (c.newLines d)).setCmd d) := by
  simp [exec, execEngineCommandStart, hcmd, ht, hctx, hpacket, hmay, hfault, hgather]

theorem execEngineCommandStart_of_noReads (hreads : c.startReads = []) (hlines : c.lines = []) :
    exec (.engineCommandStart cmd) s = .next ((s.chosen.startOp x t s.choice c).cacheEnds x cmd) := by
  rw [execEngineCommandStart_of_gathered hcmd hctx ht hpacket hmay hfault (hreads ▸ s.gather_nil t c), c.newLines_self, State.noteRead_nil,
    State.overLines_nil hlines]

end

/-! ### Its steps -/

section
variable {m : Cmd} (hmove : s.movePacket c = some m) (hready : s.stepReady m = true) (htime : m.notBefore ≤ s.cyc)
include hmove hready htime

theorem execEngineStep_of_gathered {t : Team} {e : Cmd} (ht : s.team m.team = some t) (hgather : s.gather t m m.stepReads = (e, true)) :
    let d : Cmd := { m with notBefore := s.cyc + 1 + s.chosen.choice }
    exec (.engineStep cmd) s = .next ((((s.noteRead m m.stepReads (m.newLines e)).chosen.chosen.setCmd d).countLines m e).overLines m e.lines
      fun u => u.stepOp x (some t) s.choice d) := by
  simp [exec, execEngineStep, hcmd, hctx, hmove, hready, htime, ht, hgather]

theorem execEngineStep_of_gathering {t : Team} {e : Cmd} (ht : s.team m.team = some t) (hgather : s.gather t m m.stepReads = (e, false)) :
    exec (.engineStep cmd) s = .next (((s.noteRead m m.stepReads (m.newLines e)).setCmd e).countLines m e) := by
  simp [exec, execEngineStep, hcmd, hctx, hmove, hready, htime, ht, hgather]

theorem execEngineStep_of_noReads (hlines : m.lines = []) (hreads : s.team m.team = none ∨ m.stepReads = []) :
    let d : Cmd := { m with notBefore := s.cyc + 1 + s.chosen.choice }
    exec (.engineStep cmd) s = .next ((s.chosen.chosen.setCmd d).stepOp x (s.team m.team) s.choice d) := by
  have hgather : ((s.team m.team).elim (m, true) fun t => s.gather t m m.stepReads) = (m, true) := by
    cases ht : s.team m.team with
    | none => rfl
    | some t =>
      have hnil : m.stepReads = [] := hreads.resolve_left (by simp [ht])
      exact hnil ▸ s.gather_nil t m
  simp [exec, execEngineStep, hcmd, hctx, hmove, hready, htime, hgather, m.newLines_self, State.noteRead_nil, State.countLines_self,
    State.overLines_nil hlines]

end

end

/-! ### Its end -/

theorem State.finish_eq {s : State} {cmd : Nat} {c : Cmd} (hcmd : s.cmd cmd = some c) (status : BitVec 4) :
    s.finish cmd status = s.setCmd { c with st := .finishing status, expanding := false } := by
  rw [State.finish, hcmd]

theorem execEngineCommandComplete_of_done {s : State} {cmd : Nat} {c : Cmd} (hcmd : s.cmd cmd = some c) (hplain : c.op.plain = true)
    (hrunning : c.st = .running) (hsteps : c.steps ≤ c.xpc) (hanswered : s.unanswered cmd = false) :
    exec (.engineCommandComplete cmd) s = .next (s.setCmd { c with st := .finishing 0, expanding := false }) := by
  simp [exec, execEngineCommandComplete, hcmd, hplain, hrunning, hsteps, hanswered, State.finish_eq hcmd]

theorem execHsetTakeEffect_of_running {s : State} {cmd : Nat} {c : Cmd} (hcmd : s.cmd cmd = some c) (hop : c.op = .hset) (hrunning : c.st = .running) :
    exec (.hsetTakeEffect cmd) s = .next (s.setCmd { c with xpc := 1, expanding := false }) := by
  simp [exec, execHsetTakeEffect, hcmd, hop, hrunning]

theorem State.tokenFault_cause {s : State} {c : Cmd} {r : Raised} (h : s.tokenFault c = some r) : r.cause = .scheduleToken := by
  unfold State.tokenFault at h
  split at h
  · split at h
    · obtain ⟨n, -, rfl⟩ := Option.map_eq_some_iff.mp h
      rfl
    · cases h
  · cases h

theorem commandSteps : CommandSteps := by
  intro s cmd c x hcmd hctx
  refine ⟨fun t ht hpacket hmay hfault => ⟨fun d => ?_, fun d => ?_, ?_⟩, fun t r ht hpacket hmay hfault => ?_, fun hpacket => ?_,
    fun m hmove hready htime => ⟨fun t e ht => ?_, fun t e ht => ?_, ?_⟩, ?_, ?_, fun t l => s.gather_all_iff t c l⟩
  · exact execEngineCommandStart_of_gathered hcmd hctx ht hpacket hmay hfault
  · exact execEngineCommandStart_of_gathering hcmd hctx ht hpacket hmay hfault
  · exact execEngineCommandStart_of_noReads hcmd hctx ht hpacket hmay hfault
  · exact ⟨State.tokenFault_cause hfault, execEngineCommandStart_of_tokenFault hcmd hctx ht hpacket hmay hfault⟩
  · rw [State.movePacket, hpacket]
  · exact execEngineStep_of_gathered hcmd hctx hmove hready htime ht
  · exact execEngineStep_of_gathering hcmd hctx hmove hready htime ht
  · exact execEngineStep_of_noReads hcmd hctx hmove hready htime
  · exact execEngineCommandComplete_of_done hcmd
  · exact execHsetTakeEffect_of_running hcmd

/-! ### Tokens and handles -/

theorem State.cmd_dropCmd_self (s : State) (id : Nat) : (s.dropCmd id).cmd id = none :=
  List.find?_eq_none.mpr fun c hc => by simpa using (List.mem_filter.mp hc).2

theorem State.cmd_dropCmd_ne (s : State) {id i : Nat} (h : i ≠ id) : (s.dropCmd id).cmd i = s.cmd i := by
  rw [State.cmd, State.dropCmd, List.find?_filter]
  refine List.find?_congr fun c _ => ?_
  by_cases hc : c.id = i
  · simp [hc, h]
  · simp [hc]

/-- A strand as a command of it that is done releases: what it orders before an acquire is noted (log 93). -/
def Strand.releasedBy (st : Strand) (c : Cmd) : Strand :=
  { st with
    released := max st.released c.issuedTc
    heard := c.heard.foldl (fun m e => SMap.set 0 m e.1 (max (SMap.get 0 m e.1) e.2)) st.heard }

/-- A strand as a command of it leaves the device: the token is DONE with the command's status, or its place is free (R75 to R77). -/
def Strand.takeBack (st : Strand) (c : Cmd) (status : BitVec 4) : Strand :=
  if c.token = 0 then { st with tokenless := st.tokenless - 1 } else st.setToken c.token { st := .done, status }

section
variable (st : Strand) (c : Cmd) (status : BitVec 4)

theorem Strand.takeBack_eq : st.takeBack c status =
    { st with tokens := (st.takeBack c status).tokens, tokenless := (st.takeBack c status).tokenless } := by
  unfold Strand.takeBack Strand.setToken
  by_cases htoken : c.token = 0 <;> simp [htoken]

theorem Strand.takeBack_tokens : (st.takeBack c status).tokens =
    if c.token = 0 then st.tokens else st.tokens.set (Fin.ofNat 64 c.token) { st := .done, status } := by
  unfold Strand.takeBack Strand.setToken
  by_cases htoken : c.token = 0 <;> simp [htoken]

theorem Strand.takeBack_tokenless : (st.takeBack c status).tokenless = if c.token = 0 then st.tokenless - 1 else st.tokenless := by
  unfold Strand.takeBack
  by_cases htoken : c.token = 0 <;> simp [htoken]

end

section
variable {s : State} {c : Cmd} {st : Strand} (hpacket : c.packet = none) (hst : s.strand c.team c.strand = some st)
include hpacket hst

theorem State.releaseCmd_of_strand : s.releaseCmd c = s.setStrand (st.releasedBy c) := by
  simp only [State.releaseCmd, hpacket, hst]
  rfl

theorem State.strand_releaseCmd : ((s.releaseCmd c).dropCmd c.id).strand c.team c.strand = some (st.releasedBy c) := by
  rw [State.releaseCmd_of_strand hpacket hst]
  exact State.strand_setStrand_self hst rfl rfl

theorem State.retireCmd_of_strand (status : BitVec 4) :
    s.retireCmd c status = ((s.releaseCmd c).dropCmd c.id).setStrand ((st.releasedBy c).takeBack c status) := by
  have hrel := State.strand_releaseCmd hpacket hst
  simp only [State.retireCmd, hpacket, hrel]
  rfl

theorem State.strand_retireCmd (status : BitVec 4) :
    (s.retireCmd c status).strand c.team c.strand = some ((st.releasedBy c).takeBack c status) := by
  rw [State.retireCmd_of_strand hpacket hst]
  exact State.strand_setStrand_self (State.strand_releaseCmd hpacket hst) (by rw [Strand.takeBack_eq]) (by rw [Strand.takeBack_eq])

end

/-- A handle with no bytes counted makes no transition of itself (R222). -/
theorem Handle.settle_of_noBytes {h : Handle} (hexp : h.exp ≠ 0) (hfcnt : h.fcnt = 0) (hdcnt : h.dcnt = 0) : h.settle = h := by
  unfold Handle.settle
  split
  · exact if_neg (by simp [hfcnt, hexp])
  · exact if_neg (by simp [hdcnt, hexp])
  · rfl

section
variable {h : Handle} {w : Word} (hforce : wbits w 8 2 = 0)
include hforce

theorem Handle.hset_free (hexp : wbits w 32 32 ≠ 0) (hfcnt : h.fcnt = 0) (hdcnt : h.dcnt = 0) (hst : h.st = .free) :
    h.hset w = ({ h with st := .filling, exp := wbits w 32 32 }, false) := by
  rw [Handle.hset, hforce, if_neg (by decide), hst]
  exact congrArg (·, false) (Handle.settle_of_noBytes (h := { h with st := .filling, exp := wbits w 32 32 }) hexp hfcnt hdcnt)

theorem Handle.hset_full (hexp : wbits w 32 32 ≠ 0) (hfcnt : h.fcnt = 0) (hdcnt : h.dcnt = 0) (hst : h.st = .full) :
    h.hset w = ({ h with st := .draining, exp := wbits w 32 32 }, false) := by
  rw [Handle.hset, hforce, if_neg (by decide), hst]
  exact congrArg (·, false) (Handle.settle_of_noBytes (h := { h with st := .draining, exp := wbits w 32 32 }) hexp hfcnt hdcnt)

theorem Handle.hset_busy (hst : h.st = .filling ∨ h.st = .draining) (hexp : h.exp ≠ 0) : h.hset w = (h, true) := by
  rw [Handle.hset, hforce, if_neg (by decide)]
  obtain hst | hst := hst
  · rw [hst]
    exact if_neg hexp
  · rw [hst]
    exact if_neg hexp

end

theorem Handle.hset_force (h : Handle) {w : Word} (hforce : wbits w 8 2 = 1) : h.hset w =
    ({ st := if wbits w 10 2 = 0 then .free else if wbits w 10 2 = 1 then .filling else if wbits w 10 2 = 2 then .full else .draining
       exp := 0, fcnt := 0, dcnt := 0 }, false) := by
  rw [Handle.hset, if_pos hforce]
  have hcode : wbits w 10 2 < 4 := Nat.mod_lt _ (by decide)
  obtain h | h | h | h : wbits w 10 2 = 0 ∨ wbits w 10 2 = 1 ∨ wbits w 10 2 = 2 ∨ wbits w 10 2 = 3 := by omega
  all_goals rw [h]; rfl

theorem commandsFinish : CommandsFinish := by
  refine ⟨fun s c st n hpacket hst htoken => ?_, fun h w hforce hexp hfcnt hdcnt =>
    ⟨Handle.hset_free hforce hexp hfcnt hdcnt, Handle.hset_full hforce hexp hfcnt hdcnt, Handle.hset_busy hforce⟩, fun h w => h.hset_force⟩
  have hretire := State.retireCmd_of_strand hpacket hst n
  rw [State.releaseCmd_of_strand hpacket hst] at hretire
  refine ⟨?_, fun id hid => ?_, by rw [hretire]; rfl, by rw [hretire]; rfl, _, State.strand_retireCmd hpacket hst n,
    by rw [Strand.takeBack_eq]; rfl, by rw [Strand.takeBack_eq]; rfl, by rw [Strand.takeBack_eq]; rfl, fun hzero => ?_, fun hzero => ⟨?_, ?_, fun k hk hne => ?_⟩⟩
  · rw [hretire]
    exact State.cmd_dropCmd_self _ _
  · rw [hretire]
    exact State.cmd_dropCmd_ne _ hid
  · rw [Strand.takeBack_tokenless, Strand.takeBack_tokens, if_pos hzero, if_pos hzero]
    exact ⟨rfl, rfl⟩
  · rw [Strand.token, Strand.takeBack_tokens, if_neg hzero, get_set_ofNat, if_pos rfl]
  · rw [Strand.takeBack_tokenless, if_neg hzero]
    rfl
  · rw [Strand.token, Strand.takeBack_tokens, if_neg hzero, get_set_ofNat, if_neg (by omega)]
    rfl

/-- Settles O41: the steps of a command, and how it ends. -/
theorem engineCommands : Obligations.EngineCommands := ⟨commandSteps, commandsFinish⟩

end Sys2Proof.Machine

/-! # O28: what a step runs -/

namespace Sys2Proof.Machine

open Sys2Proof.Claims

/-- The event at the head of the agenda runs with one more identity handed out: the step counts up `fresh` before it. -/
theorem step_agenda {s : State} {i : Instr} {l : List Instr} (hphase : s.phase = .agenda) (hagenda : s.agenda = i :: l) :
    step s = exec i { s with agenda := l, fresh := s.fresh + 1 } := by
  simp only [step, State.nextWork, hphase, hagenda]

/-- A machine that has been reset, with the stop of a team that does not exist on its agenda. -/
def staleStop : State := { State.reset with phase := .agenda, agenda := [.preemptStop 0] }

theorem exec_preemptStop_of_noTeam {s : State} {team : Nat} (h : s.team team = none) :
    exec (.preemptStop team) s = .next s := by
  change execPreemptStop team s = _
  rw [execPreemptStop, h]

/-- Refutes O28: the step that runs the head of the agenda also counts up `fresh`, which its third clause leaves as it was. In `staleStop`
the event changes nothing, so the step ends with `fresh` one higher than the clause says. -/
theorem not_stepRunsDecoded : ¬ Obligations.StepRunsDecoded := by
  rintro ⟨-, -, hevent⟩
  have hclaim := hevent staleStop (.preemptStop 0) [] rfl rfl
  have hstep := step_agenda (s := staleStop) (i := .preemptStop 0) (l := []) rfl rfl
  rw [hstep, exec_preemptStop_of_noTeam rfl, exec_preemptStop_of_noTeam rfl] at hclaim
  have hfresh := congrArg State.fresh (Host.Outcome.next.inj hclaim)
  exact absurd hfresh (Nat.succ_ne_self _)

end Sys2Proof.Machine

/-! # O45 and O46: work packets, PREEMPT and RESUME, holds, and pending launches -/

namespace Sys2Proof.Machine

open Sys2Proof.Claims

/-! ### What serving a packet leaves as it was -/

/-- The tables of teams, grids, strands, commands and cores, and the next identity, are the same. -/
def State.SameJobs (s u : State) : Prop :=
  u.teams = s.teams ∧ u.grids = s.grids ∧ u.strands = s.strands ∧ u.cmds = s.cmds ∧ u.cores = s.cores ∧ u.nextId = s.nextId

theorem State.SameJobs.refl (s : State) : s.SameJobs s := ⟨rfl, rfl, rfl, rfl, rfl, rfl⟩

theorem State.SameJobs.trans {s u v : State} (h : s.SameJobs u) (k : u.SameJobs v) : s.SameJobs v := by
  obtain ⟨ht, hg, hs, hc, ho, hn⟩ := h
  obtain ⟨kt, kg, ks, kc, ko, kn⟩ := k
  exact ⟨kt.trans ht, kg.trans hg, ks.trans hs, kc.trans hc, ko.trans ho, kn.trans hn⟩

theorem HbmOnly.sameJobs {s u : State} (h : HbmOnly s u) : s.SameJobs u := by
  obtain ⟨-, hg, ht, hs, hc, -, hn, -, ho, -⟩ := h.all
  exact ⟨ht, hg, hs, hc, ho, hn⟩

theorem State.setQueue_sameJobs (s : State) (ctx q : Nat) (f : Queue → Queue) : s.SameJobs (s.setQueue ctx q f) := by
  unfold State.setQueue
  split
  · exact ⟨rfl, rfl, rfl, rfl, rfl, rfl⟩
  · exact .refl s

theorem State.chosen_sameJobs (s : State) : s.SameJobs s.chosen := ⟨rfl, rfl, rfl, rfl, rfl, rfl⟩

theorem State.consume_sameJobs (s : State) (p : Packet) (n : Nat) : s.SameJobs (s.consume p n) :=
  (deviceWrite_hbmOnly ..).sameJobs.trans ((deviceWrite_hbmOnly ..).sameJobs.trans (State.setQueue_sameJobs ..))

/-- What follows a packet: the read of its slot counts, and the queue is read again (R96, R147). -/
theorem then_sameJobs (ctx q : Nat) (p : Packet) (u : State) : ∃ v, then_ ctx q p u = .next v ∧ u.SameJobs v := by
  have hnoted : u.SameJobs (u.noteSlot p.x p.queue) := (deviceNotes_hbmOnly u p.x [(p.queue.slotAddr p.queue.ridx, 64)]).sameJobs
  exact ⟨_, rfl, (hnoted.trans (State.chosen_sameJobs _)).trans (State.setQueue_sameJobs ..)⟩

theorem State.noteLaunch_hbmOnly (s : State) (x : Context) (addr : Word) : HbmOnly s (s.noteLaunch x addr) := by
  unfold State.noteLaunch
  split
  · exact .refl s
  · exact deviceNotes_hbmOnly ..

/-! ### LAUNCH -/

/-- A grid that is accepted is the newest one, and no other table changes but that some teams may be asked to stop (R100). -/
theorem State.acceptGrid_spec {s : State} {ctx : Nat} {x : Context} (hx : s.context ctx = some x) (queue prio : Nat) (lrec : Word) (r : LaunchRec)
    (entries : List (BitVec 256)) (copy : SMap (BitVec 256)) :
    let u := s.acceptGrid ctx queue prio lrec r entries copy
    u.grids = s.grids ++ [s.newGrid ctx queue prio lrec r] ∧ u.strands = s.strands ∧ u.cmds = s.cmds ∧ u.cores = s.cores ∧
      u.nextId = s.nextId + 1 := by
  intro u
  have hwrite : s.SameJobs (if entries.isEmpty then s
      else s.deviceWrite x (structPlus x.gtab (32 * r.gfirst)) (entries.flatMap fun e => bytesOf 32 e.toNat)) := by
    split
    · exact .refl s
    · exact (deviceWrite_hbmOnly ..).sameJobs
  obtain ⟨-, hgrids, hstrands, hcmds, hcores, hnext⟩ := hwrite
  simp only [u, State.acceptGrid, hx]
  exact ⟨congrArg (· ++ _) hgrids, hstrands, hcmds, hcores, congrArg (· + 1) hnext⟩

section
variable {s : State} {ctx q : Nat} {p : Packet} (h : served s ctx q .launch p) (hp : plainPacket p 1)
include h hp

theorem exec_launchPacket_accepted {r : LaunchRec} {entries : List (BitVec 256)} {copy : SMap (BitVec 256)}
    (hr : s.checkLaunch p.x (p.word 1) = .accepted r entries copy) : exec (.launchPacket ctx q) s = then_ ctx q p
      ((((s.acceptGrid ctx q p.queue.prio (p.word 1) r entries copy).consume p 1).setQueue ctx q fun k =>
        { k with grids := k.grids ++ [s.nextId] }).noteLaunch p.x (p.word 1)) := by
  rw [exec, execLaunchPacket, State.serve_of_served h, Packet.reserved_of_plain hp, if_neg Bool.false_ne_true, hr]

theorem launchPacket_makesGrid {r : LaunchRec} {entries : List (BitVec 256)} {copy : SMap (BitVec 256)}
    (hr : s.checkLaunch p.x (p.word 1) = .accepted r entries copy) : ∃ u, exec (.launchPacket ctx q) s = .next u ∧
      u.grids = s.grids ++ [s.newGrid ctx q p.queue.prio (p.word 1) r] ∧ u.nextId = s.nextId + 1 ∧ u.strands = s.strands ∧ u.cmds = s.cmds := by
  obtain ⟨hx, -⟩ := State.packetAt_some h.1
  obtain ⟨hgrids, hstrands, hcmds, -, hnext⟩ := State.acceptGrid_spec hx q p.queue.prio (p.word 1) r entries copy
  obtain ⟨u, hu, hthen⟩ := then_sameJobs ctx q p
    ((((s.acceptGrid ctx q p.queue.prio (p.word 1) r entries copy).consume p 1).setQueue ctx q fun k =>
        { k with grids := k.grids ++ [s.nextId] }).noteLaunch p.x (p.word 1))
  obtain ⟨-, kgrids, kstrands, kcmds, -, knext⟩ := ((State.consume_sameJobs ..).trans (State.setQueue_sameJobs ..)).trans
    ((State.noteLaunch_hbmOnly ..).sameJobs.trans hthen)
  exact ⟨u, (exec_launchPacket_accepted h hp hr).trans hu, kgrids.trans hgrids, knext.trans hnext, kstrands.trans hstrands, kcmds.trans hcmds⟩

/-- A launch record that is not accepted consumes its packet with a status of its own (R98, R102). -/
theorem exec_launchPacket_refusals :
    let done (u : State) : Out := then_ ctx q p (u.noteLaunch p.x (p.word 1))
    (s.checkLaunch p.x (p.word 1) = .malformed → exec (.launchPacket ctx q) s = done (s.consume p 2)) ∧
    (s.checkLaunch p.x (p.word 1) = .unplaceable → exec (.launchPacket ctx q) s = done (s.consume p 3)) ∧
    (∀ y, s.checkLaunch p.x (p.word 1) = .poisoned y → exec (.launchPacket ctx q) s = done ((s.packetPoison p y).consume p 2)) := by
  intro done
  rw [exec, execLaunchPacket, State.serve_of_served h, Packet.reserved_of_plain hp, if_neg Bool.false_ne_true]
  exact ⟨fun hv => by rw [hv], fun hv => by rw [hv], fun y hv => by rw [hv]⟩

end

/-! ### COPY and LAYOUT -/

/-- The state that has taken a packet as a command: its slot is consumed, and its queue counts the command as open (R100). -/
def State.taken (s : State) (p : Packet) (c : Cmd) : State :=
  (({ s with cmds := s.cmds ++ [c], nextId := s.nextId + 1 } : State).consume p 1).setQueue p.x.num p.q fun k => { k with open_ := k.open_ ++ [c.id] }

/-- A packet whose views can be read is taken as a command, which starts (R100). -/
theorem State.engineAccept_taken {s : State} {p : Packet} {tower : Nat} {a b : Got} (ha : s.schedRead p.x (p.word 1) 128 64 = .ok a)
    (hb : s.schedRead p.x (p.word 2) 128 64 = .ok b) (ht : s.packetTower p.q = some tower) {counter : Word}
    (hc : s.counterOk p.x counter = true) (c : Nat → Cmd) (start : State → Nat → Cmd → View → View → Option (Nat × Nat) → State) :
    s.engineAccept p false counter c start =
      ((start (s.taken p (c tower)).chosen (s.taken p (c tower)).choice (c tower) (viewOf a.val) (viewOf b.val) (a.pois.or b.pois)).cacheEnds p.x
        (c tower).id).deviceNotes p.x [(p.word 1, 128), (p.word 2, 128)] := by
  unfold State.engineAccept State.taken
  rw [ha, hb]
  dsimp only
  rw [hc, ht]
  dsimp only
  rw [if_neg (by decide)]

/-- Settles O45: a launch record by what the scheduler finds of it, and the packets that become commands. -/
theorem workPackets : Obligations.WorkPackets := by
  refine ⟨fun s ctx q p r entries copy h hp hr => ?_, fun s ctx q p h hp => exec_launchPacket_refusals h hp, fun s ctx q tower p a b ha hb ht => ?_⟩
  · obtain ⟨u, hu, hgrids, hnext, hstrands, hcmds⟩ := launchPacket_makesGrid h hp hr
    exact ⟨u, _, hu, hgrids, hnext, rfl, rfl, rfl, rfl, rfl, rfl, rfl, rfl, rfl, rfl, rfl, hstrands, hcmds⟩
  · refine ⟨fun h hp hw hc => ?_, fun h hlow hw hc hhigh => ?_⟩
    · rw [exec, execCopyPacket, State.serve_of_served h, Packet.reserved_of_plain hp, bne_eq_false_iff_eq.mpr hw,
        State.engineAccept_taken ha hb ht hc]
      rfl
    · have hp : plainPacket p 7 := ⟨hlow, hhigh⟩
      rw [exec, execLayoutPacket, State.serve_of_served h, Packet.reserved_of_plain hp, bne_eq_false_iff_eq.mpr hw,
        State.engineAccept_taken ha hb ht hc]
      rfl

/-! ### PREEMPT and RESUME -/

theorem State.grid_setGrid_ne (s : State) (g : Grid) (i : Nat) (h : i ≠ g.id) : (s.setGrid g).grid i = s.grid i :=
  find_replace_ne Grid.id g s.grids i h

/-- A word below 256 is its low byte, and no bit stands above that. -/
theorem wbits_of_byte {w : Word} (h : w.toNat < 256) : wbits w 0 8 = w.toNat ∧ wbits w 8 56 = 0 := by
  obtain ⟨hlow, hhigh⟩ := wbits_byte w
  exact ⟨hlow.trans (Nat.mod_eq_of_lt h), hhigh.mpr h⟩

/-- The grids of a scope are held, and the placed teams of theirs asked to stop (R117). -/
def State.holdScope (s : State) (ids : List Nat) : State :=
  ({ s with grids := s.grids.map fun g => if ids.contains g.id then { g with held := true } else g } : State).askStop
    ((s.placedTeams.filter fun t => ids.contains t.grid).map (·.id))

/-- The counter of a PREEMPT advances at once where it stops no team, and else when the teams have left (R117). -/
def State.watchStop (s : State) (ctx : Nat) (counter : Word) (teams : List Nat) : State :=
  if teams.isEmpty then s.counterAdd ctx counter 1
  else match s.context ctx with
    | some x => if counter = 0 then s else s.setContext { x with watches := x.watches ++ [{ counter, teams }] }
    | none => s

theorem State.watchStop_sameJobs (s : State) (ctx : Nat) (counter : Word) (teams : List Nat) : s.SameJobs (s.watchStop ctx counter teams) := by
  unfold State.watchStop
  split
  · exact (counterAdd_hbmOnly ..).sameJobs
  · split
    · split
      · exact .refl s
      · exact ⟨rfl, rfl, rfl, rfl, rfl, rfl⟩
    · exact .refl s

section
variable {s : State} {ctx q : Nat} {p : Packet}

theorem exec_preemptPacket (h : served s ctx q .preempt p) (hp : plainPacket p 3) (hscope : (p.word 1).toNat < 3)
    (hc : s.counterOk p.x (p.word 3) = true) :
    let ids := s.scopeGrids ctx (p.word 1).toNat (p.word 2)
    exec (.preemptPacket ctx q) s = then_ ctx q p (((s.holdScope ids).watchStop ctx (p.word 3)
      ((s.placedTeams.filter fun t => ids.contains t.grid).map (·.id))).consume p 1) := by
  obtain ⟨hlow, hhigh⟩ := wbits_of_byte (show (p.word 1).toNat < 256 by omega)
  rw [exec, execPreemptPacket, State.serve_of_served h]
  dsimp only
  rw [hhigh, hlow, Packet.reserved_of_plain hp, hc, if_neg (by simpa using hscope)]
  rfl

/-- PREEMPT holds the grids of its scope and asks their placed teams to stop (R117). -/
theorem preemptPacket_holds (h : served s ctx q .preempt p) (hp : plainPacket p 3) (hscope : (p.word 1).toNat < 3)
    (hc : s.counterOk p.x (p.word 3) = true) :
    let ids := s.scopeGrids ctx (p.word 1).toNat (p.word 2)
    ∃ u, exec (.preemptPacket ctx q) s = .next u ∧
      u.grids = s.grids.map (fun g => if g.id ∈ ids then { g with held := true } else g) ∧ u.strands = s.strands ∧ u.cmds = s.cmds ∧
      u.teams = s.teams.map fun t =>
        if (∃ k ∈ s.placedTeams, k.grid ∈ ids ∧ k.id = t.id) then { t with stopAsked := true } else t := by
  intro ids
  obtain ⟨u, hu, hthen⟩ := then_sameJobs ctx q p (((s.holdScope ids).watchStop ctx (p.word 3)
    ((s.placedTeams.filter fun t => ids.contains t.grid).map (·.id))).consume p 1)
  obtain ⟨hteams, hgrids, hstrands, hcmds, -⟩ :=
    ((State.watchStop_sameJobs ..).trans (State.consume_sameJobs ..)).trans hthen
  refine ⟨u, (exec_preemptPacket h hp hscope hc).trans hu, hgrids.trans (List.map_congr_left fun g _ => if_congr ?_ rfl rfl), hstrands, hcmds,
    hteams.trans (List.map_congr_left fun t _ => if_congr ?_ rfl rfl)⟩
  · exact List.contains_iff_mem
  · simp [and_assoc]

/-- A grid that waits anew is held no more, and no other grid changes (R117). -/
theorem State.rewait_spec (s : State) (i : Nat) : (s.rewait i).grids.length = s.grids.length ∧
    (∀ g, (s.rewait i).grid i = some g → g.held = false) ∧ ∀ j, j ≠ i → (s.rewait i).grid j = s.grid j := by
  cases hg : s.grid i with
  | none =>
    have hsame : s.rewait i = s := by rw [State.rewait, hg]
    rw [hsame]
    exact ⟨rfl, by simp [hg], fun _ _ => rfl⟩
  | some g =>
    obtain rfl : g.id = i := by simpa using List.find?_some hg
    let y : Grid := { g with held := false, waitSince := s.cyc, zeroSince := if g.prio = 0 then some s.cyc else none }
    have hgrids : (s.rewait g.id).grids = (s.setGrid y).grids := by
      rw [State.rewait, hg]
      rfl
    have hgrid (j : Nat) : (s.rewait g.id).grid j = (s.setGrid y).grid j := by rw [State.grid, hgrids]; rfl
    refine ⟨?_, fun z hz => ?_, fun j hj => (hgrid j).trans (State.grid_setGrid_ne s y j hj)⟩
    · rw [hgrids]
      exact List.length_map _
    · have hy : (s.setGrid y).grid g.id = some y := State.grid_setGrid s y (Option.isSome_of_eq_some hg)
      rw [hgrid, hy] at hz
      cases hz
      rfl

theorem State.rewait_foldl (l : List Nat) (s : State) :
    (l.foldl State.rewait s).grids.length = s.grids.length ∧ (∀ i, i ∉ l → (l.foldl State.rewait s).grid i = s.grid i) ∧
      ∀ i, (i ∈ l ∨ ∀ g, s.grid i = some g → g.held = false) → ∀ g, (l.foldl State.rewait s).grid i = some g → g.held = false := by
  induction l generalizing s with
  | nil => exact ⟨rfl, fun _ _ => rfl, fun i h => h.resolve_left (by simp)⟩
  | cons a l ih =>
    obtain ⟨hlength, hfree, hother⟩ := s.rewait_spec a
    obtain ⟨klength, kother, kfree⟩ := ih (s.rewait a)
    refine ⟨klength.trans hlength, fun i hi => ?_, fun i hi => kfree i ?_⟩
    · obtain ⟨hne, hl⟩ := not_or.mp (mt List.mem_cons.mpr hi)
      exact (kother i hl).trans (hother i hne)
    · by_cases hia : i = a
      · exact .inr (hia ▸ hfree)
      · rw [hother i hia]
        exact hi.imp_left fun h => (List.mem_cons.mp h).resolve_left hia

theorem exec_resumePacket (h : served s ctx q .resume p) (hp : plainPacket p 2) (hscope : (p.word 1).toNat < 3) :
    exec (.resumePacket ctx q) s = then_ ctx q p
      ((((s.scopeGrids ctx (p.word 1).toNat (p.word 2)).filter fun i => (s.grid i).any (·.held)).foldl State.rewait s).consume p 1) := by
  obtain ⟨hlow, hhigh⟩ := wbits_of_byte (show (p.word 1).toNat < 256 by omega)
  rw [exec, execResumePacket, State.serve_of_served h]
  dsimp only
  rw [hhigh, hlow, Packet.reserved_of_plain hp, if_neg (by simp; omega)]

/-- RESUME lets the held grids of its scope wait anew, and changes no other grid (R117). -/
theorem resumePacket_frees (h : served s ctx q .resume p) (hp : plainPacket p 2) (hscope : (p.word 1).toNat < 3) :
    let ids := s.scopeGrids ctx (p.word 1).toNat (p.word 2)
    ∃ u, exec (.resumePacket ctx q) s = .next u ∧ u.grids.length = s.grids.length ∧
      (∀ g, g ∈ ids → ∀ y, u.grid g = some y → y.held = false) ∧ (∀ g, g ∉ ids → u.grid g = s.grid g) := by
  intro ids
  let held := ids.filter fun i => (s.grid i).any (·.held)
  obtain ⟨u, hu, hthen⟩ := then_sameJobs ctx q p ((held.foldl State.rewait s).consume p 1)
  obtain ⟨-, hgrids, -⟩ := (State.consume_sameJobs ..).trans hthen
  have hgrid (i : Nat) : u.grid i = (held.foldl State.rewait s).grid i := by rw [State.grid, hgrids]; rfl
  obtain ⟨hlength, hother, hfree⟩ := State.rewait_foldl held s
  refine ⟨u, (exec_resumePacket h hp hscope).trans hu, by rw [hgrids, hlength], fun i hi y hy => ?_, fun i hi => ?_⟩
  · refine hfree i ?_ y (hgrid i ▸ hy)
    by_cases hheld : (s.grid i).any (·.held) = true
    · exact .inl (List.mem_filter.mpr ⟨hi, hheld⟩)
    · exact .inr fun g hg => by simpa [hg] using hheld
  · exact (hgrid i).trans (hother i fun hin => hi (List.mem_of_mem_filter hin))

/-! ### Frozen teams -/

theorem State.frozenTeam_mem {t : Team} {n : Word} (h : s.frozenTeam ctx n = some t) : t ∈ s.teams := List.mem_of_find?_eq_some h

@[simp] theorem State.reenter_teams (s : State) (gid : Nat) (anew : Bool) : (s.reenter gid anew).teams = s.teams := by
  unfold State.reenter
  split
  · dsimp only
    split <;> rfl
  · rfl

/-- The state in which a team that was frozen is in the waiting set again (R292). -/
def State.unfreeze (s : State) (t : Team) : State :=
  (s.reenter t.grid false).chosen.setTeam { t with st := .saved, waitSince := s.cyc, turn := s.choice }

/-- The grid of a team that is in the waiting set again may pre-empt for it. -/
def State.unfrozen (s : State) (t : Team) : State :=
  match (s.unfreeze t).grid t.grid with
  | some g => (s.unfreeze t).preemptFor g
  | none => s.unfreeze t

theorem State.unfrozen_asks (s : State) (t : Team) : (s.unfreeze t).Asks (s.unfrozen t) := by
  unfold State.unfrozen
  split
  · exact State.preemptFor_asks ..
  · exact .refl _

section
variable {t : Team} (ht : s.frozenTeam ctx (p.word 2) = some t) (hlow : p.bits % 2 ^ 16 = 0) (hbyte : wbits (p.word 1) 8 56 = 0)
  (hhigh : p.bits < 2 ^ 192)
include ht hlow hbyte hhigh

omit hlow hbyte hhigh in
theorem exec_resumeFrozenTeam_nores (h : served s ctx q .resumeFrozen p) (hn : t.nores = true) :
    exec (.resumeFrozenTeam ctx q) s = then_ ctx q p (s.consume p 2) := by
  rw [exec, execResumeFrozenTeam, State.serve_of_served h]
  dsimp only
  rw [ht]
  simp [hn]

theorem exec_resumeFrozenTeam (h : served s ctx q .resumeFrozen p) (hn : t.nores = false) :
    exec (.resumeFrozenTeam ctx q) s = then_ ctx q p ((s.unfrozen t).consume p 1) := by
  have hp : plainPacket p 2 := ⟨hlow, hhigh⟩
  rw [exec, execResumeFrozenTeam, State.serve_of_served h]
  dsimp only
  rw [ht]
  dsimp only
  rw [hbyte, Packet.reserved_of_plain hp, if_neg (by simp [hn])]
  unfold State.unfrozen State.unfreeze
  cases State.grid _ t.grid <;> rfl

/-- A frozen team that may resume is in the waiting set, as it was saved (R292). -/
theorem resumeFrozenTeam_waits (h : served s ctx q .resumeFrozen p) (hn : t.nores = false) :
    ∃ u y, exec (.resumeFrozenTeam ctx q) s = .next u ∧ u.team t.id = some y ∧ y.st = .saved ∧ y.waitSince = s.cyc ∧ y.tcyc = t.tcyc := by
  obtain ⟨u, hu, hthen⟩ := then_sameJobs ctx q p ((s.unfrozen t).consume p 1)
  obtain ⟨hteams, -⟩ := (State.consume_sameJobs ..).trans hthen
  obtain ⟨-, -, -, hasked⟩ := s.unfrozen_asks t
  obtain ⟨b, hb⟩ := hasked t.id
  have hin : ((s.reenter t.grid false).chosen.team t.id).isSome = true := by
    rw [State.team, State.chosen_teams, State.reenter_teams]
    exact State.team_isSome_of_mem (State.frozenTeam_mem ht)
  have hset : (s.unfreeze t).team t.id = some { t with st := .saved, waitSince := s.cyc, turn := s.choice } := State.team_setTeam _ _ hin
  refine ⟨u, { t with st := .saved, waitSince := s.cyc, turn := s.choice, stopAsked := b }, (exec_resumeFrozenTeam ht hlow hbyte hhigh h hn).trans hu,
    ?_, rfl, rfl, rfl⟩
  rw [State.team, hteams]
  exact hb.trans (congrArg (Option.map _) hset)

theorem exec_discardFrozenTeam (h : served s ctx q .discardFrozen p) :
    let u := s.setTeam { t with st := .gone }
    exec (.discardFrozenTeam ctx q) s = then_ ctx q p ((if u.discardReady t.grid then u.discardGrid t.grid else u).consume p 1) := by
  have hp : plainPacket p 2 := ⟨hlow, hhigh⟩
  rw [exec, execDiscardFrozenTeam, State.serve_of_served h]
  dsimp only
  rw [ht]
  dsimp only
  rw [hbyte, Packet.reserved_of_plain hp, if_neg (by decide)]

end

theorem exec_frozenForms_unknown (ht : s.frozenTeam ctx (p.word 2) = none) :
    (served s ctx q .resumeFrozen p → exec (.resumeFrozenTeam ctx q) s = then_ ctx q p (s.consume p 2)) ∧
    (served s ctx q .discardFrozen p → exec (.discardFrozenTeam ctx q) s = then_ ctx q p (s.consume p 2)) := by
  refine ⟨fun h => ?_, fun h => ?_⟩
  · rw [exec, execResumeFrozenTeam]
    exact State.serve_refused h (by rw [ht])
  · rw [exec, execDiscardFrozenTeam]
    exact State.serve_refused h (by rw [ht])

end

theorem scopePackets : ScopePackets := by
  refine ⟨fun s ctx q p h => preemptPacket_holds h, fun s ctx q p h => resumePacket_frees h, fun s ctx q p t ht hlow hbyte hhigh => ?_,
    fun s ctx q p ht => exec_frozenForms_unknown ht⟩
  exact ⟨fun h => ⟨exec_resumeFrozenTeam_nores ht h, resumeFrozenTeam_waits ht hlow hbyte hhigh h⟩,
    exec_discardFrozenTeam ht hlow hbyte hhigh⟩

/-! ### The holds of a queue -/

section
variable {s : State} {ctx q : Nat} {x : Context} {k : Queue} (hx : s.context ctx = some x) (hk : x.queues[q]? = some k)
include hx hk

theorem exec_waitPacketSatisfied {a t : Word} (hold : k.hold = .wait a t) : exec (.waitPacketSatisfied ctx q) s =
    .next (if s.queueWaitMet ctx a t then s.setQueue ctx q fun k => { k with hold := .none } else s.pollCounter ctx a) := by
  simp only [exec, execWaitPacketSatisfied, hx, hk, hold]

theorem exec_fencePacketComplete {e : Nat} {a n : Word} (hold : k.hold = .fence e a n) : exec (.fencePacketComplete ctx q) s =
    .next (if s.queueDrained k then
      (s.setQueue ctx q fun k => { k with hold := .none, open_ := [], grids := [] }).counterAdd ctx a n.toNat else s) := by
  simp only [exec, execFencePacketComplete, hx, hk, hold]

end

/-! ### Pending launches -/

theorem get_setIfInBounds_ofNat {α : Type} {n : Nat} [NeZero n] (xs : Vector α n) {i : Nat} (hi : i < n) (x : α) :
    (xs.setIfInBounds i x).get (Fin.ofNat n i) = x := by
  rw [show Fin.ofNat n i = ⟨i, hi⟩ from Fin.ext (Nat.mod_eq_of_lt hi)]
  exact Vector.getElem_setIfInBounds_self hi

theorem State.core_setCore (s : State) {i : Nat} (hi : i < 16) (c : Core) : (s.setCore i c).core i = c := get_setIfInBounds_ofNat s.cores hi c

theorem State.launches_popLaunch {s : State} {core : Nat} {l : PendingLaunch} {rest : List PendingLaunch} (hcore : core < 16)
    (hl : (s.core core).launches = l :: rest) : ((s.popLaunch core).core core).launches = rest := by
  rw [State.popLaunch, State.core_setCore s hcore, hl]
  rfl

/-- What a pending launch that is taken comes to, by what the scheduler finds of its record (R109). -/
def State.launched (s : State) (c : Cmd) (g : Grid) (addr : Word) : Verdict → State
  | .poisoned p => s.accessRaise c.id { Raised.of .poisonConsume .access 2 with pctx := p.1, pcause := p.2 }
  | .accepted r entries copy => (s.acceptGrid c.ctx g.queue g.prio addr r entries copy).finish c.id 0
  | .malformed | .unplaceable => s.finish c.id 5

/-- A command that ends leaves the cores and the grids as they are. -/
theorem State.finish_tables {s : State} {cid : Nat} {c : Cmd} (hc : s.cmd cid = some c) (status : BitVec 4) :
    (s.finish cid status).cores = s.cores ∧ (s.finish cid status).grids = s.grids ∧
      ((s.finish cid status).cmd cid).map (·.st) = some (.finishing status) := by
  obtain rfl : c.id = cid := by simpa using List.find?_some hc
  have hset := State.cmd_setCmd s { c with st := .finishing status, expanding := false } (Option.isSome_of_eq_some hc)
  rw [State.finish_eq hc]
  exact ⟨rfl, rfl, congrArg (Option.map (·.st)) hset⟩

section
variable {s : State} {core : Nat} {l : PendingLaunch} {rest : List PendingLaunch} {c : Cmd} {t : Team}
  (hl : (s.core core).launches = l :: rest) (hc : s.cmd l.cmd = some c) (ht : s.team c.team = some t)
include hl hc ht

theorem exec_pendingLaunchTake_early (h : s.ticks (core / 4) = false ∨ t.tcyc < l.issued + 16 ∨ s.launchHeld c = true) :
    exec (.pendingLaunchTake core) s = .next s := by
  have hheld : (!s.ticks (core / 4) || decide (t.tcyc < l.issued + 16) || decide (s.cyc < c.notBefore) || s.launchHeld c || t.freezing ||
      decide (core ≥ 16)) = true := by
    obtain h | h | h := h <;> simp [h]
  rw [exec, execPendingLaunchTake, hl]
  dsimp only [List.head?]
  rw [hc]
  dsimp only
  rw [ht]
  cases s.context c.ctx with
  | none => rfl
  | some x => exact if_pos hheld

section
variable {x : Context} {g : Grid} (hcore : core < 16) (hx : s.context c.ctx = some x) (hg : s.grid t.grid = some g)
  (hticks : s.ticks (core / 4) = true) (hissued : l.issued + 16 ≤ t.tcyc) (hfreezing : t.freezing = false) (hnot : c.notBefore ≤ s.cyc)
  (hheld : s.launchHeld c = false)
include hcore hx hticks hissued hfreezing hnot hheld

/-- The first launch of a core is taken where nothing holds it. -/
theorem exec_pendingLaunchTake_fault {r : Raised} (hr : s.tokenFault c = some r) :
    exec (.pendingLaunchTake core) s = .next ((s.popLaunch core).commandFault c r) := by
  have hfree : ¬(!s.ticks (core / 4) || decide (t.tcyc < l.issued + 16) || decide (s.cyc < c.notBefore) || s.launchHeld c || t.freezing ||
      decide (core ≥ 16)) = true := by simp [hticks, hissued, hfreezing, hnot, hheld, hcore]
  rw [exec, execPendingLaunchTake, hl]
  dsimp only [List.head?]
  rw [hc]
  dsimp only
  rw [ht, hx]
  dsimp only
  rw [if_neg hfree, hr]

include hg

theorem exec_pendingLaunchTake (hr : s.tokenFault c = none) : exec (.pendingLaunchTake core) s =
    .next (((s.popLaunch core).launched c g l.addr ((s.popLaunch core).checkLaunch x l.addr)).noteLaunch x l.addr) := by
  have hfree : ¬(!s.ticks (core / 4) || decide (t.tcyc < l.issued + 16) || decide (s.cyc < c.notBefore) || s.launchHeld c || t.freezing ||
      decide (core ≥ 16)) = true := by simp [hticks, hissued, hfreezing, hnot, hheld, hcore]
  have hgrid : (s.popLaunch core).grid t.grid = some g := hg
  rw [exec, execPendingLaunchTake, hl]
  dsimp only [List.head?]
  rw [hc]
  dsimp only
  rw [ht, hx]
  dsimp only
  rw [if_neg hfree, hr, hgrid]
  dsimp only
  cases (s.popLaunch core).checkLaunch x l.addr <;> rfl

end

end

/-- Taking a launch whose record is accepted makes a grid of the launching team's queue and priority, and the command is done (R109, R393). -/
theorem State.launched_accepted {s : State} {c : Cmd} {x : Context} (hc : s.cmd c.id = some c) (hx : s.context c.ctx = some x) (g : Grid) (addr : Word)
    (r : LaunchRec) (entries : List (BitVec 256)) (copy : SMap (BitVec 256)) :
    let u := s.launched c g addr (.accepted r entries copy)
    u.cores = s.cores ∧ u.grids = s.grids ++ [s.newGrid c.ctx g.queue g.prio addr r] ∧ (u.cmd c.id).map (·.st) = some (.finishing 0) := by
  intro u
  obtain ⟨hgrids, -, hcmds, hcores, -⟩ := State.acceptGrid_spec hx g.queue g.prio addr r entries copy
  have hcmd : (s.acceptGrid c.ctx g.queue g.prio addr r entries copy).cmd c.id = some c := by
    rw [State.cmd, hcmds]
    exact hc
  obtain ⟨kcores, kgrids, kcmd⟩ := State.finish_tables hcmd 0
  exact ⟨kcores.trans hcores, kgrids.trans hgrids, kcmd⟩

theorem queueHolds : QueueHolds := by
  refine ⟨fun s ctx q x k hx hk => ⟨fun a t hold => ?_, fun e a n hold => ?_⟩, fun s core l rest c t x g hcore hl hc ht hx hg hticks hissued hfreezing
    hnot hheld => ?_, fun s core l rest c t hl hc ht h => exec_pendingLaunchTake_early hl hc ht h⟩
  · rw [exec_waitPacketSatisfied hx hk hold]
    exact ⟨fun hmet => by rw [if_pos hmet], fun hmet => by rw [if_neg (by simp [hmet])]⟩
  · rw [exec_fencePacketComplete hx hk hold]
    exact ⟨fun hdone => by rw [if_pos hdone], fun hdone => by rw [if_neg (by simp [hdone])]⟩
  · have hid : c.id = l.cmd := by simpa using List.find?_some hc
    have hcmd : (s.popLaunch core).cmd c.id = some c := hid ▸ hc
    have hrest := State.launches_popLaunch hcore hl
    have taken {v : Verdict} {u : State} (hr : s.tokenFault c = none) (hv : (s.popLaunch core).checkLaunch x l.addr = v)
        (hu : u = ((s.popLaunch core).launched c g l.addr v).noteLaunch x l.addr) : exec (.pendingLaunchTake core) s = .next u := by
      rw [hu, ← hv]
      exact exec_pendingLaunchTake hl hc ht hcore hx hg hticks hissued hfreezing hnot hheld hr
    refine ⟨fun r hr => exec_pendingLaunchTake_fault hl hc ht hcore hx hticks hissued hfreezing hnot hheld hr, fun hr => ⟨fun r entries copy hv => ?_,
      fun hv => ?_⟩⟩
    · obtain ⟨hcores, hgrids, hdone⟩ := State.launched_accepted hcmd hx g l.addr r entries copy
      obtain ⟨-, kgrids, -, kcmds, kcores, -⟩ := (State.noteLaunch_hbmOnly
        ((s.popLaunch core).launched c g l.addr (.accepted r entries copy)) x l.addr).sameJobs
      refine ⟨_, _, taken hr hv rfl, ?_, kgrids.trans hgrids, rfl, rfl, rfl, rfl, rfl, ?_⟩
      · rw [State.core, kcores, hcores]
        exact hrest
      · rw [State.cmd, kcmds]
        exact hdone
    · obtain ⟨hcores, hgrids, hdone⟩ := State.finish_tables hcmd 5
      obtain ⟨-, kgrids, -, kcmds, kcores, -⟩ := (State.noteLaunch_hbmOnly ((s.popLaunch core).finish c.id 5) x l.addr).sameJobs
      refine ⟨((s.popLaunch core).finish c.id 5).noteLaunch x l.addr, ?_, ?_, kgrids.trans hgrids, ?_⟩
      · obtain hv | hv := hv
        · exact taken hr hv rfl
        · exact taken hr hv rfl
      · rw [State.core, kcores, hcores]
        exact hrest
      · rw [State.cmd, kcmds]
        exact hdone

/-- Settles O46: PREEMPT and RESUME by the grids of their scope, frozen teams, the holds of a queue, and the launch a core has pending. -/
theorem scopesAndHolds : Obligations.ScopesAndHolds := ⟨scopePackets, queueHolds⟩

end Sys2Proof.Machine

/-! # O52: band leases, and the auditor's replays -/

namespace Sys2Proof.Machine

open Sys2Proof.Claims

/-! ### Leases -/

section
variable {s : State} {t : Team} {i : Nat} {k : Claim} (ht : s.team t.id = some t) (hk : t.claims[i]? = some k)
include ht hk

theorem exec_leaseBudgetExpiry (hbefore : t.before = true) (hst : k.st = .held) : exec (.leaseBudgetExpiry t.id i) s =
    .next (if k.heldAt t.tcyc then s else s.setTeam { t with claims := t.claims.set i { k with st := .expired } }) := by
  rw [exec, execLeaseBudgetExpiry, ht]
  dsimp only
  rw [hk]
  by_cases hheld : k.heldAt t.tcyc = true
  · rw [if_pos hheld]
    exact congrArg _ (if_neg (by simp [hheld]))
  · rw [if_neg hheld]
    exact congrArg _ (if_pos (by simp [hbefore, hst, hheld]))

/-- A request that is not to be granted in this cycle goes on waiting (R197). -/
theorem exec_leaseGrant_waits
    (h : s.ticks (t.tower k.btw) = false ∨ s.grantable t.id (t.tower k.btw) k k.reqCyc k.reqCore = false) :
    exec (.leaseGrant t.id i) s = .next s := by
  have hnot : ¬(t.before && s.ticks (t.tower k.btw) && k.st == .waiting && s.grantable t.id (t.tower k.btw) k k.reqCyc k.reqCore) = true := by
    obtain h | h := h <;> simp [h]
  rw [exec, execLeaseGrant, ht]
  dsimp only
  rw [hk]
  exact if_neg hnot

section
variable (hbefore : t.before = true) (hticks : s.ticks (t.tower k.btw) = true)
include hbefore hticks

section
variable (hst : k.st = .waiting) (hgrant : s.grantable t.id (t.tower k.btw) k k.reqCyc k.reqCore = true)
include hst hgrant

theorem exec_leaseGrant_noLoads (hactive : k.recActive = []) (hshadow : k.recShadow = []) : exec (.leaseGrant t.id i) s = .next
    (((s.setTeam { t with claims := t.claims.set i { k with st := .held, budget := .paced 256 (t.tcyc + 2 ^ 20) } }).zeroPlanes
      { t with claims := [k] }).finishLease t i) := by
  rw [exec, execLeaseGrant, ht]
  dsimp only
  rw [hk]
  dsimp only
  rw [hbefore, hticks, hst, hgrant, if_pos (by decide), hactive, hshadow, if_neg (by decide), Budget.fresh]

theorem exec_leaseGrant_replays (hloads : k.recActive ≠ [] ∨ k.recShadow ≠ []) : exec (.leaseGrant t.id i) s = .next
    ((s.chosen.setTeam { t with
      claims := t.claims.set i { k with st := .replaying, replayEnd := t.tcyc + min 260 (s.choice % 261) } }).ownPlanes t k) := by
  have hsome : (!k.recActive.isEmpty || !k.recShadow.isEmpty) = true := by simpa using hloads
  rw [exec, execLeaseGrant, ht]
  dsimp only
  rw [hk]
  dsimp only
  rw [hbefore, hticks, hst, hgrant, if_pos (by decide), if_pos hsome]

end

theorem exec_leaseReplayComplete (hst : k.st = .replaying) (hend : k.replayEnd ≤ t.tcyc) : exec (.leaseReplayComplete t.id i) s = .next
    (((s.setTeam { t with claims := t.claims.set i { k with st := .held, budget := .paced 256 (t.tcyc + 2 ^ 20) } }).replayClaim t k).finishLease
      t i) := by
  rw [exec, execLeaseReplayComplete, ht]
  dsimp only
  rw [hk]
  dsimp only
  rw [if_pos (by simp [hbefore, hticks, hst, hend]), Budget.fresh]

end

end

theorem leases : Leases := by
  intro s t i k ht hk hbefore
  refine ⟨fun hst hheld => ?_, fun hst hheld => ?_, fun _ hgrant => exec_leaseGrant_waits ht hk (.inr hgrant),
    fun _ hticks => exec_leaseGrant_waits ht hk (.inl hticks), fun hst hticks hgrant =>
      ⟨exec_leaseGrant_noLoads ht hk hbefore hticks hst hgrant, fun hloads => ⟨_, Nat.le_add_right .., ?_,
        exec_leaseGrant_replays ht hk hbefore hticks hst hgrant hloads⟩⟩,
    fun hst hticks hend => exec_leaseReplayComplete ht hk hbefore hticks hst hend⟩
  · rw [exec_leaseBudgetExpiry ht hk hbefore hst, if_neg (by simp [hheld])]
  · rw [exec_leaseBudgetExpiry ht hk hbefore hst, if_pos hheld]
  · exact Nat.add_le_add_left (Nat.min_le_left ..) _

/-! ### Audits -/

/-- A replay on a sound site agrees with the command where every signature does (R297). -/
theorem Sample.mismatch_sound_iff (x : Sample) (row : Nat) : x.mismatch row 0 = none ↔ ∀ e ∈ x.compared, e.2.1 = e.2.2 := by
  have hsound (e : Nat × BitVec 128 × BitVec 128) : siteSig row 0 e = e.2.2 := by simp [siteSig]
  simp only [Sample.mismatch, Option.map_eq_none_iff, List.find?_eq_none, hsound, bne_iff_ne, not_not]

section
variable {s : State} {i : Nat} {x : Sample} (hi : i < 4) (hx : (s.tower i).sample = some x)
include hi hx

section
variable {row : Nat} {flip : BitVec 128} (hcomplete : x.complete = true) (hfirst : x.bad1 = none)
include hcomplete hfirst

theorem exec_auditReplayComplete_agrees (hagree : x.mismatch row flip = none) :
    exec (.auditReplayComplete i row flip) s = .next (s.setTower i { s.tower i with sample := none }) := by
  rw [exec, execAuditReplayComplete, hx]
  dsimp only
  rw [if_pos (by simp [hi, hcomplete, hfirst]), hagree]

theorem exec_auditReplayComplete_differs {place : Nat} {v : BitVec 128} (hdiffers : x.mismatch row flip = some (place, v)) :
    exec (.auditReplayComplete i row flip) s = .next
      ((s.auditSite (((List.range 4).map fun k => (i + k) % 4).filter fun y => y != i && some y != x.site1)).elim
        (s.auditEvent i x place 2 (x.site1.getD 0))
        fun y => s.setTower i { s.tower i with sample := some { x with bad1 := some (place, v), site2 := some y } }) := by
  rw [exec, execAuditReplayComplete, hx]
  dsimp only
  rw [if_pos (by simp [hi, hcomplete, hfirst]), hdiffers]
  dsimp only
  cases s.auditSite _ <;> rfl

end

/-- The verdict of a second replay with signature `second`, by what it agrees with (R298). -/
def auditVerdict (first own second : BitVec 128) : Nat := if second = first then 0 else if second = own then 1 else 3

section
variable {flip : BitVec 128} {place : Nat} {first : BitVec 128} (hfirst : x.bad1 = some (place, first))
include hfirst

theorem exec_auditSecondReplayComplete {k : Nat} {own rep : BitVec 128} (hplace : x.compared.find? (·.1 == place) = some (k, own, rep)) :
    exec (.auditSecondReplayComplete i flip) s =
      .next (s.auditEvent i x place (auditVerdict first own (rep ^^^ flip)) (x.site2.getD 0)) := by
  obtain rfl : k = place := by simpa using List.find?_some hplace
  have hsig : siteSig k flip (k, own, rep) = rep ^^^ flip := if_pos rfl
  rw [exec, execAuditSecondReplayComplete, hx]
  dsimp only
  rw [hfirst]
  dsimp only
  rw [if_pos hi, hplace]
  dsimp only [Option.map]
  rw [hsig, auditVerdict]

theorem exec_auditSecondReplayComplete_unplaced (hplace : x.compared.find? (·.1 == place) = none) :
    exec (.auditSecondReplayComplete i flip) s = .next (s.auditEvent i x place 3 (x.site2.getD 0)) := by
  rw [exec, execAuditSecondReplayComplete, hx]
  dsimp only
  rw [hfirst]
  dsimp only
  rw [if_pos hi, hplace]
  rfl

end

end

/-- A record that is counted for its grid leaves the grid's count of mismatches (R307). -/
theorem State.countRecord_mismatch (s : State) (p : PendingRecord) {i : Nat} {g : Grid} (hg : s.grid i = some g) :
    ((s.countRecord p).grid i).map (·.mismatch) = some g.mismatch := by
  have hkeep {y z : Grid} (hy : p.grid.bind s.grid = some y) (hid : z.id = y.id) (hz : z.mismatch = y.mismatch) :
      ((s.setGrid z).grid i).map (·.mismatch) = some g.mismatch := by
    obtain ⟨j, -, hj⟩ := Option.bind_eq_some_iff.mp hy
    have hyj : y.id = j := by simpa using List.find?_some hj
    by_cases hiz : i = z.id
    · have hgy : g = y := by
        rw [hiz, hid, hyj, hj] at hg
        exact (Option.some.inj hg).symm
      rw [hiz, State.grid_setGrid s z (by rw [← hiz, hg]; rfl), Option.map_some, hz, hgy]
    · rw [State.grid_setGrid_ne s z i hiz, hg]
      rfl
  have hsame : (s.grid i).map (·.mismatch) = some g.mismatch := by rw [hg]; rfl
  unfold State.countRecord
  split
  · exact hsame
  · next y hy =>
    dsimp only
    split
    · split
      · exact hkeep hy rfl rfl
      · exact hsame
    · split
      · exact hkeep hy rfl rfl
      · exact hsame

theorem State.addRecord_mismatch (s : State) (ctx : Nat) (p : PendingRecord) {i : Nat} {g : Grid} (hg : s.grid i = some g) :
    ((s.addRecord ctx p).grid i).map (·.mismatch) = some g.mismatch := by
  have hsame : (s.grid i).map (·.mismatch) = some g.mismatch := by rw [hg]; rfl
  unfold State.addRecord
  split
  · exact hsame
  · split
    · exact hsame
    · exact State.countRecord_mismatch _ p hg

/-- One more mismatch is counted for a grid (R298). -/
def State.countMismatch (s : State) (gid : Nat) : State :=
  match s.grid gid with
  | some g => s.setGrid { g with mismatch := g.mismatch + 1 }
  | none => s

theorem State.grid_countMismatch {s : State} {gid n : Nat} (h : (s.grid gid).map (·.mismatch) = some n) :
    ((s.countMismatch gid).grid gid).map (·.mismatch) = some (n + 1) := by
  obtain ⟨g, hg, rfl⟩ := Option.map_eq_some_iff.mp h
  obtain rfl : g.id = gid := by simpa using List.find?_some hg
  have hset := State.grid_setGrid s { g with mismatch := g.mismatch + 1 } (Option.isSome_of_eq_some hg)
  rw [State.countMismatch, hg]
  exact congrArg (Option.map (·.mismatch)) hset

/-- A mismatch frees the tower's auditor, and its grid counts it (R298). -/
theorem State.auditEvent_spec (s : State) {i : Nat} (hi : i < 4) (x : Sample) (place verdict site2 : Nat) :
    ((s.auditEvent i x place verdict site2).tower i).sample = none ∧
      ∀ g, s.grid x.grid = some g → ((s.auditEvent i x place verdict site2).grid x.grid).map (·.mismatch) = some (g.mismatch + 1) := by
  refine ⟨?_, fun g hg => ?_⟩
  · exact congrArg Tower.sample (get_setIfInBounds_ofNat (n := 4) _ hi _)
  · exact State.grid_countMismatch (State.addRecord_mismatch s x.ctx _ hg)

theorem audits : Audits := by
  intro s i row flip x hi hx
  refine ⟨exec_auditReplayComplete_agrees hi hx, fun place v hcomplete hfirst hdiffers => ⟨fun y hy => ?_, fun hnone => ?_⟩,
    x.mismatch_sound_iff row, fun place first hfirst => ⟨fun k own rep => exec_auditSecondReplayComplete hi hx hfirst,
      exec_auditSecondReplayComplete_unplaced hi hx hfirst⟩, fun r v y => s.auditEvent_spec hi x r v y⟩
  · rw [exec_auditReplayComplete_differs hi hx hcomplete hfirst hdiffers, hy]
    rfl
  · rw [exec_auditReplayComplete_differs hi hx hcomplete hfirst hdiffers, hnone]
    rfl

/-- Settles O52: a lease by the state of its claim, and a replay by what it agrees with. -/
theorem leasesAndAudits : Obligations.LeasesAndAudits := ⟨leases, audits⟩

end Sys2Proof.Machine

/-! # O49: due grids, priority rises, quanta, swap-outs and stop requests -/

namespace Sys2Proof.Machine

open Sys2Proof.Claims

/-! ### Placement does not depend on who is asked to stop -/

/-- A map over teams that changes only whether they are asked to stop. -/
def Marks (f : Team → Team) : Prop := ∀ t, ∃ b, f t = { t with stopAsked := b }

/-- The state whose teams are those of another under a map, with choices of its own. -/
def State.mapTeams (s : State) (f : Team → Team) (choices : List Nat) (fresh : Nat) : State := { s with teams := s.teams.map f, choices, fresh }

/-- What is read of a team but whether it is asked to stop is the same under such a map. -/
theorem Marks.read {f : Team → Team} (hf : Marks f) {α : Type} (g : Team → α) (hg : ∀ t b, g { t with stopAsked := b } = g t) (t : Team) :
    g (f t) = g t := by
  obtain ⟨b, hb⟩ := hf t
  rw [hb, hg]

section
variable {f : Team → Team} (hf : Marks f) (s : State) (choices : List Nat) (fresh : Nat)
include hf

theorem State.placedTeams_mapTeams : (s.mapTeams f choices fresh).placedTeams = s.placedTeams.map f := by
  have hplaced : Team.placed ∘ f = Team.placed := funext (hf.read Team.placed fun _ _ => rfl)
  rw [State.placedTeams, State.placedTeams, State.mapTeams, List.filter_map, hplaced]

/-- What the placed teams of a tower use is read off each of them. -/
theorem State.flatMap_placedTeams_mapTeams {α : Type} (g : Team → List α) (hg : ∀ t b, g { t with stopAsked := b } = g t) :
    (s.mapTeams f choices fresh).placedTeams.flatMap g = s.placedTeams.flatMap g := by
  rw [State.placedTeams_mapTeams hf, List.flatMap_map]
  exact List.flatMap_congr fun t _ => hf.read g hg t

theorem State.towerClaims_mapTeams (team tower : Nat) : (s.mapTeams f choices fresh).towerClaims team tower = s.towerClaims team tower := by
  have hfilter : (fun t : Team => t.id != team && (t.placed || (t.yieldAt.isSome && t.st == .saved))) ∘ f =
      fun t => t.id != team && (t.placed || (t.yieldAt.isSome && t.st == .saved)) :=
    funext (hf.read (fun t : Team => t.id != team && (t.placed || (t.yieldAt.isSome && t.st == .saved))) fun _ _ => rfl)
  rw [State.towerClaims, State.towerClaims, State.mapTeams, List.filter_map, hfilter, List.flatMap_map]
  exact List.flatMap_congr fun t _ => hf.read (fun t => t.claims.filter fun k => t.tower k.btw == tower && (t.placed || k.st == .waiting))
    (fun _ _ => rfl) t

theorem State.usedTiles_mapTeams (tower : Nat) : (s.mapTeams f choices fresh).usedTiles tower = s.usedTiles tower :=
  State.flatMap_placedTeams_mapTeams hf s choices fresh _ fun _ _ => rfl

theorem State.usedAccs_mapTeams (tower : Nat) : (s.mapTeams f choices fresh).usedAccs tower = s.usedAccs tower :=
  State.flatMap_placedTeams_mapTeams hf s choices fresh _ fun _ _ => rfl

theorem State.usedBelts_mapTeams (tower : Nat) : (s.mapTeams f choices fresh).usedBelts tower = s.usedBelts tower :=
  State.flatMap_placedTeams_mapTeams hf s choices fresh _ fun _ _ => rfl

theorem State.freeBelt_mapTeams (tower n : Nat) : (s.mapTeams f choices fresh).freeBelt tower n = s.freeBelt tower n := by
  rw [State.freeBelt, State.freeBelt, State.usedBelts_mapTeams hf]

theorem State.grantable_mapTeams (team tower : Nat) (k : Claim) (cyc core : Nat) :
    (s.mapTeams f choices fresh).grantable team tower k cyc core = s.grantable team tower k cyc core := by
  rw [State.grantable, State.grantable, State.towerClaims_mapTeams hf]

theorem State.places_mapTeams (n : Need) : (s.mapTeams f choices fresh).places n = s.places n := by
  have hctx : (s.mapTeams f choices fresh).placedTeams.map (·.ctx) = s.placedTeams.map (·.ctx) := by
    rw [State.placedTeams_mapTeams hf, List.map_map]
    exact List.map_congr_left fun t _ => hf.read (·.ctx) (fun _ _ => rfl) t
  have hfits (t0 c0 : Nat) : (s.mapTeams f choices fresh).fits n t0 c0 = s.fits n t0 c0 := by
    unfold State.fits
    simp only [State.freeBelt_mapTeams hf, State.usedTiles_mapTeams hf, State.usedAccs_mapTeams hf, State.grantable_mapTeams hf, hctx]
    rfl
  simp only [State.places, hfits]

/-! ### The next team and its places -/

theorem State.firstSaved_mapTeams (gid : Nat) : (s.mapTeams f choices fresh).firstSaved gid = (s.firstSaved gid).map f := by
  have hfilter : (fun t : Team => t.grid == gid && t.st == .saved) ∘ f = fun t => t.grid == gid && t.st == .saved :=
    funext (hf.read (fun t : Team => t.grid == gid && t.st == .saved) fun _ _ => rfl)
  have hturn := hf.read (fun t => t.waitSince + t.turn) fun _ _ => rfl
  rw [State.firstSaved, State.firstSaved, State.mapTeams, List.filter_map, hfilter, List.foldl_map]
  refine List.foldl_hom (Option.map f) (init := none) fun b t => ?_
  cases b with
  | none => rfl
  | some u =>
    simp only [Option.map_some, hturn]
    split <;> rfl

theorem State.nextTeam_mapTeams (g : Grid) : (s.mapTeams f choices fresh).nextTeam g = (s.nextTeam g).map (Option.map f) := by
  have hgone : (s.mapTeams f choices fresh).teams.any (fun t => t.grid == g.id && t.st == .gone) =
      s.teams.any fun t => t.grid == g.id && t.st == .gone := by
    rw [State.mapTeams, List.any_map]
    congr 1
    exact funext (hf.read (fun t : Team => t.grid == g.id && t.st == .gone) fun _ _ => rfl)
  rw [State.nextTeam, State.nextTeam, hgone, State.firstSaved_mapTeams hf]
  split
  · rfl
  · cases s.firstSaved g.id with
    | some t => rfl
    | none =>
      simp only [Option.map_none]
      split <;> rfl

theorem State.nextPlaces_mapTeams (g : Grid) : (s.mapTeams f choices fresh).nextPlaces g = s.nextPlaces g := by
  rw [State.nextPlaces, State.nextPlaces, State.nextTeam_mapTeams hf]
  match s.nextTeam g with
  | none => rfl
  | some none => exact State.places_mapTeams hf s choices fresh _
  | some (some t) =>
    have hneed : (s.mapTeams f choices fresh).teamNeed (f t) = s.teamNeed t := hf.read s.teamNeed (fun _ _ => rfl) t
    simp only [Option.map_some, hneed]
    exact State.places_mapTeams hf s choices fresh _

end

/-! ### The teams that a waiting grid pre-empts -/

/-- Whether a grid's next team could be placed if some teams left beside those that are leaving (R106). -/
def State.fitsWithout (s : State) (g : Grid) (l : List Nat) : Bool := !((s.without (s.leaving ++ l)).nextPlaces g).isEmpty

/-- A list turned by a choice. -/
def turnedBy (k : Nat) (l : List Nat) : List Nat := l.drop (k % (l.length + 1)) ++ l.take (k % (l.length + 1))

theorem mem_of_mem_turnedBy {k i : Nat} {l : List Nat} (h : i ∈ turnedBy k l) : i ∈ l :=
  (List.mem_append.mp h).elim List.mem_of_mem_drop List.mem_of_mem_take

theorem turnedBy_singleton (k i : Nat) : turnedBy k [i] = [i] := by
  obtain h | h : k % 2 = 0 ∨ k % 2 = 1 := by omega
  · simp [turnedBy, h]
  · simp [turnedBy, h]

theorem State.victims_eq (s : State) (g : Grid) (cand : List Nat) :
    s.victims g cand =
      let l := cand.foldl (fun l t => if s.fitsWithout g l then l else l ++ [t]) []
      if s.fitsWithout g l then l.foldl (fun l t => if s.fitsWithout g (l.filter (· != t)) then l.filter (· != t) else l) l else [] := rfl

/-- Only candidates are victims. -/
theorem State.mem_of_mem_victims {s : State} {g : Grid} {cand : List Nat} {i : Nat} (h : i ∈ s.victims g cand) : i ∈ cand := by
  have added (l l' : List Nat) (hi : i ∈ l.foldl (fun l t => if s.fitsWithout g l then l else l ++ [t]) l') : i ∈ l ∨ i ∈ l' := by
    induction l generalizing l' with
    | nil => exact .inr hi
    | cons a l ih =>
      obtain hl | hl := ih _ hi
      · exact .inl (List.mem_cons_of_mem _ hl)
      · dsimp only at hl
        split at hl
        · exact .inr hl
        · obtain hl | hl := List.mem_append.mp hl
          · exact .inr hl
          · exact .inl (List.mem_singleton.mp hl ▸ List.mem_cons_self)
  have dropped (l l' : List Nat)
      (hi : i ∈ l.foldl (fun l t => if s.fitsWithout g (l.filter (· != t)) then l.filter (· != t) else l) l') : i ∈ l' := by
    induction l generalizing l' with
    | nil => exact hi
    | cons a l ih =>
      have hl := ih _ hi
      dsimp only at hl
      split at hl
      · exact List.mem_of_mem_filter hl
      · exact hl
  rw [State.victims_eq] at h
  dsimp only at h
  split at h
  · exact (added cand [] (dropped _ _ h)).resolve_right (by simp)
  · cases h

theorem State.victims_nil (s : State) (g : Grid) : s.victims g [] = [] :=
  List.eq_nil_iff_forall_not_mem.mpr fun _ h => absurd (State.mem_of_mem_victims h) (by simp)

/-- A single candidate whose leaving alone makes room is the victim. -/
theorem State.victims_singleton {s : State} {g : Grid} {i : Nat} (hnone : s.fitsWithout g [] = false) (hone : s.fitsWithout g [i] = true) :
    s.victims g [i] = [i] := by
  simp [State.victims_eq, hnone, hone]

/-- The teams that a waiting grid may pre-empt for their base priority, and those it may for their quantum (R106). -/
def State.weaker (s : State) (g : Grid) : List Nat := (s.teams.filter (s.outranks g)).map (·.id)

/-- The teams whose quantum is over, among those that the grid does not outrank. -/
def State.overdue (s : State) (g : Grid) : List Nat := (s.teams.filter fun t => s.outlasts g t && !s.outranks g t).map (·.id)

theorem State.preempted_eq (s : State) (g : Grid) (k : Nat) :
    s.preempted g k = if (s.nextTeam g).isNone || !(s.nextPlaces g).isEmpty then []
      else if s.victims g (turnedBy k (s.weaker g)) = [] then s.victims g (turnedBy k (s.weaker g) ++ turnedBy k (s.overdue g))
      else s.victims g (turnedBy k (s.weaker g)) := by
  unfold State.preempted
  split
  · rfl
  · dsimp only
    split
    · next h => exact (if_pos h).symm
    · next h => exact (if_neg h).symm

/-- A team that a grid pre-empts is one that it outranks or outlasts, and the grid waits without a place (R106). -/
theorem State.of_mem_preempted {s : State} {g : Grid} {k i : Nat} (h : i ∈ s.preempted g k) :
    (s.nextTeam g).isSome = true ∧ s.nextPlaces g = [] ∧ ∃ t ∈ s.teams, t.id = i ∧ (s.outranks g t = true ∨ s.outlasts g t = true) := by
  rw [State.preempted_eq] at h
  split at h
  · cases h
  next hwaits =>
  have hcand : i ∈ s.weaker g ∨ i ∈ s.overdue g := by
    split at h
    · obtain h | h := List.mem_append.mp (State.mem_of_mem_victims h)
      · exact .inl (mem_of_mem_turnedBy h)
      · exact .inr (mem_of_mem_turnedBy h)
    · exact .inl (mem_of_mem_turnedBy (State.mem_of_mem_victims h))
  simp only [Bool.or_eq_true, not_or, Option.isNone_iff_eq_none, ← Option.isSome_iff_ne_none, Bool.not_eq_true', Bool.not_eq_false,
    List.isEmpty_iff] at hwaits
  obtain ⟨hnext, hplaces⟩ := hwaits
  refine ⟨hnext, hplaces, ?_⟩
  obtain hin | hin := hcand
  · obtain ⟨t, ht, hid⟩ := List.mem_map.mp hin
    obtain ⟨hmem, hout⟩ := List.mem_filter.mp ht
    exact ⟨t, hmem, hid, .inl hout⟩
  · obtain ⟨t, ht, hid⟩ := List.mem_map.mp hin
    obtain ⟨hmem, hout⟩ := List.mem_filter.mp ht
    exact ⟨t, hmem, hid, .inr (Bool.and_eq_true_iff.mp hout).1⟩

/-! ### What pre-emption asks -/

/-- A team as it is once the teams of a list are asked to stop. -/
def Team.askedIn (l : List Nat) (t : Team) : Team := if l.contains t.id then { t with stopAsked := true } else t

theorem marks_askedIn (l : List Nat) : Marks (Team.askedIn l) := fun t => by
  by_cases h : l.contains t.id = true
  · exact ⟨true, if_pos h⟩
  · exact ⟨t.stopAsked, if_neg h⟩

theorem Team.askedIn_append (l m : List Nat) (t : Team) : Team.askedIn m (Team.askedIn l t) = Team.askedIn (l ++ m) t := by
  unfold Team.askedIn
  by_cases hl : t.id ∈ l <;> by_cases hm : t.id ∈ m <;> simp [hl, hm]

theorem Team.askedIn_nil : Team.askedIn [] = fun t => t := rfl

/-- The state in which the teams of a list are asked to stop, after some choices. -/
def State.askedOf (s : State) (l choices : List Nat) (fresh : Nat) : State := s.mapTeams (Team.askedIn l) choices fresh

theorem State.askedOf_nil (s : State) : s.askedOf [] s.choices s.fresh = s := by
  rw [State.askedOf, State.mapTeams, Team.askedIn_nil, List.map_id']

theorem State.preemptFor_askedOf (s : State) (l choices : List Nat) (fresh : Nat) (g : Grid) :
    ∃ n, (s.askedOf l choices fresh).preemptFor g =
      s.askedOf (l ++ (s.askedOf l choices fresh).preempted g n) choices.tail (fresh + 1) := by
  refine ⟨(s.askedOf l choices fresh).choice, ?_⟩
  have hteams (m : List Nat) : (s.teams.map (Team.askedIn l)).map (Team.askedIn m) = s.teams.map (Team.askedIn (l ++ m)) := by
    rw [List.map_map]
    exact List.map_congr_left fun t _ => Team.askedIn_append l m t
  exact congrArg (fun teams => ({ s with teams, choices := choices.tail, fresh := fresh + 1 } : State)) (hteams _)

/-- What a team that pre-emption asks to stop has: it is resident and not asked yet, and a waiting grid without a place outranks it, or outlasts it (R106). -/
def State.mayAsk (s : State) (x : Team) : Prop :=
  x.st = .resident ∧ x.stopAsked = false ∧ ∃ g, s.grid x.grid = some g ∧ ∃ h ∈ s.grids,
    (s.nextTeam h).isSome = true ∧ s.nextPlaces h = [] ∧ (s.priority h < g.prio ∨ s.quantumOver x = true ∧ s.priority h ≤ g.prio)

/-- Every identity of a list is that of a team which pre-emption may ask to stop. -/
def State.mayAskAll (s : State) (l : List Nat) : Prop := ∀ i ∈ l, ∃ x ∈ s.teams, x.id = i ∧ s.mayAsk x

theorem State.mayAsk_of_preempted {s : State} {l choices : List Nat} {fresh n i : Nat} {h : Grid} (hh : h ∈ s.grids)
    (hi : i ∈ (s.askedOf l choices fresh).preempted h n) : ∃ x ∈ s.teams, x.id = i ∧ s.mayAsk x := by
  obtain ⟨hnext, hplaces, t, ht, rfl, hout⟩ := State.of_mem_preempted hi
  rw [State.askedOf, State.nextTeam_mapTeams (marks_askedIn l), Option.isSome_map] at hnext
  rw [State.askedOf, State.nextPlaces_mapTeams (marks_askedIn l)] at hplaces
  obtain ⟨x, hx, rfl⟩ := List.mem_map.mp ht
  have hfree : (Team.askedIn l x).stopAsked = false := by
    obtain hout | hout := hout
    · simp only [State.outranks, Bool.and_eq_true, Bool.not_eq_true'] at hout
      exact hout.1.2
    · simp only [State.outlasts, State.quantumOver, Bool.and_eq_true, Bool.not_eq_true'] at hout
      exact hout.1.1.2
  have hsame : Team.askedIn l x = x := by
    unfold Team.askedIn at hfree ⊢
    split at hfree
    · cases hfree
    · next hl => exact if_neg hl
  rw [hsame] at hfree hout ⊢
  refine ⟨x, hx, rfl, ?_⟩
  obtain hout | hout := hout
  · have hout : s.outranks h x = true := hout
    simp only [State.outranks, Bool.and_eq_true, beq_iff_eq, Option.any_eq_true, decide_eq_true_eq] at hout
    obtain ⟨⟨hst, -⟩, g, hg, hlt⟩ := hout
    exact ⟨hst, hfree, g, hg, h, hh, hnext, hplaces, .inl hlt⟩
  · have hout : s.outlasts h x = true := hout
    simp only [State.outlasts, Bool.and_eq_true, Option.any_eq_true, decide_eq_true_eq] at hout
    obtain ⟨hover, g, hg, hle⟩ := hout
    have hst : x.st = .resident := by
      simp only [State.quantumOver, Bool.and_eq_true, beq_iff_eq] at hover
      exact hover.1.1
    exact ⟨hst, hfree, g, hg, h, hh, hnext, hplaces, .inr ⟨hover, hle⟩⟩

/-- Pre-emption for some waiting grids asks some teams to stop, each for a reason, and forgets none that is asked. -/
theorem State.preemptFold_askedOf {s : State} (gs : List Grid) (hgs : ∀ g ∈ gs, g ∈ s.grids) {l : List Nat} (choices : List Nat) (fresh : Nat)
    (hl : s.mayAskAll l) : ∃ m choices' fresh', gs.foldl (fun u g => u.preemptFor g) (s.askedOf l choices fresh) = s.askedOf m choices' fresh' ∧
      s.mayAskAll m ∧ l ⊆ m := by
  induction gs generalizing l choices fresh with
  | nil => exact ⟨l, choices, fresh, rfl, hl, List.Subset.refl l⟩
  | cons g gs ih =>
    obtain ⟨n, hn⟩ := s.preemptFor_askedOf l choices fresh g
    have hnew : s.mayAskAll (l ++ (s.askedOf l choices fresh).preempted g n) := fun i hi =>
      (List.mem_append.mp hi).elim (hl i) (State.mayAsk_of_preempted (hgs g List.mem_cons_self))
    obtain ⟨m, choices', fresh', hm, hmay, hsub⟩ := ih (fun z hz => hgs z (List.mem_cons_of_mem _ hz)) choices.tail (fresh + 1) hnew
    exact ⟨m, choices', fresh', by rw [List.foldl_cons, hn, hm], hmay, fun i hi => hsub (List.mem_append_left _ hi)⟩

theorem State.mayAskAll_nil (s : State) : s.mayAskAll [] := fun _ h => absurd h (by simp)

theorem State.preemptCheck_askedOf (s : State) : ∃ m choices fresh, s.preemptCheck = s.askedOf m choices fresh ∧ s.mayAskAll m := by
  obtain ⟨m, choices, fresh, hm, hmay, -⟩ := State.preemptFold_askedOf (s := s) s.grids (fun _ h => h) s.choices s.fresh s.mayAskAll_nil
  rw [s.askedOf_nil] at hm
  exact ⟨m, choices, fresh, hm, hmay⟩


/-! ### The end of a quantum -/

section
variable {s : State} (hnodup : (s.teams.map (·.id)).Nodup)
include hnodup

theorem State.eq_of_team_id {x y : Team} (hx : x ∈ s.teams) (hy : y ∈ s.teams) (hid : x.id = y.id) : x = y :=
  List.inj_on_of_nodup_map hnodup hx hy hid

theorem State.team_of_mem {x : Team} (hx : x ∈ s.teams) : s.team x.id = some x := by
  obtain ⟨y, hy⟩ := Option.isSome_iff_exists.mp (State.team_isSome_of_mem hx)
  have hid : y.id = x.id := by simpa using List.find?_some hy
  rw [hy, State.eq_of_team_id hnodup (List.mem_of_find?_eq_some hy) hx hid]

end

theorem State.team_askedOf (s : State) (l choices : List Nat) (fresh i : Nat) :
    (s.askedOf l choices fresh).team i = (s.team i).map (Team.askedIn l) :=
  find?_map_of_key (fun t => (marks_askedIn l).read (fun t : Team => t.id == i) (fun _ _ => rfl) t) s.teams

theorem exec_quantumExpiry {s : State} {t : Team} (ht : s.team t.id = some t) :
    exec (.quantumExpiry t.id) s = .next (if s.quantumOver t then s.preemptCheck else s) := by
  rw [exec, execQuantumExpiry, ht]

/-- Whatever the end of a quantum does, it only asks teams to stop, each for a reason (R106). -/
theorem quantumExpiry_asks {s : State} {t : Team} (ht : s.team t.id = some t) :
    ∃ m choices fresh, exec (.quantumExpiry t.id) s = .next (s.askedOf m choices fresh) ∧ (s.quantumOver t = false → s.askedOf m choices fresh = s) ∧
      s.mayAskAll m := by
  rw [exec_quantumExpiry ht]
  by_cases hover : s.quantumOver t = true
  · obtain ⟨m, choices, fresh, hm, hmay⟩ := s.preemptCheck_askedOf
    exact ⟨m, choices, fresh, by rw [if_pos hover, hm], by simp [hover], hmay⟩
  · exact ⟨[], s.choices, s.fresh, by rw [if_neg hover, s.askedOf_nil], fun _ => s.askedOf_nil, s.mayAskAll_nil⟩

/-- Each team after such an event is one of before, asked to stop only for a reason (R106). -/
theorem State.of_mem_askedOf {s : State} (hnodup : (s.teams.map (·.id)).Nodup) {m choices : List Nat} {fresh : Nat} (hmay : s.mayAskAll m) {y : Team}
    (hy : y ∈ (s.askedOf m choices fresh).teams) : ∃ x ∈ s.teams, y = { x with stopAsked := y.stopAsked } ∧
      (x.stopAsked = true → y.stopAsked = true) ∧ (y.stopAsked = true → x.stopAsked = true ∨ s.mayAsk x) := by
  obtain ⟨x, hx, rfl⟩ := List.mem_map.mp hy
  refine ⟨x, hx, ?_⟩
  unfold Team.askedIn
  by_cases hin : m.contains x.id = true
  · obtain ⟨z, hz, hid, hasked⟩ := hmay x.id (by simpa using hin)
    rw [if_pos hin]
    exact ⟨rfl, fun _ => rfl, fun _ => .inr (State.eq_of_team_id hnodup hz hx hid ▸ hasked)⟩
  · rw [if_neg hin]
    exact ⟨rfl, id, .inl⟩

section
variable {s : State} {t : Team} {g : Grid} (ht : s.team t.id = some t) (hg : s.grid t.grid = some g) (hover : s.quantumOver t = true)
  (hnodup : (s.teams.map (·.id)).Nodup) (honly : ∀ x ∈ s.teams, s.quantumOver x = true → x.id = t.id)
  (hrank : ∀ h ∈ s.grids, ∀ x ∈ s.teams, s.outranks h x = false)
include ht hnodup honly hrank

/-- The only team that a grid outlasts is the one whose quantum is over. -/
theorem State.overdue_eq {h : Grid} (hh : h ∈ s.grids) (hlast : s.outlasts h t = true) : s.overdue h = [t.id] := by
  have htmem : t ∈ s.teams := List.mem_of_find?_eq_some ht
  have hmem : t.id ∈ s.overdue h := List.mem_map.mpr ⟨t, List.mem_filter.mpr ⟨htmem, by rw [hlast, hrank h hh t htmem]; rfl⟩, rfl⟩
  have hall : ∀ i ∈ s.overdue h, i = t.id := fun i hi => by
    obtain ⟨x, hx, rfl⟩ := List.mem_map.mp hi
    obtain ⟨hx, hout⟩ := List.mem_filter.mp hx
    simp only [State.outlasts, Bool.and_eq_true] at hout
    exact honly x hx hout.1.1
  have hone : (s.overdue h).Nodup := hnodup.sublist ((List.filter_sublist).map _)
  have hrep : s.overdue h = List.replicate (s.overdue h).length t.id := List.eq_replicate_iff.mpr ⟨rfl, hall⟩
  have hle : (s.overdue h).length ≤ 1 := List.nodup_replicate.mp (hrep ▸ hone)
  have hpos : 0 < (s.overdue h).length := List.length_pos_of_mem hmem
  rw [hrep, show (s.overdue h).length = 1 by omega]
  rfl

include hg hover

/-- The team whose quantum is over is the victim of a grid that it alone keeps from a place (R106). -/
theorem State.preempted_eq_singleton {h : Grid} (hh : h ∈ s.grids) (hnext : (s.nextTeam h).isSome = true) (hprio : s.priority h ≤ g.prio)
    (hplaces : s.nextPlaces h = []) (hstay : (s.without s.leaving).nextPlaces h = [])
    (hleave : (s.without (s.leaving ++ [t.id])).nextPlaces h ≠ []) (k : Nat) : s.preempted h k = [t.id] := by
  have hlast : s.outlasts h t = true := by simp [State.outlasts, hover, hg, hprio]
  have hweaker : s.weaker h = [] := by
    rw [State.weaker, List.filter_eq_nil_iff.mpr fun x hx => by simp [hrank h hh x hx], List.map_nil]
  have hnone : s.fitsWithout h [] = false := by simp [State.fitsWithout, hstay]
  have hone : s.fitsWithout h [t.id] = true := by simpa [State.fitsWithout] using hleave
  have hturned : turnedBy k ([] : List Nat) = [] := by simp [turnedBy]
  rw [State.preempted_eq, if_neg (by simp [hplaces, ← Option.isSome_iff_ne_none, hnext]), hweaker, hturned, if_pos (s.victims_nil h),
    State.overdue_eq ht hnodup honly hrank hh hlast, turnedBy_singleton, List.nil_append, State.victims_singleton hnone hone]

/-- The same after choices that have been made since. -/
theorem State.preempted_of_choices {h : Grid} (hh : h ∈ s.grids) (hnext : (s.nextTeam h).isSome = true) (hprio : s.priority h ≤ g.prio)
    (hplaces : s.nextPlaces h = []) (hstay : (s.without s.leaving).nextPlaces h = [])
    (hleave : (s.without (s.leaving ++ [t.id])).nextPlaces h ≠ []) (choices : List Nat) (fresh k : Nat) :
    ({ s with choices, fresh } : State).preempted h k = [t.id] :=
  State.preempted_eq_singleton (s := { s with choices, fresh }) ht hg hover hnodup honly hrank hh hnext hprio hplaces hstay hleave k

/-- The end of its quantum asks a team to stop that alone keeps a waiting grid of no lower priority from a place, and asks no other (R106). -/
theorem quantumExpiry_asksSelf (hwaits : ∃ h ∈ s.grids, (s.nextTeam h).isSome = true ∧ s.priority h ≤ g.prio ∧ s.nextPlaces h = [] ∧
      (s.without s.leaving).nextPlaces h = [] ∧ (s.without (s.leaving ++ [t.id])).nextPlaces h ≠ []) :
    ∃ m choices fresh, exec (.quantumExpiry t.id) s = .next (s.askedOf m choices fresh) ∧ (∀ i ∈ m, i = t.id) ∧ t.id ∈ m := by
  obtain ⟨h, hh, hnext, hprio, hplaces, hstay, hleave⟩ := hwaits
  have hself {m : List Nat} (hm : s.mayAskAll m) : ∀ i ∈ m, i = t.id := fun i hi => by
    obtain ⟨x, hx, rfl, hst, hfree, y, hy, z, hz, -, -, hlow⟩ := hm i hi
    obtain hlt | ⟨hlast, -⟩ := hlow
    · have hout : s.outranks z x = true := by simp [State.outranks, hst, hfree, hy, hlt]
      rw [hrank z hz x hx] at hout
      cases hout
    · exact honly x hx hlast
  obtain ⟨as, bs, hgrids⟩ := List.append_of_mem hh
  have hpart : (∀ z ∈ as, z ∈ s.grids) ∧ ∀ z ∈ bs, z ∈ s.grids := by
    rw [hgrids]
    exact ⟨fun z hz => by simp [hz], fun z hz => by simp [hz]⟩
  obtain ⟨l, choices, fresh, hl, hmay, -⟩ := State.preemptFold_askedOf as hpart.1 s.choices s.fresh s.mayAskAll_nil
  rw [s.askedOf_nil] at hl
  obtain ⟨n, hn⟩ := s.preemptFor_askedOf l choices fresh h
  have hmay' : s.mayAskAll (l ++ (s.askedOf l choices fresh).preempted h n) := fun i hi =>
    (List.mem_append.mp hi).elim (hmay i) (State.mayAsk_of_preempted hh)
  have hin : t.id ∈ l ++ (s.askedOf l choices fresh).preempted h n := by
    cases l with
    | cons i l => exact hself hmay i List.mem_cons_self ▸ List.mem_cons_self
    | nil =>
      have hnil : s.askedOf [] choices fresh = { s with choices, fresh } := by rw [State.askedOf, State.mapTeams, Team.askedIn_nil, List.map_id']
      rw [hnil, State.preempted_of_choices ht hg hover hnodup honly hrank hh hnext hprio hplaces hstay hleave]
      exact List.mem_singleton_self _
  obtain ⟨m, choices', fresh', hm, hmaym, hsub⟩ := State.preemptFold_askedOf bs hpart.2 choices.tail (fresh + 1) hmay'
  have hcheck : s.preemptCheck = s.askedOf m choices' fresh' := by
    rw [State.preemptCheck, hgrids, List.foldl_append, List.foldl_cons, hl, hn, hm]
  exact ⟨m, choices', fresh', by rw [exec_quantumExpiry ht, if_pos hover, hcheck], hself hmaym, hsub hin⟩

end

/-! ### A grid that becomes due, and its priority -/

section
variable {s : State} {g : Grid} (hg : s.grid g.id = some g)
include hg

section
variable {z : Nat} (hzero : g.zeroSince = some z) (hnext : (s.nextTeam g).isSome = true) (hdue : g.due = false)
include hzero hnext hdue

theorem exec_gridDue_unplaced (hlong : z + Config.agingInterval ≤ s.cyc) (hplaces : s.nextPlaces g = []) :
    exec (.gridDue g.id) s = .next (s.setGrid { g with due := true }) := by
  have hsome : (s.nextTeam g).isNone = false := by simp [hnext]
  rw [exec, execGridDue, hg]
  dsimp only
  rw [hzero]
  dsimp only
  rw [hdue, hsome, if_neg (by decide), hplaces, if_neg (by decide), if_pos hlong]

theorem exec_gridDue_placeable (hplaces : s.nextPlaces g ≠ []) :
    exec (.gridDue g.id) s = .next (s.setGrid { g with zeroSince := some s.cyc }) := by
  have hsome : (s.nextTeam g).isNone = false := by simp [hnext]
  rw [exec, execGridDue, hg]
  dsimp only
  rw [hzero]
  dsimp only
  rw [hdue, hsome, if_neg (by decide), if_pos (by simp [hplaces])]

end

/-- A grid whose effective priority rises, with the count of R105 begun where it has come to 0. -/
def State.raised (s : State) (g : Grid) : Grid :=
  { g with zeroSince := if s.priority g = 0 && g.zeroSince.isNone then some s.cyc else g.zeroSince }

theorem exec_gridPriorityRise (hnext : (s.nextTeam g).isSome = true) (hwait : g.waitSince < s.cyc)
    (hage : (s.cyc - g.waitSince) % Config.agingInterval = 0) :
    exec (.gridPriorityRise g.id) s = .next ((s.setGrid (s.raised g)).preemptFor (s.raised g)) := by
  rw [exec, execGridPriorityRise, hg]
  exact if_pos (by simp [hnext, hwait, hage])

theorem gridPriorityRise_counts (hnext : (s.nextTeam g).isSome = true) (hwait : g.waitSince < s.cyc)
    (hage : (s.cyc - g.waitSince) % Config.agingInterval = 0) :
    ∃ u y, exec (.gridPriorityRise g.id) s = .next u ∧ u.grid g.id = some y ∧
      (y.zeroSince = if s.priority g = 0 ∧ g.zeroSince = none then some s.cyc else g.zeroSince) ∧ u.strands = s.strands := by
  obtain ⟨hstrands, hgrids, -⟩ := (s.setGrid (s.raised g)).preemptFor_asks (s.raised g)
  have hset : (s.setGrid (s.raised g)).grid g.id = some (s.raised g) := State.grid_setGrid s (s.raised g) (Option.isSome_of_eq_some hg)
  refine ⟨_, s.raised g, exec_gridPriorityRise hg hnext hwait hage, ?_, if_congr (by simp) rfl rfl, hstrands⟩
  rw [State.grid, hgrids]
  exact hset

end

/-! ### Swapping out, and coming back -/

theorem exec_swapOut {s : State} {t : Team} {st : Strand} {a w : Word} {cycles : BitVec 40} {since slot : Nat} {report : Option Nat}
    (ht : s.team t.id = some t) (hs : s.strand t.id st.index = some st) (hwait : st.st = .wait)
    (hwaits : st.waits = [.counter a w since cycles slot report]) (hst : t.st = .resident) (hfree : t.stopAsked = false) (hcycles : cycles ≠ 0)
    (hlong : since + cycles.toNat ≤ s.cyc) (hsection : s.inFabricSection t.id = false) :
    exec (.swapOut t.id st.index) s = .next ((s.setTeam { t with swapTo := some (a, w) }).askStop [t.id]) := by
  rw [exec, execSwapOut, ht, hs]
  dsimp only
  rw [hwait, hwaits]
  have hne : (cycles != 0) = true := bne_iff_ne.mpr hcycles
  exact congrArg _ (if_pos (by simp only [hst, hfree, hne, hlong, hsection]; decide))

/-- A grid as it is once a team of it that was swapped out waits: its count begins where no other team of it waited (R105; log 90). -/
def State.recounted (s : State) (g : Grid) : Grid :=
  if (s.nextTeam g).isNone then { g with zeroSince := if s.priority g = 0 then some s.cyc else none } else g

theorem State.recounted_keeps (s : State) (g : Grid) : (s.recounted g).id = g.id ∧ (s.recounted g).waitSince = g.waitSince ∧
    (s.recounted g).zeroSince = if (s.nextTeam g).isSome = true then g.zeroSince else if s.priority g = 0 then some s.cyc else none := by
  unfold State.recounted
  cases s.nextTeam g with
  | none => exact ⟨rfl, rfl, rfl⟩
  | some t => exact ⟨rfl, rfl, rfl⟩

/-- A swapped team is in the waiting set, before its grid pre-empts for it. -/
def State.rejoined (s : State) (t : Team) : State := s.chosen.setTeam { t with st := .saved, waitSince := s.cyc, turn := s.choice }

section
variable {s : State} {t : Team} {a w : Word} (ht : s.team t.id = some t) (hst : t.st = .swapped a w)
  (hreached : s.counterReached t.ctx a w = .ok true)
include ht

theorem State.team_rejoined : (s.rejoined t).team t.id = some { t with st := .saved, waitSince := s.cyc, turn := s.choice } :=
  State.team_setTeam s.chosen { t with st := .saved, waitSince := s.cyc, turn := s.choice } (Option.isSome_of_eq_some ht)

include hst hreached

theorem exec_swappedCounterReached_noGrid (hg : s.grid t.grid = none) : exec (.swappedCounterReached t.id) s = .next (s.rejoined t) := by
  have hnew : (s.chosen.setTeam { t with st := .saved, waitSince := s.cyc, turn := s.choice }).grid t.grid = none := hg
  rw [exec, execSwappedCounterReached, ht]
  dsimp only
  rw [hst]
  dsimp only
  rw [hreached]
  dsimp only
  rw [hnew]
  rfl

theorem exec_swappedCounterReached {g : Grid} (hg : s.grid t.grid = some g) : exec (.swappedCounterReached t.id) s =
    .next (((s.rejoined t).setGrid (s.recounted g)).preemptFor (s.recounted g)) := by
  have hnew : (s.chosen.setTeam { t with st := .saved, waitSince := s.cyc, turn := s.choice }).grid t.grid = some g := hg
  rw [exec, execSwappedCounterReached, ht]
  dsimp only
  rw [hst]
  dsimp only
  rw [hreached]
  dsimp only
  rw [hnew, hg]
  rfl

/-- A swapped team whose counter has come waits again, and where no other team of its grid waits, the grid's count begins anew (R104, R111). -/
theorem swappedCounterReached_waits : ∃ u y, exec (.swappedCounterReached t.id) s = .next u ∧ u.team t.id = some y ∧ y.st = .saved ∧
    ∀ g, s.grid t.grid = some g → (u.grid t.grid).map (fun h => (h.waitSince, h.zeroSince)) = some (g.waitSince,
      if (s.nextTeam g).isSome = true then g.zeroSince else if s.priority g = 0 then some s.cyc else none) := by
  have hteam := State.team_rejoined ht
  cases hg : s.grid t.grid with
  | none => exact ⟨_, _, exec_swappedCounterReached_noGrid ht hst hreached hg, hteam, rfl, by simp⟩
  | some g =>
    obtain ⟨hid, hwait, hzero⟩ := s.recounted_keeps g
    have hgid : g.id = t.grid := by simpa using List.find?_some hg
    obtain ⟨-, hgrids, -, hasked⟩ := ((s.rejoined t).setGrid (s.recounted g)).preemptFor_asks (s.recounted g)
    obtain ⟨b, hb⟩ := hasked t.id
    have hset : ((s.rejoined t).setGrid (s.recounted g)).grid (s.recounted g).id = some (s.recounted g) :=
      State.grid_setGrid _ _ (by rw [hid, hgid, show (s.rejoined t).grid t.grid = some g from hg]; rfl)
    refine ⟨_, _, exec_swappedCounterReached ht hst hreached hg, hb.trans (congrArg (Option.map _) hteam), rfl, fun z hz => ?_⟩
    cases hz
    rw [State.grid, hgrids, ← hgid, ← hid]
    refine (congrArg (Option.map _) hset).trans ?_
    rw [Option.map_some, hwait, hzero]

end

/-! ### The stop itself -/

section
variable {s : State} {t : Team} (ht : s.team t.id = some t) (hst : t.st = .resident) (hasked : t.stopAsked = true)
include ht

theorem exec_preemptStop_inSection (hsection : s.inFabricSection t.id = true) : exec (.preemptStop t.id) s = .next s := by
  rw [exec, execPreemptStop, ht]
  exact congrArg _ (if_neg (by simp [hsection]))

include hst hasked

theorem exec_preemptStop (hsection : s.inFabricSection t.id = false) :
    exec (.preemptStop t.id) s = .next (s.chosen.setTeam { t with st := .stopping (stopCycle (t.tcyc + 1) s.choice) false }) := by
  rw [exec, execPreemptStop, ht]
  exact congrArg _ (if_pos (by simp [hst, hasked, hsection]))

end

/-- Settles O49: what makes a grid due, what its waiting and a quantum ask of other teams, a team that is swapped out, and the stop. -/
theorem stopRequests : Obligations.StopRequests := by
  refine ⟨fun s g z hg hzero hnext hdue => exec_gridDue_unplaced hg hzero hnext hdue,
    fun s g z hg hzero hnext hdue => exec_gridDue_placeable hg hzero hnext hdue, fun s g hg => gridPriorityRise_counts hg,
    fun s t g ht hg hover hnodup honly hrank hwaits => ?_, fun s t ht hnodup => ?_,
    fun s t st a w cycles since slot report => exec_swapOut, fun s t a w => swappedCounterReached_waits,
    fun s t ht hst hasked => ⟨exec_preemptStop_inSection ht, fun hsection => ?_⟩⟩
  · obtain ⟨m, choices, fresh, hexec, hself, hin⟩ := quantumExpiry_asksSelf ht hg hover hnodup honly hrank hwaits
    refine ⟨_, hexec, ?_, fun x hx hne => ?_⟩
    · rw [State.team_askedOf, ht]
      exact congrArg some (if_pos (List.contains_iff_mem.mpr hin))
    · rw [State.team_askedOf, State.team_of_mem hnodup hx]
      exact congrArg some (if_neg fun h => hne (hself x.id (List.contains_iff_mem.mp h)))
  · obtain ⟨m, choices, fresh, hexec, hsame, hmay⟩ := quantumExpiry_asks ht
    refine ⟨_, hexec, rfl, rfl, hsame, fun y hy => ?_⟩
    obtain ⟨x, hx, hxy, hkeeps, hmayx⟩ := State.of_mem_askedOf hnodup hmay hy
    refine ⟨x, hx, hxy, hkeeps, fun h => (hmayx h).imp_right ?_⟩
    rintro ⟨hst, -, g, hg, hwaits⟩
    exact ⟨hst, g, hg, hwaits⟩
  · obtain ⟨hlo, hhi⟩ := stopCycle_bounds t.tcyc s.choice
    exact ⟨_, hlo, hhi, exec_preemptStop ht hst hasked hsection⟩

end Sys2Proof.Machine

/-! # O50: saving a team at rest, discarding a grid, and held records -/

namespace Sys2Proof.Machine

/-! ### What leaves the teams and grids as they were -/

theorem HbmOnly.rolls {s u : State} (h : HbmOnly s u) : u.rolls = s.rolls := State.rolls_of_roster h.roster

theorem State.grids_of_rolls {s u : State} (h : u.rolls = s.rolls) : u.grids = s.grids := congrArg (fun r => r.2.1) h

theorem State.rolls_finish (s : State) (cid : Nat) (status : BitVec 4) : (s.finish cid status).rolls = s.rolls := by
  unfold State.finish
  split <;> rfl

theorem State.rolls_giveRelay (s : State) (c : Cmd) (n : Nat) : (s.giveRelay c n).rolls = s.rolls := by
  unfold State.giveRelay
  dsimp only
  split <;> rfl

/-- The arrival of what has left of an FSEND's flits. -/
def State.sentPart (s : State) (c : Cmd) : State :=
  let g := c.w1.toNat / 4096
  let flits := c.slots.zipIdx.map fun e => (e.2, e.1)
  let left (e : Nat × Nat) : Bool := 4096 * g + slotOffset e.2 < s.cyc
  match s.team c.team with
  | some t => if c.op == .fsend && c.sent.isNone && flits.any left then
      s.emit (fabPort c.w0) g (flits.filter left) (s.sendPayload t c ((flits.filter fun e => !left e).map (·.1))) else s
  | none => s

theorem State.rolls_sentPart (s : State) (c : Cmd) : (s.sentPart c).rolls = s.rolls := by
  unfold State.sentPart
  dsimp only
  split
  · split <;> rfl
  · rfl

theorem State.rolls_withdraw (s : State) (c : Cmd) : (s.withdraw c).rolls = s.rolls :=
  (State.rolls_finish ..).trans ((State.rolls_giveRelay ..).trans (s.rolls_sentPart c))

theorem State.rolls_withdrawAll (s : State) (p : Cmd → Bool) : (s.withdrawAll p).rolls = s.rolls :=
  State.foldl_keeps (p := State.rolls) State.rolls_withdraw _ _

theorem State.rolls_choosePath (s : State) (ctx dev cls : Nat) : (s.choosePath ctx dev cls).rolls = s.rolls := by
  unfold State.choosePath
  split <;> rfl

theorem State.rolls_stepped (s : State) (cid : Nat) : (s.stepped cid).rolls = s.rolls := by
  unfold State.stepped
  split <;> rfl

theorem State.rolls_leftFor (s : State) (o : Outstanding) : (s.leftFor o).rolls = s.rolls := by
  unfold State.leftFor
  split
  · exact s.rolls_stepped o.cmd
  · rfl

theorem State.rolls_sendNow (s : State) (o : Outstanding) : (s.sendNow o).rolls = s.rolls := s.rolls_leftFor o

theorem State.rolls_pump (s : State) : s.pump.rolls = s.rolls :=
  State.foldl_keeps (p := State.rolls) (fun u o => by
    split
    · exact u.rolls_sendNow o
    · rfl) _ _

theorem State.rolls_sendRequest (s : State) (cid ctx dev cls : Nat) (what : ReqKind) (write : Bool) (bytes : Nat) (r : UntimedRequest) :
    (s.sendRequest cid ctx dev cls what write bytes r).rolls = s.rolls :=
  (State.rolls_pump _).trans (s.rolls_choosePath ctx dev cls)

theorem State.rolls_sendWrites (s : State) (cid ctx : Nat) (l : List ((Nat × Nat × GranuleWrite) × Nat)) :
    (s.sendWrites cid ctx l).rolls = s.rolls :=
  State.foldl_keeps (p := State.rolls) (fun _ _ => State.rolls_sendRequest ..) _ _

/-! ### Writing a save area -/

theorem State.rolls_writePart (s : State) (x : Context) (base : Word) (o : Nat) (bs : List Byte) :
    (s.writePart x base o bs).1.rolls = s.rolls := by
  unfold State.writePart
  cases h : s.writeStruct x s.choice (structPlus base o) 64 bs none with
  | error e => cases e <;> rfl
  | ok r =>
    obtain ⟨u, out, tch⟩ := r
    exact (u.rolls_sendWrites 0 x.num (out.map fun o => (o, 0))).trans (writeStruct_hbmOnly h).rolls

theorem State.rolls_writeParts (x : Context) (base : Word) (l : List (Nat × List Byte)) (s : State) :
    (s.writeParts x base l).1.rolls = s.rolls := by
  induction l generalizing s with
  | nil => rfl
  | cons e l ih =>
    rw [State.writeParts]
    split
    · exact s.rolls_writePart x base e.1 e.2
    · exact (ih _).trans (s.rolls_writePart x base e.1 e.2)

theorem State.rolls_writeSome (s : State) (x : Context) (base : Word) (l : List (Nat × List Byte)) (k : Nat) :
    (s.writeSome x base l k).rolls = s.rolls :=
  State.foldl_keeps (p := State.rolls) (fun u e => by
    split
    · exact u.rolls_writePart x base e.1.1 e.1.2
    · rfl) _ _


/-! ### What writing records changes of the teams and grids -/

/-- Another team up to the records it has had written. -/
def Team.Relisted (x y : Team) : Prop := ∃ records nores, y = { x with records, nores }

theorem Team.Relisted.refl (x : Team) : x.Relisted x := ⟨_, _, rfl⟩

theorem Team.Relisted.trans {x y z : Team} (h : x.Relisted y) (k : y.Relisted z) : x.Relisted z := by
  obtain ⟨_, _, rfl⟩ := h
  obtain ⟨r, n, rfl⟩ := k
  exact ⟨r, n, rfl⟩

/-- The teams are those of before up to the records they have had written, and the grids have kept their identities. -/
structure State.Recorded (s u : State) : Prop where
  team {i : Nat} {x : Team} : s.team i = some x → ∃ y, u.team i = some y ∧ x.Relisted y
  mem {y : Team} : y ∈ u.teams → ∃ x ∈ s.teams, x.Relisted y
  grid (i : Nat) : (u.grid i).isSome = (s.grid i).isSome

theorem State.Recorded.trans {s u v : State} (h : s.Recorded u) (k : u.Recorded v) : s.Recorded v where
  team hx := by
    obtain ⟨y, hy, hxy⟩ := h.team hx
    obtain ⟨z, hz, hyz⟩ := k.team hy
    exact ⟨z, hz, hxy.trans hyz⟩
  mem hz := by
    obtain ⟨y, hy, hyz⟩ := k.mem hz
    obtain ⟨x, hx, hxy⟩ := h.mem hy
    exact ⟨x, hx, hxy.trans hyz⟩
  grid i := (k.grid i).trans (h.grid i)

theorem State.recorded_of_teams {s u : State} (hteams : u.teams = s.teams) (hgrid : ∀ i, (u.grid i).isSome = (s.grid i).isSome) :
    s.Recorded u where
  team {i x} hx := ⟨x, (congrArg (List.find? fun t : Team => t.id == i) hteams).trans hx, .refl x⟩
  mem {y} hy := ⟨y, hteams ▸ hy, .refl y⟩
  grid := hgrid

theorem State.grid_of_grids {s u : State} (h : u.grids = s.grids) (i : Nat) : u.grid i = s.grid i := congrArg (List.find? fun g : Grid => g.id == i) h

theorem State.recorded_of_rolls {s u : State} (h : u.rolls = s.rolls) : s.Recorded u :=
  State.recorded_of_teams (State.teams_of_rolls h) fun i => congrArg Option.isSome (State.grid_of_grids (State.grids_of_rolls h) i)

theorem State.setContext_recorded (s : State) (c : Context) : s.Recorded (s.setContext c) := State.recorded_of_rolls rfl

theorem State.grid_isSome_setGrid (s : State) (g : Grid) (i : Nat) : ((s.setGrid g).grid i).isSome = (s.grid i).isSome := by
  by_cases hi : i = g.id
  · subst hi
    have hmap : (s.setGrid g).grid g.id = (s.grid g.id).map fun x => if x.id == g.id then g else x := find?_map_of_key (fun x => by
      by_cases hx : x.id = g.id <;> simp [hx]) _
    rw [hmap, Option.isSome_map]
  · rw [State.grid_setGrid_ne s g i hi]

theorem State.setGrid_recorded (s : State) (g : Grid) : s.Recorded (s.setGrid g) := State.recorded_of_teams rfl (s.grid_isSome_setGrid g)

/-- A team that is put back with other records. -/
theorem State.setTeam_recorded {s : State} {x y : Team} (hx : s.team y.id = some x) (hxy : x.Relisted y) : s.Recorded (s.setTeam y) where
  team {i z} hz := by
    by_cases hi : i = y.id
    · subst hi
      exact ⟨y, State.team_setTeam s y (by simp [hx]), Option.some.inj (hx.symm.trans hz) ▸ hxy⟩
    · exact ⟨z, (State.team_setTeam_ne s y i hi).trans hz, .refl z⟩
  mem {z} hz := by
    obtain ⟨w, hw, rfl⟩ := List.mem_map.mp hz
    by_cases hid : (w.id == y.id) = true
    · rw [if_pos hid]
      exact ⟨x, List.mem_of_find?_eq_some hx, hxy⟩
    · rw [if_neg hid]
      exact ⟨w, hw, .refl w⟩
  grid _ := rfl

theorem State.noteIndex_recorded (s : State) (p : PendingRecord) (k : Nat) : s.Recorded (s.noteIndex p k) := by
  unfold State.noteIndex
  split
  · exact State.recorded_of_rolls rfl
  · exact State.setGrid_recorded ..

theorem State.noteIndex_contexts (s : State) (p : PendingRecord) (k : Nat) : (s.noteIndex p k).contexts = s.contexts := by
  unfold State.noteIndex
  split <;> rfl

theorem State.countRecord_recorded (s : State) (p : PendingRecord) : s.Recorded (s.countRecord p) := by
  unfold State.countRecord
  split
  · exact State.recorded_of_rolls rfl
  · dsimp only
    split
    · split
      · exact State.setGrid_recorded ..
      · exact State.recorded_of_rolls rfl
    · split
      · exact State.setGrid_recorded ..
      · exact State.recorded_of_rolls rfl

theorem State.addRecord_recorded (s : State) (ctx : Nat) (p : PendingRecord) : s.Recorded (s.addRecord ctx p) := by
  unfold State.addRecord
  split
  · exact State.recorded_of_rolls rfl
  · split
    · exact State.recorded_of_rolls rfl
    · exact (State.setContext_recorded ..).trans (State.countRecord_recorded ..)

/-! ### The fault queue -/

/-- What the fault queue's header has, as the device reads it. -/
def State.queueHead (s : State) (c : Context) : Nat := s.deviceRead c c.fq 64

/-- Places of a fault queue, as its header gives them. -/
def queueSize (h : Nat) : Nat := 2 ^ bits h 64 5

/-- Whether FWIDX - FRIDX leaves room in the queue (R285). -/
def Context.hasRoom (c : Context) (h : Nat) : Prop := (c.fwidx + (2 ^ 64 - bits h 192 64)) % 2 ^ 64 < queueSize h

/-- The record stands at FWIDX, and FWIDX advances in memory. -/
def State.storeRecord (s : State) (c : Context) (p : PendingRecord) : State :=
  let h := s.queueHead c
  ((s.deviceNote c c.fq 64).deviceWrite c (structPlus (BitVec.ofNat 64 (bits h 0 64)) (64 * (c.fwidx % queueSize h)))
    (bytesOf 64 p.words.toNat)).deviceWrite c (structPlus c.fq 16) (bytesOf 8 (c.fwidx + 1))

/-- FWIDX advances in the context, and the record's grid notes it. -/
def State.advanceFwidx (s : State) (c : Context) (p : PendingRecord) : State :=
  match s.context c.num with
  | some c' => (s.setContext { c' with fwidx := c.fwidx + 1 }).noteIndex p (c.fwidx + 1)
  | none => s

/-- A team lists where a record of its that is never dropped stands. -/
def State.listRecord (s : State) (p : PendingRecord) (k : Nat) : State :=
  match p.keep, p.team with
  | true, some id => match s.team id with
    | some t => s.setTeam { t with records := t.records ++ [k] }
    | none => s
  | _, _ => s

/-- A record is counted as dropped. -/
def State.dropRecord (s : State) (c : Context) (p : PendingRecord) : State :=
  ((s.deviceNote c c.fq 64).deviceWrite c (structPlus c.fq 32)
    (bytesOf 4 (min (bits (s.queueHead c) 256 32 + 1) (2 ^ 32 - 1)))).noteIndex p c.fwidx

theorem State.listRecord_done (s : State) (p : PendingRecord) (k : Nat) :
    (match p.keep, p.team with
      | true, some id => match s.team id with
        | some t => (s.setTeam { t with records := t.records ++ [k] }, true)
        | none => (s, true)
      | _, _ => (s, true)) = (s.listRecord p k, true) := by
  unfold State.listRecord
  cases p.keep with
  | false => rfl
  | true =>
    cases p.team with
    | none => rfl
    | some id =>
      dsimp only
      cases s.team id <;> rfl

theorem State.writeRecord_of_room {s : State} {c : Context} (p : PendingRecord) (h : c.hasRoom (s.queueHead c)) :
    s.writeRecord c p = (((s.storeRecord c p).advanceFwidx c p).listRecord p c.fwidx, true) :=
  (if_pos h).trans (State.listRecord_done _ p c.fwidx)

theorem State.writeRecord_of_full {s : State} {c : Context} (p : PendingRecord) (h : ¬c.hasRoom (s.queueHead c)) :
    s.writeRecord c p = if p.keep then (s.deviceNote c c.fq 64, false) else (s.dropRecord c p, true) :=
  if_neg h

theorem State.storeRecord_hbmOnly (s : State) (c : Context) (p : PendingRecord) : HbmOnly s (s.storeRecord c p) :=
  (deviceNote_hbmOnly ..).trans ((deviceWrite_hbmOnly ..).trans (deviceWrite_hbmOnly ..))

theorem State.advanceFwidx_recorded (s : State) (c : Context) (p : PendingRecord) : s.Recorded (s.advanceFwidx c p) := by
  unfold State.advanceFwidx
  split
  · exact (State.setContext_recorded ..).trans (State.noteIndex_recorded ..)
  · exact State.recorded_of_rolls rfl

theorem State.listRecord_recorded (s : State) (p : PendingRecord) (k : Nat) : s.Recorded (s.listRecord p k) := by
  unfold State.listRecord
  split
  · split
    · next t ht =>
      obtain rfl : t.id = _ := by simpa using List.find?_some ht
      exact State.setTeam_recorded ht ⟨_, _, rfl⟩
    · exact State.recorded_of_rolls rfl
  · exact State.recorded_of_rolls rfl

theorem State.listRecord_contexts (s : State) (p : PendingRecord) (k : Nat) : (s.listRecord p k).contexts = s.contexts := by
  unfold State.listRecord
  split
  · split <;> rfl
  · rfl

theorem State.dropRecord_recorded (s : State) (c : Context) (p : PendingRecord) : s.Recorded (s.dropRecord c p) :=
  (State.recorded_of_rolls ((deviceNote_hbmOnly ..).trans (deviceWrite_hbmOnly ..)).rolls).trans (State.noteIndex_recorded ..)

theorem State.dropRecord_contexts (s : State) (c : Context) (p : PendingRecord) : (s.dropRecord c p).contexts = s.contexts :=
  (State.noteIndex_contexts ..).trans ((deviceNote_hbmOnly ..).trans (deviceWrite_hbmOnly ..)).all.1

theorem State.writeRecord_recorded (s : State) (c : Context) (p : PendingRecord) : s.Recorded (s.writeRecord c p).1 := by
  by_cases h : c.hasRoom (s.queueHead c)
  · rw [State.writeRecord_of_room p h]
    exact (State.recorded_of_rolls (s.storeRecord_hbmOnly c p).rolls).trans
      ((State.advanceFwidx_recorded ..).trans (State.listRecord_recorded ..))
  · rw [State.writeRecord_of_full p h]
    split
    · exact State.recorded_of_rolls (deviceNote_hbmOnly ..).rolls
    · exact s.dropRecord_recorded c p

theorem State.writeRecords_recorded (ctx : Nat) (l kept : List PendingRecord) (s : State) : s.Recorded (s.writeRecords ctx l kept) := by
  induction l generalizing s kept with
  | nil =>
    unfold State.writeRecords
    split <;> exact State.recorded_of_rolls rfl
  | cons p l ih =>
    unfold State.writeRecords
    split
    · exact State.recorded_of_rolls rfl
    · split
      · exact (s.writeRecord_recorded _ p).trans (ih _ _)
      · exact State.recorded_of_rolls rfl

theorem State.flushRecords_recorded (s : State) (ctx : Nat) : s.Recorded (s.flushRecords ctx) := by
  unfold State.flushRecords
  split
  · exact State.recorded_of_rolls rfl
  · exact State.writeRecords_recorded ..

/-- A record that is not ready, or of the current cycle, holds every later one. -/
theorem State.flushRecords_of_held {s : State} {ctx : Nat} {x : Context} {p : PendingRecord} {l : List PendingRecord}
    (hx : s.context ctx = some x) (hl : x.records = p :: l) (hheld : p.ready = false ∨ s.cyc ≤ p.cyc) :
    s.flushRecords ctx = s.setContext x := by
  have hwait : (p.ready && decide (p.cyc < s.cyc)) = false := by
    obtain h | h := hheld
    · simp [h]
    · simp [Nat.not_lt.mpr h]
  have hsame : ({ x with records := [] ++ p :: l } : Context) = x := by rw [List.nil_append, ← hl]
  unfold State.flushRecords
  rw [hx]
  dsimp only
  rw [hl, State.writeRecords, hx]
  dsimp only
  rw [hwait, if_neg Bool.false_ne_true, hsame]

theorem State.context_of_contexts {s u : State} (h : u.contexts = s.contexts) (i : Nat) : u.context i = s.context i :=
  congrArg (List.find? fun c : Context => c.num == i) h

/-- A record that is written advances FWIDX of its context. -/
theorem State.fwidx_advanceFwidx {s : State} {x : Context} (h : (s.context x.num).isSome = true) (p : PendingRecord) :
    ((s.advanceFwidx x p).context x.num).map (·.fwidx) = some (x.fwidx + 1) := by
  obtain ⟨y, hy⟩ := Option.isSome_iff_exists.mp h
  have hnum : y.num = x.num := State.context_num hy
  unfold State.advanceFwidx
  rw [hy]
  dsimp only
  rw [State.context_of_contexts (State.noteIndex_contexts ..), ← hnum,
    State.context_setContext s { y with fwidx := x.fwidx + 1 } (by simp [hnum, hy])]
  rfl

/-- R285: what becomes of a record, by the room in the queue. -/
theorem writeRecord_outcomes {s : State} {x : Context} (p : PendingRecord) (hx : s.context x.num = some x) :
    let r := s.writeRecord x p
    (x.hasRoom (s.queueHead x) → r.2 = true ∧ (r.1.context x.num).map (·.fwidx) = some (x.fwidx + 1)) ∧
    (¬x.hasRoom (s.queueHead x) → p.keep = true → r = (s.deviceNote x x.fq 64, false)) ∧
    (¬x.hasRoom (s.queueHead x) → p.keep = false → r.2 = true ∧ (r.1.context x.num).map (·.fwidx) = some x.fwidx) := by
  refine ⟨fun h => ?_, fun h hkeep => ?_, fun h hkeep => ?_⟩
  · rw [State.writeRecord_of_room p h]
    refine ⟨rfl, ?_⟩
    dsimp only
    rw [State.context_of_contexts (State.listRecord_contexts ..)]
    refine State.fwidx_advanceFwidx ?_ p
    rw [State.context_of_contexts (s.storeRecord_hbmOnly x p).all.1, hx]
    rfl
  · rw [State.writeRecord_of_full p h, if_pos hkeep]
  · rw [State.writeRecord_of_full p h, if_neg (by simp [hkeep])]
    refine ⟨rfl, ?_⟩
    rw [State.context_of_contexts (s.dropRecord_contexts x p), hx]
    rfl


/-! ### Saving a team -/

theorem State.fillRecords_recorded {s : State} {t y : Team} (h : s.team t.id = some y) (saved hard : Bool) :
    s.Recorded (s.fillRecords t saved hard) := by
  have hid : y.id = t.id := by simpa using List.find?_some h
  unfold State.fillRecords
  rw [h]
  split
  · exact State.recorded_of_rolls rfl
  · exact (State.setTeam_recorded (hid ▸ h) ⟨_, _, rfl⟩).trans ((State.setContext_recorded ..).trans (State.flushRecords_recorded ..))

theorem State.team_of_rolls {s u : State} (h : u.rolls = s.rolls) (i : Nat) : u.team i = s.team i :=
  congrArg (List.find? fun t : Team => t.id == i) (State.teams_of_rolls h)

/-- A team that has left its cores, saved. -/
def Team.left (t : Team) (at_ : Nat) (frozen : Bool) (since turn : Nat) : Team :=
  { t with
    st := if frozen then .frozen else match t.swapTo with | some (a, w) => .swapped a w | none => .saved
    tcyc := at_, claims := t.claims.map (·.saved at_ t.yieldAt), stopAsked := false, swapTo := none
    viewj := [], unjoined := [], faulted := false, waitSince := since, turn }

/-- Before a saved team leaves: its grid waits, and its strands and commands are as they are saved. -/
def State.packed (s : State) (t : Team) (at_ : Nat) (frozen : Bool) : State :=
  let s := if frozen then s else s.reenter t.grid t.swapTo.isSome
  let held (c : Cmd) : Bool := (s.strand t.id c.strand).any (·.heldAtLease c.pc)
  let s : State := s.mapStrands t.id fun x => { x.saved at_ s with lanes := x.lanes.filter fun v => at_ ≤ v.p + 16 }
  { s with cmds := s.cmds.map fun c => if c.packet.isNone && c.team == t.id then c.saved (held c) else c }

/-- A team leaves its cores, and no PREEMPT waits for it. -/
def State.vacated (s : State) (t : Team) : State :=
  let s := (s.dropLaunches t.id).freeTeam t
  let s : State := { s with contexts := s.contexts.map fun x =>
    { x with watches := x.watches.map fun w => { w with teams := w.teams.filter (· != t.id) } } }
  s.settleWatches t.ctx

theorem State.leaveSaved_eq (s : State) (t : Team) (at_ : Nat) (frozen : Bool) :
    s.leaveSaved t at_ frozen = ((s.packed t at_ frozen).chosen.setTeam
      (t.left at_ frozen (s.packed t at_ frozen).cyc (s.packed t at_ frozen).choice)).vacated t := rfl

theorem State.packed_teams (s : State) (t : Team) (at_ : Nat) (frozen : Bool) : (s.packed t at_ frozen).teams = s.teams := by
  have hteams : (if frozen then s else s.reenter t.grid t.swapTo.isSome).teams = s.teams := by
    split
    · rfl
    · exact s.reenter_teams t.grid t.swapTo.isSome
  exact hteams

theorem State.rolls_vacated (s : State) (t : Team) : (s.vacated t).rolls = s.rolls :=
  (State.rolls_of_roster (State.roster_settleWatches ..)).trans (State.rolls_freeTeam ..)

theorem State.team_leaveSaved {s : State} {t : Team} (h : (s.team t.id).isSome = true) (at_ : Nat) (frozen : Bool) :
    ∃ since turn, (s.leaveSaved t at_ frozen).team t.id = some (t.left at_ frozen since turn) := by
  have hin : ((s.packed t at_ frozen).chosen.team t.id).isSome = true := by
    rw [State.team, State.chosen_teams, State.packed_teams]
    exact h
  refine ⟨(s.packed t at_ frozen).cyc, (s.packed t at_ frozen).choice, ?_⟩
  rw [State.leaveSaved_eq, State.team_of_rolls (State.rolls_vacated ..)]
  exact State.team_setTeam _ (t.left at_ frozen _ _) hin

theorem State.rolls_fresh (s : State) (k : Nat) : ({ s with fresh := k } : State).rolls = s.rolls := rfl

theorem State.rolls_chosen (s : State) : s.chosen.rolls = s.rolls := rfl

section
variable {s : State} {t : Team} {x : Context} {g : Grid} (ht : s.team t.id = some t) (hx : s.context t.ctx = some x)
  (hg : s.grid t.grid = some g)
include ht hx hg

/-- A team whose save area cannot be written is gone (R493). -/
theorem State.team_saveTeam_failed {a : Nat} {hard : Bool} {e : Raised}
    (hw : (s.writeParts x (structPlus g.launch.saveaddr (t.index * t.saveSize)) (s.saveParts t (s.savedStrands t a) a)).2 = some e) :
    ∃ y, (s.saveTeam t a hard).team t.id = some y ∧ ({ t with st := .gone } : Team).Relisted y := by
  have hset (u : State) (hu : u.rolls = s.rolls) : (u.setTeam { t with st := .gone }).team t.id = some { t with st := .gone } :=
    State.team_setTeam u { t with st := .gone } (by simp [State.team_of_rolls hu, ht])
  -- the writes are a variable, so that the kernel does not evaluate what the `match` is on
  obtain ⟨write, hwrite⟩ : ∃ f, f = State.writeParts := ⟨_, rfl⟩
  unfold State.saveTeam
  rw [← hwrite] at hw ⊢
  rw [hx, hg]
  dsimp only
  generalize write s x (structPlus g.launch.saveaddr (t.index * t.saveSize)) (s.saveParts t (s.savedStrands t a) a) = w at hw ⊢
  obtain ⟨v, r⟩ := w
  obtain rfl : r = some e := hw
  dsimp only
  have hlost := hset { (s.chosen.writeSome x (structPlus g.launch.saveaddr (t.index * t.saveSize)) (s.saveParts t (s.savedStrands t a) a) s.choice)
    with fresh := v.fresh + 2 ^ 21 }
    ((State.rolls_fresh ..).trans ((State.rolls_writeSome ..).trans s.rolls_chosen))
  obtain ⟨y, hy, hyr⟩ := (State.addRecord_recorded _ t.ctx _).team hlost
  rw [← State.team_of_rolls (State.rolls_freeTeam _ t)] at hy
  obtain ⟨z, hz, hzr⟩ := (State.fillRecords_recorded hy false true).team hy
  exact ⟨z, hz, hyr.trans hzr⟩

/-- A team whose save area is written is gone where a fault other than a PROBE fault or a TRAP stopped it, and else leaves, saved (R284, R291, R293). -/
theorem State.team_saveTeam_written {a : Nat} {hard : Bool}
    (hw : (s.writeParts x (structPlus g.launch.saveaddr (t.index * t.saveSize)) (s.saveParts t (s.savedStrands t a) a)).2 = none) :
    ∃ z y, t.Relisted z ∧ (s.saveTeam t a hard).team t.id = some y ∧
      if hard then y = { t with st := .gone } else ∃ since turn asked, y = { z.left a t.faulted since turn with stopAsked := asked } := by
  have hrolls := State.rolls_writeParts x (structPlus g.launch.saveaddr (t.index * t.saveSize)) (s.saveParts t (s.savedStrands t a) a) s
  -- the writes are a variable here too
  obtain ⟨write, hwrite⟩ : ∃ f, f = State.writeParts := ⟨_, rfl⟩
  unfold State.saveTeam
  rw [← hwrite] at hw hrolls ⊢
  rw [hx, hg]
  dsimp only
  generalize write s x (structPlus g.launch.saveaddr (t.index * t.saveSize)) (s.saveParts t (s.savedStrands t a) a) = w at hw hrolls ⊢
  obtain ⟨v, r⟩ := w
  obtain rfl : r = none := hw
  dsimp only
  generalize hu : State.mapStrands { v with fresh := v.fresh + 2 ^ 21 } t.id _ = u
  have hut : u.team t.id = some t := by
    rw [← hu]
    exact (State.team_of_rolls hrolls t.id).trans ht
  obtain ⟨z, hz, hzr⟩ := (State.fillRecords_recorded hut true hard).team hut
  have hid : z.id = t.id := by simpa using List.find?_some hz
  refine ⟨z, ?_⟩
  by_cases hhard : hard = true
  · refine ⟨{ t with st := .gone }, hzr, ?_, by rw [if_pos hhard]⟩
    rw [if_pos hhard, State.team_of_rolls (State.rolls_freeTeam ..)]
    exact State.team_setTeam _ { t with st := .gone } (Option.isSome_of_eq_some hz)
  · rw [if_neg hhard, hz, Option.getD_some]
    obtain ⟨since, turn, hleft⟩ := State.team_leaveSaved (t := z) (by rw [hid, hz]; rfl) a t.faulted
    obtain ⟨-, -, -, hasks⟩ := State.preemptCheck_asks (State.leaveSaved (State.fillRecords u t true hard) z a t.faulted)
    obtain ⟨asked, hasked⟩ := hasks t.id
    rw [← hid, hleft, hid] at hasked
    exact ⟨_, hzr, hasked, by rw [if_neg hhard]; exact ⟨since, turn, asked, rfl⟩⟩

end

/-! ### TEAM_SAVE -/

section
variable {s : State} {t : Team} {a : Nat} {hard : Bool} (ht : s.team t.id = some t) (hst : t.st = .stopping a hard)
include ht hst

/-- TEAM_SAVE when no timed command is to end first. -/
theorem exec_teamSave (hx : (s.context t.ctx).any (·.destroying) = false) (htimed : s.timedOf t.id = []) :
    exec (.teamSave t.id) s = .next (if s.atRest t a hard then s.saveTeam t a hard else s) := by
  rw [exec, execTeamSave, ht]
  dsimp only
  rw [hst]
  dsimp only
  rw [hx, htimed]
  rfl

/-- A team at rest is saved, by what stopped it and whether its save area was written (R113, R284, R291, R293, R493). -/
theorem exec_teamSave_atRest {x : Context} {g : Grid} (hx : s.context t.ctx = some x) (hg : s.grid t.grid = some g) (hd : x.destroying = false)
    (htimed : s.timedOf t.id = []) (hrest : s.atRest t a hard = true) {w : State × Option Raised}
    (hwritten : s.writeParts x (structPlus g.launch.saveaddr (t.index * t.saveSize)) (s.saveParts t (s.savedStrands t a) a) = w) :
    ∃ u y, exec (.teamSave t.id) s = .next u ∧ u.team t.id = some y ∧ y.index = t.index ∧ y.pending = t.pending ∧
      (hard = true ∨ w.2.isSome = true → y.st = .gone) ∧
      (hard = false → w.2 = none → y.tcyc = a ∧ y.claims = t.claims.map (fun k => k.saved a t.yieldAt) ∧
        (t.faulted = true → y.st = .frozen) ∧
        (t.faulted = false → (t.swapTo = none → y.st = .saved) ∧ ∀ c v, t.swapTo = some (c, v) → y.st = .swapped c v)) := by
  have hexec := exec_teamSave ht hst (by simp [hx, hd]) htimed
  rw [if_pos hrest] at hexec
  cases hw : w.2 with
  | some e =>
    obtain ⟨y, hy, r, n, rfl⟩ := State.team_saveTeam_failed (hard := hard) ht hx hg ((congrArg Prod.snd hwritten).trans hw)
    exact ⟨_, _, hexec, hy, rfl, rfl, fun _ => rfl, by simp⟩
  | none =>
    obtain ⟨z, y, ⟨r, n, rfl⟩, hy, hleft⟩ := State.team_saveTeam_written (hard := hard) ht hx hg ((congrArg Prod.snd hwritten).trans hw)
    cases hard with
    | true =>
      obtain rfl : y = _ := hleft
      exact ⟨_, _, hexec, hy, rfl, rfl, fun _ => rfl, by simp⟩
    | false =>
      obtain ⟨since, turn, asked, rfl⟩ := hleft
      refine ⟨_, _, hexec, hy, rfl, rfl, by simp, fun _ _ => ⟨rfl, rfl, fun hf => if_pos hf, fun hf => ⟨fun hswap => ?_, fun c v hswap => ?_⟩⟩⟩
      · simp [Team.left, hf, hswap]
      · simp [Team.left, hf, hswap]

/-- A team that is not at rest is not saved yet. -/
theorem exec_teamSave_notAtRest (htimed : s.timedOf t.id = []) (hrest : s.atRest t a hard = false) : exec (.teamSave t.id) s = .next s := by
  cases hx : (s.context t.ctx).any (·.destroying) with
  | false => rw [exec_teamSave ht hst hx htimed, hrest]; rfl
  | true =>
    rw [exec, execTeamSave, ht]
    dsimp only
    rw [hst]
    dsimp only
    rw [if_pos hx]

/-- The timed fabric commands of a faulted team end first (R293). -/
theorem exec_teamSave_withdraws (hx : (s.context t.ctx).any (·.destroying) = false) (htimed : s.timedOf t.id ≠ [])
    (hfault : hard = true ∨ t.faulted = true) (hstop : a ≤ t.tcyc) :
    exec (.teamSave t.id) s = .next (s.withdrawAll fun c => c.team == t.id && c.packet.isNone) := by
  rw [exec, execTeamSave, ht]
  dsimp only
  rw [hst]
  dsimp only
  rw [if_neg (by simp [hx]), if_pos (by simp [htimed, hfault, hstop])]

end

/-! ### GRID_DISCARD -/

theorem State.dropTeam_teams (s : State) (t : Team) : (s.dropTeam t).teams = s.teams.filter (·.id != t.id) :=
  congrArg (List.filter fun x : Team => x.id != t.id) (State.teams_of_rolls (s.rolls_freeTeam t))

theorem State.discardTeam_tables (s : State) (t : Team) :
    (s.discardTeam t).teams = s.teams.filter (·.id != t.id) ∧ (s.discardTeam t).grids = s.grids := by
  have hrolls : ((s.withdrawAll fun c => c.team == t.id && c.packet.isNone).dropLaunches t.id).rolls = s.rolls := State.rolls_withdrawAll ..
  obtain ⟨-, -, hgrids⟩ := State.dropTeam_spec ((s.withdrawAll fun c => c.team == t.id && c.packet.isNone).dropLaunches t.id) t
  refine ⟨?_, hgrids.trans (State.grids_of_rolls hrolls)⟩
  rw [← State.teams_of_rolls hrolls]
  exact State.dropTeam_teams ..

/-- The teams of a list are freed, one by one. -/
theorem State.mem_discardTeams (l : List Team) (s : State) :
    (l.foldl (fun s t => s.discardTeam t) s).grids = s.grids ∧
    ∀ y ∈ (l.foldl (fun s t => s.discardTeam t) s).teams, y ∈ s.teams ∧ ∀ t ∈ l, y.id ≠ t.id := by
  induction l generalizing s with
  | nil => exact ⟨rfl, fun y hy => ⟨hy, by simp⟩⟩
  | cons t l ih =>
    obtain ⟨hteams, hgrids⟩ := s.discardTeam_tables t
    obtain ⟨ihgrids, ihteams⟩ := ih (s.discardTeam t)
    refine ⟨ihgrids.trans hgrids, fun y hy => ?_⟩
    obtain ⟨hin, hl⟩ := ihteams y hy
    rw [hteams, List.mem_filter] at hin
    obtain ⟨hin, hne⟩ := hin
    exact ⟨hin, List.forall_mem_cons.mpr ⟨by simpa using hne, hl⟩⟩

/-- The records a context has still to write, changed one by one. -/
def State.mapRecords (s : State) (ctx : Nat) (f : PendingRecord → PendingRecord) : State :=
  match s.context ctx with
  | some x => s.setContext { x with records := x.records.map f }
  | none => s

/-- A grid without teams waits for its records, and the places it has left may be taken. -/
def State.beginClosing (s : State) (gid : Nat) (g : Grid) : State := (s.setGrid { (s.grid gid).getD g with closing := true }).preemptCheck

theorem State.discardGrid_eq {s : State} {gid : Nat} {g : Grid} (hg : s.grid gid = some g) :
    ∃ f, s.discardGrid gid = (((((s.teams.filter (·.grid == gid)).foldl (fun s t => s.discardTeam t) s).mapRecords g.ctx f).flushRecords
      g.ctx).settleWatches g.ctx).beginClosing gid g := by
  unfold State.discardGrid
  rw [hg]
  exact ⟨_, rfl⟩

theorem State.mapRecords_recorded (s : State) (ctx : Nat) (f : PendingRecord → PendingRecord) : s.Recorded (s.mapRecords ctx f) := by
  unfold State.mapRecords
  split <;> exact State.recorded_of_rolls rfl

theorem State.beginClosing_spec {s : State} {gid : Nat} (g : Grid) (h : (s.grid gid).isSome = true) :
    (∀ y ∈ (s.beginClosing gid g).teams, ∃ x ∈ s.teams, x.grid = y.grid) ∧ ((s.beginClosing gid g).grid gid).map (·.closing) = some true := by
  obtain ⟨k, hk⟩ := Option.isSome_iff_exists.mp h
  obtain rfl : k.id = gid := by simpa using List.find?_some hk
  obtain ⟨m, choices, fresh, hask, -⟩ := State.preemptCheck_askedOf (s.setGrid { k with closing := true })
  unfold State.beginClosing
  rw [hk, Option.getD_some, hask]
  constructor
  · intro y hy
    obtain ⟨x, hx, rfl⟩ := List.mem_map.mp hy
    refine ⟨x, hx, ?_⟩
    unfold Team.askedIn
    split <;> rfl
  · exact congrArg (Option.map (·.closing)) (State.grid_setGrid s { k with closing := true } h)

/-- Once the teams of a grid are freed, none is left of it, and it is closing (R284, log 64). -/
theorem State.discardGrid_spec {s : State} {gid : Nat} {g : Grid} (hg : s.grid gid = some g) :
    (∀ y ∈ (s.discardGrid gid).teams, y.grid ≠ gid) ∧ ((s.discardGrid gid).grid gid).map (·.closing) = some true := by
  obtain ⟨hgrids, hteams⟩ := State.mem_discardTeams (s.teams.filter (·.grid == gid)) s
  obtain ⟨f, hf⟩ := State.discardGrid_eq hg
  rw [hf]
  generalize (s.teams.filter (·.grid == gid)).foldl (fun s t => s.discardTeam t) s = v at hgrids hteams ⊢
  have hrec : v.Recorded (((v.mapRecords g.ctx f).flushRecords g.ctx).settleWatches g.ctx) :=
    (v.mapRecords_recorded g.ctx f).trans ((State.flushRecords_recorded ..).trans
      (State.recorded_of_rolls (State.rolls_of_roster (State.roster_settleWatches ..))))
  generalize ((v.mapRecords g.ctx f).flushRecords g.ctx).settleWatches g.ctx = u at hrec ⊢
  obtain ⟨hclosed, hclosing⟩ := State.beginClosing_spec g ((hrec.grid gid).trans (by rw [State.grid_of_grids hgrids, hg]; rfl))
  refine ⟨fun y hy hgrid => ?_, hclosing⟩
  obtain ⟨z, hz, hzgrid⟩ := hclosed y hy
  obtain ⟨x, hx, records, nores, rfl⟩ := hrec.mem hz
  obtain ⟨hin, hne⟩ := hteams x hx
  exact hne x (List.mem_filter.mpr ⟨hin, beq_iff_eq.mpr (hzgrid.trans hgrid)⟩) rfl

theorem exec_gridDiscard {s : State} {grid : Nat} {g : Grid} (hg : s.grid grid = some g) :
    exec (.gridDiscard grid) s = .next (if g.closing then (if s.recordsLeft g then s.flushRecords g.ctx else s.closeGrid g)
      else if s.discardReady grid then s.discardGrid grid else s) := by
  rw [exec, execGridDiscard, hg]

/-- A grid that has been discarded is complete (R284). -/
theorem State.closeGrid_spec {s : State} {grid : Nat} {g : Grid} (hg : s.grid grid = some g) :
    ((s.closeGrid g).grid grid).map (fun g => (g.live, g.closing, g.outcome, g.end_)) = some (false, false, 1, s.cyc) := by
  obtain rfl : g.id = grid := by simpa using List.find?_some hg
  have hset := State.grid_setGrid s { g with live := false, closing := false, outcome := 1, end_ := s.cyc, keys := s.keysOf g.ctx } (by simp [hg])
  unfold State.closeGrid
  rw [State.grid_of_grids (counterAdd_hbmOnly ..).all.2.1]
  exact congrArg (Option.map _) hset

/-! ### O50 -/

/-- Settles O50: a save by what stopped the team and whether its area was written, a discard by how far it has come, and a held record by the room. -/
theorem savesAndDiscards : Obligations.SavesAndDiscards := by
  refine ⟨fun s t a hard x g ht hst hx hg hd htimed hrest => ?_, fun s t a hard ht hst htimed hrest => exec_teamSave_notAtRest ht hst htimed hrest,
    fun s t a hard x ht hst hx hd htimed hfault hstop => exec_teamSave_withdraws ht hst (by simp [hx, hd]) htimed hfault hstop,
    fun s grid g hg => ?_, fun _ _ => rfl, fun s ctx x p l hx hl hheld => State.flushRecords_of_held hx hl hheld,
    fun s x p hx => writeRecord_outcomes p hx⟩
  · exact exec_teamSave_atRest ht hst hx hg hd htimed hrest rfl
  · rw [exec_gridDiscard hg]
    refine ⟨fun hc hready => ?_, fun hc hready => by simp [hc, hready], fun hc hleft => by simp [hc, hleft], fun hc hleft => ?_⟩
    · obtain ⟨hteams, hclosing⟩ := State.discardGrid_spec hg
      exact ⟨_, by simp [hc, hready], hteams, hclosing⟩
    · exact ⟨_, by simp [hc, hleft], State.closeGrid_spec hg⟩

end Sys2Proof.Machine

/-! # O53: short-lived pages, uncorrectable errors, sampling and migration -/

namespace Sys2Proof.Machine

/-! ### Short-lived pages and the temperature bands -/

/-- A page whose deadline has come is as one that has not been written (R142). -/
theorem exec_shortPageDeadline {s : State} {page d : Nat} {p : ShortPage} (hp : SMap.get none s.shortPages page = some p)
    (hd : p.deadline = some d) (hdue : d ≤ s.cyc) :
    exec (.shortPageDeadline page) s = .next { s with shortPages := SMap.set none s.shortPages page none } := by
  obtain ⟨deadline, window⟩ := p
  obtain rfl : deadline = some d := hd
  rw [exec, execShortPageDeadline, hp]
  exact congrArg _ (if_pos hdue)

theorem State.hot_setBand (s : State) {k : Nat} (hk : k < 32) (hot : Bool) :
    ((s.setBand k hot).memStacks.toList.getD k Stack.cold).hot = hot := by
  simp [State.setBand, hk]

/-- The hot band takes the deadline of a page away where it has not come yet (R143). -/
theorem exec_hotBandEnter {s : State} {k : Nat} (hk : k < 32) (hcool : (s.memStacks.toList.getD k Stack.cold).hot = false) :
    ∃ f : ShortPage → ShortPage, exec (.hotBandEnter k) s = .next ((s.setBand k true).mapShort k f) ∧
      ∀ p, f p = if ∃ d, p.deadline = some d ∧ s.cyc < d then { p with deadline := none } else p := by
  rw [exec, execHotBandEnter, if_pos (by rw [decide_eq_true hk, hcool]; rfl)]
  refine ⟨_, rfl, fun p => ?_⟩
  cases hd : p.deadline with
  | none => simp
  | some d => simp

/-- The return to the normal band gives a page without a deadline a new one (R143). -/
theorem exec_normalBandReturn {s : State} {k : Nat} (hk : k < 32) (hhot : (s.memStacks.toList.getD k Stack.cold).hot = true) :
    ∃ f : ShortPage → ShortPage, exec (.normalBandReturn k) s = .next ((s.setBand k false).mapShort k f) ∧
      ∀ p, f p = if p.deadline = none then { p with deadline := some (s.cyc + p.window) } else p := by
  rw [exec, execNormalBandReturn, if_pos (by rw [decide_eq_true hk, hhot]; rfl)]
  refine ⟨_, rfl, fun p => ?_⟩
  cases hd : p.deadline with
  | none => simp
  | some d => simp

/-! ### Uncorrectable errors -/

theorem exec_uncorrectableError_granule (s : State) {g : Nat} (hg : g < 2 ^ 36) :
    ∃ c, exec (.uncorrectableError (.granule g)) s = .next (s.setGranule g { s.granule g with pois := some (c, 0) }) := by
  rw [exec, execUncorrectableError]
  exact ⟨_, congrArg _ (if_pos hg)⟩

theorem exec_uncorrectableError_parcel (s : State) {tower p : Nat} (htower : tower < 4) (hp : p < 2 ^ 14) :
    exec (.uncorrectableError (.parcel tower p)) s = .next (s.poisonTags [2 ^ 14 * tower + p]) := by
  rw [exec, execUncorrectableError]
  exact congrArg _ (if_pos (by rw [decide_eq_true htower, decide_eq_true hp]; rfl))

/-- A parcel that is poisoned has no tag on its way any more; the tags of the others stay. -/
theorem State.mem_newTags_poisonTags (s : State) (k : Nat) (e : Nat × BitVec 16) :
    e ∈ (s.poisonTags [k]).newTags ↔ e ∈ s.newTags ∧ e.1 ≠ k := by
  simp [State.poisonTags]

theorem exec_uncorrectableError_sreg {s : State} {core team i : Nat} (d : BitVec 6) {st : Strand} (hcore : core < 16)
    (hocc : (s.core core).occupant = some (team, i)) (hst : s.strand team i = some st) :
    exec (.uncorrectableError (.sreg core d)) s = .next (s.setStrand (st.setSreg d (st.sreg d) true)) := by
  rw [exec, execUncorrectableError, if_pos hcore, hocc]
  dsimp only
  rw [hst]

theorem exec_uncorrectableError_tileLine (s : State) {tower tile l : Nat} (htower : tower < 4) (htile : tile < 64) (hl : l < 128) :
    exec (.uncorrectableError (.tileLine tower tile l)) s =
      .next (s.setLine (tileKey tower tile l) { s.line (tileKey tower tile l) with pois := true }) := by
  rw [exec, execUncorrectableError]
  exact congrArg _ (if_pos (by simp [htower, htile, hl]))

theorem exec_uncorrectableError_slot (s : State) {core k : Nat} (hcore : core < 16) (hk : k < 65536) :
    exec (.uncorrectableError (.slot core k)) s =
      .next { s with slotErrors := SMap.set false s.slotErrors (65536 * core + k) true } := by
  rw [exec, execUncorrectableError]
  exact congrArg _ (if_pos (by simp [hcore, hk]))

theorem memoryEvents : Claims.MemoryEvents := by
  refine ⟨fun s page d p hp hd hdue => exec_shortPageDeadline hp hd hdue, fun s k hk hcool => ?_, fun s k hk hhot => ?_,
    fun s g hg => exec_uncorrectableError_granule s hg, fun s tower p htower hp => ?_,
    fun s core team i d st hcore hocc hst => exec_uncorrectableError_sreg d hcore hocc hst,
    fun s tower tile l htower htile hl => exec_uncorrectableError_tileLine s htower htile hl,
    fun s core k hcore hk => exec_uncorrectableError_slot s hcore hk, fun s => by rw [exec, execUncorrectableError]⟩
  · obtain ⟨f, hexec, hf⟩ := exec_hotBandEnter hk hcool
    exact ⟨_, hexec, s.hot_setBand hk true, rfl, by rw [funext hf]; rfl⟩
  · obtain ⟨f, hexec, hf⟩ := exec_normalBandReturn hk hhot
    exact ⟨_, hexec, s.hot_setBand hk false, rfl, by rw [funext hf]; rfl⟩
  · exact ⟨_, exec_uncorrectableError_parcel s htower hp, rfl, fun e he => ((s.mem_newTags_poisonTags _ e).mp he).2,
      fun e he hne => (s.mem_newTags_poisonTags _ e).mpr ⟨he, hne⟩, rfl, rfl, rfl⟩

/-! ### Entries of the hot list -/

/-- The lowest of some packed fields. -/
theorem bits_packFields_head (w v : Nat) (l : List (Nat × Nat)) : bits (packFields ((w, v) :: l)) 0 w = v % 2 ^ w := by
  simp [bits, packFields]

/-- The bits above the lowest of some packed fields are those of the others. -/
theorem bits_packFields_tail (w v o n : Nat) (l : List (Nat × Nat)) :
    bits (packFields ((w, v) :: l)) (w + o) n = bits (packFields l) o n := by
  have hlow : v % 2 ^ w < 2 ^ w := Nat.mod_lt _ (Nat.two_pow_pos w)
  rw [bits, bits, packFields, Nat.pow_add, ← Nat.div_div_eq_div_mul, Nat.add_mul_div_left _ _ (Nat.two_pow_pos w),
    Nat.div_eq_of_lt hlow, Nat.zero_add]

theorem packFields_lt (l : List (Nat × Nat)) : packFields l < 2 ^ (l.map Prod.fst).sum := by
  induction l with
  | nil => simp [packFields]
  | cons f l ih =>
    obtain ⟨w, v⟩ := f
    have hlow : v % 2 ^ w < 2 ^ w := Nat.mod_lt _ (Nat.two_pow_pos w)
    rw [packFields, List.map_cons, List.sum_cons, Nat.pow_add]
    calc v % 2 ^ w + 2 ^ w * packFields l < 2 ^ w * (packFields l + 1) := by rw [Nat.mul_succ]; omega
      _ ≤ 2 ^ w * 2 ^ (l.map Prod.fst).sum := Nat.mul_le_mul_left _ ih

/-- The fields of an entry of the hot list fill its 128 bits (R148). -/
theorem HotEntry.toNat_word (e : HotEntry) : e.word.toNat = packFields
    [(26, e.page), (16, e.est), (14, pseudoChannel e.page 0), (2, e.tower), (6, 0), (20, e.tid), (32, e.tix), (8, e.ctx), (4, 0)] := by
  rw [HotEntry.word, BitVec.toNat_ofNat]
  exact Nat.mod_eq_of_lt (packFields_lt _)

theorem HotEntry.hotPage_word (e : HotEntry) : hotPage e.word = e.page % 2 ^ 26 := by
  rw [hotPage, e.toNat_word, bits_packFields_head]

theorem HotEntry.hotEst_word (e : HotEntry) : hotEst e.word = e.est % 2 ^ 16 := by
  rw [hotEst, e.toNat_word, bits_packFields_tail 26 _ 0, bits_packFields_head]

/-- The fields of an entry that lie above its page, estimate, channel and tower. -/
theorem HotEntry.bits_word_high (e : HotEntry) (o n : Nat) :
    bits e.word.toNat (26 + (16 + (14 + (2 + (6 + o))))) n = bits (packFields [(20, e.tid), (32, e.tix), (8, e.ctx), (4, 0)]) o n := by
  rw [e.toNat_word]
  simp only [bits_packFields_tail]

theorem HotEntry.hotTid_word (e : HotEntry) : hotTid e.word = e.tid % 2 ^ 20 :=
  (e.bits_word_high 0 20).trans (bits_packFields_head ..)

theorem HotEntry.hotTix_word (e : HotEntry) : hotTix e.word = e.tix % 2 ^ 32 :=
  (e.bits_word_high (20 + 0) 32).trans ((bits_packFields_tail ..).trans (bits_packFields_head ..))

theorem HotEntry.hotCtx_word (e : HotEntry) : hotCtx e.word = e.ctx % 2 ^ 8 :=
  (e.bits_word_high (20 + (32 + 0)) 8).trans
    ((bits_packFields_tail ..).trans ((bits_packFields_tail ..).trans (bits_packFields_head ..)))

/-! ### Migration -/

/-- The copy of a page, like any write of HBM, changes nothing but HBM and what is kept about it. -/
theorem copyPage_hbmOnly (s : State) (x : Context) (tid old new : Nat) : HbmOnly s (s.copyPage x tid old new) := by
  unfold State.copyPage
  refine (HbmOnly.foldl _ (fun u g => ?_) _ s).trans ⟨_, _, _, _, _, _, _, rfl⟩
  dsimp only
  split
  · exact .refl u
  · exact ⟨_, _, _, _, _, _, _, rfl⟩

theorem noteCopy_hbmOnly (s : State) (x : Context) (m : Migration) : HbmOnly s (s.noteCopy x m) := ⟨_, _, _, _, _, _, _, rfl⟩

/-- Such changes leave the pages on their way to their new places as they were. -/
theorem HbmOnly.forward {s u : State} (h : HbmOnly s u) : u.forward = s.forward := by
  obtain ⟨_, _, _, _, _, _, _, rfl⟩ := h
  rfl

/-- The device once the new page of a migration holds what the old one held: a local page is copied, a peer's has been pulled. -/
def State.pageMoved (s : State) (x : Context) (m : Migration) : State :=
  if m.peer = none then (s.copyPage x m.tid m.oldPage m.newPage).noteCopy x m else s

theorem pageMoved_hbmOnly (s : State) (x : Context) (m : Migration) : HbmOnly s (s.pageMoved x m) := by
  unfold State.pageMoved
  split
  · exact (copyPage_hbmOnly ..).trans (noteCopy_hbmOnly ..)
  · exact .refl s

/-- The device once the table entry names the new page (R151, SWITCH). -/
def State.entrySwitched (s : State) (x : Context) (m : Migration) : State :=
  (s.pageMoved x m).setTableWord x m.entryAddr (bits ((s.pageMoved x m).tableWord x m.entryAddr) 0 4 + 2 ^ 16 * m.newPage)

theorem State.forward_entrySwitched (s : State) (x : Context) (m : Migration) : (s.entrySwitched x m).forward = s.forward :=
  ((pageMoved_hbmOnly ..).trans (setTableWord_hbmOnly ..)).forward

theorem exec_migrationCopyComplete {s : State} {x : Context} (hx : s.context s.migration.ctx = some x) (hst : s.migration.st = .copy)
    (hpulls : ∀ o ∈ s.fabric.outstanding, o.pulls = false) : exec .migrationCopyComplete s = .next { s.entrySwitched x s.migration with
      forward := if s.migration.peer = none then SMap.set s.migration.oldPage s.forward s.migration.oldPage s.migration.newPage else s.forward
      migration := { s.migration with st := .shoot } } := by
  have hhome : (s.fabric.outstanding.any Outstanding.pulls) = false := by simpa using hpulls
  rw [exec, execMigrationCopyComplete]
  dsimp only
  rw [hx]
  dsimp only
  rw [if_pos (by simp [hst, hhome])]
  simp only [Option.isNone_iff_eq_none]
  rw [← s.forward_entrySwitched x s.migration]
  rfl

section
variable {s : State} {x : Context} (hx : s.context s.migration.ctx = some x) (hst : s.migration.st = .shoot)
include hx hst

/-- A SHOOT waits while accesses that used the translations it has dropped have not performed (R137, R151). -/
theorem exec_migrationShootComplete_waits (hshot : (s.dropBlock s.migration).shot s.migration = false) :
    exec .migrationShootComplete s = .next { s.dropBlock s.migration with
      migration := { s.migration with sent := some (s.migration.sent.getD s.fabric.nextReq) } } := by
  rw [exec, execMigrationShootComplete]
  dsimp only
  rw [hx]
  dsimp only
  rw [if_pos hst, hshot]
  rfl

/-- Once they have performed, the move is logged and the next entry is taken (R151, DONE). -/
theorem exec_migrationShootComplete_done (hshot : (s.dropBlock s.migration).shot s.migration = true) :
    exec .migrationShootComplete s = .next ((({ s.dropBlock s.migration with
        forward := SMap.erase s.forward s.migration.oldPage (s.migration.oldPage + 1) } : State).migLog x s.migration.tid s.migration.tix 0
      s.migration.oldPage s.migration.newPage).migNext s.migration.todo) := by
  rw [exec, execMigrationShootComplete]
  dsimp only
  rw [hx]
  dsimp only
  rw [if_pos hst, hshot]
  rfl

end

theorem migration : Claims.Migration := by
  refine ⟨fun s hend => ⟨fun hst => ?_, fun hst => ⟨?_, fun htodo => ?_⟩⟩, fun e hpage hest htid htix hctx => ?_,
    fun s x hx hst hpulls => ?_, fun s x hx hst => ⟨exec_migrationShootComplete_waits hx hst, exec_migrationShootComplete_done hx hst⟩⟩
  · rw [exec, execSamplingIntervalEnd, if_pos hend]
    exact congrArg _ (if_neg hst)
  · rw [exec, execSamplingIntervalEnd, if_pos hend]
    exact congrArg _ (if_pos hst)
  · rw [htodo, State.migNext]
  · rw [e.hotPage_word, e.hotEst_word, e.hotTid_word, e.hotTix_word, e.hotCtx_word]
    exact ⟨Nat.mod_eq_of_lt hpage, Nat.mod_eq_of_lt hest, Nat.mod_eq_of_lt htid, Nat.mod_eq_of_lt htix, Nat.mod_eq_of_lt hctx⟩
  · refine ⟨_, exec_migrationCopyComplete hx hst hpulls, rfl, fun hpeer hwf => ?_, fun hpeer => ?_, rfl⟩
    · dsimp only
      rw [if_pos hpeer]
      exact SMap.get_set_same _ _ 0 _ _ hwf
    · exact if_neg (Option.isSome_iff_ne_none.mp hpeer)

/-- Settles O53: pages and storage event by event, and a migration by how far it has come. -/
theorem memoryAndMigration : Obligations.MemoryAndMigration := ⟨memoryEvents, migration⟩

end Sys2Proof.Machine

/-! # O16 to O18: ring loads and stores, tile transfers and lanes

Every load of class MEM is `State.loadOp` and every store `State.storeOp`, with the slot's own checks besides those of the access. So there is
one lemma for each of the two (`State.loadOp_of_inOrder`, `State.storeOp_of_inOrder`), and a slot comes under it once its checks find nothing. -/

namespace Sys2Proof.Machine

open Sys2Proof.Claims

/-! ### The effective address -/

theorem ofInt_signed_toNat {w : Nat} (x : BitVec w) (hw : 0 < w) : BitVec.ofInt 64 (signed w x.toNat) = x.signExtend 64 := by
  rw [signed_toNat x hw, BitVec.signExtend]

/-- The offset of a format-M slot, with none, one and two prefixes (R320). -/
theorem State.imm_of_offsetM {s : State} {o : BitVec 6} {v : Word} (hv : offsetM s o v) (hlen : s.iss.pfx.length ≤ 2) :
    s.imm o.toNat 6 false true = v := by
  obtain ⟨hnone, hone, htwo⟩ := hv
  match hp : s.iss.pfx with
  | [] => simp [State.imm, hp, hnone hp, immBits_nil]
  | [p] =>
    have himm : s.imm o.toNat 6 false true = BitVec.ofInt 64 (signed 24 (immBits o.toNat 6 [p])) := by simp [State.imm, hp]
    rw [himm, hone p hp, immBits_append, ofInt_signed_toNat (p ++ o) (by decide)]
  | [p, q] =>
    have himm : s.imm o.toNat 6 false true = BitVec.ofInt 64 (signed 42 (immBits o.toNat 6 [p, q])) := by simp [State.imm, hp]
    rw [himm, htwo p q hp, immBits_append₂, ofInt_signed_toNat (p ++ q ++ o) (by decide)]
  | _ :: _ :: _ :: _ => simp [hp] at hlen

theorem State.formatM_of_offsetM {s : State} {o : BitVec 6} {v : Word} (hv : offsetM s o v) (hlen : s.iss.pfx.length ≤ 2) (a : BitVec 6)
    (size : Nat) : s.formatM a o size = reg s a + v * BitVec.ofNat 64 size := by
  rw [State.formatM, State.imm_of_offsetM hv hlen, sreg_eq_reg]

/-! ### The checks of an access -/

theorem eaTwi_eaRing (ea : Word) : eaTwi (eaRing ea) = wbits ea 26 2 := by
  simp only [eaTwi, eaRing, wbits, bits, BitVec.extractLsb'_toNat, Nat.shiftRight_zero]
  omega

theorem eaOff_eaRing (ea : Word) : eaOff (eaRing ea) = wbits ea 0 21 := by
  simp only [eaOff, eaRing, wbits, bits, BitVec.extractLsb'_toNat, Nat.shiftRight_zero]
  omega

theorem Team.inBelt_iff (s : State) (ea : Word) (last : Nat) : s.iss.tm.inBelt ea last = true ↔ Claims.inBelt s ea last := by
  simp only [Team.inBelt, Claims.inBelt, eaTwi_eaRing, eaOff_eaRing, Bool.and_eq_true, beq_iff_eq, decide_eq_true_eq, and_assoc]

section
variable {s : State} {ea : Word} {size : Nat}

theorem State.ringChecks_of_beyond (h : ¬ inBelt s ea (size - 1)) : s.ringChecks ea size = [readStage s .protectionRing ea.toNat] := by
  rw [State.ringChecks, Bool.eq_false_iff.mpr (mt (Team.inBelt_iff s ea _).mp h)]
  rfl

theorem State.ringChecks_of_inBelt (h : inBelt s ea (size - 1)) :
    s.ringChecks ea size = illegalIf s (ea.toNat % min size 64 != 0) := by
  rw [State.ringChecks, (Team.inBelt_iff s ea _).mpr h]
  rfl

theorem State.ringChecks_eq_nil (h : ringOk s ea size) : s.ringChecks ea size = [] := by
  obtain ⟨hbelt, halign⟩ := h
  rw [State.ringChecks_of_inBelt hbelt, halign]
  rfl

theorem State.diagChecks_eq_nil (h : columnOk s ea) : s.diagChecks ea = [] := by
  obtain ⟨hbelt, halign, hrow⟩ := h
  have hoff : eaOff (eaRing ea) / 1024 % 8 = wbits ea 10 11 % 8 := by
    rw [eaOff_eaRing]
    simp only [wbits, bits]
    omega
  rw [State.diagChecks, (Team.inBelt_iff s ea _).mpr hbelt, halign, hoff, hrow]
  rfl

/-- The bytes of an access lie in the belt as its view asks (R155, R159). -/
def accessOk (s : State) (ea : Word) (size : Nat) (diag : Bool) : Prop := if diag then columnOk s ea else ringOk s ea size

theorem State.accessChecks_eq_nil {diag : Bool} (h : accessOk s ea size diag) :
    (if diag then s.diagChecks ea else s.ringChecks ea size) = [] := by
  cases diag with
  | false => exact State.ringChecks_eq_nil h
  | true => exact State.diagChecks_eq_nil h

theorem State.tagOperand_eq_nil (h : ea.extractLsb' 48 16 ≠ 0xFFFF#16) : s.tagOperand ea = [] := if_neg (by simpa [eaTag] using h)

theorem State.tagCheck_eq_nil {keys : List Nat} (h : ∀ k ∈ keys, s.tag k = ea.extractLsb' 48 16) : s.tagCheck ea keys = [] := by
  have hnone : (keys.find? fun k => s.tag k != eaTag ea) = none := List.find?_eq_none.mpr fun k hk => by simp [h k hk, eaTag]
  rw [State.tagCheck, hnone]

theorem State.tagCheck_of_differs {keys : List Nat} (h : ∃ k ∈ keys, s.tag k ≠ ea.extractLsb' 48 16) :
    ∃ r, s.tagCheck ea keys = [r] ∧ r.cause = .scheduleTag ∧ r.point = .read := by
  obtain ⟨k, hk, hne⟩ := h
  have hsome : (keys.find? fun k => s.tag k != eaTag ea).isSome = true := List.find?_isSome.mpr ⟨k, hk, bne_iff_ne.mpr hne⟩
  obtain ⟨j, hj⟩ := Option.isSome_iff_exists.mp hsome
  exact ⟨_, by rw [State.tagCheck, hj], rfl, rfl⟩

end

/-! ### The checks of registers and rows -/

section
variable {s : State}

theorem State.poisonChecks_one {a : BitVec 6} (ha : poisoned s a = false) : s.poisonChecks [a] = [] :=
  State.poisonChecks_nil s [a] (List.forall_mem_singleton.mpr ha)

theorem State.poisonChecks_two {a b : BitVec 6} (ha : poisoned s a = false) (hb : poisoned s b = false) : s.poisonChecks [a, b] = [] :=
  State.poisonChecks_nil s [a, b] (List.forall_mem_cons.mpr ⟨ha, List.forall_mem_singleton.mpr hb⟩)

/-- A row register in the claim, with a base register that is not poisoned. -/
theorem State.rowChecks_eq_nil {d a : BitVec 6} (hd : rowClaimed s d) (ha : poisoned s a = false) :
    s.vrowCheck d ++ s.poisonChecks [a] = [] := by
  rw [State.vrowCheck_eq_nil hd, State.poisonChecks_one ha, List.append_nil]

/-- A strand accumulator row in the claim, named and addressed by registers that are not poisoned. -/
theorem State.accChecks_eq_nil {d a : BitVec 6} (hclaim : accClaimed s d) (hd : poisoned s d = false) (ha : poisoned s a = false) :
    s.accCheck d ++ s.poisonChecks [d, a] = [] := by
  have hrow : s.rowInClaim (s.accOperand d) = true := decide_eq_true (p := (reg s d).toNat < 128 * s.iss.tm.nacc) hclaim
  rw [State.accCheck, if_pos hrow, State.poisonChecks_two hd ha, List.append_nil]

theorem State.rowCheck_of_rowOk {rho : Nat}
    (h : rowOk (s.iss.st.rowType rho) (s.rowOf rho).data (s.rowOf rho).ck (s.iss.st.acktol.extractLsb' 0 32) = true) : s.rowCheck rho = [] := by
  rw [State.rowCheck, if_pos h, ite_self]

end

/-! ### What a load and a store do where their checks find nothing -/

section
variable {s : State} {ea : Word} {size : Nat} {diag : Bool} {extra live : List Raised} (hg : s.iss.guard = true)
  (haccess : accessOk s ea size diag) (hextra : extra = []) (hlive : live = [])
include hg haccess hextra hlive

/-- The load without the tag check, and the one with it where the tags agree. -/
theorem State.loadOp_of_inOrder (dst : LoadDst) : s.loadOp ea size diag false dst extra live = loads s ea size diag dst ∧
    (tagsAgree s ea size diag → s.loadOp ea size diag true dst extra live = loadsTagged s ea size diag dst) := by
  subst hextra hlive
  refine ⟨?_, fun ⟨hreserved, htags⟩ => ?_⟩
  · rw [State.loadOp, State.accessChecks_eq_nil haccess, State.slotDone_of_guard hg]
    rfl
  · have hcheck : s.tagCheck ea (s.iss.tm.accessKeys (eaRing ea) size diag) = [] := State.tagCheck_eq_nil htags
    rw [State.loadOp, State.accessChecks_eq_nil haccess, State.tagOperand_eq_nil hreserved, hcheck, State.slotDone_of_guard hg, ite_self, ite_self]
    rfl

theorem State.storeOp_of_inOrder (data : Row) (pois : BitVec 8) :
    s.storeOp ea size diag data pois extra live = stores s ea size diag data pois := by
  subst hextra hlive
  rw [State.storeOp, State.accessChecks_eq_nil haccess, State.slotDone_of_guard hg]
  rfl

end

/-! ### O16: ring loads -/

theorem ringLoadForms : RingLoadForms := by
  intro s d a o v hg hv hlen ha
  have hea (size : Nat) : s.formatM a o size = reg s a + v * BitVec.ofNat 64 size := State.formatM_of_offsetM hv hlen a size
  refine ⟨fun hring => ?_, fun hring hd => ?_, fun hcolumn hd => ?_, fun hring hclaim hd => ?_⟩
  · simp only [exec, execLds, execLdsChk, hea]
    exact State.loadOp_of_inOrder (diag := false) hg hring (State.poisonChecks_one ha) rfl _
  · simp only [exec, execLdv, execLdvChk, hea]
    exact State.loadOp_of_inOrder (diag := false) hg hring (State.rowChecks_eq_nil hd ha) rfl _
  · simp only [exec, execLdvd, execLdvdChk, hea]
    exact State.loadOp_of_inOrder (diag := true) hg hcolumn (State.rowChecks_eq_nil hd ha) rfl _
  · simp only [exec, execAccld, execAccldChk, hea]
    exact State.loadOp_of_inOrder (diag := false) hg hring (State.accChecks_eq_nil hclaim hd ha) rfl _

section
variable {s : State} {a o : BitVec 6} {ea : Word} (hg : s.iss.guard = true) (ha : poisoned s a = false) (hea : s.formatM a o 8 = ea)
include hg ha hea

/-- LDS raises what the checks of its access find. -/
theorem exec_lds (d : BitVec 6) : exec (.lds d a o) s =
    .next (slotRan s (s.ringChecks ea 8) [.load (s.loadLatency ea) (.load (.sreg d) (eaRing ea) 8 false none)]) := by
  rw [exec, execLds, hea, State.loadOp, State.poisonChecks_one ha, State.slotDone_of_guard hg]
  simp only [Bool.false_eq_true, if_false, Bool.false_and, List.nil_append, List.append_nil]

/-- LDS.chk of an address in order raises what the comparison of the tags finds. -/
theorem exec_ldsChk (hring : ringOk s ea 8) (hreserved : ea.extractLsb' 48 16 ≠ 0xFFFF#16) (d : BitVec 6) : exec (.ldsChk d a o) s =
    .next (slotRan s (s.tagCheck ea (s.iss.tm.accessKeys (eaRing ea) 8 false))
      [.load (s.loadLatency ea) (.load (.sreg d) (eaRing ea) 8 false none), .tagEdge]) := by
  rw [exec, execLdsChk, hea, State.loadOp, State.poisonChecks_one ha, State.ringChecks_eq_nil hring, State.tagOperand_eq_nil hreserved,
    State.slotDone_of_guard hg]
  rfl

end

theorem ringLoadFaults : RingLoadFaults := by
  intro s d a o v hg hv hlen ha
  have hea := State.formatM_of_offsetM hv hlen a 8
  have hlds := exec_lds hg ha hea d
  refine ⟨fun hbeyond => ⟨_, hlds, ?_⟩, fun hbelt halign => ⟨_, hlds, ?_⟩, fun hring hreserved hdiffers => ?_⟩
  · rw [State.ringChecks_of_beyond hbeyond]
    rfl
  · rw [State.ringChecks_of_inBelt hbelt, show min 8 64 = 8 from rfl, bne_iff_ne.mpr halign]
    rfl
  · obtain ⟨r, hcheck, hcause, hpoint⟩ := State.tagCheck_of_differs hdiffers
    exact ⟨_, r, exec_ldsChk hg ha hea hring hreserved d, congrArg (s.iss.raised ++ ·) hcheck, hcause, hpoint⟩

/-- Settles O16: each form is `State.loadOp` with its checks in order, and LDS and LDS.chk raise what the checks of the access find. -/
theorem ringLoads : Obligations.RingLoads := ⟨ringLoadForms, ringLoadFaults⟩

/-! ### O17: ring stores -/

/-- Settles O17: each form is `State.storeOp` with its checks in order. -/
theorem ringStores : Obligations.RingStores := by
  intro s d a o v hg hv hlen ha
  have hea (size : Nat) : s.formatM a o size = reg s a + v * BitVec.ofNat 64 size := State.formatM_of_offsetM hv hlen a size
  refine ⟨fun hring => ?_, fun hring hd hsound => ?_, fun hcolumn hd hsound => ?_, fun hring hclaim hd hsound => ?_⟩
  · rw [exec, execSts, hea]
    exact State.storeOp_of_inOrder (diag := false) hg hring (State.poisonChecks_one ha) rfl _ _
  · rw [exec, execStv, hea]
    exact State.storeOp_of_inOrder (diag := false) hg hring (State.rowChecks_eq_nil hd ha) (State.rowCheck_eq_nil hsound) _ _
  · rw [exec, execStvd, hea]
    exact State.storeOp_of_inOrder (diag := true) hg hcolumn (State.rowChecks_eq_nil hd ha) (State.rowCheck_eq_nil hsound) _ _
  · rw [exec, execAccst, hea]
    exact State.storeOp_of_inOrder (diag := false) hg hring (State.accChecks_eq_nil hclaim hd ha) (State.rowCheck_of_rowOk hsound) _ _

/-! ### O18: tile loads and stores -/

theorem undigits_testBit_add {b j : Nat} (hj : j < b) (l : List Nat) (i : Nat) :
    (undigits b l).testBit (b * i + j) = (l.getD i 0).testBit j := by
  have hdigit := congrArg (Nat.testBit · j) (undigits_digit b l i)
  simpa [Nat.testBit_mod_two_pow, Nat.testBit_div_two_pow, hj, Nat.add_comm] using hdigit

/-- Bit `j` of digit `i` of a bit vector that is put together from its digits. -/
theorem getLsbD_ofNat_undigits {b i j w : Nat} (hj : j < b) (hw : b * i + j < w) (l : List Nat) :
    (BitVec.ofNat w (undigits b l)).getLsbD (b * i + j) = (l.getD i 0).testBit j := by
  rw [BitVec.getLsbD_ofNat, decide_eq_true hw, Bool.true_and, undigits_testBit_add hj]

/-- A tile load or store whose operands are in order, in registers that are not poisoned (R399, R456). -/
theorem State.tileChecks_eq_nil {s : State} {a b : BitVec 6} {bad : Bool} (hbad : bad = false) (ha : poisoned s a = false)
    (hb : poisoned s b = false) : failed [(bad, s.badOperand)] ++ s.poisonChecks [a, b] = [] := by
  rw [failed_badOperand, hbad, State.poisonChecks_two ha hb]
  rfl

/-- The tile register is the team's, and the four lines begin on a line that is a multiple of 4. -/
theorem lineOperand_ok {n d l0 : Nat} (hd : d < n) (halign : l0 % 4 = 0) (hlast : l0 ≤ 124) :
    (decide (n ≤ d) || l0 % 4 != 0 || decide (124 < l0)) = false := by
  simp [hd, halign, hlast]

/-- The tile register is the team's, and the chunk is one of its scale plane, or of its metadata plane where it has one (R399). -/
theorem planeOperand_ok {n d high ch : Nat} {isMeta : Bool} (hd : d < n) (hzero : high = 0) (hscale : isMeta = false → ch ≤ 1)
    (hmeta : isMeta = true → ch ≤ 15 ∧ d < 8) : (decide (n ≤ d) || high != 0 ||
      (if isMeta then decide (15 < ch) || decide (Nat.min n 8 ≤ d) else decide (1 < ch))) = false := by
  cases isMeta with
  | false => simp [hd, hzero, hscale rfl]
  | true =>
    obtain ⟨hch, hd8⟩ := hmeta rfl
    simp [hd, hzero, hch, hd8]

/-- The four lines that an STT stores (R456). -/
def State.storedLines (s : State) (d l0 : Nat) : List TileLine := (List.range 4).map fun m => s.line (s.lineKeyOf d (l0 + m))

/-- Their data, the first line lowest. -/
def State.storedData (s : State) (d l0 : Nat) : Row := BitVec.ofNat 4096 (undigits 1024 ((s.storedLines d l0).map fun l => l.data.toNat))

/-- Their poison, by parts of 64 bytes: two for a line. -/
def State.storedPois (s : State) (d l0 : Nat) : BitVec 8 := BitVec.ofNat 8 (undigits 2 ((s.storedLines d l0).map fun l => if l.pois then 3 else 0))

section
variable (s : State) (d l0 : Nat) {m : Nat} (hm : m < 4)
include hm

theorem State.storedLines_map_getD (f : TileLine → Nat) :
    ((s.storedLines d l0).map f).getD m 0 = f (s.line (s.lineKeyOf d (l0 + m))) := by
  simp [State.storedLines, hm]

theorem State.extractLsb'_storedData :
    (s.storedData d l0).extractLsb' (1024 * m) 1024 = (s.line (s.lineKeyOf d (l0 + m))).data := by
  refine BitVec.eq_of_getLsbD_eq fun j hj => ?_
  rw [BitVec.getLsbD_extractLsb', decide_eq_true hj, Bool.true_and, State.storedData, getLsbD_ofNat_undigits hj (by omega),
    s.storedLines_map_getD d l0 hm, BitVec.testBit_toNat]

/-- Both 64-byte parts that hold a line have its poison. -/
theorem State.getLsbD_storedPois {j : Nat} (hj : j < 2) :
    (s.storedPois d l0).getLsbD (2 * m + j) = (s.line (s.lineKeyOf d (l0 + m))).pois := by
  rw [State.storedPois, getLsbD_ofNat_undigits hj (by omega), s.storedLines_map_getD d l0 hm]
  have hthree : Nat.testBit 3 j = true := by interval_cases j <;> rfl
  cases (s.line (s.lineKeyOf d (l0 + m))).pois
  · exact Nat.zero_testBit j
  · exact hthree

end

theorem tileTransfers : TileTransfers := by
  intro s d a b hg hd ha hb
  dsimp only
  intro hring
  refine ⟨fun hfmt halign hlast => ?_, fun hzero => ⟨fun hscale hch => ?_, fun hmeta hch hd8 => ?_⟩, fun halign hlast => ?_⟩
  · have hchecks := State.tileChecks_eq_nil (lineOperand_ok hd halign hlast) ha hb
    have hlive : failed [(cfgFmt (s.iss.st.tileCfg d.toNat) == 0, s.badOperand)] = [] := by
      rw [failed_badOperand, beq_eq_false_iff_ne.mpr hfmt, illegalIf_false]
    simp only [exec, execLdt, execLdtChk, State.loadTile]
    exact State.loadOp_of_inOrder (diag := false) hg hring hchecks hlive _
  · have hplane := planeOperand_ok (isMeta := false) hd hzero (fun _ => hch) nofun
    simp only [exec, execLdtm, execLdtmChk, State.loadPlane, sreg_eq_reg, hscale]
    exact State.loadOp_of_inOrder (diag := false) hg hring (State.tileChecks_eq_nil hplane ha hb) rfl _
  · have hplane := planeOperand_ok (isMeta := true) hd hzero nofun fun _ => ⟨hch, hd8⟩
    simp only [exec, execLdtm, execLdtmChk, State.loadPlane, sreg_eq_reg, hmeta]
    exact State.loadOp_of_inOrder (diag := false) hg hring (State.tileChecks_eq_nil hplane ha hb) rfl _
  · refine ⟨s.storedData d.toNat (reg s b).toNat, s.storedPois d.toNat (reg s b).toNat, ?_, fun m hm => ⟨?_, ?_, ?_⟩⟩
    · rw [exec, execStt]
      exact State.storeOp_of_inOrder (diag := false) hg hring (State.tileChecks_eq_nil (lineOperand_ok hd halign hlast) ha hb) rfl _ _
    · exact s.extractLsb'_storedData _ _ hm
    · exact s.getLsbD_storedPois _ _ hm (j := 0) (by decide)
    · exact s.getLsbD_storedPois _ _ hm (j := 1) (by decide)

/-! ### O18: lanes -/

/-- PUT of a row in the claim that is sound raises only what its lane is refused for. -/
theorem exec_put {s : State} {d : BitVec 6} (hg : s.iss.guard = true) (hd : rowClaimed s d) (hsound : rowSound s d) (r : BitVec 1)
    (l : BitVec 4) : exec (.put d r l) s = .next (slotRan s
      (illegalIf s (l.toNat / 4 != s.iss.st.index % 4 || s.putBefore (16 * r.toNat + l.toNat))) [.lane
        { p := s.iss.tm.tcyc + 3, twi := s.iss.st.index / 4, stn := 8 * (s.iss.st.index % 4), anti := r == 1#1, lane := l.toNat,
          data := (s.vget d).data, pois := (s.vget d).pois }]) := by
  rw [exec, execPut, failed_badOperand, State.vrowCheck_eq_nil hd, State.rowCheck_eq_nil hsound, State.slotDone_of_guard hg, List.append_nil,
    List.append_nil]

theorem lanes : Lanes := by
  intro s d r l hg hd
  refine ⟨?_, fun hsound hown hfirst => ?_, fun hother hsound => ⟨_, exec_put hg hd hsound r l, ?_⟩⟩
  · rw [exec, execTap, State.vrowCheck_eq_nil hd, State.slotDone_of_guard hg, List.append_nil]
  · rw [exec_put hg hd hsound, bne_eq_false_iff_eq.mpr hown, hfirst]
    rfl
  · rw [bne_iff_ne.mpr hother, Bool.true_or]
    rfl

/-- Settles O18: the tile forms are `State.loadOp` and `State.storeOp` with their checks in order; TAP and PUT by their slots. -/
theorem tileAndLaneTransfers : Obligations.TileAndLaneTransfers := ⟨tileTransfers, lanes⟩

end Sys2Proof.Machine

/-! # O42: the start, the feeds and the commits of a cube command, and weight loads -/

namespace Sys2Proof.Machine

/-! ### The start of a command -/

theorem State.tokenFault_eq_startRaised {s : State} {c : Cmd} {r : Raised} (h : s.tokenFault c = some r) : ∃ n, startRaised .scheduleToken n = r := by
  unfold State.tokenFault at h
  split at h
  · split at h
    · obtain ⟨n, -, hn⟩ := Option.map_eq_some_iff.mp h
      exact ⟨n, hn⟩
    · cases h
  · cases h

/-- The start faults of a cube command, in the order of R280: its token's, its lease's, and those of its form. -/
theorem State.cubeFault_eq_startRaised {s : State} {t : Team} {st : Strand} {c : Cmd} {r : Raised} (h : s.cubeFault t st c = some r) :
    ∃ x n, startRaised x n = r := by
  unfold State.cubeFault at h
  split at h
  case h_1 htoken =>
    obtain ⟨n, hn⟩ := State.tokenFault_eq_startRaised htoken
    exact ⟨_, n, hn.trans (Option.some.inj h)⟩
  case h_2 =>
    have hstart {x : Cause} {n : Nat} (hx : some (startRaised x n) = some r) : ∃ x n, startRaised x n = r := ⟨x, n, Option.some.inj hx⟩
    split at h
    · exact hstart h
    · split at h
      case h_1 | h_2 =>
        obtain ⟨x, -, hx⟩ := Option.map_eq_some_iff.mp h
        exact ⟨x, 0, hx⟩
      case h_3 | h_4 =>
        dsimp only at h
        split at h
        · exact hstart h
        split at h
        · exact hstart h
        split at h
        · exact hstart h
        · cases h
      case h_5 => cases h

theorem State.cubeFault_point {s : State} {t : Team} {st : Strand} {c : Cmd} {r : Raised} (h : s.cubeFault t st c = some r) : r.point = .start := by
  obtain ⟨x, n, rfl⟩ := State.cubeFault_eq_startRaised h
  rfl

/-! ### The feed of a step -/

/-- A command after the feed of its next step (R184, R193). -/
def Cmd.stepFed (c : Cmd) (s : State) (st : Strand) : Cmd :=
  { c with fed := c.fed ++ [s.feedStep st c], xpc := c.xpc + 1, fedAt := (s.tower c.tower).time, expanding := decide (c.xpc + 1 < c.steps) }

/-- The state after that feed, with the auditor's log of the step (R296). -/
def State.stepFed (s : State) (st : Strand) (c : Cmd) : State :=
  { (s.setCmd (c.stepFed s st)).mapSamples fun x => x.feed c.id (s.auditLog st c) (s.feedStep st c).sums with fresh := s.fresh + 2048 }

theorem State.cmd_stepFed {s : State} {c : Cmd} (hcmd : s.cmd c.id = some c) (st : Strand) : (s.stepFed st c).cmd c.id = some (c.stepFed s st) :=
  s.cmd_setCmd (c.stepFed s st) (Option.isSome_of_eq_some hcmd)

/-! ### The commit of a step -/

/-- A command after the commit of the first step that it has fed: with the last one it is done (R193). -/
def Cmd.committed (c : Cmd) (rest : List FedStep) : Cmd :=
  { c with fed := rest, st := if (rest.isEmpty && c.xpc == c.steps) && c.st == .running then .finishing 0 else c.st }

/-- The auditor's sample of a command after that commit (R296): with the last one it is complete. -/
def Sample.noteCommitted (c : Cmd) (rest : List FedStep) (cyc : Nat) (x : Sample) : Sample :=
  if (rest.isEmpty && c.xpc == c.steps) && x.cmd = c.id then { x with complete := true, doneCyc := cyc } else x

theorem Cmd.committed_last {c : Cmd} (hsteps : c.xpc = c.steps) (hrun : c.st = .running) : (c.committed []).st = .finishing 0 := by
  simp [Cmd.committed, hsteps, hrun]

theorem Cmd.committed_more {rest : List FedStep} (hrest : rest ≠ []) (c : Cmd) : (c.committed rest).st = c.st := by
  simp [Cmd.committed, hrest]

section
variable (s : State) (f : Sample → Sample)

@[simp] theorem State.mapSamples_cmds : (s.mapSamples f).cmds = s.cmds := rfl
@[simp] theorem State.mapSamples_accs : (s.mapSamples f).accs = s.accs := rfl
@[simp] theorem State.mapSamples_tiles : (s.mapSamples f).tiles = s.tiles := rfl
@[simp] theorem State.mapSamples_strands : (s.mapSamples f).strands = s.strands := rfl
theorem State.mapSamples_cmd (i : Nat) : (s.mapSamples f).cmd i = s.cmd i := rfl

end

section
variable (s : State) (t : Team) (st : Strand) (c : Cmd) (f : FedStep)

/-- Adding a step's sums to the rows, row by row, keeps what `setAccRow` keeps. -/
theorem State.addStep_keeps {β : Type} {p : State → β} (hp : ∀ s k v, p (State.setAccRow s k v) = p s) : p (s.addStep t st c f) = p s := by
  apply State.foldl_keeps
  intro u i
  apply hp

/-- Beyond those rows a commit changes the auditor's samples and a tower. -/
theorem State.commitStep_eq : ∃ g i tw, s.commitStep t st c f = ((s.addStep t st c f).mapSamples g).setTower i tw := ⟨_, _, _, rfl⟩

@[simp] theorem State.commitStep_cmds : (s.commitStep t st c f).cmds = s.cmds := by
  obtain ⟨g, i, tw, h⟩ := s.commitStep_eq t st c f
  rw [h, State.setTower_cmds, State.mapSamples_cmds, s.addStep_keeps t st c f State.setAccRow_cmds]

@[simp] theorem State.commitStep_tiles : (s.commitStep t st c f).tiles = s.tiles := by
  obtain ⟨g, i, tw, h⟩ := s.commitStep_eq t st c f
  rw [h, State.setTower_tiles, State.mapSamples_tiles, s.addStep_keeps t st c f State.setAccRow_tiles]

@[simp] theorem State.commitStep_strands : (s.commitStep t st c f).strands = s.strands := by
  obtain ⟨g, i, tw, h⟩ := s.commitStep_eq t st c f
  rw [h, State.setTower_strands, State.mapSamples_strands, s.addStep_keeps t st c f State.setAccRow_strands]

/-- The state after the commit of a command's first fed step (R193). -/
def State.stepCommitted (rest : List FedStep) : State :=
  ((s.commitStep t st c f).setCmd (c.committed rest)).mapSamples (Sample.noteCommitted c rest s.cyc)

variable (rest : List FedStep)

theorem State.cmd_stepCommitted (hcmd : s.cmd c.id = some c) : (s.stepCommitted t st c f rest).cmd c.id = some (c.committed rest) := by
  rw [State.stepCommitted, State.mapSamples_cmd]
  refine State.cmd_setCmd (s.commitStep t st c f) (c.committed rest) (Option.isSome_of_eq_some (y := c) ?_)
  rw [State.cmd, s.commitStep_cmds]
  exact hcmd

@[simp] theorem State.stepCommitted_accs : (s.stepCommitted t st c f rest).accs = (s.commitStep t st c f).accs := by
  rw [State.stepCommitted, State.mapSamples_accs, State.setCmd_accs]

@[simp] theorem State.stepCommitted_tiles : (s.stepCommitted t st c f rest).tiles = s.tiles := by
  rw [State.stepCommitted, State.mapSamples_tiles, State.setCmd_tiles, s.commitStep_tiles]

@[simp] theorem State.stepCommitted_strands : (s.stepCommitted t st c f rest).strands = s.strands := by
  rw [State.stepCommitted, State.mapSamples_strands, State.setCmd_strands, s.commitStep_strands]

end

/-! ### The planes after a weight load -/

/-- The planes of a tower in which the shadow planes of some layers are replaced by new ones (R189). -/
def loadShadows (new : SMap Plane) (layers : List Nat) (m : SMap Plane) : SMap Plane :=
  layers.foldl (fun m k => SMap.set Plane.blank m (2 * k + 1) (SMap.get Plane.blank new k)) m

/-- The layers whose shadow planes a load replaces: those of its band that no other team has been granted since (log 84). -/
def State.loadedLayers (s : State) (c : Cmd) : List Nat := (bandLayers c.w1).filter fun k => !s.layerTaken c.team c.tower k

theorem State.mem_loadedLayers (s : State) (c : Cmd) (k : Nat) :
    k ∈ s.loadedLayers c ↔ k ∈ bandLayers c.w1 ∧ s.layerTaken c.team c.tower k = false := by
  rw [State.loadedLayers, List.mem_filter, Bool.not_eq_true']

theorem get_loadShadows_active (new : SMap Plane) (layers : List Nat) (m : SMap Plane) (k : Nat) :
    SMap.get Plane.blank (loadShadows new layers m) (2 * k) = SMap.get Plane.blank m (2 * k) := by
  induction layers generalizing m with
  | nil => rfl
  | cons j l ih => exact (ih _).trans (SMap.get_set_ne _ _ _ _ _ (by omega))

theorem get_loadShadows_shadow (new : SMap Plane) (layers : List Nat) {m : SMap Plane} (hwf : SMap.wf Plane.blank m = true) (k : Nat) :
    SMap.get Plane.blank (loadShadows new layers m) (2 * k + 1) =
      if k ∈ layers then SMap.get Plane.blank new k else SMap.get Plane.blank m (2 * k + 1) := by
  induction layers generalizing m with
  | nil => rfl
  | cons j l ih =>
    rw [loadShadows, List.foldl_cons, ← loadShadows, ih (SMap.wf_set _ _ _ _ hwf)]
    by_cases hkj : k = j
    · subst hkj
      simp [SMap.get_set_same _ _ _ _ _ hwf]
    · rw [SMap.get_set_ne _ _ _ _ _ (by omega)]
      simp [hkj]

/-! ### The end of a weight load -/

theorem State.tower_setTower (s : State) {i : Nat} (hi : i < 4) (tw : Tower) : (s.setTower i tw).tower i = tw :=
  get_setIfInBounds_ofNat s.towers hi tw

/-- The commands behind a load are put off (R199); the towers stay. -/
theorem State.tower_keepStarts (s : State) (t : Team) (c : Cmd) (i : Nat) : (s.keepStarts t c).tower i = s.tower i := by
  unfold State.keepStarts
  split <;> rfl

/-- Of those commands only the start changes. -/
theorem State.cmd_st_keepStarts (s : State) (t : Team) (c : Cmd) (i : Nat) :
    ((s.keepStarts t c).cmd i).map (·.st) = (s.cmd i).map (·.st) := by
  unfold State.keepStarts
  split
  · rfl
  · rw [State.cmd, find?_map_of_key (fun x => by split <;> rfl), Option.map_map]
    exact congrArg (Option.map · (s.cmd i)) (funext fun x => by dsimp only [Function.comp]; split <;> rfl)

/-- The state after a load is complete (R189): the planes are there, the claim has its record, and the command is done. -/
def State.weightsLoaded (s : State) (t : Team) (c : Cmd) : State :=
  (((s.setCmd { c with st := .finishing 0 }).setTower c.tower
    { s.tower c.tower with planes := loadShadows c.planes (s.loadedLayers c) (s.tower c.tower).planes }).setTeam
      (t.mapClaim (c.strand / 4) c.w1 fun k => k.record c.w0 c.w1 c.strand)).keepStarts t c

section
variable {s : State} {c : Cmd} (t : Team)

theorem State.cmd_st_weightsLoaded (hcmd : s.cmd c.id = some c) : ((s.weightsLoaded t c).cmd c.id).map (·.st) = some (.finishing 0) := by
  have hdone := s.cmd_setCmd { c with st := .finishing 0 } (Option.isSome_of_eq_some hcmd)
  rw [State.weightsLoaded, State.cmd_st_keepStarts]
  exact congrArg (Option.map (·.st)) hdone

theorem State.planes_weightsLoaded (htower : c.tower < 4) :
    ((s.weightsLoaded t c).tower c.tower).planes = loadShadows c.planes (s.loadedLayers c) (s.tower c.tower).planes := by
  rw [State.weightsLoaded, State.tower_keepStarts]
  exact congrArg Tower.planes ((s.setCmd { c with st := .finishing 0 }).tower_setTower htower _)

end

/-! ### The events -/

section
variable {s : State} {cmd : Nat} {c : Cmd} {t : Team} (hcmd : s.cmd cmd = some c) (ht : s.team c.team = some t)
include hcmd ht

section
variable {st : Strand} (hst : s.strand c.team c.strand = some st)
include hst

/-- A cube command that may start does one of two things: it faults with the first check that fails, or it begins (R183, R192). -/
theorem exec_cubeCommandStart (htrack : c.op.onTrack = true) (hready : s.cubeReady t c = true) (hlive : s.ending c.ctx = false) :
    exec (.cubeCommandStart cmd) s = .next ((s.cubeFault t st c).elim (s.cubeBegin t st c) (s.commandFault c)) := by
  rw [exec, execCubeCommandStart, hcmd]
  dsimp only
  rw [ht, hst]
  dsimp only
  rw [if_pos (by simp [htrack, hready, hlive])]
  cases s.cubeFault t st c <;> rfl

/-- The step of this team cycle is fed, to the command and to the auditor's sample of it (R185, R193, R296). -/
theorem exec_cubeStepFeed (hop : c.op = .cube ∨ c.op = .cubeh) (hrun : c.st = .running) (hbefore : t.before = true)
    (hticks : s.ticks c.tower = true) (hsteps : c.xpc < c.steps) (hnow : c.start + c.xpc = t.tcyc) (hlive : s.ending c.ctx = false) :
    exec (.cubeStepFeed cmd) s = .next (s.stepFed st c) := by
  rw [exec, execCubeStepFeed, hcmd]
  dsimp only
  rw [ht, hst]
  exact if_pos (by simp [hop, hrun, hbefore, hticks, hsteps, hnow, hlive])

/-- The step whose cycle has come commits, and with the last one the command is done (R193). -/
theorem exec_cubeStepCommit {f : FedStep} {rest : List FedStep} (hfed : c.fed = f :: rest) (hcores : t.onCores = true)
    (hticks : s.ticks c.tower = true) (hnow : f.commit = t.tcyc) :
    exec (.cubeStepCommit cmd) s = .next (s.stepCommitted t st c f rest) := by
  rw [exec, execCubeStepCommit, hcmd]
  dsimp only
  rw [ht, hst, hfed]
  exact if_pos (by simp [hcores, hticks, hnow])

end

/-- The load that is 129 cycles old completes (R189). -/
theorem exec_wldComplete (hload : c.op.loads = true) (hrun : c.st = .running) (hcores : t.onCores = true) (hticks : s.ticks c.tower = true)
    (hnow : c.start + 129 = t.tcyc) :
    exec (.wldComplete cmd) s = .next (s.weightsLoaded t c) := by
  rw [exec, execWldComplete, hcmd]
  dsimp only
  rw [ht]
  exact if_pos (by simp [hload, hrun, hcores, hticks, hnow])

end

/-- Settles O42: each event by the equation that says what it does. -/
theorem cubeEvents : Obligations.CubeEvents := by
  intro s cmd c t st hcmd ht hst
  obtain rfl : c.id = cmd := by simpa using List.find?_some hcmd
  refine ⟨fun htrack hready hlive => ?_, fun hop hrun hbefore hticks hsteps hnow hlive =>
      ⟨_, exec_cubeStepFeed hcmd ht hst hop hrun hbefore hticks hsteps hnow hlive, State.cmd_stepFed hcmd st, rfl, rfl, rfl, rfl⟩,
    fun f rest hfed hcores hticks hnow => ⟨_, exec_cubeStepCommit hcmd ht hst hfed hcores hticks hnow, s.stepCommitted_accs t st c f rest,
      s.stepCommitted_tiles t st c f rest, s.stepCommitted_strands t st c f rest, _, s.cmd_stepCommitted t st c f rest hcmd, rfl, ?_,
      fun hrest => c.committed_more hrest⟩,
    fun hload hrun hcores hticks hnow htower hwf => ⟨_, exec_wldComplete hcmd ht hload hrun hcores hticks hnow,
      State.cmd_st_weightsLoaded t hcmd, fun k _ => ?_⟩⟩
  · have hexec := exec_cubeCommandStart hcmd ht hst htrack hready hlive
    refine ⟨fun hnone => ?_, fun r hr => ⟨State.cubeFault_point hr, ?_⟩⟩
    · rw [hexec, hnone, Option.elim_none]
    · rw [hexec, hr, Option.elim_some]
  · rintro rfl hsteps hrun
    exact Cmd.committed_last hsteps hrun
  · rw [State.planes_weightsLoaded t htower, get_loadShadows_active, get_loadShadows_shadow _ _ hwf]
    exact ⟨rfl, if_congr (s.mem_loadedLayers c k) rfl rfl⟩

end Sys2Proof.Machine

/-! # O51: the address queues, their slots and the generator's events -/

namespace Sys2Proof.Machine

open Sys2Proof.Claims

/-! ### QPUSH -/

/-- The entry that a QPUSH makes of what its view gives it (R436): the view and first index it reads, or that it is INVALID. -/
def State.pushEntry (s : State) (e n : BitVec 1) (src : Option (Bound × Nat)) (invalid : Bool) : AqEntry :=
  { id := 0, pc := s.iss.pc, slot := s.iss.slot, bank := n.toNat, open_ := e == 1#1, spec := e == 1#1, src, invalid, place := .queued,
    pushed := s.ownTime, ready := 0, data := 0, pois := false, fetched := [] }

/-- Only a speculative push may find no entry to read (R436). -/
theorem illegalIf_unlessSpeculative (s : State) (e : BitVec 1) : (if e == 1#1 then [] else [s.badOperand]) = illegalIf s (e == 0#1) := by
  obtain rfl | rfl := BitVec.eq_zero_or_eq_one e <;> rfl

section
variable {s : State} {a : BitVec 6} {m : BitVec 2} (hg : s.iss.guard = true) (ha : poisoned s a = false)
  (hroom : s.iss.st.aq.length + s.earlier Effect.isPush < 2048) (e n : BitVec 1)

include hroom in
/-- The queues hold 2048 entries (R235). -/
theorem State.pushRoom_eq_nil : failed [(decide (2048 ≤ s.iss.st.aq.length + s.earlier Effect.isPush), s.badOperand)] = [] := by
  rw [failed_badOperand, decide_eq_false (Nat.not_le.mpr hroom), illegalIf_false]

include hg ha hroom

theorem exec_qpush_within {b : Bound} (hq : (s.iss.st.qv.get (Fin.ofNat 4 m.toNat)).st = .valid b)
    (hin : (reg s a).toNat + b.perEntry ≤ b.view.count) :
    exec (.qpush e n m a) s = .next (slotRan s [] [.push (s.pushEntry e n (some (b, (reg s a).toNat)) false)]) := by
  rw [exec, execQpush, hq, sreg_eq_reg]
  dsimp only
  rw [if_pos hin, State.pushRoom_eq_nil hroom, State.poisonChecks_one ha, State.slotDone_of_guard hg]
  rfl

theorem exec_qpush_beyond {b : Bound} (hq : (s.iss.st.qv.get (Fin.ofNat 4 m.toNat)).st = .valid b)
    (hbeyond : b.view.count < (reg s a).toNat + b.perEntry) :
    exec (.qpush e n m a) s = .next (slotRan s (illegalIf s (e == 0#1)) [.push (s.pushEntry e n none true)]) := by
  rw [exec, execQpush, hq, sreg_eq_reg]
  dsimp only
  rw [if_neg (Nat.not_le.mpr hbeyond), State.pushRoom_eq_nil hroom, State.poisonChecks_one ha, illegalIf_unlessSpeculative,
    State.slotDone_of_guard hg, List.append_nil, List.append_nil]
  rfl

theorem exec_qpush_invalid (hq : (s.iss.st.qv.get (Fin.ofNat 4 m.toNat)).st = .invalid) :
    exec (.qpush e n m a) s = .next (slotRan s (illegalIf s (e == 0#1)) [.push (s.pushEntry e n none true)]) := by
  rw [exec, execQpush, hq]
  dsimp only
  rw [State.pushRoom_eq_nil hroom, State.poisonChecks_one ha, illegalIf_unlessSpeculative, State.slotDone_of_guard hg, List.append_nil,
    List.nil_append]
  rfl

theorem exec_qpush_poisoned (hq : (s.iss.st.qv.get (Fin.ofNat 4 m.toNat)).st = .poisoned) :
    exec (.qpush e n m a) s = .next (slotRan s [readStage s .poisonConsume 1] []) := by
  rw [exec, execQpush, hq]
  dsimp only
  rw [State.pushRoom_eq_nil hroom, State.poisonChecks_one ha, State.slotDone_of_guard hg, List.nil_append]
  rfl

end

/-! ### QPOP -/

theorem Strand.deliverable_iff (st : Strand) (k : Nat) :
    st.deliverable k = true ↔ ∃ q, st.aq[k]? = some q ∧ q.place = .arrived ∧ q.open_ = false := by
  rw [Strand.deliverable]
  cases st.aq[k]? <;> simp

section
variable {s : State} {d : BitVec 6} (hg : s.iss.guard = true) (hd : rowClaimed s d) (m : BitVec 3)
include hg hd

section
variable {q : AqEntry} (hq : s.iss.st.aq[s.earlier Effect.isPop]? = some q) (harrived : q.place = .arrived) (hclosed : q.open_ = false)
include hq harrived hclosed

theorem exec_qpop_sound (hvalid : q.invalid = false) : exec (.qpop d m) s = .next (slotRan s []
    [.result 2 (.row (s.vrow d) (BitVec.ofNat 4096 (q.data.toNat * 2 ^ (512 * m.toNat))) (byteMask (64 * m.toNat) (64 * m.toNat + 64))
      (if q.pois then BitVec.ofNat 8 (2 ^ m.toNat) else 0)), .pop]) := by
  rw [exec, execQpop, if_pos ((Strand.deliverable_iff _ _).mpr ⟨q, hq, harrived, hclosed⟩), hq]
  dsimp only
  rw [if_neg (Bool.eq_false_iff.mp hvalid), State.vrowCheck_eq_nil hd, State.slotDone_of_guard hg]
  rfl

theorem exec_qpop_invalid (hinvalid : q.invalid = true) :
    exec (.qpop d m) s = .next (slotRan s [readStage s .engQueueRange 0] []) := by
  rw [exec, execQpop, if_pos ((Strand.deliverable_iff _ _).mpr ⟨q, hq, harrived, hclosed⟩), hq]
  dsimp only
  rw [if_pos hinvalid, State.vrowCheck_eq_nil hd, State.slotDone_of_guard hg]
  rfl

end

/-- An entry that has not come, or is of an open group, holds a paced strand and is a SCHEDULE WAIT in timed code (R64, R439). -/
theorem exec_qpop_missing (h : ∀ q, s.iss.st.aq[s.earlier Effect.isPop]? = some q → q.place ≠ .arrived ∨ q.open_ = true) :
    exec (.qpop d m) s = .next (if timed s then slotRan s [readStage s .scheduleWait 4] [] else slotRan s [] [.hold .queue]) := by
  have hmissing : ¬ s.iss.st.deliverable (s.earlier Effect.isPop) = true := fun hdel => by
    obtain ⟨q, hq, harrived, hclosed⟩ := (Strand.deliverable_iff _ _).mp hdel
    exact (h q hq).elim (· harrived) fun hopen => Bool.eq_false_iff.mp hclosed hopen
  rw [exec, execQpop, if_neg hmissing, State.isTimed_eq_timed, State.vrowCheck_eq_nil hd]
  cases timed s <;> (simp only [State.slotDone_of_guard hg]; rfl)

end

theorem addressQueueSlots : AddressQueueSlots := by
  intro s hg
  refine ⟨fun e n m a b ha hq hroom => ⟨exec_qpush_within hg ha hroom e n hq, exec_qpush_beyond hg ha hroom e n hq⟩,
    fun e n m a ha hroom => ⟨exec_qpush_invalid hg ha hroom e n, exec_qpush_poisoned hg ha hroom e n⟩,
    fun d m hd => ⟨fun q hq harrived hclosed => exec_qpop_sound hg hd m hq harrived hclosed,
      fun q hq harrived hclosed hinvalid => ⟨_, exec_qpop_invalid hg hd m hq harrived hclosed hinvalid, rfl⟩, exec_qpop_missing hg hd m⟩,
    fun p => ?_⟩
  rw [exec, execQsel, State.slotDone_of_guard hg]
  rfl

/-! ### The generator's reads of views -/

/-- The slot after the generator has read its view (R436). -/
def State.slotRead (s : State) (x : Context) (t : Team) (st : Strand) (m : Fin 4) : QvSlot :=
  { reg := (st.qv.get m).reg, readAt := none, st := s.readQv x t ((st.qv.get m).reg.extractLsb' 0 28) }

/-- The state after that read, with what it leaves in the caches (R126). -/
def State.viewRead (s : State) (x : Context) (t : Team) (st : Strand) (m : Fin 4) : State :=
  (s.setStrand { st with qv := st.qv.set m (s.slotRead x t st m) }).cacheQv x (t.strandTower st.index) (s.slotRead x t st m).st

/-- Whether every ring line of a slot's view can be read in this cycle. -/
def State.viewFree (s : State) (t : Team) (st : Strand) (m : Fin 4) : Bool :=
  (t.readLines [((st.qv.get m).reg.extractLsb' 0 28, false, 0, 128)]).all s.lineFree

section
variable {s : State} {t : Team} {st : Strand} {x : Context} (ht : s.team t.id = some t) (hst : s.strand t.id st.index = some st)
  (hctx : s.context t.ctx = some x) (hcores : t.onCores = true)
include ht hst hctx hcores

/-- The read is made in the last cycle for it, or before where the banks are free and the choice has it so (R436; log 103). -/
theorem exec_qvViewRead {m : Fin 4} {r : Nat} (hread : (st.qv.get m).readAt = some r) : exec (.qvViewRead t.id st.index m) s = .next
    (if decide (r + 32 ≤ (s.tower (t.strandTower st.index)).time) || (s.choice / 2 ^ 64 % 2 == 1 && s.viewFree t st m) then s.viewRead x t st m
     else s) := by
  rw [exec, execQvViewRead, ht, hst]
  dsimp only
  rw [hctx]
  simp only [Fin.ofNat_val_eq_self, hread]
  rw [hcores, decide_eq_true m.isLt, Bool.true_and, Bool.true_and, apply_ite Host.Outcome.next]
  rfl

/-! ### The return of an entry's data -/

theorem exec_dqEntryArrive {e : AqEntry} (he : st.aq.find? (s.entryDue (s.tower (t.strandTower st.index)).time) = some e) :
    exec (.dqEntryArrive t.id st.index) s = .next (s.readEntry x t st e) := by
  rw [exec, execDqEntryArrive, ht, hst]
  dsimp only
  rw [hctx, he]
  exact congrArg Host.Outcome.next (if_pos hcores)

omit hcores in
theorem exec_dqEntryArrive_of_none (h : ∀ e ∈ st.aq, s.entryDue (s.tower (t.strandTower st.index)).time e = false) :
    exec (.dqEntryArrive t.id st.index) s = .next s := by
  have hnone : st.aq.find? (s.entryDue (s.tower (t.strandTower st.index)).time) = none :=
    List.find?_eq_none.mpr fun e he => Bool.eq_false_iff.mp (h e he)
  rw [exec, execDqEntryArrive, ht, hst]
  dsimp only
  rw [hctx, hnone]

end

theorem State.entryDue_iff (s : State) (time : Nat) (e : AqEntry) : s.entryDue time e = true ↔
    e.place = .outstanding ∧ e.pushed + 64 ≤ time ∧ e.ready ≤ time ∧ ∀ o ∈ s.fabric.outstanding, o.cmd ≠ e.id := by
  simp [State.entryDue, and_assoc]

/-- An entry that reads nothing arrives as it is. -/
theorem State.readEntry_of_noSource (s : State) (x : Context) (t : Team) (st : Strand) {e : AqEntry} (h : e.src = none) :
    s.readEntry x t st e = s.setStrand (st.setEntry { e with place := .arrived }) := by
  rw [State.readEntry, h]

theorem viewsAndEntries : ViewsAndEntries := by
  intro s t st x ht hst hctx hcores
  refine ⟨fun m r hread => ?_, s.entryDue_iff _, fun e he => ⟨exec_dqEntryArrive ht hst hctx hcores he, s.readEntry_of_noSource x t st⟩,
    exec_dqEntryArrive_of_none ht hst hctx⟩
  have hexec := exec_qvViewRead ht hst hctx hcores hread
  refine ⟨fun hlast => ?_, fun hearly => ?_⟩
  · rw [decide_eq_true hlast, Bool.true_or, if_pos rfl] at hexec
    exact hexec
  rw [decide_eq_false (Nat.not_le.mpr hearly), Bool.false_or] at hexec
  refine ⟨fun hfree => ?_, fun ⟨k, hk, hbusy⟩ => ?_⟩
  · rw [hexec]
    split
    · exact .inl rfl
    · exact .inr rfl
  · have hview : s.viewFree t st m = false := List.all_eq_false.mpr ⟨k, hk, Bool.eq_false_iff.mp hbusy⟩
    rw [hexec, hview, Bool.and_false]
    rfl

/-- Settles O51: the slots by what they enter, take and choose, the generator's events by the entry or view that is due. -/
theorem addressQueues : Obligations.AddressQueues := ⟨addressQueueSlots, viewsAndEntries⟩

end Sys2Proof.Machine

/-! # O43: the buckets of a collective and the messages of peers -/

namespace Sys2Proof.Machine

open Sys2Proof.Claims

/-! ### The start of a bucket -/

section
variable {s : State} {cmd bucket : Nat} {c : Cmd} {x : Context} {v : Bound} {t : Team} (hcmd : s.cmd cmd = some c)
  (hctx : s.context c.ctx = some x) (hsrc : c.src = some (.view v)) (ht : s.team c.team = some t) (hop : c.op = .coll) (hrun : c.st = .running)
include hcmd hctx hsrc ht hop hrun

/-- The bucket's values, read with what has been fetched for it, go to the other members; what was fetched is spent (R233, R491). -/
theorem exec_collBucketStart (hbucket : bucket < collBuckets c.w1) (hbefore : t.before = true) (hlive : x.destroying = false)
    (hnew : bucket ∉ c.slots) (hturn : collArm c.w1 = true ∨ ∀ b, b < bucket → b ∈ c.slots) (hflag : s.collFlag x c bucket = .ok true)
    {l : List Elem} {tch : List Touch}
    (hread : mapStop (fun i => s.viewElem x s.choice (if c.fedAt = bucket + 1 then c.fetched else []) v ((collRange v.view c.w1 bucket).1 + i))
      (List.range (collRange v.view c.w1 bucket).2) = .ok (l, tch)) :
    exec (.collBucketStart cmd bucket) s = .next
      (((s.setCmd { c with slots := c.slots ++ [bucket], heard := s.flagHeard c, fetched := if c.fedAt = bucket + 1 then [] else c.fetched }).noteTouches
        x cmd tch).collSend cmd c.members
          (s.collMessage c (s.collSeq c) v.desc.fmt v.view.count bucket (l.flatMap fun e => e.pack v.desc.fmt) (l.map fun e => e.pois.isSome) false)) := by
  rw [exec, execCollBucketStart, hcmd]
  dsimp only
  rw [hctx, hsrc]
  dsimp only
  rw [if_pos (by simpa [hop, hrun, hlive, ht, hbefore, hbucket, hnew] using hturn), hflag]
  dsimp only
  rw [hread]

/-! ### The completion of a bucket -/

/-- A started bucket whose results have not been written yet: they are, once every member's message is here (R231, R233). -/
theorem exec_collBucketComplete_of_messages (hcores : t.onCores = true) (hstarted : bucket ∈ c.slots) (hopen : bucket ∉ c.done_)
    (hunsent : bucketSent bucket ∉ c.done_) {msgs : List CollRequest} (hmsgs : s.bucketMessages c bucket = some msgs) :
    exec (.collBucketComplete cmd bucket) s = .next (s.bucketWrite x c v bucket msgs) := by
  rw [exec, execCollBucketComplete, hcmd]
  dsimp only
  rw [hctx, hsrc]
  dsimp only
  rw [if_pos (by simp [hop, hrun, ht, hcores, hstarted, hopen]), if_neg (by simpa using hunsent), hmsgs]

/-- One whose results are on their way to pages of peers waits for the last of them (R245). -/
theorem exec_collBucketComplete_of_sent (hcores : t.onCores = true) (hstarted : bucket ∈ c.slots) (hopen : bucket ∉ c.done_)
    (hsent : bucketSent bucket ∈ c.done_) :
    exec (.collBucketComplete cmd bucket) s = .next (if s.writing cmd then s else s.bucketDone x cmd bucket) := by
  rw [exec, execCollBucketComplete, hcmd]
  dsimp only
  rw [hctx, hsrc]
  dsimp only
  rw [if_pos (by simp [hop, hrun, ht, hcores, hstarted, hopen]), if_pos (by simpa using hsent)]

end

/-! ### A bucket of a group of one -/

theorem State.setCmd_setCmd (s : State) {c d : Cmd} (h : d.id = c.id) : (s.setCmd c).setCmd d = s.setCmd d := by
  have hcmds : ((s.setCmd c).setCmd d).cmds = (s.setCmd d).cmds :=
    (List.map_map ..).trans (List.map_congr_left fun y _ => by by_cases hy : y.id = c.id <;> simp [h, hy])
  exact congrArg (fun l => { s with cmds := l }) hcmds

@[simp] theorem State.releaseCmd_cmd (s : State) (c : Cmd) (i : Nat) : (s.releaseCmd c).cmd i = s.cmd i := by
  unfold State.releaseCmd
  split <;> rfl

/-- A release touches a strand, and so commutes with the update of a command. -/
theorem State.releaseCmd_setCmd (s : State) (c d : Cmd) : (s.setCmd d).releaseCmd c = (s.releaseCmd c).setCmd d := by
  rw [State.releaseCmd, State.releaseCmd, show (s.setCmd d).strand c.team c.strand = s.strand c.team c.strand from rfl]
  split <;> rfl

theorem State.flagAdd_of_noFlags (s : State) (x : Context) {c : Cmd} (h : c.dst = none) (bucket : Nat) : s.flagAdd x c bucket = s := by
  rw [State.flagAdd, h]

/-- A command with one more of its buckets done (R233). -/
def Cmd.bucketCounted (c : Cmd) (bucket : Nat) : Cmd :=
  { c with done_ := c.done_ ++ [bucket], xpc := c.xpc + 1, expanding := decide (c.xpc + 1 < c.steps) }

/-- That command, done with its last bucket (R245). -/
def Cmd.bucketFinished (c : Cmd) (bucket : Nat) : Cmd :=
  if c.done_.length + 1 = collBuckets c.w1 then { c.bucketCounted bucket with st := .finishing 0, expanding := false }
  else c.bucketCounted bucket

section
variable {s : State} {bucket : Nat} {c : Cmd} (hcmd : s.cmd c.id = some c) (hunsent : bucketSent bucket ∉ c.done_) (x : Context)
include hcmd hunsent

/-- A bucket done with no write of it on its way: it counts, the command releases, its flag advances, and with the last one the
command is done. -/
theorem State.bucketDone_eq :
    let d := c.bucketCounted bucket
    let u := ((s.setCmd d).releaseCmd d).flagAdd x d bucket
    s.bucketDone x c.id bucket = if c.done_.length + 1 = collBuckets c.w1 then u.finish c.id 0 else u := by
  have hmark : c.done_.filter (· != bucketSent bucket) = c.done_ := List.filter_eq_self.mpr fun b hb =>
    bne_iff_ne.mpr fun h => hunsent (h ▸ hb)
  rw [State.bucketDone, hcmd]
  dsimp only
  rw [hmark, List.length_append]
  rfl

theorem State.bucketDone_of_noFlags (hflags : c.dst = none) :
    s.bucketDone x c.id bucket = (s.releaseCmd c).setCmd (c.bucketFinished bucket) := by
  have hrelease : (s.setCmd (c.bucketCounted bucket)).releaseCmd (c.bucketCounted bucket) = (s.releaseCmd c).setCmd (c.bucketCounted bucket) :=
    s.releaseCmd_setCmd c (c.bucketCounted bucket)
  have hcounted : ((s.releaseCmd c).setCmd (c.bucketCounted bucket)).cmd c.id = some (c.bucketCounted bucket) :=
    (s.releaseCmd c).cmd_setCmd (c.bucketCounted bucket) (Option.isSome_of_eq_some ((s.releaseCmd_cmd c c.id).trans hcmd))
  rw [State.bucketDone_eq hcmd hunsent, State.flagAdd_of_noFlags _ x (c := c.bucketCounted bucket) hflags, hrelease, State.finish_eq hcounted,
    Cmd.bucketFinished]
  split
  · exact State.setCmd_setCmd _ rfl
  · rfl

end

/-- A group of one member has no results to write (R231): its bucket is done. -/
theorem State.bucketWrite_alone (s : State) (x : Context) {c : Cmd} (halone : c.members.length ≤ 1) (v : Bound) (bucket : Nat) (msgs : List CollRequest) :
    s.bucketWrite x c v bucket msgs = s.bucketDone x c.id bucket := by
  rw [State.bucketWrite]
  dsimp only
  rw [if_pos halone]
  cases v.scale <;> rfl

/-! ### The messages for a bucket -/

/-- The messages are one of each member, for this bucket of this collective (R232). -/
theorem State.bucketMessages_sound {s : State} {c : Cmd} {bucket : Nat} {msgs : List CollRequest} (h : s.bucketMessages c bucket = some msgs) :
    msgs.length = c.members.length ∧ ∀ m ∈ msgs, m.dev ∈ c.members ∧ m.bucket = bucket ∧ m.seq = s.collSeq c ∧ m.abort = false := by
  rw [State.bucketMessages] at h
  split at h
  case isTrue hall =>
    obtain rfl := Option.some.inj h
    refine ⟨(List.filterMap_length_eq_length.mpr (List.all_eq_true.mp hall)).trans (List.length_map _), fun m hm => ?_⟩
    obtain ⟨d, hd, hm⟩ : ∃ d ∈ c.members, _ = some m := by simpa using hm
    have hfound := List.find?_some hm
    simp only [Bool.and_eq_true, beq_iff_eq, Bool.not_eq_true'] at hfound
    obtain ⟨⟨⟨⟨⟨-, -⟩, hseq⟩, hbucket⟩, hdev⟩, hkeeps⟩ := hfound
    exact ⟨hdev ▸ hd, hbucket, hseq, hkeeps⟩
  case isFalse => cases h

/-! ### The messages of peers -/

theorem seqAhead_self (n : Nat) : seqAhead n n = false := by
  have hzero : (n + 2 ^ 32 - n % 2 ^ 32) % 2 ^ 32 = 0 := by omega
  rw [seqAhead, hzero]
  rfl

section
variable {s : State} {r : UntimedRequest} (f : State → State × BitVec 8 × Bool × List Byte)

/-- A request ahead of its stream is dropped (R274). -/
theorem State.perform_of_ahead (h : seqAhead (s.fabric.expected r) r.sseq = true) : s.perform r f = s :=
  if_pos (by rw [h, Bool.or_true])

variable (haccepts : s.accepts r = true)
include haccepts

/-- A duplicate is answered as before (R276). -/
theorem State.perform_of_duplicate (hbehind : seqAhead (s.fabric.expected r) r.sseq = false) (hne : r.sseq ≠ s.fabric.expected r) :
    s.perform r f = s.answerAgain r := by
  rw [State.perform, haccepts, hbehind]
  exact if_pos hne

/-- The next request of its stream has its effect, and its answer stands for a duplicate of it (R274, R276). -/
theorem State.perform_of_expected (h : r.sseq = s.fabric.expected r) :
    let res := f { s with fabric := s.fabric.advance r }
    s.perform r f = (res.1.answer r res.2.1 res.2.2.1 res.2.2.2 []).remember r res.2.1 res.2.2.1 res.2.2.2 := by
  rw [State.perform, haccepts, h, seqAhead_self]
  exact if_neg (not_not_intro rfl)

end

/-- A message of a member of a group of a context that is there is performed in the order of its stream (R232, R234). -/
theorem exec_collectiveRequest {s : State} {r : UntimedRequest} {q : CollRequest} (hbody : r.body = .collective q) (hdev : q.dev = r.src)
    (hqctx : q.ctx = r.ctx) (hctx : (s.context q.ctx).isSome = true) (hgroup : s.inGroup q.ctx q.group q.dev = true) :
    exec (.collectiveRequest r) s = .next (s.perform r fun u => (u.collReceive q, 0, false, [])) := by
  rw [exec, execCollectiveRequest, hbody]
  exact if_neg (by simp [← hdev, ← hqctx, hgroup, Option.isSome_iff_ne_none.mp hctx])

/-- A state that holds one message more. -/
def State.holdMessage (s : State) (q : CollRequest) : State := { s with fabric := { s.fabric with colls := s.fabric.colls ++ [q] } }

/-- The running collective that a message is for (R232). -/
def State.collFor (s : State) (q : CollRequest) : Option Cmd :=
  s.cmds.find? fun c => c.op == .coll && c.st == .running && c.ctx == q.ctx && wbits c.w1 0 8 == q.group && s.collSeq c == q.seq

section
variable {s : State} {q : CollRequest}

/-- A message that no running collective waits for is held. -/
theorem State.collReceive_of_none (h : (s.holdMessage q).collFor q = none) : s.collReceive q = s.holdMessage q := by
  rw [State.collReceive, ← State.holdMessage, ← State.collFor, h]

theorem State.collReceive_of_some {c : Cmd} {v : Bound} (h : (s.holdMessage q).collFor q = some c) (hsrc : c.src = some (.view v)) :
    s.collReceive q = ((s.holdMessage q).collVerdict c v.desc.fmt v.view.count q.seq).elim (s.holdMessage q)
      fun e => (s.holdMessage q).accessRaise c.id (.of e .access 0) := by
  rw [State.collReceive, ← State.holdMessage, ← State.collFor, h]
  dsimp only
  rw [hsrc]
  dsimp only
  cases (s.holdMessage q).collVerdict c v.desc.fmt v.view.count q.seq <;> rfl

end

/-- Settles O43: the buckets by their two events, the messages by the order of their stream. -/
theorem collectiveEvents : Obligations.CollectiveEvents := by
  refine ⟨fun s cmd bucket c x v t hcmd hctx hsrc ht hop hrun hbucket => ?_, fun s r q hbody hdev hqctx hctx hgroup haccepts => ?_⟩
  · obtain rfl : c.id = cmd := by simpa using List.find?_some hcmd
    refine ⟨fun l tch hbefore hlive hnew hturn hflag hread =>
        exec_collBucketStart hcmd hctx hsrc ht hop hrun hbucket hbefore hlive hnew hturn hflag hread,
      fun msgs hcores hstarted hopen hunsent hmsgs =>
        ⟨exec_collBucketComplete_of_messages hcmd hctx hsrc ht hop hrun hcores hstarted hopen hunsent hmsgs, fun hflags halone => ?_⟩,
      fun hcores hstarted hopen hsent => ?_, fun msgs => State.bucketMessages_sound⟩
    · rw [s.bucketWrite_alone x halone]
      exact State.bucketDone_of_noFlags hcmd hunsent x hflags
    · have hexec := exec_collBucketComplete_of_sent hcmd hctx hsrc ht hop hrun hcores hstarted hopen hsent
      exact ⟨fun hwriting => by rw [hexec, if_pos hwriting], fun hidle => by rw [hexec, if_neg (Bool.eq_false_iff.mp hidle)]⟩
  · have hexec := exec_collectiveRequest hbody hdev hqctx hctx hgroup
    refine ⟨fun hahead => ?_, fun hbehind hne => ?_, fun hnext => ?_⟩
    · rw [hexec, State.perform_of_ahead _ hahead]
    · rw [hexec, State.perform_of_duplicate _ haccepts hbehind hne]
    · rw [hexec, State.perform_of_expected _ haccepts hnext]
      refine ⟨fun hnone => ?_, fun c v hmine hsrc => ⟨fun hverdict => ?_, fun e hverdict => ?_⟩⟩
      · rw [State.collReceive_of_none hnone]
        rfl
      · rw [State.collReceive_of_some hmine hsrc, State.holdMessage, hverdict]
        rfl
      · rw [State.collReceive_of_some hmine hsrc, State.holdMessage, hverdict]
        rfl

end Sys2Proof.Machine

/-! # O54: what arrives in timed traffic, and what is sent, relayed and received -/

namespace Sys2Proof.Machine

/-! ### The pieces in which bytes go to their banks -/

/-- Slices between cuts that do not decrease make up the slice from the first cut to the last. -/
theorem flatMap_slices {α : Type} (l : List α) {f : Nat → Nat} (hf : Monotone f) (m : Nat) :
    (List.range m).flatMap (fun j => (l.drop (f j)).take (f (j + 1) - f j)) = (l.drop (f 0)).take (f m - f 0) := by
  induction m with
  | zero => simp
  | succ m ih =>
    have hlo : f 0 ≤ f m := hf (Nat.zero_le m)
    have hhi : f m ≤ f (m + 1) := hf (Nat.le_succ m)
    have hsum : f (m + 1) - f 0 = f m - f 0 + (f (m + 1) - f m) := by omega
    have hdrop : f 0 + (f m - f 0) = f m := by omega
    rw [List.range_succ, List.flatMap_append, ih, hsum, List.take_add, List.drop_drop, hdrop]
    simp

/-- Where the lines after the first `j` begin, of `n` bytes from offset `o` on. -/
def lineCut (o n j : Nat) : Nat := min n (64 * j - o % 64)

theorem lineCut_monotone (o n : Nat) : Monotone (lineCut o n) := fun i j h => by
  unfold lineCut
  omega

/-- The parts lie between successive cuts. -/
theorem lineParts_eq_cuts (o : Nat) {n : Nat} (hn : n ≠ 0) :
    lineParts o n = (List.range ((o % 64 + n + 63) / 64)).map fun j => (lineCut o n j, lineCut o n (j + 1) - lineCut o n j) := by
  rw [lineParts, if_neg hn]
  refine List.map_congr_left fun j hj => ?_
  have hj := List.mem_range.mp hj
  simp only [lineCut, Prod.mk.injEq]
  omega

theorem flatMap_lineParts {α : Type} (o : Nat) (l : List α) : (lineParts o l.length).flatMap (fun p => (l.drop p.1).take p.2) = l := by
  by_cases hn : l.length = 0
  · simp [lineParts, List.eq_nil_of_length_eq_zero hn]
  · have hfirst : lineCut o l.length 0 = 0 := by simp [lineCut]
    have hlast : lineCut o l.length ((o % 64 + l.length + 63) / 64) = l.length := by
      unfold lineCut
      omega
    rw [lineParts_eq_cuts o hn, List.flatMap_map, flatMap_slices l (lineCut_monotone o _), hfirst, hlast]
    simp

theorem bounds_of_mem_lineParts {o n : Nat} {p : Nat × Nat} (h : p ∈ lineParts o n) : 0 < p.2 ∧ p.1 + p.2 ≤ n := by
  unfold lineParts at h
  split at h
  · cases h
  · obtain ⟨j, hj, rfl⟩ := List.mem_map.mp h
    have hj := List.mem_range.mp hj
    dsimp only
    omega

/-- The entries of a numbered list whose numbers lie in an interval. -/
theorem filter_zipIdx_between {α : Type} {l : List α} {lo n : Nat} (h : lo + n ≤ l.length) :
    l.zipIdx.filter (fun e => lo ≤ e.2 && e.2 < lo + n) = ((l.drop lo).take n).zipIdx lo := by
  have hsplit : l.zipIdx = (l.take lo).zipIdx ++ (((l.drop lo).take n).zipIdx lo ++ (l.drop (lo + n)).zipIdx (lo + n)) := by
    conv_lhs => rw [← List.take_append_drop lo l, ← List.take_append_drop n (l.drop lo)]
    rw [List.zipIdx_append, List.zipIdx_append, List.drop_drop, List.length_take, List.length_take, List.length_drop,
      Nat.min_eq_left (by omega), Nat.min_eq_left (by omega), Nat.zero_add]
  have hbefore : (l.take lo).zipIdx.filter (fun e => lo ≤ e.2 && e.2 < lo + n) = [] := List.filter_eq_nil_iff.mpr fun e he => by
    have := List.snd_lt_of_mem_zipIdx he
    simp only [List.length_take] at this
    simp only [Bool.and_eq_true, decide_eq_true_eq]
    omega
  have hafter : ((l.drop (lo + n)).zipIdx (lo + n)).filter (fun e => lo ≤ e.2 && e.2 < lo + n) = [] := List.filter_eq_nil_iff.mpr fun e he => by
    have := List.le_snd_of_mem_zipIdx he
    simp only [Bool.and_eq_true, decide_eq_true_eq]
    omega
  have hwithin : (((l.drop lo).take n).zipIdx lo).filter (fun e => lo ≤ e.2 && e.2 < lo + n) = ((l.drop lo).take n).zipIdx lo :=
    List.filter_eq_self.mpr fun e he => by
      have hlo := List.le_snd_of_mem_zipIdx he
      have hhi := List.snd_lt_add_of_mem_zipIdx he
      simp only [List.length_take, List.length_drop] at hhi
      simp only [Bool.and_eq_true, decide_eq_true_eq]
      omega
  rw [hsplit, List.filter_append, List.filter_append, hbefore, hwithin, hafter, List.append_nil, List.nil_append]

/-! ### A receive's bytes join the queue of the banks -/

/-- A write with bytes of an arrival for a receive, that waits for its bank alone (R157, R265). -/
def arrivalWrite (cyc : Nat) (t : Team) (c : Cmd) (data : List Byte) (w : RingWrite) : Prop :=
  w.cmd = c.id ∧ w.team = t.id ∧ w.notBefore = cyc ∧ w.update = none ∧ w.tag = none ∧
    ∃ j, w.addr = ringAddr (viewAddr c.w0) false j ∧ w.data = (data.drop j).take w.data.length

/-- From one state to the next, some writes have joined the queue, of one kind and with these bytes. -/
def State.Queues (p : RingWrite → Prop) (s u : State) (bs : List Byte) : Prop :=
  ∃ l, u = { s with ringQueue := s.ringQueue ++ l } ∧ l.flatMap (·.data) = bs ∧ ∀ w ∈ l, p w

theorem State.Queues.refl (p : RingWrite → Prop) (s : State) : State.Queues p s s [] := ⟨[], by simp, rfl, by simp⟩

theorem State.Queues.trans {p : RingWrite → Prop} {s u v : State} {a b : List Byte} (h : State.Queues p s u a) (k : State.Queues p u v b) :
    State.Queues p s v (a ++ b) := by
  obtain ⟨l, rfl, rfl, hl⟩ := h
  obtain ⟨m, rfl, rfl, hm⟩ := k
  exact ⟨l ++ m, by simp, List.flatMap_append, List.forall_mem_append.mpr ⟨hl, hm⟩⟩

/-- Each step of a fold queues its bytes, in the cycle in which the fold begins. -/
theorem State.Queues.foldl {α : Type} {p : RingWrite → Prop} {f : State → α → State} {g : α → List Byte} {cyc : Nat} (l : List α)
    (hf : ∀ x ∈ l, ∀ s : State, s.cyc = cyc → State.Queues p s (f s x) (g x)) (s : State) (hs : s.cyc = cyc) :
    State.Queues p s (l.foldl f s) (l.flatMap g) := by
  induction l generalizing s with
  | nil => exact .refl p s
  | cons x l ih =>
    obtain ⟨hx, hl⟩ := List.forall_mem_cons.mp hf
    have hfirst := hx s hs
    have hcyc : (f s x).cyc = cyc := by
      obtain ⟨m, hm, -⟩ := hfirst
      rw [hm]
      exact hs
    exact hfirst.trans (ih hl (f s x) hcyc)

/-- A slice of a slice is one of the whole. -/
theorem take_drop_slice {α : Type} (l : List α) (lo n i k : Nat) :
    ((((l.drop lo).take n).drop i).take k) = (l.drop (lo + i)).take ((((l.drop lo).take n).drop i).take k).length := by
  rw [List.drop_take, List.take_take, List.drop_drop, List.length_take, ← List.take_eq_take_min]

theorem State.queueWrites_arrival (s : State) (t : Team) (c : Cmd) (data : List Byte) (lo n : Nat) (pois : List Bool) :
    State.Queues (arrivalWrite s.cyc t c data) s
      (s.queueWrites c.id t (viewAddr c.w0) false lo ((data.drop lo).take n) pois 0) ((data.drop lo).take n) := by
  refine ⟨_, rfl, ?_, fun w hw => ?_⟩
  · rw [List.flatMap_map, ← List.flatMap_map Prod.fst fun p : Nat × Nat => (((data.drop lo).take n).drop p.1).take p.2, List.zipIdx_map_fst]
    exact flatMap_lineParts _ _
  · obtain ⟨⟨⟨i, k⟩, x⟩, -, rfl⟩ := List.mem_map.mp hw
    exact ⟨rfl, rfl, by simp [bits], rfl, rfl, lo + i, rfl, take_drop_slice data lo n i k⟩

/-- Bytes of an arrival, with their ring keys and places, go on their way from the place of the first. -/
def State.putArrival (s : State) (t : Team) (c : Cmd) (a : Arrival) (x : List (Nat × Byte × Nat)) : State :=
  s.queueWrites c.id t (viewAddr c.w0) false (x.head?.elim 0 (·.2.2)) (x.map (·.2.1)) (x.map fun e => a.pois.getD (e.2.2 / 32) false) 0

/-- Those of one line go as a whole or, where some are missing, byte by byte (R252). -/
def State.putLine (s : State) (t : Team) (c : Cmd) (a : Arrival) (l : List (Nat × Byte × Nat)) (p : Nat × Nat) : State :=
  let x := l.filter fun e => p.1 ≤ e.2.2 && e.2.2 < p.1 + p.2
  if x.length = p.2 then s.putArrival t c a x else x.foldl (fun s e => s.putArrival t c a [e]) s

/-- Bytes of an arrival go on their way line by line. -/
def State.putArrivals (s : State) (t : Team) (c : Cmd) (a : Arrival) (l : List (Nat × Byte × Nat)) : State :=
  (lineParts (eaOff (viewAddr c.w0)) a.data.length).foldl (fun s p => s.putLine t c a l p) s

theorem State.placeArrival_eq (s : State) (t : Team) (c : Cmd) (a : Arrival) (l : List (Nat × Byte × Nat)) :
    s.placeArrival t c a l = (s.putArrivals t c a l).setCmd { c with sent := some 0, arrived := some (a.data, a.pois) } := rfl

/-- Nothing changes but the queue of the banks. -/
theorem State.putArrivals_keeps {β : Type} {p : State → β} (hp : ∀ (s : State) q, p { s with ringQueue := q } = p s) (s : State) (t : Team)
    (c : Cmd) (a : Arrival) (l : List (Nat × Byte × Nat)) : p (s.putArrivals t c a l) = p s := by
  refine State.foldl_keeps (fun s e => ?_) _ s
  unfold State.putLine
  dsimp only
  split
  · exact hp ..
  · exact State.foldl_keeps (fun s e => hp s _) _ s

/-- A numbered byte of an arrival, with its ring key and place. -/
def arrivalPlace (t : Team) (c : Cmd) (e : Byte × Nat) : Nat × Byte × Nat := (t.byteKey (viewAddr c.w0) false e.2, e.1, e.2)

/-- All bytes of an arrival. -/
def arrivalPlaces (t : Team) (c : Cmd) (a : Arrival) : List (Nat × Byte × Nat) := a.data.zipIdx.map (arrivalPlace t c)

/-- Those of one line. -/
def linePlaces (t : Team) (c : Cmd) (a : Arrival) (p : Nat × Nat) : List (Nat × Byte × Nat) :=
  (((a.data.drop p.1).take p.2).zipIdx p.1).map (arrivalPlace t c)

theorem linePlaces_bytes (t : Team) (c : Cmd) (a : Arrival) (p : Nat × Nat) : (linePlaces t c a p).map (·.2.1) = (a.data.drop p.1).take p.2 := by
  rw [linePlaces, List.map_map]
  exact List.zipIdx_map_fst ..

section
variable {a : Arrival} {p : Nat × Nat} (hle : p.1 + p.2 ≤ a.data.length)
include hle

theorem filter_arrivalPlaces (t : Team) (c : Cmd) :
    (arrivalPlaces t c a).filter (fun e => p.1 ≤ e.2.2 && e.2.2 < p.1 + p.2) = linePlaces t c a p := by
  rw [arrivalPlaces, List.filter_map]
  exact congrArg (List.map (arrivalPlace t c)) (filter_zipIdx_between hle)

theorem length_linePlaces (t : Team) (c : Cmd) : (linePlaces t c a p).length = p.2 := by
  simp only [linePlaces, List.length_map, List.length_zipIdx, List.length_take, List.length_drop]
  omega

theorem linePlaces_first (hpos : 0 < p.2) (t : Team) (c : Cmd) : (linePlaces t c a p).head?.elim 0 (·.2.2) = p.1 := by
  have hlength := length_linePlaces hle t c
  unfold linePlaces at hlength ⊢
  cases h : (a.data.drop p.1).take p.2 with
  | nil =>
    rw [h] at hlength
    exact absurd hlength (Nat.ne_of_lt hpos)
  | cons x l => rfl

end

/-- Where no other receive runs, no later arrival has written. -/
theorem State.arrivalBytes_of_alone {s : State} {c : Cmd} (halone : ∀ e ∈ s.cmds, e.id = c.id ∨ e.op ≠ .frecv) (t : Team) (a : Arrival)
    (g : Nat) : s.arrivalBytes t c a g = arrivalPlaces t c a := by
  have hlater : s.laterKeys c a.port g = [] := List.flatMap_eq_nil_iff.mpr fun e he => by
    rcases halone e he with h | h <;> simp [h]
  simp [State.arrivalBytes, hlater, arrivalPlaces, arrivalPlace]

/-- The bytes of one line of a whole arrival go as one write. -/
theorem State.putLine_arrivalPlaces (s : State) (t : Team) (c : Cmd) (a : Arrival) {p : Nat × Nat}
    (hp : p ∈ lineParts (eaOff (viewAddr c.w0)) a.data.length) :
    ∃ pois, s.putLine t c a (arrivalPlaces t c a) p =
      s.queueWrites c.id t (viewAddr c.w0) false p.1 ((a.data.drop p.1).take p.2) pois 0 := by
  obtain ⟨hpos, hle⟩ := bounds_of_mem_lineParts hp
  refine ⟨(linePlaces t c a p).map fun e => a.pois.getD (e.2.2 / 32) false, ?_⟩
  unfold State.putLine
  rw [filter_arrivalPlaces hle, if_pos (length_linePlaces hle t c), State.putArrival, linePlaces_first hle hpos, linePlaces_bytes]

/-- A whole arrival joins the queue of the banks. -/
theorem State.putArrivals_arrivalPlaces (s : State) (t : Team) (c : Cmd) (a : Arrival) :
    State.Queues (arrivalWrite s.cyc t c a.data) s (s.putArrivals t c a (arrivalPlaces t c a)) a.data := by
  have hlines := State.Queues.foldl (p := arrivalWrite s.cyc t c a.data) (f := fun s p => s.putLine t c a (arrivalPlaces t c a) p)
    (g := fun p => (a.data.drop p.1).take p.2) (lineParts (eaOff (viewAddr c.w0)) a.data.length)
    (fun p hp u hu => by
      obtain ⟨pois, hput⟩ := u.putLine_arrivalPlaces t c a hp
      exact hput ▸ hu ▸ u.queueWrites_arrival t c a.data p.1 p.2 pois) s rfl
  rwa [flatMap_lineParts] at hlines

/-! ### Timed arrivals -/

section
variable {s : State} {a : Arrival}

/-- An arrival has found its receive, which takes no other (R265). -/
def State.matched (s : State) (k : Posted) : State :=
  { s with fabric := { s.fabric with posted := s.fabric.posted.map fun q => if q.cmd == k.cmd then { q with matched := true } else q } }

theorem State.receive_of_unposted (h : Claims.postedFor s a = none) : s.receive a s.arrivalTurn = s.unposted a s.arrivalTurn := by
  rw [Claims.postedFor] at h
  rw [State.receive, h]

section -- an arrival that finds its receive posted, with the receive's command and team
variable {k : Posted} {c : Cmd} {t : Team} (hk : Claims.postedFor s a = some k) (hc : s.cmd k.cmd = some c) (ht : s.team c.team = some t)
include hk hc ht

theorem State.receive_of_posted : s.receive a s.arrivalTurn =
    if a.lost.isEmpty && 64 * a.units ≤ recvBytes c.w1 && a.data.length = 64 * a.units then
      (s.matched k).placeArrival t c a ((s.matched k).arrivalBytes t c a s.arrivalTurn)
    else (s.matched k).setCmd { c with sent := some 5 } := by
  rw [Claims.postedFor] at hk
  have hc' : (s.matched k).cmd k.cmd = some c := hc
  have ht' : (s.matched k).team c.team = some t := ht
  rw [State.receive, hk]
  dsimp only
  rw [← State.matched, hc']
  dsimp only
  rw [ht']

/-- All bytes have come, and there is room for them. -/
theorem State.receive_of_whole (hlost : a.lost = []) (hroom : 64 * a.units ≤ recvBytes c.w1) (hdata : a.data.length = 64 * a.units) :
    s.receive a s.arrivalTurn = ((s.matched k).putArrivals t c a ((s.matched k).arrivalBytes t c a s.arrivalTurn)).setCmd
      { c with sent := some 0, arrived := some (a.data, a.pois) } := by
  rw [State.receive_of_posted hk hc ht, if_pos (by simp [hlost, hroom, hdata]), State.placeArrival_eq]

/-- Flits were lost, or the receive is too short. -/
theorem State.receive_of_lost (h : a.lost ≠ [] ∨ recvBytes c.w1 < 64 * a.units) :
    s.receive a s.arrivalTurn = (s.matched k).setCmd { c with sent := some 5 } := by
  rw [State.receive_of_posted hk hc ht, if_neg]
  rcases h with h | h <;> simp [h]

theorem State.receive_ring : (s.receive a s.arrivalTurn).ring = s.ring := by
  rw [State.receive_of_posted hk hc ht]
  split
  · exact State.putArrivals_keeps (p := State.ring) (fun _ _ => rfl) ..
  · rfl

theorem State.receive_whole_cmd (hlost : a.lost = []) (hroom : 64 * a.units ≤ recvBytes c.w1) (hdata : a.data.length = 64 * a.units) :
    ((s.receive a s.arrivalTurn).cmd k.cmd).map (fun d => (d.sent, d.arrived)) = some (some 0, some (a.data, a.pois)) := by
  have hid : c.id = k.cmd := by simpa using List.find?_some hc
  rw [State.receive_of_whole hk hc ht hlost hroom hdata, ← hid, State.cmd_setCmd _ { c with sent := some 0, arrived := some (a.data, a.pois) }]
  · rfl
  · rw [State.putArrivals_keeps (p := fun u => u.cmd c.id) fun _ _ => rfl]
    exact Option.isSome_of_eq_some (hid ▸ hc)

/-- With no other receive, the whole arrival joins the queue of the banks. -/
theorem State.receive_whole_queue (hlost : a.lost = []) (hroom : 64 * a.units ≤ recvBytes c.w1) (hdata : a.data.length = 64 * a.units)
    (halone : ∀ e ∈ s.cmds, e.id = c.id ∨ e.op ≠ .frecv) :
    ∃ l, (s.receive a s.arrivalTurn).ringQueue = s.ringQueue ++ l ∧ l.flatMap (·.data) = a.data ∧
      ∀ w ∈ l, arrivalWrite s.cyc t c a.data w := by
  obtain ⟨l, hl, hbytes, hwrites⟩ := (s.matched k).putArrivals_arrivalPlaces t c a
  refine ⟨l, ?_, hbytes, hwrites⟩
  rw [State.receive_of_whole hk hc ht hlost hroom hdata, State.arrivalBytes_of_alone (s := s.matched k) halone, hl]
  rfl

theorem State.receive_lost_cmd (h : a.lost ≠ [] ∨ recvBytes c.w1 < 64 * a.units) :
    ((s.receive a s.arrivalTurn).cmd k.cmd).map (·.sent) = some (some 5) ∧ (s.receive a s.arrivalTurn).ringQueue = s.ringQueue := by
  have hid : c.id = k.cmd := by simpa using List.find?_some hc
  rw [State.receive_of_lost hk hc ht h, ← hid]
  refine ⟨?_, rfl⟩
  rw [(s.matched k).cmd_setCmd { c with sent := some 5 } (Option.isSome_of_eq_some (hid ▸ hc))]
  rfl

end

/-- Whether an arrival is dropped (R260, R265, R277). -/
def State.drops (s : State) (a : Arrival) : Bool :=
  !s.fabric.joined || !arrivalOk a || s.fabric.loopback s.arrivalTurn a.port || s.fabric.owner != some a.ctx ||
    SMap.get 0 s.fabric.peers a.src != a.inc

theorem exec_timedArrival_of_drops (h : s.drops a = true) : exec (.timedArrival a) s = .next s := if_pos h

section
variable (h : Claims.arrives s a)
include h

theorem State.drops_of_arrives : s.drops a = false := by
  obtain ⟨hjoined, hok, hloop, howner, hpeer⟩ := h
  rw [State.drops, hjoined, hok, hloop, howner, hpeer]
  simp

theorem exec_timedArrival_unicast (hmc : a.mc = false) : exec (.timedArrival a) s =
    if a.dst = s.fabric.devid then .next (s.receive a s.arrivalTurn)
    else .next (if a.relayed || s.fabric.devices ≤ a.dst then s else s.hold a s.arrivalTurn a.dst) := by
  refine (if_neg (Bool.eq_false_iff.mp (State.drops_of_arrives h))).trans ?_
  rw [hmc]
  rfl

theorem exec_timedArrival_multicast (hmc : a.mc = true) : exec (.timedArrival a) s =
    let mine := if (s.groupOf a.ctx a.dst).getLsbD s.fabric.devid then s.receive a s.arrivalTurn else s
    .next (if a.relayed then mine
      else (mine.forwardMembers a.ctx a.dst a.src s.fabric.devid).foldl (fun u d => u.hold a s.arrivalTurn d) mine) := by
  refine (if_neg (Bool.eq_false_iff.mp (State.drops_of_arrives h))).trans ?_
  rw [hmc]
  rfl

end

/-- An arrival of another owner or incarnation, or in no domain, is dropped. -/
theorem exec_timedArrival_dropped (h : s.fabric.owner ≠ some a.ctx ∨ SMap.get 0 s.fabric.peers a.src ≠ a.inc ∨ s.fabric.joined = false) :
    exec (.timedArrival a) s = .next s := by
  refine exec_timedArrival_of_drops ?_
  rcases h with howner | hpeer | hjoined
  · simp [State.drops, howner]
  · rw [State.drops, bne_iff_ne.mpr hpeer, Bool.or_true]
  · simp [State.drops, hjoined]

end

theorem timedArrivals : Claims.TimedArrivals := by
  refine ⟨fun s a harrives hmc => ⟨fun hmine => ?_, fun hother hdirect hdevice => ?_, fun hother hrelayed => ?_⟩,
    fun s a harrives hmc => ?_, fun s a h => exec_timedArrival_dropped h⟩
  · rw [exec_timedArrival_unicast harrives hmc, if_pos hmine]
    refine ⟨fun k c t hk hc ht => ⟨_, rfl, State.receive_ring hk hc ht, fun hlost hroom hdata => ?_, State.receive_lost_cmd hk hc ht⟩,
      fun hnone => by rw [State.receive_of_unposted hnone]⟩
    exact ⟨State.receive_whole_cmd hk hc ht hlost hroom hdata, State.receive_whole_queue hk hc ht hlost hroom hdata⟩
  · rw [exec_timedArrival_unicast harrives hmc, if_neg hother, if_neg (by simp [hdirect, hdevice])]
  · rw [exec_timedArrival_unicast harrives hmc, if_neg hother, if_pos (by simp [hrelayed])]
  · rw [exec_timedArrival_multicast harrives hmc]
    exact ⟨fun hrelayed => by simp only [hrelayed, if_true], fun hdirect => by simp only [hdirect, Bool.false_eq_true, if_false]⟩

/-! ### What leaves a port -/

theorem Fabric.keepTimed_eq (f : Fabric) (port turn : Nat) (l : List (Nat × BitVec 2048)) :
    ∃ m, f.keepTimed port turn l = { f with retry := m } := by
  induction l generalizing f with
  | nil => exact ⟨f.retry, rfl⟩
  | cons e l ih => exact ih (f.keepFlit port (f.linkOf port e.1) true turn false e.2)

/-- Flits that leave change the retry buffers and the output alone. -/
theorem State.emit_keeps {β : Type} {p : State → β}
    (hp : ∀ (s : State) m o, p { s with fabric := { s.fabric with retry := m }, out := o } = p s)
    (s : State) (port turn : Nat) (l : List (Nat × Nat)) (a : Arrival) : p (s.emit port turn l a) = p s := by
  unfold State.emit
  dsimp only
  obtain ⟨m, hm⟩ := s.fabric.keepTimed_eq port turn (l.map fun e => (e.2, arrivalFlit a (s.fabric.pairKey (s.fabric.facing turn port)) e.1))
  rw [hm]
  exact hp s m _

/-! ### Relays -/

/-- An entry that none of a list outranks goes to its end. -/
theorem insertLeast_of_le {α : Type} {k : α → Nat} {a : α} {l : List α} (h : ∀ x ∈ l, k x ≤ k a) : insertLeast k a l = l ++ [a] := by
  induction l with
  | nil => rfl
  | cons x l ih =>
    obtain ⟨hx, hl⟩ := List.forall_mem_cons.mp h
    rw [insertLeast, if_pos hx, ih hl, List.cons_append]

/-- Insertion keeps the order of a list that has it. -/
theorem foldl_insertLeast_of_sorted {α : Type} {k : α → Nat} (l m : List α) (h : (m ++ l).Pairwise fun x y => k x ≤ k y) :
    l.foldl (fun m e => insertLeast k e m) m = m ++ l := by
  induction l generalizing m with
  | nil => simp
  | cons a l ih =>
    obtain ⟨-, -, hcross⟩ := List.pairwise_append.mp h
    rw [List.foldl_cons, insertLeast_of_le fun x hx => hcross x hx a List.mem_cons_self, ih _ (by simpa using h)]
    simp

/-- The flits of a transfer that a relay holds. -/
def RelayHeld.flits (r : RelayHeld) : List Nat := (List.range (flitCount r.a.units)).filter fun i => !r.a.lost.contains i

/-- The flits of one transfer leave in their own order. -/
theorem relayOrder_singleton (r : RelayHeld) : relayOrder [r] = r.flits.map fun i => (r, i) := by
  have hsorted : (r.flits.map fun i => (r, i)).Pairwise fun x y =>
      (16 * x.1.arrivedTurn + x.1.arrivedPort) * 2 ^ 14 + x.2 ≤ (16 * y.1.arrivedTurn + y.1.arrivedPort) * 2 ^ 14 + y.2 :=
    List.pairwise_map.mpr ((List.pairwise_lt_range.filter _).imp fun h => Nat.add_le_add_left (Nat.le_of_lt h) _)
  have hfold := foldl_insertLeast_of_sorted _ [] hsorted
  simpa [relayOrder, RelayHeld.flits] using hfold

/-- The transfers that a relay holds for a port in this turn. -/
def State.heldFor (s : State) (port : Nat) : List RelayHeld := s.fabric.relays.filter fun r => r.turn == s.cyc / 4096 && r.port == port

/-- The relay holds them no more. -/
def State.relayLeft (s : State) (port : Nat) : State :=
  { s with fabric := { s.fabric with relays := s.fabric.relays.filter fun r => !(r.turn == s.cyc / 4096 && r.port == port) } }

/-- Their flits that have a slot on a link. -/
def State.relaySlots (s : State) (port : Nat) : List ((RelayHeld × Nat) × Nat) :=
  ((relayOrder (s.heldFor port)).zipIdx).filter fun e => e.2 < 1500 && s.fabric.carries port e.2

/-- One transfer leaves with those of the flits that are its own. -/
def State.forwardHeld (s : State) (port turn : Nat) (slots : List ((RelayHeld × Nat) × Nat)) (r : RelayHeld) : State :=
  let flits := (slots.filter fun e => e.1.1 == r).map fun e => (e.1.2, e.2)
  s.emit port turn flits { r.a with port, relayed := true, lost := (List.range (flitCount r.a.units)).filter fun i => !flits.any (·.1 == i) }

theorem exec_relayForward {s : State} {port : Nat} (hjoined : s.fabric.joined = true) (hlo : 96 ≤ s.cyc % 4096)
    (hhi : s.cyc % 4096 ≤ slotOffset 1499) : exec (.relayForward port) s = .next ((s.heldFor port).eraseDups.foldl
      (fun u r => u.forwardHeld port (s.cyc / 4096) (s.relaySlots port) r) (s.relayLeft port)) :=
  if_pos (by simp [hjoined, hlo, hhi])

theorem State.forwardHeld_foldl_keeps {β : Type} {p : State → β}
    (hp : ∀ (s : State) m o, p { s with fabric := { s.fabric with retry := m }, out := o } = p s) (l : List RelayHeld) (s : State) (port turn : Nat)
    (slots : List ((RelayHeld × Nat) × Nat)) : p (l.foldl (fun u r => u.forwardHeld port turn slots r) s) = p s :=
  State.foldl_keeps (fun u _ => State.emit_keeps hp u ..) l s

/-- The flits of the only transfer for a port take the slots in their order. -/
theorem State.relaySlots_of_one {s : State} {port : Nat} {r : RelayHeld} (h : s.heldFor port = [r]) :
    ((s.relaySlots port).filter fun e => e.1.1 == r).map (fun e => (e.1.2, e.2)) =
      r.flits.zipIdx.filter fun e => decide (e.2 < 1500) && s.fabric.carries port e.2 := by
  have hslots : s.relaySlots port =
      (r.flits.zipIdx.filter fun e => decide (e.2 < 1500) && s.fabric.carries port e.2).map fun e => ((r, e.1), e.2) := by
    rw [State.relaySlots, h, relayOrder_singleton, List.zipIdx_map, List.filter_map]
    rfl
  have hown : (s.relaySlots port).filter (fun e => e.1.1 == r) = s.relaySlots port := List.filter_eq_self.mpr fun e he => by
    rw [hslots] at he
    obtain ⟨x, -, rfl⟩ := List.mem_map.mp he
    exact beq_self_eq_true r
  rw [hown, hslots, List.map_map]
  exact List.map_id _

/-- R266, R267: a relay sends what it holds for a turn. -/
theorem relayForward_spec (s : State) (port : Nat) (hjoined : s.fabric.joined = true) (hlo : 96 ≤ s.cyc % 4096)
    (hhi : s.cyc % 4096 ≤ slotOffset 1499) :
    (∃ u, exec (.relayForward port) s = .next u ∧ u.fabric.relays = (s.relayLeft port).fabric.relays ∧ u.ring = s.ring ∧ u.cmds = s.cmds) ∧
    (s.heldFor port = [] → exec (.relayForward port) s = .next (s.relayLeft port)) ∧
    (∀ r, s.heldFor port = [r] →
      let flits := r.flits.zipIdx.filter fun e => decide (e.2 < 1500) && s.fabric.carries port e.2
      exec (.relayForward port) s = .next ((s.relayLeft port).emit port (s.cyc / 4096) flits
        { r.a with port, relayed := true, lost := (List.range (flitCount r.a.units)).filter fun i => !flits.any (·.1 == i) })) := by
  have hexec := exec_relayForward (port := port) hjoined hlo hhi
  refine ⟨⟨_, hexec, State.forwardHeld_foldl_keeps (p := fun u => u.fabric.relays) (fun _ _ _ => rfl) ..,
    State.forwardHeld_foldl_keeps (p := State.ring) (fun _ _ _ => rfl) .., State.forwardHeld_foldl_keeps (p := State.cmds) (fun _ _ _ => rfl) ..⟩,
    fun hnone => by rw [hexec, hnone]; rfl, fun r hone => ?_⟩
  have hforward : exec (.relayForward port) s = .next ((s.relayLeft port).forwardHeld port (s.cyc / 4096) (s.relaySlots port) r) := by
    rw [hexec, hone]
    rfl
  rw [hforward, State.forwardHeld, State.relaySlots_of_one hone]

/-! ### The end of a receive -/

/-- The tags of a receive change no more than the tags. -/
theorem State.receiveTags_keeps {β : Type} {p : State → β} (hp : ∀ (s : State) x, p { s with tags := x } = p s) (s : State) (t : Team) (c : Cmd)
    (n : Nat) : p (s.receiveTags t c n) = p s :=
  State.foldl_keeps (fun s _ => hp s _) _ s

theorem State.finish_ringQueue (s : State) (cid : Nat) (status : BitVec 4) : (s.finish cid status).ringQueue = s.ringQueue := by
  unfold State.finish
  split <;> rfl

/-- The key of a receive is withdrawn. -/
def State.dropKey (s : State) (cmd : Nat) : State :=
  { s with fabric := { s.fabric with posted := s.fabric.posted.filter (·.cmd != cmd) } }

/-- The state in which a receive ends. -/
def State.recvTagged (s : State) (c : Cmd) : State :=
  match c.arrived, s.team c.team with
  | some (bs, _), some t => if c.sent = some 0 then (s.dropKey c.id).receiveTags t c bs.length else s.dropKey c.id
  | _, _ => s.dropKey c.id

theorem State.recvTagged_keeps {β : Type} {p : State → β} (hp : ∀ (s : State) x, p { s with tags := x } = p s) (s : State) (c : Cmd) :
    p (s.recvTagged c) = p (s.dropKey c.id) := by
  unfold State.recvTagged
  split
  · split
    · exact State.receiveTags_keeps hp ..
    · rfl
  · rfl

theorem exec_frecvKeyExpiry {s : State} {c : Cmd} (hc : s.cmd c.id = some c) (hop : c.op = .frecv) (hrun : c.st = .running)
    (hcyc : s.cyc = 4096 * (recvTurn c.w1 + 1) + 95) :
    exec (.frecvKeyExpiry c.id) s = .next ((s.recvTagged c).finish c.id
      (if c.sent = some 0 ∧ c.arrived.isSome = true ∧ (s.team c.team).isSome = true then 0 else 5)) := by
  have hc' : (s.dropKey c.id).cmd c.id = some c := hc
  rw [exec, execFrecvKeyExpiry, hc]
  dsimp only
  rw [if_pos (by simp [hop, hrun, hcyc]), ← State.dropKey, hc']
  have hteam : (s.dropKey c.id).team c.team = s.team c.team := rfl
  rw [hteam, State.recvTagged]
  cases c.arrived with
  | none => simp
  | some x =>
    cases s.team c.team with
    | none => simp
    | some t => by_cases hsent : c.sent = some 0 <;> simp [hsent]

/-- R264, R265, R383: a receive ends with status OK only where its bytes came. -/
theorem frecvKeyExpiry_spec {s : State} {cmd : Nat} {c : Cmd} (hc : s.cmd cmd = some c) (hop : c.op = .frecv) (hrun : c.st = .running)
    (hcyc : s.cyc = 4096 * (recvTurn c.w1 + 1) + 95) :
    ∃ u, exec (.frecvKeyExpiry cmd) s = .next u ∧ (∀ k ∈ u.fabric.posted, k.cmd ≠ cmd) ∧ u.ringQueue = s.ringQueue ∧
      (u.cmd cmd).map (·.st) =
        some (.finishing (if c.sent = some 0 ∧ c.arrived.isSome = true ∧ (s.team c.team).isSome = true then 0 else 5)) := by
  obtain rfl : c.id = cmd := by simpa using List.find?_some hc
  have hcmd : (s.recvTagged c).cmd c.id = some c := (State.recvTagged_keeps (p := fun u => u.cmd c.id) (fun _ _ => rfl) s c).trans hc
  obtain ⟨-, -, hst⟩ := State.finish_tables hcmd
    (if c.sent = some 0 ∧ c.arrived.isSome = true ∧ (s.team c.team).isSome = true then 0 else 5)
  refine ⟨_, exec_frecvKeyExpiry hc hop hrun hcyc, fun k hk => ?_, ?_, hst⟩
  · rw [State.finish_fabric, State.recvTagged_keeps (p := State.fabric) fun _ _ => rfl] at hk
    simpa using (List.mem_filter.mp hk).2
  · rw [State.finish_ringQueue]
    exact State.recvTagged_keeps (p := State.ringQueue) (fun _ _ => rfl) s c

/-! ### Sends -/

/-- Reads of ring lines change no more than what R244 holds of a team. -/
theorem State.noteRead_keeps {β : Type} {p : State → β} (hp : ∀ (s : State) x, p { s with teams := x } = p s) (s : State) (c : Cmd)
    (l : List (BitVec 28 × Bool × Nat × Nat)) (new : List Nat) : p (s.noteRead c l new) = p s := by
  unfold State.noteRead
  split
  · split
    · rfl
    · exact hp ..
  · rfl

/-- What is left of some flits when those of one kind have left. -/
theorem flitsBut_filter (l : List (Nat × Nat)) (good : Nat × Nat → Bool) :
    Claims.flitsBut l (l.filter good) = (l.filter fun e => !good e).map (·.1) := by
  refine congrArg (List.map Prod.fst) (List.filter_congr fun e he => ?_)
  simp [he]

/-- A send has noted the reads of its units that it makes in this cycle. -/
def State.sendNoted (s : State) (t : Team) (c : Cmd) : State :=
  s.noteRead c ((s.sendReads t c).map fun u => (viewAddr c.w0, false, 32 * u, 32))
    ((s.sendReads t c).flatMap fun u => t.linesOf (viewAddr c.w0) false (32 * u) 32)

theorem State.sendNoted_cyc (s : State) (t : Team) (c : Cmd) : (s.sendNoted t c).cyc = s.cyc :=
  State.noteRead_keeps (p := State.cyc) (fun _ _ => rfl) ..

theorem State.sendNoted_fabric (s : State) (t : Team) (c : Cmd) : (s.sendNoted t c).fabric = s.fabric :=
  State.noteRead_keeps (p := State.fabric) (fun _ _ => rfl) ..

/-- The command of a send with the units it reads in this cycle. -/
def State.sendRead (s : State) (t : Team) (c : Cmd) : Cmd := (s.sendNoted t c).readUnits t c (s.sendReads t c)

section
variable {s : State} {cmd : Nat} {c : Cmd} (hc : s.cmd cmd = some c) (hop : c.op = .fsend) (hrun : c.st = .running)
include hc hop hrun

section
variable {t : Team} (ht : s.team c.team = some t) (hsent : c.sent = none)
include ht hsent

theorem exec_fsendFlitDeparture : exec (.fsendFlitDeparture cmd) s =
    if (s.sendNoted t c).cyc == (s.sendRead t c).lastFlit then
      let flits := Claims.flitsOf c
      let good (e : Nat × Nat) : Bool := (s.sendNoted t c).fabric.carries (fabPort c.w0) e.2
      .next (((s.sendNoted t c).setCmd { s.sendRead t c with sent := some 0 }).emit (fabPort c.w0) (c.w1.toNat / 4096) (flits.filter good)
        ((s.sendNoted t c).sendPayload t (s.sendRead t c) ((flits.filter fun e => !good e).map (·.1))))
    else .next ((s.sendNoted t c).setCmd (s.sendRead t c)) := by
  rw [exec, execFsendFlitDeparture, hc]
  dsimp only
  rw [ht]
  dsimp only
  rw [if_pos (by simp [hop, hrun, hsent])]
  rfl

theorem exec_fsendFlitDeparture_before (hcyc : s.cyc ≠ c.lastFlit) :
    exec (.fsendFlitDeparture cmd) s = .next ((s.sendNoted t c).setCmd (s.sendRead t c)) := by
  have hlast : (s.sendRead t c).lastFlit = c.lastFlit := rfl
  rw [exec_fsendFlitDeparture hc hop hrun ht hsent, s.sendNoted_cyc, hlast, if_neg (by simpa using hcyc)]

theorem exec_fsendFlitDeparture_last (hcyc : s.cyc = c.lastFlit) :
    let good := (Claims.flitsOf c).filter fun e => s.fabric.carries (fabPort c.w0) e.2
    exec (.fsendFlitDeparture cmd) s =
      .next (((s.sendNoted t c).setCmd { s.sendRead t c with sent := some 0 }).emit (fabPort c.w0) (c.w1.toNat / 4096) good
        ((s.sendNoted t c).sendPayload t (s.sendRead t c) (Claims.flitsBut (Claims.flitsOf c) good))) := by
  have hlast : (s.sendRead t c).lastFlit = c.lastFlit := rfl
  rw [exec_fsendFlitDeparture hc hop hrun ht hsent, s.sendNoted_cyc, hlast, if_pos (by simpa using hcyc), s.sendNoted_fabric]
  dsimp only
  rw [flitsBut_filter]

end

theorem exec_fsendTurnEnd (hcyc : s.cyc + 1 = 4096 * (c.w1.toNat / 4096 + 1)) : exec (.fsendTurnEnd cmd) s =
    .next { s.finish cmd 0 with fabric := { (s.finish cmd 0).fabric with
      claimed := (s.finish cmd 0).fabric.claimed.filter fun k => c.w1.toNat / 4096 < k.2.1 } } := by
  rw [exec, execFsendTurnEnd, hc]
  dsimp only
  rw [if_pos (by simp [hop, hrun, hcyc])]

/-- R263: a send is done at the end of its turn. -/
theorem fsendTurnEnd_spec (hcyc : s.cyc + 1 = 4096 * (c.w1.toNat / 4096 + 1)) : ∃ u, exec (.fsendTurnEnd cmd) s = .next u ∧
    (u.cmd cmd).map (·.st) = some (.finishing 0) ∧ ∀ k ∈ u.fabric.claimed, c.w1.toNat / 4096 < k.2.1 := by
  obtain ⟨-, -, hst⟩ := State.finish_tables hc 0
  exact ⟨_, exec_fsendTurnEnd hc hop hrun hcyc, hst, fun k hk => by simpa using (List.mem_filter.mp hk).2⟩

end

/-! ### A new owner -/

theorem State.sentPart_keeps {β : Type} {p : State → β}
    (hp : ∀ (s : State) m o, p { s with fabric := { s.fabric with retry := m }, out := o } = p s)
    (s : State) (c : Cmd) : p (s.sentPart c) = p s := by
  unfold State.sentPart
  dsimp only
  split
  · split
    · exact State.emit_keeps hp ..
    · rfl
  · rfl

theorem State.giveRelay_keeps {β : Type} {p : State → β} (hp : ∀ (s : State) m, p { s with fabric := { s.fabric with relayUse := m } } = p s)
    (s : State) (c : Cmd) (n : Nat) : p (s.giveRelay c n) = p s := by
  unfold State.giveRelay
  dsimp only
  split
  · exact hp ..
  · rfl

/-- A withdrawal takes the keys of its command, and no other. -/
theorem State.withdraw_posted (s : State) (c : Cmd) : (s.withdraw c).fabric.posted = s.fabric.posted.filter (·.cmd != c.id) := by
  refine congrArg (List.filter _) ((congrArg Fabric.posted (State.finish_fabric ..)).trans ?_)
  exact (State.giveRelay_keeps (p := fun u => u.fabric.posted) (fun _ _ => rfl) ..).trans
    (State.sentPart_keeps (p := fun u => u.fabric.posted) (fun _ _ _ => rfl) s c)

/-- A withdrawal takes the slots of its send, and no other. -/
theorem State.withdraw_claimed (s : State) (c : Cmd) : (s.withdraw c).fabric.claimed = s.fabric.claimed.filter fun k =>
    !(c.op == .fsend && k.1 == fabPort c.w0 && k.2.1 == c.w1.toNat / 4096 && c.slots.contains k.2.2) := by
  refine congrArg (List.filter _) ((congrArg Fabric.claimed (State.finish_fabric ..)).trans ?_)
  exact (State.giveRelay_keeps (p := fun u => u.fabric.claimed) (fun _ _ => rfl) ..).trans
    (State.sentPart_keeps (p := fun u => u.fabric.claimed) (fun _ _ _ => rfl) s c)

/-- A command is REJECTED, with its key and its slots given back. -/
structure State.Withdrawn (s : State) (c : Cmd) : Prop where
  rejected : (s.cmd c.id).map (·.st) = some (.finishing 5)
  keyless : ∀ k ∈ s.fabric.posted, k.cmd ≠ c.id
  slotless : c.op = .fsend → ∀ k ∈ s.fabric.claimed, k.1 = fabPort c.w0 → k.2.1 = c.w1.toNat / 4096 → k.2.2 ∉ c.slots

/-- The end of a command changes where it stands, and where no other does. -/
theorem State.finish_cmd_st (s : State) (cid : Nat) (status : BitVec 4) (i : Nat) : ((s.finish cid status).cmd i).map (·.st) =
    if i = cid then (s.cmd i).map fun _ => .finishing status else (s.cmd i).map (·.st) := by
  cases hc : s.cmd cid with
  | none =>
    have hfinish : s.finish cid status = s := by rw [State.finish, hc]
    rw [hfinish]
    split
    next h => rw [h, hc]; rfl
    next => rfl
  | some d =>
    split
    next h =>
      obtain ⟨-, -, hst⟩ := State.finish_tables hc status
      rw [h, hst, hc]
      rfl
    next h =>
      have hid : d.id = cid := by simpa using List.find?_some hc
      rw [State.finish_eq hc, s.cmd_setCmd_ne { d with st := .finishing status, expanding := false } i fun he => h (he.trans hid)]

theorem State.withdraw_cmd_st (s : State) (c : Cmd) (i : Nat) : ((s.withdraw c).cmd i).map (·.st) =
    if i = c.id then (s.cmd i).map fun _ => .finishing 5 else (s.cmd i).map (·.st) := by
  obtain ⟨u, ⟨hu, -⟩, hw, -⟩ := s.withdraw_staysOut c
  have hended : (s.withdraw c).cmd i = (u.finish c.id 5).cmd i := congrArg (List.find? _) hw
  have hbefore : u.cmd i = s.cmd i := congrArg (List.find? _) hu
  rw [hended, State.finish_cmd_st, hbefore]

theorem State.withdraw_withdrawn {s : State} {c : Cmd} (hc : (s.cmd c.id).isSome = true) : (s.withdraw c).Withdrawn c where
  rejected := by
    obtain ⟨d, hd⟩ := Option.isSome_iff_exists.mp hc
    rw [s.withdraw_cmd_st, if_pos rfl, hd]
    rfl
  keyless k hk := by
    rw [s.withdraw_posted] at hk
    simpa using (List.mem_filter.mp hk).2
  slotless hop k hk hport hturn := by
    rw [s.withdraw_claimed] at hk
    simpa [hop, hport, hturn] using (List.mem_filter.mp hk).2

/-- A later withdrawal leaves it so. -/
theorem State.Withdrawn.withdraw {s : State} {c : Cmd} (h : s.Withdrawn c) (d : Cmd) : (s.withdraw d).Withdrawn c where
  rejected := by
    obtain ⟨e, he, hst⟩ := Option.map_eq_some_iff.mp h.rejected
    rw [s.withdraw_cmd_st, he]
    split
    next => rfl
    next => exact congrArg some hst
  keyless k hk := by
    rw [s.withdraw_posted] at hk
    exact h.keyless k (List.mem_filter.mp hk).1
  slotless hop k hk := by
    rw [s.withdraw_claimed] at hk
    exact h.slotless hop k (List.mem_filter.mp hk).1

theorem State.Withdrawn.foldl {s : State} {c : Cmd} (h : s.Withdrawn c) (l : List Cmd) : (l.foldl State.withdraw s).Withdrawn c := by
  induction l generalizing s with
  | nil => exact h
  | cons d l ih => exact ih (h.withdraw d)

/-- A list of withdrawals takes each of its commands. -/
theorem State.withdrawn_of_mem {l : List Cmd} {s : State} {c : Cmd} (hmem : c ∈ l) (hc : (s.cmd c.id).isSome = true) :
    (l.foldl State.withdraw s).Withdrawn c := by
  induction l generalizing s with
  | nil => cases hmem
  | cons d l ih =>
    rcases List.mem_cons.mp hmem with rfl | hl
    · exact (State.withdraw_withdrawn hc).foldl l
    · refine ih hl ?_
      rw [← Option.isSome_map (f := (·.st)), s.withdraw_cmd_st]
      split <;> simpa using hc

theorem State.withdrawAll_withdrawn {s : State} {p : Cmd → Bool} {c : Cmd} (hmem : c ∈ s.cmds) (hop : c.op = .fsend ∨ c.op = .frecv)
    (hst : c.st = .queued ∨ c.st = .running) (hp : p c = true) : (s.withdrawAll p).Withdrawn c := by
  refine State.withdrawn_of_mem (List.mem_filter.mpr ⟨hmem, by simp [hop, hst, hp]⟩) ?_
  exact List.find?_isSome.mpr ⟨c, hmem, beq_self_eq_true _⟩

/-- The state after a change of the owner. -/
def State.cutover (s : State) (new : Option Nat) : State :=
  let old := s.fabric.owner
  let s := if old == new then s else s.withdrawAll fun c => old == some c.ctx
  { s with
    fabric := { s.fabric with
      owner := new, nextOwner := none
      relays := if old == new then s.fabric.relays else s.fabric.relays.filter fun r => some r.a.ctx != old
      relayUse := if old == new then s.fabric.relayUse else [] }
    out := s.out ++ [.report "timed owner" (new.getD 0) (if new.isSome then 1 else 0)] }

theorem exec_timedOwnerCutover {s : State} {new : Option Nat} (hnext : s.fabric.nextOwner = some new) (hcyc : s.cyc % s.fabric.round = 0) :
    exec .timedOwnerCutover s = .next (s.cutover new) := by
  rw [exec, execTimedOwnerCutover, hnext]
  exact if_neg (not_not.mpr hcyc)

theorem State.cutover_same {s : State} {new : Option Nat} (h : s.fabric.owner = new) :
    (s.cutover new).cmds = s.cmds ∧ (s.cutover new).fabric.relays = s.fabric.relays := by
  simp [State.cutover, h]

section
variable {s : State} {new : Option Nat} (h : s.fabric.owner ≠ new)
include h

/-- The transfers of the old owner are held no more, and no flit counts as relayed. -/
theorem State.cutover_relays :
    (∀ r ∈ (s.cutover new).fabric.relays, some r.a.ctx ≠ s.fabric.owner) ∧ (s.cutover new).fabric.relayUse = [] := by
  have hnew : (s.fabric.owner == new) = false := beq_eq_false_iff_ne.mpr h
  unfold State.cutover
  dsimp only
  rw [hnew]
  exact ⟨fun r hr => by simpa using (List.mem_filter.mp hr).2, rfl⟩

theorem State.cutover_withdrawn {c : Cmd} (hmem : c ∈ s.cmds) (hop : c.op = .fsend ∨ c.op = .frecv) (hst : c.st = .queued ∨ c.st = .running)
    (howner : s.fabric.owner = some c.ctx) : (s.cutover new).Withdrawn c := by
  have hnew : (s.fabric.owner == new) = false := beq_eq_false_iff_ne.mpr h
  obtain ⟨hrejected, hkeyless, hslotless⟩ :=
    State.withdrawAll_withdrawn (p := fun c => s.fabric.owner == some c.ctx) hmem hop hst (beq_iff_eq.mpr howner)
  unfold State.cutover
  dsimp only
  rw [hnew]
  exact ⟨hrejected, hkeyless, hslotless⟩

end

theorem timedSends : Claims.TimedSends := by
  refine ⟨relayForward_spec, fun _ _ _ => frecvKeyExpiry_spec,
    fun s cmd c hc hop hrun => ⟨fun t ht hsent => ?_, fsendTurnEnd_spec hc hop hrun⟩, fun s new hnext hcyc => ?_⟩
  · exact ⟨exec_fsendFlitDeparture_before hc hop hrun ht hsent, exec_fsendFlitDeparture_last hc hop hrun ht hsent⟩
  · refine ⟨_, exec_timedOwnerCutover hnext hcyc, rfl, rfl, State.cutover_same, fun hne => ?_⟩
    obtain ⟨hrelays, huse⟩ := State.cutover_relays hne
    refine ⟨hrelays, huse, fun c hmem hop hst howner => ?_⟩
    obtain ⟨hrejected, hkeyless, hslotless⟩ := State.cutover_withdrawn hne hmem hop hst howner
    exact ⟨hrejected, hkeyless, hslotless⟩

/-- Settles O54: the arrivals by the receive they find, the rest of timed traffic by its events. -/
theorem timedTransfers : Obligations.TimedTransfers := ⟨timedArrivals, timedSends⟩

end Sys2Proof.Machine

/-! # O55: untimed requests of peers, and of this device -/

namespace Sys2Proof.Machine

/-! ### Reads of peers -/

/-- A peer's stream once a read of it has been taken: it goes on where the read is its next request, and stands where it is a duplicate
(R274, R276). -/
def State.readTaken (s : State) (r : UntimedRequest) : State :=
  if r.sseq = s.fabric.expected r then { s with fabric := s.fabric.advance r } else s

@[simp] theorem State.readTaken_context (s : State) (r : UntimedRequest) (i : Nat) : (s.readTaken r).context i = s.context i := by
  unfold State.readTaken
  split <;> rfl

/-- What a read of a peer answers: the bytes and their poison, or the check that fails (R272). -/
def State.readReplied (s : State) (x : Context) (r : UntimedRequest) : Except Nat WinGot → State
  | .ok g => (s.noteForeign x g.touched).answer r 0 false (bytesOf r.size g.val) (g.poisBits r.off r.size)
  | .error k => s.answer r (failStatus k) false [] []

section
variable {s : State} {r : UntimedRequest} (haccepts : s.accepts r = true) (hturn : seqAhead (s.fabric.expected r) r.sseq = false)
include haccepts hturn

theorem exec_untimedReadRequest_contextless (hctx : s.context r.ctx = none) :
    exec (.untimedReadRequest r) s = .next ((s.readTaken r).answer r (failStatus 1) false [] []) := by
  rw [exec, execUntimedReadRequest, haccepts, hturn]
  dsimp only
  rw [← State.readTaken, State.readTaken_context, hctx]
  rfl

theorem exec_untimedReadRequest {x : Context} (hctx : s.context r.ctx = some x) {got : Except Nat WinGot}
    (hread : (s.readTaken r).windowRead x r.win r.off r.size 0 (some r.src) = got) :
    exec (.untimedReadRequest r) s = .next ((s.readTaken r).readReplied x r got) := by
  rw [exec, execUntimedReadRequest, haccepts, hturn]
  dsimp only
  rw [← State.readTaken, State.readTaken_context, hctx]
  dsimp only
  rw [hread]
  cases got <;> rfl

end

/-! ### Writes and atomics of peers -/

/-- A peer's stream goes on by one request. -/
def State.advanced (s : State) (r : UntimedRequest) : State := { s with fabric := s.fabric.advance r }

/-- The answer to a request that has had its effect: it leaves when it can, and stands for a duplicate (R272, R276). -/
def State.replied (r : UntimedRequest) (res : State × BitVec 8 × Bool × List Byte) : State :=
  (res.1.answer r res.2.1 res.2.2.1 res.2.2.2 []).remember r res.2.1 res.2.2.1 res.2.2.2

section
variable {s : State} {r : UntimedRequest} (haccepts : s.accepts r = true) (hnext : r.sseq = s.fabric.expected r)
include haccepts hnext

theorem State.perform_next (f : State → State × BitVec 8 × Bool × List Byte) : s.perform r f = State.replied r (f (s.advanced r)) :=
  State.perform_of_expected f haccepts hnext

variable {res : State × BitVec 8 × Bool × List Byte}

theorem exec_untimedWriteRequest_next (h : (s.advanced r).performWrite r = res) : exec (.untimedWriteRequest r) s = .next (State.replied r res) :=
  h ▸ congrArg _ (State.perform_next haccepts hnext _)

theorem exec_untimedAtomicRequest_next (h : (s.advanced r).performAtomic r = res) : exec (.untimedAtomicRequest r) s = .next (State.replied r res) :=
  h ▸ congrArg _ (State.perform_next haccepts hnext _)

end

/-- A request that is not accepted, or is ahead of its stream, does nothing (R254, R274, R277). -/
theorem State.perform_dropped {s : State} {r : UntimedRequest} (h : s.accepts r = false ∨ seqAhead (s.fabric.expected r) r.sseq = true)
    (f : State → State × BitVec 8 × Bool × List Byte) : s.perform r f = s :=
  if_pos (by rcases h with h | h <;> simp [h])

/-- What a write of a peer answers: status 0, or that of the check that fails (R272). -/
def State.writeResult (s : State) : Except Nat State → State × BitVec 8 × Bool × List Byte
  | .ok u => (u, 0, false, [])
  | .error k => (s, failStatus k, false, [])

/-- What an atomic of a peer answers: the old word, that its target is poisoned, or the check that fails (R272, R378). -/
def State.atomicResult (s : State) : Except Nat (State × Option Word) → State × BitVec 8 × Bool × List Byte
  | .ok (u, some old) => (u, 0, false, bytesOf 8 old.toNat)
  | .ok (u, none) => (u, 0, true, [])
  | .error k => (s, failStatus k, false, [])

section
variable {s : State} {r : UntimedRequest}

theorem State.performWrite_contextless (hctx : s.context r.ctx = none) : s.performWrite r = (s, failStatus 1, false, []) := by
  rw [State.performWrite, hctx]

theorem State.performAtomic_contextless (hctx : s.context r.ctx = none) : s.performAtomic r = (s, failStatus 1, false, []) := by
  rw [State.performAtomic, hctx]

variable {x : Context} (hctx : s.context r.ctx = some x)
include hctx

theorem State.performWrite_plain (hbody : r.body = .plain) :
    s.performWrite r = s.writeResult (s.windowWrite x r.win r.off 1 (some r.src) r.data r.mask (poisAt r.pois)) := by
  rw [State.performWrite, hctx]
  dsimp only
  rw [hbody]
  dsimp only
  cases s.windowWrite x r.win r.off 1 (some r.src) r.data r.mask (poisAt r.pois) <;> rfl

theorem State.performWrite_element {fmt rop alpha : Nat} (hbody : r.body = .element fmt rop alpha) :
    s.performWrite r = s.writeResult (s.windowElement x r.win r.off (some r.src) { fmt, rop, alpha } (natOf r.data) (r.pois.any id)) := by
  rw [State.performWrite, hctx]
  dsimp only
  rw [hbody]
  dsimp only
  cases s.windowElement x r.win r.off (some r.src) { fmt, rop, alpha } (natOf r.data) (r.pois.any id) <;> rfl

theorem State.performAtomic_sound (hsize : r.size = 8) (halign : r.off % 8 = 0) (hop : r.op ≤ 9) :
    s.performAtomic r = s.atomicResult (s.windowAtomic x r.win r.off r.op (some r.src) r.x r.cmp) := by
  rw [State.performAtomic, hctx]
  dsimp only
  rw [if_neg (by simpa [hsize, halign] using hop)]
  rcases s.windowAtomic x r.win r.off r.op (some r.src) r.x r.cmp with k | ⟨u, _ | old⟩ <;> rfl

/-- Of another size, misaligned, or of no operation: nothing is done (log 17). -/
theorem State.performAtomic_malformed (hbad : r.size ≠ 8 ∨ r.off % 8 ≠ 0 ∨ 9 < r.op) : s.performAtomic r = (s, failStatus 6, false, []) := by
  rw [State.performAtomic, hctx]
  exact if_pos (by simpa [or_assoc] using hbad)

end

/-! ### Collective messages and barriers of peers -/

/-- An arrival of a member of a group of a context that is there is performed in the order of its stream (R274, R355). -/
theorem exec_barrierRequest {s : State} {h : MessageHead} {ctx group : Nat} (hctx : (s.context ctx).isSome = true)
    (hgroup : s.inGroup ctx group h.src = true) (count : Nat) : exec (.barrierRequest h ctx group count) s =
      .next (s.perform (barrierMessage h ctx group count) fun u =>
        ({ u with fabric := { u.fabric with barriers := u.fabric.barriers ++ [(h.src, ctx, group, count)] } }, 0, false, [])) := by
  rw [exec, execBarrierRequest]
  exact if_neg (by simp [hgroup, Option.isSome_iff_ne_none.mp hctx])

section
variable {s : State} {r : UntimedRequest} (h : s.accepts r = false ∨ seqAhead (s.fabric.expected r) r.sseq = true)
include h

theorem exec_untimedReadRequest_dropped : exec (.untimedReadRequest r) s = .next s := by
  rw [exec, execUntimedReadRequest]
  exact if_pos (by rcases h with h | h <;> simp [h])

theorem exec_collectiveRequest_dropped : exec (.collectiveRequest r) s = .next s := by
  rw [exec, execCollectiveRequest]
  cases r.body with
  | collective q =>
    dsimp only
    split
    · rfl
    · rw [State.perform_dropped h]
  | _ => rfl

theorem exec_barrierRequest_dropped {head : MessageHead} {group count : Nat} (hr : r = barrierMessage head r.ctx group count) :
    exec (.barrierRequest head r.ctx group count) s = .next s := by
  rw [exec, execBarrierRequest, ← hr, State.perform_dropped h]
  exact ite_self _

end

theorem peerRequests : Claims.PeerRequests := by
  refine ⟨fun s r haccepts hturn => ⟨exec_untimedReadRequest_contextless haccepts hturn, fun x hctx =>
      ⟨fun _ => exec_untimedReadRequest haccepts hturn hctx, fun _ => exec_untimedReadRequest haccepts hturn hctx⟩⟩,
    fun s r haccepts hnext => ?_, fun s r haccepts hdup hturn => ⟨?_, ?_, fun q hq => ?_⟩,
    fun s r status bad data pois => ⟨_, rfl, rfl, rfl, rfl, rfl, rfl, rfl, rfl, rfl, rfl⟩, fun s r hdrop =>
      ⟨exec_untimedReadRequest_dropped hdrop, congrArg _ (State.perform_dropped hdrop _), congrArg _ (State.perform_dropped hdrop _),
        exec_collectiveRequest_dropped hdrop, fun h group count => exec_barrierRequest_dropped hdrop⟩⟩
  · have hwrite {res} := exec_untimedWriteRequest_next haccepts hnext (res := res)
    have hatomic {res} := exec_untimedAtomicRequest_next haccepts hnext (res := res)
    refine ⟨fun hctx => ?_, fun x hctx => ⟨fun hbody => ?_, fun fmt rop alpha hbody => ?_, fun hsize halign hop => ?_, fun hbad => ?_,
      fun q hbody hdev hqctx hgroup => ?_, fun h group count hr hgroup => ⟨_, ?_, rfl⟩⟩⟩
    · exact ⟨hwrite (State.performWrite_contextless hctx), hatomic (State.performAtomic_contextless hctx)⟩
    · have hplain := State.performWrite_plain (s := s.advanced r) hctx hbody
      exact ⟨fun u hu => hwrite (hplain.trans (congrArg _ hu)), fun k hk => hwrite (hplain.trans (congrArg _ hk))⟩
    · have helement := State.performWrite_element (s := s.advanced r) hctx hbody
      exact ⟨fun u hu => hwrite (helement.trans (congrArg _ hu)), fun k hk => hwrite (helement.trans (congrArg _ hk))⟩
    · have hsound := State.performAtomic_sound (s := s.advanced r) hctx hsize halign hop
      exact ⟨fun u old hu => hatomic (hsound.trans (congrArg _ hu)), fun u hu => hatomic (hsound.trans (congrArg _ hu)),
        fun k hk => hatomic (hsound.trans (congrArg _ hk))⟩
    · exact hatomic (State.performAtomic_malformed hctx hbad)
    · have hexec := exec_collectiveRequest hbody hdev hqctx (by rw [hqctx, hctx]; rfl) (by rw [hqctx, hdev]; exact hgroup)
      exact hexec.trans (congrArg _ (State.perform_next haccepts hnext _))
    · have hsrc : r.src = h.src := congrArg UntimedRequest.src hr
      have hexec := exec_barrierRequest (by rw [hctx]; rfl) (hsrc ▸ hgroup) count
      rw [← hr, ← hsrc] at hexec
      exact hexec.trans (congrArg _ (State.perform_next haccepts hnext _))
  · exact congrArg _ (State.perform_of_duplicate _ haccepts hturn hdup)
  · exact congrArg _ (State.perform_of_duplicate _ haccepts hturn hdup)
  · rw [State.answerAgain, hq]

/-! ### Requests of this device -/

section
variable {s : State} {r : UntimedReply} {o : Outstanding} (hfind : s.fabric.outstanding.find? (·.id == r.req) = some o)
include hfind

/-- The oldest request of its stream takes its response (R274, R276). -/
theorem exec_untimedResponse (hjoined : s.fabric.joined = true) (hinc : r.inc = o.inc) (hpeer : SMap.get 0 s.fabric.peers o.dev = r.inc)
    (htried : o.tried = true) (holdest : (s.fabric.outstanding.takeWhile (·.id != o.id)).any o.sameStream = false) :
    exec (.untimedResponse r) s = .next (({ s with fabric := { s.fabric with
      outstanding := s.fabric.outstanding.filter (·.id != o.id) } } : State).deliverReply o r) := by
  rw [exec, execUntimedResponse, hfind]
  exact if_neg (by simp only [hjoined, hinc, hpeer.trans hinc, htried, holdest]; simp)

theorem exec_untimedResponse_dropped (h : r.inc ≠ o.inc ∨ o.tried = false) : exec (.untimedResponse r) s = .next s := by
  rw [exec, execUntimedResponse, hfind]
  exact if_pos (by rcases h with h | h <;> simp [h])

end

/-- The outstanding requests are others. -/
def State.withOutstanding (s : State) (l : List Outstanding) : State := { s with fabric := { s.fabric with outstanding := l } }

/-- Requests once the timer of request `id` is extended to a cycle (R276). -/
def extendTimer (id deadline : Nat) (q : Outstanding) : Outstanding := if q.id = id then { q with deadline, extended := true } else q

/-- A request that waits to be sent again, its timer anew (R276). -/
def Outstanding.resend (q : Outstanding) (deadline : Nat) : Outstanding :=
  { q with deadline, extended := false, sent := false, resent := q.resent + 1 }

/-- A request once `o` and the requests of its stream among `later` are to be sent again (R276). -/
def Outstanding.resendAmong (o : Outstanding) (later : List Nat) (deadline : Nat) (q : Outstanding) : Outstanding :=
  if o.sameStream q && later.contains q.id then
    { q with deadline, extended := false, sent := false, resent := if q.id == o.id then q.resent + 1 else q.resent }
  else q

/-- The requests once `o` and the later ones of its stream are to be sent again. -/
def resendFrom (o : Outstanding) (deadline : Nat) (l : List Outstanding) : List Outstanding :=
  l.map (o.resendAmong ((l.dropWhile (·.id != o.id)).map (·.id)) deadline)

@[simp] theorem Outstanding.sameStream_self (o : Outstanding) : o.sameStream o = true := by simp [Outstanding.sameStream]

@[simp] theorem Outstanding.resendAmong_id (o : Outstanding) (later : List Nat) (deadline : Nat) (q : Outstanding) :
    (o.resendAmong later deadline q).id = q.id := by
  unfold Outstanding.resendAmong
  split <;> rfl

theorem Outstanding.resendAmong_self {o : Outstanding} {later : List Nat} (h : o.id ∈ later) (deadline : Nat) :
    o.resendAmong later deadline o = o.resend deadline := by
  simp [Outstanding.resendAmong, Outstanding.resend, h]

theorem Outstanding.resendAmong_other {o q : Outstanding} (h : o.sameStream q = false) (later : List Nat) (deadline : Nat) :
    o.resendAmong later deadline q = q := by
  simp [Outstanding.resendAmong, h]

/-- A request that stands in a list is among those from itself on. -/
theorem mem_dropWhile_id {o : Outstanding} {l : List Outstanding} (h : l.find? (·.id == o.id) = some o) :
    o.id ∈ (l.dropWhile (·.id != o.id)).map (·.id) := by
  induction l with
  | nil => cases h
  | cons q l ih =>
    by_cases hq : q.id = o.id
    · simp [hq]
    · rw [List.find?_cons_of_neg (by simpa using hq)] at h
      rw [List.dropWhile_cons_of_pos (by simpa using hq)]
      exact ih h

/-- The request itself is found as one that is to be sent again. -/
theorem find_resendFrom {o : Outstanding} {l : List Outstanding} (h : l.find? (·.id == o.id) = some o) (deadline : Nat) :
    (resendFrom o deadline l).find? (·.id == o.id) = some (o.resend deadline) := by
  have hid (later : List Nat) : (fun q => q.id == o.id) ∘ o.resendAmong later deadline = fun q => q.id == o.id := by
    funext q
    simp
  rw [resendFrom, List.find?_map, hid, h, Option.map_some, Outstanding.resendAmong_self (mem_dropWhile_id h)]

/-- The requests of other streams stand as they were. -/
theorem mem_resendFrom {o q : Outstanding} {l : List Outstanding} (hq : q ∈ l) (hother : o.sameStream q = false) (deadline : Nat) :
    q ∈ resendFrom o deadline l :=
  List.mem_map.mpr ⟨q, hq, Outstanding.resendAmong_other hother _ _⟩

theorem resendFrom_singleton (o : Outstanding) (deadline : Nat) : resendFrom o deadline [o] = [o.resend deadline] := by
  rw [resendFrom, List.map_singleton, Outstanding.resendAmong_self (by simp)]

section
variable {s : State} {o : Outstanding} {replaying : Bool} (hfind : s.fabric.outstanding.find? (·.id == o.id) = some o) (hdue : o.deadline ≤ s.cyc)
  (htimer : s.fabric.joined = false ∨ o.sent = true)
include hfind hdue htimer

/-- A timer that has run out is extended, or its request is sent again, or fails (R276). -/
theorem exec_untimedTimeout : exec (.untimedTimeout o.id replaying) s = .next (
    if replaying && !o.extended then s.withOutstanding (s.fabric.outstanding.map (extendTimer o.id (s.cyc + 8 * s.fabric.round)))
    else if o.resent < 3 then (s.withOutstanding (resendFrom o (s.cyc + 8 * s.fabric.round) s.fabric.outstanding)).pump
    else (s.withOutstanding (s.fabric.outstanding.filter (·.id != o.id))).requestFails o) := by
  have hruns : ¬(decide (s.cyc < o.deadline) || (s.fabric.joined && !o.sent)) = true := by
    rcases htimer with h | h <;> simp [h, hdue]
  have hextend : extendTimer o.id (s.cyc + 8 * s.fabric.round) =
      fun q => if q.id == o.id then { q with deadline := s.cyc + 8 * s.fabric.round, extended := true } else q := by
    funext q
    simp [extendTimer]
  rw [exec, execUntimedTimeout, hfind]
  dsimp only
  rw [if_neg hruns, hextend]
  split
  · rfl
  · split <;> rfl

end

/-- A request of a command without a barrier, a counter or a migration faults its command when it fails (R276). -/
theorem State.requestFails_command {s : State} {o : Outstanding} {c : Cmd} (hbody : o.req.body = .plain) (hwhat : ∀ a, o.what ≠ .counter a)
    (hcmd : s.cmd o.cmd = some c) (hown : o.cmd ≠ 0) (hst : c.st ≠ .faulted) :
    s.requestFails o = s.commandFault c (.of .engFabTimeout .access 0) := by
  have hpulls : o.pulls = false := by simp [Outstanding.pulls, hown]
  have hfaults : s.accessRaise o.cmd (.of .engFabTimeout .access 0) = s.commandFault c (.of .engFabTimeout .access 0) := by
    rw [State.accessRaise, hcmd]
    exact if_neg (by simpa using hst)
  rw [State.requestFails, hbody]
  dsimp only
  rw [hpulls, if_neg Bool.false_ne_true]
  split
  · next a ha => exact absurd ha (hwhat a)
  · rw [if_pos (by rw [hcmd]; rfl), hfaults]

/-! ### What leaves: requests and responses -/

@[simp] theorem State.leftFor_out (s : State) (o : Outstanding) : (s.leftFor o).out = s.out := by
  unfold State.leftFor State.stepped
  split
  · split <;> rfl
  · rfl

theorem State.sendNow_out (s : State) (o : Outstanding) :
    (s.sendNow o).out = s.out ++ [.untimed o.dev (s.fabric.via o) o.req (!o.write)] :=
  congrArg (fun l => l ++ [Output.untimed o.dev (s.fabric.via o) o.req (!o.write)]) (s.leftFor_out o)

/-- The one request outstanding leaves where it may (R275). -/
theorem State.pump_singleton_out {s : State} {o : Outstanding} (hone : s.fabric.outstanding = [o]) (hwaits : o.sent = false)
    (hmay : s.maySend o = true) : s.pump.out = s.out ++ [.untimed o.dev (s.fabric.via o) o.req (!o.write)] := by
  rw [State.pump, hone, List.foldl_cons, List.foldl_nil, if_pos (by simp [hwaits, hmay]), State.sendNow_out]

theorem State.pump_of_none {s : State} (h : s.fabric.outstanding = []) : s.pump = s := by
  rw [State.pump, h, List.foldl_nil]

section
variable {s : State} {r : ReplyHeld} (hnone : s.fabric.outstanding = []) (hone : s.fabric.replies = [r])
include hnone hone

theorem State.pumpAll_singleton : s.pumpAll = State.pumpReplies [r] s [] := by
  rw [State.pumpAll, State.pump_of_none hnone, hone]
  rfl

/-- A response whose path is not open stays (R275). -/
theorem State.pumpAll_closed (hopen : s.openTo (s.replyVia r) r.dev r.flits = false) : s.pumpAll = s := by
  rw [State.pumpAll_singleton hnone hone, State.pumpReplies, hopen, Bool.false_and, if_neg Bool.false_ne_true, State.pumpReplies, List.nil_append,
    ← hone]

/-- A response leaves when its path is open (R275). -/
theorem State.pumpAll_open (hopen : s.openTo (s.replyVia r) r.dev r.flits = true) :
    s.pumpAll.fabric.replies = [] ∧ s.pumpAll.out = s.out ++ [.reply r.dev r.reply r.cls r.sseq] := by
  rw [State.pumpAll_singleton hnone hone, State.pumpReplies, hopen, List.any_nil, Bool.not_false, Bool.and_self, if_pos rfl]
  exact ⟨rfl, rfl⟩

end

/-! ### Flits that this device forwards -/

/-- `dropFirst` is the library's `List.eraseP`. -/
theorem dropFirst_eq_eraseP {α : Type} (p : α → Bool) (l : List α) : dropFirst p l = l.eraseP p := by
  induction l with
  | nil => rfl
  | cons a l ih => rw [dropFirst, List.eraseP_cons, ih, Bool.cond_eq_ite]

/-- What is oldest of a pair's flits in the relay buffer leaves for its destination, and gives its source the credit back (R257, R275). -/
def State.relayOut (s : State) (r x : RelayedFlits) : State :=
  let f := s.fabric
  let p := f.portTo x.dst
  let l := x.flits.map (relayFlit (f.pairKey x.dst))
  { s with
    fabric := { ((f.takeSlots p s.cyc l.length).keepUntimed p (s.cyc / 4096) l) with
      untimedRelay := dropFirst (fun y => y.src == r.src && y.dst == r.dst) f.untimedRelay }
    out := s.out ++ [.relayed p x l, .credit x.src l.length] }

theorem State.relayOut_out (s : State) (r x : RelayedFlits) : (s.relayOut r x).out = s.out ++
    [.relayed (s.fabric.portTo x.dst) x (x.flits.map (relayFlit (s.fabric.pairKey x.dst))), .credit x.src x.flits.length] := by
  rw [State.relayOut, List.length_map]

theorem State.relayOut_untimedRelay (s : State) (r x : RelayedFlits) :
    (s.relayOut r x).fabric.untimedRelay = s.fabric.untimedRelay.eraseP fun y => y.src == r.src && y.dst == r.dst :=
  dropFirst_eq_eraseP ..

section
variable {s : State} {r : RelayedFlits} (hjoined : s.fabric.joined = true)
include hjoined

/-- The credit of this device at an intermediate one is back (R275). -/
theorem exec_untimedRelayForward_credit (hsrc : r.src = s.fabric.devid) (hcredit : r.credit = true)
    (hpeer : SMap.get 0 s.fabric.peers r.via = r.inc) : exec (.untimedRelayForward r) s = .next (({ s with fabric := { s.fabric with
      credit := SMap.set 0 s.fabric.credit r.via (SMap.get 0 s.fabric.credit r.via - r.flits.length) } } : State).pump) := by
  rw [exec, execUntimedRelayForward]
  dsimp only
  rw [if_neg (by simp [hjoined]), if_pos hsrc, if_pos (by simpa [hcredit] using hpeer)]

/-- What another incarnation of the intermediate device says of credit is dropped (R277). -/
theorem exec_untimedRelayForward_stale_via (hsrc : r.src = s.fabric.devid) (hpeer : SMap.get 0 s.fabric.peers r.via ≠ r.inc) :
    exec (.untimedRelayForward r) s = .next s := by
  rw [exec, execUntimedRelayForward]
  dsimp only
  rw [if_neg (by simp [hjoined]), if_pos hsrc, if_neg fun h => hpeer (by simpa using (Bool.and_eq_true_iff.mp h).2)]

variable (hsrc : r.src ≠ s.fabric.devid)
include hsrc

/-- Flits of another incarnation of their source are dropped (R277). -/
theorem exec_untimedRelayForward_stale_src (hpeer : SMap.get 0 s.fabric.peers r.src ≠ r.inc) : exec (.untimedRelayForward r) s = .next s := by
  rw [exec, execUntimedRelayForward]
  dsimp only
  rw [if_neg (by simp [hjoined]), if_neg hsrc, if_pos (Bool.or_eq_true_iff.mpr (.inr (decide_eq_true hpeer)))]

variable (hvia : r.via = s.fabric.devid) (hdst : r.dst ≠ s.fabric.devid) (hpeer : SMap.get 0 s.fabric.peers r.src = r.inc)
include hvia hdst hpeer

/-- Flits of another pair enter the relay buffer (R266, R275). -/
theorem exec_untimedRelayForward_enter (hcredit : r.credit = false) : exec (.untimedRelayForward r) s =
    .next { s with fabric := { s.fabric with untimedRelay := s.fabric.untimedRelay ++ [r] } } := by
  rw [exec, execUntimedRelayForward]
  dsimp only
  rw [if_neg (by simp [hjoined]), if_neg hsrc, if_neg (by simpa [hvia, hdst] using hpeer), if_pos (by simp [hcredit])]

variable {x : RelayedFlits} (hcredit : r.credit = true)
  (hfind : s.fabric.untimedRelay.find? (fun y => y.src == r.src && y.dst == r.dst) = some x)
include hcredit hfind

/-- The oldest flits of a pair leave where this device meets their destination and the turn has slots for them, and wait otherwise (R256, R275). -/
theorem exec_untimedRelayForward_oldest : exec (.untimedRelayForward r) s = .next (
    if s.fabric.meets s.cyc x.dst && s.fabric.roomFor (s.fabric.portTo x.dst) s.cyc x.flits.length then s.relayOut r x else s) := by
  rw [exec, execUntimedRelayForward]
  dsimp only
  rw [if_neg (by simp [hjoined]), if_neg hsrc, if_neg (by simpa [hvia, hdst] using hpeer), if_neg (by simp [hcredit]), hfind]
  dsimp only
  split <;> rfl

end

theorem ownRequests : Claims.OwnRequests := by
  refine ⟨fun s r o hfind => ⟨exec_untimedResponse hfind, exec_untimedResponse_dropped hfind⟩,
    fun s o replaying hfind hdue htimer => ?_,
    fun s r hnone hone => ⟨State.pumpAll_closed hnone hone, State.pumpAll_open hnone hone⟩,
    fun s r hjoined => ⟨exec_untimedRelayForward_credit hjoined, exec_untimedRelayForward_stale_via hjoined,
      exec_untimedRelayForward_stale_src hjoined, fun hsrc hvia hdst hpeer =>
        ⟨exec_untimedRelayForward_enter hjoined hsrc hvia hdst hpeer, fun x hcredit hfind => ?_⟩⟩⟩
  · have hexec := exec_untimedTimeout hfind hdue htimer (replaying := replaying)
    have hover (h : replaying = false ∨ o.extended = true) : ¬(replaying && !o.extended) = true := by rcases h with h | h <;> simp [h]
    refine ⟨fun hreplaying hfresh => ?_, fun hresend hleft => ?_, fun hresend hspent => ?_⟩
    · rw [hexec, if_pos (by simp [hreplaying, hfresh])]
      rfl
    · rw [hexec, if_neg (hover hresend), if_pos hleft]
      refine ⟨_, rfl, rfl, congrArg _ (find_resendFrom hfind _), fun q hq hother => mem_resendFrom hq hother _, fun hone hmay => ?_⟩
      have hagain := (congrArg (resendFrom o (s.cyc + 8 * s.fabric.round)) hone).trans (resendFrom_singleton o _)
      exact ⟨_, State.pump_singleton_out (o := o.resend (s.cyc + 8 * s.fabric.round)) hagain rfl hmay⟩
    · rw [hexec, if_neg (hover hresend), if_neg hspent.not_gt]
      exact ⟨rfl, fun hbody hwhat c hcmd hown hst => congrArg _ (State.requestFails_command hbody hwhat hcmd hown hst)⟩
  · have hexec := exec_untimedRelayForward_oldest hjoined hsrc hvia hdst hpeer hcredit hfind
    refine ⟨fun hmeets hroom => ⟨s.relayOut r x, ?_, s.relayOut_out r x, ?_, fun y hy => ?_⟩, fun hclosed => ?_⟩
    · rw [hexec, hmeets, hroom]
      rfl
    · have hx : x ∈ s.fabric.untimedRelay := List.mem_of_find?_eq_some hfind
      rw [s.relayOut_untimedRelay, List.length_eraseP_of_mem hx (List.find?_some hfind), Nat.sub_add_cancel (List.length_pos_of_mem hx)]
    · exact List.mem_of_mem_eraseP (s.relayOut_untimedRelay r x ▸ hy)
    · rw [hexec, if_neg (by rcases hclosed with h | h <;> simp [h])]

/-- Settles O55: the requests of peers by what each answers, and this device's by their timers, their responses and their path. -/
theorem untimedTraffic : Obligations.UntimedTraffic := ⟨peerRequests, ownRequests⟩

end Sys2Proof.Machine

/-! # O56: links and their retry buffers, incarnations, beacons and the end of a round -/

namespace Sys2Proof.Machine

/-! ### Links -/

/-- An acknowledgement that covers a flit the link still holds frees what it covers (R259). -/
theorem State.acknowledge_new {s : State} {port link ack : Nat} (h : ∃ x ∈ (s.fabric.retryOf port link).2, x.num < ack) :
    s.acknowledge port link ack = { s with fabric := s.fabric.setRetry port link ((s.fabric.retryOf port link).1,
      (s.fabric.retryOf port link).2.filter fun x => decide (ack ≤ x.num)) } := by
  have hless : ((s.fabric.retryOf port link).2.filter fun x => decide (ack ≤ x.num)).length < (s.fabric.retryOf port link).2.length := by
    simpa [List.length_filter_lt_length_iff_exists] using h
  rw [State.acknowledge]
  dsimp only
  rw [if_pos hless]

/-- One that brings nothing new has all that the link holds sent again (R259; log 88). -/
theorem State.acknowledge_old {s : State} {port link ack : Nat} (h : ∀ x ∈ (s.fabric.retryOf port link).2, ack ≤ x.num) :
    s.acknowledge port link ack = { s with fabric := s.fabric.setRetry port link ((s.fabric.retryOf port link).1,
      (s.fabric.retryOf port link).2.map fun x => { x with again := true }) } := by
  have hall : ((s.fabric.retryOf port link).2.filter fun x => decide (ack ≤ x.num)) = (s.fabric.retryOf port link).2 :=
    List.filter_eq_self.mpr (by simpa using h)
  rw [State.acknowledge]
  dsimp only
  rw [hall, if_neg (lt_irrefl _)]

section
variable {s : State} {port link : Nat} {ack : LinkAck}

theorem exec_linkControlFlit (hport : port < 16) (hlink : link < 4) (hjoined : s.fabric.joined = true)
    (hpeer : SMap.get 0 s.fabric.peers (s.fabric.facing (s.cyc / 4096) port) = ack.inc) :
    exec (.linkControlFlit port link ack) s = .next (s.acknowledge port link ack.num) := by
  rw [exec, execLinkControlFlit, if_pos (by simpa [hport, hlink, hjoined] using hpeer)]

/-- Out of a domain, or of another incarnation of the device that the port faces, it is dropped (R277). -/
theorem exec_linkControlFlit_dropped
    (h : s.fabric.joined = false ∨ SMap.get 0 s.fabric.peers (s.fabric.facing (s.cyc / 4096) port) ≠ ack.inc) :
    exec (.linkControlFlit port link ack) s = .next s := by
  rw [exec, execLinkControlFlit, if_neg fun hruns => ?_]
  simp only [Bool.and_eq_true, decide_eq_true_eq] at hruns
  obtain ⟨⟨⟨hjoined, -⟩, -⟩, hpeer⟩ := hruns
  rcases h with h | h
  · simp [h] at hjoined
  · exact h hpeer

end

/-! ### What the end of traffic leaves as it was: the device's counter, the incarnations and the offsets of its peers -/

/-- The device's counter, the incarnations it has recorded, and the offsets of the round. -/
def State.bearings (s : State) : Nat × SMap (BitVec 16) × List Int := (s.cyc, s.fabric.peers, s.fabric.offsets)

theorem HbmOnly.bearings {s u : State} (h : HbmOnly s u) : u.bearings = s.bearings := by
  obtain ⟨_, _, _, _, _, _, _, rfl⟩ := h
  rfl

theorem Fabric.keepUntimed_eq (f : Fabric) (port turn : Nat) (l : List (BitVec 2048)) : ∃ m, f.keepUntimed port turn l = { f with retry := m } := by
  have all (k : Nat) (l : List (BitVec 2048)) (f : Fabric) :
      ∃ m, l.foldl (fun f x => f.keepFlit port k false turn false x) f = { f with retry := m } := by
    induction l generalizing f with
    | nil => exact ⟨f.retry, rfl⟩
    | cons x l ih => exact ih (f.keepFlit port k false turn false x)
  unfold Fabric.keepUntimed
  split
  · exact all _ l f
  · exact ⟨f.retry, rfl⟩

theorem Fabric.takeSlots_eq (f : Fabric) (port cyc n : Nat) : ∃ m, f.takeSlots port cyc n = { f with slotNext := m } := by
  unfold Fabric.takeSlots
  dsimp only
  split
  · exact ⟨f.slotNext, rfl⟩
  · exact ⟨_, rfl⟩

theorem State.bearings_sendUntimed (s : State) (via : Option Nat) (dev : Nat) (l : List (BitVec 1920)) :
    (s.sendUntimed via dev l).bearings = s.bearings := by
  unfold State.sendUntimed
  dsimp only
  obtain ⟨slots, hslots⟩ := s.fabric.takeSlots_eq (s.fabric.portTo (via.getD dev)) s.cyc l.length
  rw [hslots]
  obtain ⟨m, hm⟩ := Fabric.keepUntimed_eq { s.fabric with slotNext := slots } (s.fabric.portTo (via.getD dev)) (s.cyc / 4096)
    (l.map (Config.gcmSeal (s.fabric.pairKey (via.getD dev))))
  rw [hm]
  rfl

theorem State.bearings_leftFor (s : State) (o : Outstanding) : (s.leftFor o).bearings = s.bearings := by
  unfold State.leftFor State.stepped
  split
  · split <;> rfl
  · rfl

theorem State.bearings_sendNow (s : State) (o : Outstanding) : (s.sendNow o).bearings = s.bearings := by
  have sent := State.bearings_sendUntimed (s.leftFor o) (s.fabric.via o) o.dev (untimedText o.req o.dev)
  unfold State.sendNow
  dsimp only
  generalize (s.leftFor o).sendUntimed (s.fabric.via o) o.dev (untimedText o.req o.dev) = u at sent ⊢
  exact sent.trans (s.bearings_leftFor o)

theorem State.bearings_pump (s : State) : s.pump.bearings = s.bearings :=
  State.foldl_keeps (p := State.bearings) (fun u o => by
    split
    · exact u.bearings_sendNow o
    · rfl) _ _

theorem State.bearings_choosePath (s : State) (ctx dev cls : Nat) : (s.choosePath ctx dev cls).bearings = s.bearings := by
  unfold State.choosePath
  split <;> rfl

theorem State.bearings_sendRequest (s : State) (cid ctx dev cls : Nat) (what : ReqKind) (write : Bool) (bytes : Nat) (r : UntimedRequest) :
    (s.sendRequest cid ctx dev cls what write bytes r).bearings = s.bearings :=
  (State.bearings_pump _).trans (s.bearings_choosePath ctx dev cls)

/-- The requests for the granules of a page that is pulled (R150). -/
theorem State.bearings_pulled (s : State) (p : Prop) [Decidable p] (ctx dev page : Nat) :
    (if p then (List.range 1024).foldl (fun s g => s.fetchGranule 0 ctx dev page g) s else s).bearings = s.bearings := by
  split
  · exact State.foldl_keeps (p := State.bearings) (fun _ _ => State.bearings_sendRequest ..) _ s
  · rfl

theorem State.bearings_spendMig (s : State) (ctx : Nat) : (s.spendMig ctx).bearings = s.bearings := by
  unfold State.spendMig
  split <;> rfl

theorem State.bearings_ite {s a b : State} {p : Prop} [Decidable p] (ha : a.bearings = s.bearings) (hb : b.bearings = s.bearings) :
    (if p then a else b).bearings = s.bearings := by
  split
  · exact ha
  · exact hb

theorem State.bearings_idle {s u : State} (h : u.bearings = s.bearings) (m : Migration) :
    ({ u with migration := m } : State).bearings = s.bearings := h

theorem State.bearings_migTry (s : State) (e : BitVec 128) (rest : List (BitVec 128)) : (s.migTry e rest).bearings = s.bearings := by
  -- as in `traffic_migTry`: what the `match` is on is a variable to the kernel
  obtain ⟨mapped, hmapped⟩ : ∃ f, f = State.mapping := ⟨_, rfl⟩
  obtain ⟨target, htarget⟩ : ∃ f, f = State.migTarget := ⟨_, rfl⟩
  unfold State.migTry
  rw [← hmapped, ← htarget]
  dsimp only
  split
  · exact State.bearings_idle rfl _
  · next x _ =>
    refine State.bearings_ite (State.bearings_idle rfl _) ?_
    split
    · exact State.bearings_idle rfl _
    · next d _ =>
      have noted : (s.migNote x d e).bearings = s.bearings := (migNote_hbmOnly s x d e).bearings
      split
      · next f span k new _ _ =>
        refine State.bearings_ite (State.bearings_idle noted _) ?_
        refine State.bearings_ite (State.bearings_idle ((migLog_hbmOnly ..).bearings.trans noted) _) ?_
        refine (State.bearings_pulled ..).trans (State.bearings_idle ?_ _)
        exact (deviceWrite_hbmOnly ..).bearings.trans ((State.bearings_spendMig ..).trans ((setTableWord_hbmOnly ..).bearings.trans noted))
      · exact State.bearings_idle noted _

theorem State.bearings_migNext (l : List (BitVec 128)) (s : State) : (s.migNext l).bearings = s.bearings := by
  induction l generalizing s with
  | nil => rfl
  | cons e l ih =>
    unfold State.migNext
    exact State.bearings_ite (s.bearings_migTry e l) ((ih _).trans (s.bearings_migTry e l))

theorem State.bearings_withOutstanding {s u : State} (h : u.bearings = s.bearings) (l : List Outstanding) :
    ({ u with fabric := { s.fabric with outstanding := l } } : State).bearings = s.bearings :=
  congrArg (fun c => (c, s.fabric.peers, s.fabric.offsets)) (congrArg Prod.fst h)

theorem State.bearings_migFail (s : State) : s.migFail.bearings = s.bearings := by
  unfold State.migFail
  dsimp only
  split
  · next x _ => exact (State.bearings_migNext ..).trans (State.bearings_withOutstanding (setTableWord_hbmOnly s x _ _).bearings _)
  · rfl

theorem State.bearings_finish (s : State) (cid : Nat) (status : BitVec 4) : (s.finish cid status).bearings = s.bearings := by
  unfold State.finish
  split <;> rfl

theorem State.bearings_looseDst (s : State) (c : Cmd) : (s.looseDst c).bearings = s.bearings := by
  unfold State.looseDst
  split
  · dsimp only
    split
    · exact ((writeGranules_hbmOnly ..).trans (writeGranules_hbmOnly ..)).bearings
    · exact (writeGranules_hbmOnly ..).bearings
  · split <;> rfl
  · rfl

theorem State.bearings_wordResult (s : State) (t : Team) (c : Cmd) (mbx : Bool) (m : Nat) (addr : BitVec 28) (bs : List Byte)
    (pois : Nat → Bool) : (s.wordResult t c mbx m addr bs pois).bearings = s.bearings := by
  unfold State.wordResult State.mailbox
  split
  · split <;> rfl
  · rfl

theorem State.bearings_peerReset (s : State) (c : Cmd) : (s.peerReset c).bearings = s.bearings := by
  unfold State.peerReset
  refine (State.bearings_finish ..).trans ?_
  split
  · exact State.bearings_wordResult ..
  · exact State.bearings_wordResult ..
  · exact State.bearings_looseDst ..
  · exact State.bearings_looseDst ..
  · rfl

theorem State.bearings_resetTraffic (s : State) (dev : Option Nat) : (s.resetTraffic dev).bearings = s.bearings := by
  have ended := State.foldl_keeps (p := State.bearings) State.bearings_peerReset (s.cmds.filter fun c => c.st == .running && s.engaged c dev) s
  unfold State.resetTraffic
  dsimp only
  exact State.bearings_ite ((State.bearings_migFail _).trans ended) ended

theorem State.bearings_addRecord (s : State) (ctx : Nat) (p : PendingRecord) : (s.addRecord ctx p).bearings = s.bearings := by
  have counted (u : State) : (u.countRecord p).bearings = u.bearings := by
    unfold State.countRecord
    split
    · rfl
    · dsimp only
      split <;> split <;> rfl
  unfold State.addRecord
  split
  · rfl
  · split
    · rfl
    · exact counted _

theorem State.bearings_takeFault (s : State) (team stopAt : Nat) (l : List (Nat × Nat × Raised × Word)) :
    (s.takeFault team stopAt l).bearings = s.bearings := by
  unfold State.takeFault
  split
  · rfl
  · next t _ =>
    have recorded (l : List (Nat × Nat × Raised × Word)) : (l.foldl (fun s e => s.addRecord t.ctx
        { team := some team, grid := some t.grid, strand := e.1, words := s.strandRecord t e.1 e.2.1 e.2.2.1 e.2.2.2, ready := false,
          keep := e.2.2.1.cause.freezes }) s).bearings = s.bearings :=
      State.foldl_keeps (p := State.bearings) (fun _ _ => State.bearings_addRecord ..) l s
    exact State.bearings_ite (recorded l) (recorded l)

theorem State.bearings_barrierFail (s : State) (p : Nat → Nat → Nat → List Nat → Bool) : (s.barrierFail p).bearings = s.bearings :=
  State.foldl_keeps (p := State.bearings) (fun u _ => State.bearings_ite rfl (u.chosen.bearings_takeFault ..)) _ s

/-! ### A peer's new incarnation -/

/-- The state in which the traffic with a peer has ended (R277). -/
def State.partedFrom (s : State) (dev : Nat) : State := (s.resetTraffic (some dev)).barrierFail fun _ _ _ l => l.contains dev

theorem State.partedFrom_bearings (s : State) (dev : Nat) : (s.partedFrom dev).bearings = s.bearings :=
  (State.bearings_barrierFail ..).trans (State.bearings_resetTraffic ..)

theorem State.peerChange_known {s : State} {dev : Nat} {inc : BitVec 16} (h : SMap.get 0 s.fabric.peers dev = inc) : s.peerChange dev inc = s :=
  if_pos h

/-- Nothing is left of what was received of a peer, or held for it or from it (R277). -/
structure Fabric.Forgets (f : Fabric) (dev : Nat) : Prop where
  incoming : ∀ q ∈ f.incoming, q.dev ≠ dev
  cache : ∀ q ∈ f.cache, q.src ≠ dev
  relays : ∀ q ∈ f.relays, q.a.src ≠ dev
  replies : ∀ q ∈ f.replies, q.dev ≠ dev
  untimedRelay : ∀ q ∈ f.untimedRelay, q.src ≠ dev ∧ q.dst ≠ dev

section
variable {s : State} {dev : Nat} {inc : BitVec 16}

theorem State.peerChange_bearings_of_new (h : SMap.get 0 s.fabric.peers dev ≠ inc) :
    (s.peerChange dev inc).bearings = (s.cyc, SMap.set 0 s.fabric.peers dev inc, s.fabric.offsets) := by
  obtain ⟨hcyc, hrest⟩ := Prod.mk.inj (s.partedFrom_bearings dev)
  obtain ⟨hpeers, hoffsets⟩ := Prod.mk.inj hrest
  rw [State.peerChange, if_neg h, ← hcyc, ← hpeers, ← hoffsets]
  rfl

theorem State.peerChange_forgets (h : SMap.get 0 s.fabric.peers dev ≠ inc) : (s.peerChange dev inc).fabric.Forgets dev := by
  rw [State.peerChange, if_neg h]
  exact {
    incoming := fun q hq => by simpa using (List.mem_filter.mp hq).2
    cache := fun q hq => by simpa using (List.mem_filter.mp hq).2
    relays := fun q hq => by
      have hkept := (List.mem_filter.mp hq).2
      simp only [Bool.and_eq_true, bne_iff_ne] at hkept
      exact hkept.1
    replies := fun q hq => by simpa using (List.mem_filter.mp hq).2
    untimedRelay := fun q hq => by simpa using (List.mem_filter.mp hq).2 }

theorem State.peerChange_cyc_offsets : (s.peerChange dev inc).cyc = s.cyc ∧ (s.peerChange dev inc).fabric.offsets = s.fabric.offsets := by
  by_cases h : SMap.get 0 s.fabric.peers dev = inc
  · rw [State.peerChange_known h]
    exact ⟨rfl, rfl⟩
  · obtain ⟨hcyc, hrest⟩ := Prod.mk.inj (State.peerChange_bearings_of_new h)
    exact ⟨hcyc, (Prod.mk.inj hrest).2⟩

theorem State.peerChange_peers (h : SMap.get 0 s.fabric.peers dev ≠ inc) :
    (s.peerChange dev inc).fabric.peers = SMap.set 0 s.fabric.peers dev inc :=
  congrArg (fun b : Nat × SMap (BitVec 16) × List Int => b.2.1) (State.peerChange_bearings_of_new h)

/-- The incarnation recorded of the peer is the new one (R277). -/
theorem State.get_peerChange (hwf : SMap.wf 0 s.fabric.peers = true) : SMap.get 0 (s.peerChange dev inc).fabric.peers dev = inc := by
  by_cases h : SMap.get 0 s.fabric.peers dev = inc
  · rw [State.peerChange_known h, h]
  · rw [State.peerChange_peers h]
    exact SMap.get_set_same _ _ 0 _ _ hwf

theorem exec_peerIncarnationChange (hjoined : s.fabric.joined = true) (hdev : dev < s.fabric.devices) (hother : dev ≠ s.fabric.devid) :
    exec (.peerIncarnationChange dev inc) s = .next (s.peerChange dev inc) := by
  rw [exec, execPeerIncarnationChange, if_pos (by simp [hjoined, hdev, hother])]

end

/-! ### Beacons -/

/-- The flight times moved, as a change of integers. -/
theorem flightMoved_map (x : Int) (l : List Nat) : l.map (flightMoved x) = (l >>= fun n => pure (n : Int)).map fun n => (n + x).toNat := by
  rw [List.map_eq_flatMap]
  simp [flightMoved, List.map_flatMap]

section
variable {s : State} {port sent : Nat} {inc : BitVec 16} (hjoined : s.fabric.joined = true) (hport : port < 16)
  (hlo : 48 ≤ s.cyc % 4096) (hhi : s.cyc % 4096 < 160)
include hjoined hport hlo hhi

/-- The device's own beacon keeps the flight times current (R255; log 104). -/
theorem exec_beacon_own (hown : s.fabric.facing (s.cyc / 4096) port = s.fabric.devid) :
    exec (.beacon (s.fabric.facing (s.cyc / 4096) port) port sent inc) s = .next { s with fabric := { s.fabric with
      flight := s.fabric.flight.map (flightMoved (((s.cyc - sent : Nat) : Int) - s.fabric.flight.getD 0 0)) } } := by
  rw [exec, execBeacon]
  dsimp only
  rw [if_pos (by simp [hjoined, hport, hlo, hhi]), if_pos hown]

/-- A peer's beacon gives its incarnation and its counter's offset (R255, R277, R278). -/
theorem exec_beacon_peer (hpeer : s.fabric.facing (s.cyc / 4096) port ≠ s.fabric.devid) :
    let u := s.peerChange (s.fabric.facing (s.cyc / 4096) port) inc
    exec (.beacon (s.fabric.facing (s.cyc / 4096) port) port sent inc) s = .next { u with fabric := { u.fabric with
      offsets := s.fabric.offsets ++ [(s.cyc : Int) - sent - s.fabric.flight.getD (16 * (s.cyc / 4096 % s.fabric.turns) + port) 0] } } := by
  obtain ⟨hcyc, hoffsets⟩ := State.peerChange_cyc_offsets (s := s) (dev := s.fabric.facing (s.cyc / 4096) port) (inc := inc)
  rw [exec, execBeacon]
  dsimp only
  rw [if_pos (by simp [hjoined, hport, hlo, hhi]), if_neg hpeer, hoffsets, hcyc]

end

/-! ### The end of a round -/

/-- The round's offsets are spent, and the clock is trimmed by a median of more than 2 (R278). -/
def State.trimmed (s : State) (m : Int) : State :=
  { s with fabric := { s.fabric with offsets := [], trim := if m.natAbs ≤ 2 then s.fabric.trim else s.fabric.trim - m } }

theorem exec_roundEnd {s : State} (hjoined : s.fabric.joined = true) (hend : (s.cyc + 1) % s.fabric.round = 0) :
    let m := median s.fabric.offsets
    exec .roundEnd s = .next (if 16 < m.natAbs then (s.trimmed m).desync m else s.trimmed m) := by
  rw [exec, execRoundEnd, if_pos (by simp [hjoined, hend])]
  rfl

/-- The state in which a device has left its domain, with its traffic ended. -/
def State.outsideDomain (s : State) : State :=
  (({ s with fabric := { s.fabric with joined := false, replies := [] } } : State).withdrawAll fun _ => true).resetTraffic none

theorem State.outsideDomain_spec (s : State) : s.outsideDomain.fabric.joined = false ∧ ∀ c ∈ s.outsideDomain.cmds, c.timedOpen = false := by
  obtain ⟨hleft, hclosed⟩ := State.withdrawAll_spec { s with fabric := { s.fabric with joined := false, replies := [] } } ⟨rfl, rfl⟩
  obtain ⟨⟨hjoined, -⟩, -, hcmds⟩ := State.resetTraffic_spec _ hleft hclosed
  exact ⟨hjoined, hcmds⟩

/-- The contexts with a team in a fabric-timed section have the loss of alignment recorded (R278). -/
def State.desyncLogged (s : State) (m : Int) : State :=
  (s.contexts.filter fun x => s.teams.any fun t => t.ctx == x.num && s.inFabricSection t.id).foldl (fun s x =>
    s.logEvent x.num none (s.plainRecord x.num { Raised.of .eventDesync .outside 0 with detail := BitVec.ofInt 64 m })) s

theorem State.desync_eq (s : State) (m : Int) : s.desync m = { (s.desyncLogged m).outsideDomain with
    out := (s.desyncLogged m).outsideDomain.out ++ [.report "desync" m.natAbs (if m < 0 then 1 else 0)] } := rfl

/-- A device that loses alignment is in no domain, and no timed fabric command is open (R278). -/
theorem State.desync_left (s : State) (m : Int) : (s.desync m).fabric.joined = false ∧ ∀ c ∈ (s.desync m).cmds, c.timedOpen = false := by
  rw [State.desync_eq]
  exact (s.desyncLogged m).outsideDomain_spec

/-- Settles O56: links, incarnations, beacons and the round's end, each by its own event. -/
theorem linksAndBeacons : Obligations.LinksAndBeacons := by
  refine ⟨fun s port link ack hport hlink => ⟨fun hjoined hpeer hnew => ?_, fun hjoined hpeer hold => ?_, exec_linkControlFlit_dropped,
      fun hjoined => ?_, ?_⟩, fun s dev inc hjoined hdev hother => ?_,
    fun s port sent inc hjoined hport hlo hhi => ⟨fun hown => ?_, fun hpeer => ?_⟩, fun s hjoined hend => ?_⟩
  · rw [exec_linkControlFlit hport hlink hjoined hpeer, State.acknowledge_new hnew]
  · rw [exec_linkControlFlit hport hlink hjoined hpeer, State.acknowledge_old hold]
  · rw [State.replays, hjoined]
    rfl
  · rw [exec, execLinkFailure, if_pos (by simp [hport, hlink])]
  · have hexec := exec_peerIncarnationChange hjoined hdev hother (inc := inc)
    refine ⟨fun hsame => by rw [hexec, State.peerChange_known hsame],
      fun hnew hwf => ⟨_, hexec, State.get_peerChange hwf, fun d hd => ?_, ?_⟩⟩
    · rw [State.peerChange_peers hnew]
      exact SMap.get_set_ne _ _ _ _ _ hd
    · obtain ⟨hincoming, hcache, hrelays, hreplies, huntimed⟩ := State.peerChange_forgets hnew
      exact ⟨hincoming, hcache, hrelays, hreplies, huntimed⟩
  · rw [exec_beacon_own hjoined hport hlo hhi hown, flightMoved_map]
  · refine ⟨_, exec_beacon_peer hjoined hport hlo hhi hpeer, rfl, fun hsame => ?_, State.get_peerChange⟩
    rw [State.peerChange_known hsame]
  · have hexec := exec_roundEnd hjoined hend
    dsimp only at hexec ⊢
    refine ⟨fun hsmall => ?_, fun hlo hhi => ?_, fun hlost => ?_⟩
    · rw [hexec, if_neg (by omega), State.trimmed, if_pos hsmall]
    · rw [hexec, if_neg hhi.not_gt, State.trimmed, if_neg hlo.not_ge]
    · obtain ⟨hout, hclosed⟩ := State.desync_left (s.trimmed (median s.fabric.offsets)) (median s.fabric.offsets)
      rw [if_pos hlost] at hexec
      exact ⟨_, hexec, hout, fun c hc hop => Cmd.not_timedOpen (hclosed c hc) hop⟩

end Sys2Proof.Machine

/-! # O25 and O27: decoding the word of a slot, and words written out from the spec -/

namespace Sys2Proof.Laws.Words

/-- Every instruction with a word, in the order of its constructors; an event has none. -/
theorem forall_statement (i : Instr) : Statement i := by
  cases hword : encodeInstr i with
  | none => exact noWord hword
  | some p =>
    have hslot : (encodeInstr i).isSome = true := Option.isSome_iff_exists.mpr ⟨p, hword⟩
    clear hword
    cases i <;> cases hslot
    exacts [add _ _ _, sub _ _ _, mul _ _ _, mulh _ _ _, mulhu _ _ _, div _ _ _, divu _ _ _, rem _ _ _, remu _ _ _, and _ _ _, or _ _ _,
      xor _ _ _, shl _ _ _, shr _ _ _, sar _ _ _, min _ _ _, max _ _ _, minu _ _ _, maxu _ _ _, clz _ _, popc _ _, addi _ _ _, andi _ _ _,
      ori _ _ _, xori _ _ _, shli _ _ _, shri _ _ _, sari _ _ _, movi _ _, movhi _ _, cmp _ _ _ _, cmpi _ _ _ _, sel _ _ _ _, br _ _ _,
      jal _ _, jind _ _ _ _, loop _ _, loopi _ _, timedImm _, timedReg _, barr _ _, twait _ _ _, hwait _ _, waitc _ _, vadd _ _ _,
      vsub _ _ _, vmul _ _ _, vfma _ _ _, vmin _ _ _, vmax _ _ _, vabs _ _, vneg _ _, vand _ _ _, vor _ _ _, vxor _ _ _, vshl _ _ _,
      vshr _ _ _, vsar _ _ _, vsel _ _ _, vmov _ _, vbcast _ _, vextr _ _ _, vclamp _ _ _, vcmpEq _ _ _, vcmpNe _ _ _, vcmpLt _ _ _,
      vcmpLe _ _ _, vperm _ _ _, vredsSum _ _, vredsMax _ _, vredsMin _ _, vcvt _ _, vscale _ _ _, mpush _, vskip _, vdot4 _ _ _ _ _ _,
      vdot8 _ _ _ _ _ _, sfexp _ _, sflog _ _, sfrcp _ _, sfrsq _ _, sfsqrt _ _, sfsin _ _, sfcos _ _, sftanh _ _, sfsigm _ _, sferf _ _,
      rngc _ _ _, lds _ _ _, ldsChk _ _ _, sts _ _ _, ldv _ _ _, ldvChk _ _ _, stv _ _ _, ldvd _ _ _, ldvdChk _ _ _, stvd _ _ _, ldt _ _ _,
      ldtChk _ _ _, ldtm _ _ _, ldtmChk _ _ _, stt _ _ _, tap _ _ _, put _ _ _, qpush _ _ _ _, qpop _ _, qsel _, accld _ _ _,
      accldChk _ _ _, accst _ _ _, cube _ _ _, cubeh _ _ _, wld _ _ _, wldSp _ _ _, wswap _ _ _, lease _ _, unlease _ _, copy _ _ _,
      ccopy _ _ _, layout _ _ _, scat _ _ _, nmred _ _ _, nmcas _ _ _, nmsac _ _ _, probe _ _, probeReq _ _, fsend _ _ _, frecv _ _ _,
      fld _ _ _, fst _ _ _, fatom _ _ _, coll _ _ _, sig _ _ _, launch _ _, hset _ _, deps _ _ _, pfx _, pfxG _ _, mfc _ _, mtc _ _,
      mtcMbxst _, mtcQv _ _, mtcTcfg _ _, mtcAcfg _ _, fence _, trap _, tshoot _ _, paced, endStrand, yield, minv, mpop, nop, audit, viewj]

/-! ### The word of a slot -/

/-- The fields of a slot word (R314), read from the word they are put together in. -/
theorem slotWord_fields (stop : Bool) (ver : BitVec 2) (opcode : BitVec 9) (sc : BitVec 2) (o : BitVec 18) :
    let w : BitVec 32 := BitVec.ofBool stop ++ ver ++ opcode ++ sc ++ o
    w.getLsbD 31 = stop ∧ w.extractLsb' 29 2 = ver ∧ w.extractLsb' 20 9 = opcode ∧ w.extractLsb' 18 2 = sc ∧ w.extractLsb' 0 18 = o := by
  refine ⟨?_, ?_, ?_, ?_, ?_⟩
  · simp only [BitVec.getLsbD_append]
    simp
  all_goals
    simp (disch := decide) only [field_low, field_high, BitVec.extractLsb'_eq_self, Nat.reduceSub, Nat.sub_self]

theorem decodeSlot_of_encodeSlot {x : Slot} {w : BitVec 32} (hwf : x.op.wellFormed = true) (h : encodeSlot x = some w) : decodeSlot w = .ok x := by
  unfold encodeSlot at h
  split at h
  · next opcode o hword =>
    cases h
    obtain ⟨hstop, hver, hopcode, hsc, hopnd⟩ := slotWord_fields x.stop x.ver opcode x.sc o
    have hop : decodeInstr opcode o = .ok x.op := forall_statement x.op hwf _ hword
    rw [decodeSlot, hopcode, hopnd, hop, hstop, hver, hsc]
  · cases h

/-- A word put together again from its bytes. -/
theorem slotWordOfBytes_fields (w : BitVec 32) :
    slotWordOfBytes (w.extractLsb' 0 8) (w.extractLsb' 8 8) (w.extractLsb' 16 8) (w.extractLsb' 24 8) = w := by
  simp (disch := decide) only [slotWordOfBytes, BitVec.extractLsb'_append_extractLsb'_eq_extractLsb', BitVec.extractLsb'_eq_self]

theorem decodeBytes_slotWordBytes (w : BitVec 32) (rest : List Byte) :
    decodeBytes (slotWordBytes w ++ rest) = some (decodeSlot w, rest) :=
  congrArg (fun v => some (decodeSlot v, rest)) (slotWordOfBytes_fields w)

/-- Settles O25: the fields of a slot's word, of which the opcode and the operand bits read back as the instruction. -/
theorem decodeOfEncode : Obligations.DecodeOfEncode := ⟨fun _ _ => decodeSlot_of_encodeSlot, decodeBytes_slotWordBytes⟩

/-! ### Words written out from the spec -/

/-- Settles O27: each word by its opcode and its operand bits. -/
theorem decodeKnownWords : Obligations.DecodeKnownWords := by
  exact ⟨rfl, rfl, rfl, rfl, rfl, rfl, rfl, rfl, rfl, rfl, rfl, rfl, rfl, rfl, rfl, rfl⟩

end Sys2Proof.Laws.Words

/-! # O1 to O4: scalar instructions and comparisons -/

namespace Sys2Proof.Machine

open Sys2Proof.Claims

/-! ### The two forms of a scalar slot, and their immediates -/

/-- A slot of the scalar form, with its value in the words of a statement. -/
theorem State.writesS_of_scalarOp {s : State} {i : Instr} {L : Nat} {d : BitVec 6} {srcs : List (BitVec 6)} {v w : Word}
    (hg : s.iss.guard = true) (hexec : exec i s = s.scalarOp L d srcs v) (hv : v = w) : exec i s = writesS s (consumed s srcs) L d w := by
  rw [hexec, hv, State.scalarOp, State.slotDone_of_guard hg, List.append_nil]
  rfl

/-- A signed immediate, with none, one and two prefixes (R320). -/
theorem State.imm_of_signedImm {s : State} {w : Nat} {own : BitVec w} {v : Word} (hw : 0 < w) (hv : signedImm s own v)
    (hlen : s.iss.pfx.length ≤ 2) : s.imm own.toNat w true true = v := by
  obtain ⟨hnone, hone, htwo⟩ := hv
  have himm : s.imm own.toNat w true true = BitVec.ofInt 64 (signed (w + 18 * s.iss.pfx.length) (immBits own.toNat w s.iss.pfx)) := by
    simp [State.imm]
  rw [himm]
  match hp : s.iss.pfx with
  | [] => rw [hnone hp, immBits_nil, ← ofInt_signed_toNat own hw]; rfl
  | [p] =>
    rw [hone p hp, immBits_append, ← ofInt_signed_toNat (p ++ own) (by omega), show w + 18 * [p].length = 18 + w from Nat.add_comm ..]
  | [p, q] =>
    rw [htwo p q hp, immBits_append₂, ← ofInt_signed_toNat (p ++ q ++ own) (by omega), show w + 18 * [p, q].length = 18 + 18 + w from Nat.add_comm ..]
  | _ :: _ :: _ :: _ => simp [hp] at hlen

theorem State.imm6_of_signedImm {s : State} {i : BitVec 6} {v : Word} (hv : signedImm s i v) (hlen : s.iss.pfx.length ≤ 2) : s.imm6 i = v :=
  State.imm_of_signedImm (by decide) hv hlen

/-! ### O1: register forms -/

theorem ite_slt_eq_ite_sle (x y : Word) : (if y.slt x then y else x) = if x.sle y then x else y := by
  rw [BitVec.sle_eq_not_slt]
  cases y.slt x <;> rfl

theorem ite_ult_eq_ite_ule (x y : Word) : (if y.ult x then y else x) = if x.ule y then x else y := by
  rw [BitVec.ule_eq_not_ult]
  cases y.ult x <;> rfl

/-- The greater of two words is also the one that a weak comparison chooses: where they differ, it is the strict one. -/
theorem ite_slt_eq_ite_sle_of_max (x y : Word) : (if x.slt y then y else x) = if x.sle y then y else x := by
  by_cases heq : x = y
  · simp [heq]
  · have hne : x.toInt ≠ y.toInt := mt BitVec.eq_of_toInt_eq heq
    simp only [BitVec.slt_iff_toInt_lt, BitVec.sle_iff_toInt_le, hne.le_iff_lt]

theorem ite_ult_eq_ite_ule_of_max (x y : Word) : (if x.ult y then y else x) = if x.ule y then y else x := by
  by_cases heq : x = y
  · simp [heq]
  · have hne : x.toNat ≠ y.toNat := mt BitVec.eq_of_toNat_eq heq
    simp only [BitVec.ult_iff_lt, BitVec.ule_iff_le, BitVec.lt_def, BitVec.le_def, hne.le_iff_lt]

/-- Settles O1: each form is `State.scalarOp` with its value. -/
theorem scalarArithmetic : Obligations.ScalarArithmetic := by
  intro s d a b hg
  have writes {i : Instr} {v w : Word} := State.writesS_of_scalarOp (i := i) (L := 1) (d := d) (srcs := [a, b]) (v := v) (w := w) hg
  refine ⟨?_, ?_, ?_, ?_, ?_, ?_, ?_, ?_, ?_, ?_, ?_, ?_⟩
  iterate 5 exact writes rfl rfl
  · exact writes rfl (congrArg (reg s a <<< ·) (shiftCount_eq (reg s b)))
  · exact writes rfl (congrArg (reg s a >>> ·) (shiftCount_eq (reg s b)))
  · exact writes rfl (congrArg (reg s a).sshiftRight (shiftCount_eq (reg s b)))
  · exact writes rfl (ite_slt_eq_ite_sle ..)
  · exact writes rfl (ite_slt_eq_ite_sle_of_max ..)
  · exact writes rfl (ite_ult_eq_ite_ule ..)
  · exact writes rfl (ite_ult_eq_ite_ule_of_max ..)

/-! ### O2: products -/

/-- The product of two words, sign-extended to 128 bits, is exact. -/
theorem signExtend_mul_signExtend (x y : Word) : x.signExtend 128 * y.signExtend 128 = BitVec.ofInt 128 (x.toInt * y.toInt) :=
  (BitVec.ofInt_mul ..).symm

theorem extractLsb'_low_ofInt (p : Int) : (BitVec.ofInt 128 p).extractLsb' 0 64 = BitVec.ofInt 64 p := by
  apply BitVec.eq_of_toNat_eq
  simp only [BitVec.extractLsb'_toNat, BitVec.toNat_ofInt, Nat.shiftRight_zero]
  omega

theorem extractLsb'_high_ofInt (p : Int) : (BitVec.ofInt 128 p).extractLsb' 64 64 = BitVec.ofInt 64 (p / 2 ^ 64) := by
  apply BitVec.eq_of_toNat_eq
  simp only [BitVec.extractLsb'_toNat, BitVec.toNat_ofInt, Nat.shiftRight_eq_div_pow]
  omega

theorem mul_eq_low_product (x y : Word) : x * y = (x.signExtend 128 * y.signExtend 128).extractLsb' 0 64 := by
  rw [signExtend_mul_signExtend, extractLsb'_low_ofInt, BitVec.ofInt_mul, BitVec.ofInt_toInt, BitVec.ofInt_toInt]

theorem mulHigh_eq_high_product (x y : Word) : mulHigh x y = (x.signExtend 128 * y.signExtend 128).extractLsb' 64 64 := by
  rw [signExtend_mul_signExtend, extractLsb'_high_ofInt, mulHigh]

theorem mulHighU_eq_high_product (x y : Word) : mulHighU x y = (x.zeroExtend 128 * y.zeroExtend 128).extractLsb' 64 64 := by
  have hprod : x.toNat * y.toNat < 2 ^ 64 * 2 ^ 64 := Nat.mul_lt_mul'' x.isLt y.isLt
  apply BitVec.eq_of_toNat_eq
  simp [mulHighU, BitVec.extractLsb'_toNat, Nat.shiftRight_eq_div_pow, BitVec.toNat_mul]
  omega

theorem integerProductForms : Products := by
  intro s d a b hg
  refine ⟨?_, ?_, ?_⟩
  · exact State.writesS_of_scalarOp hg rfl (mul_eq_low_product ..)
  · exact State.writesS_of_scalarOp hg rfl (mulHigh_eq_high_product ..)
  · exact State.writesS_of_scalarOp hg rfl (mulHighU_eq_high_product ..)

/-! ### O2: quotients and remainders -/

theorem divisions : Divisions := by
  intro s d a b hg
  refine ⟨?_, ?_, ?_, ?_, fun hx hy => ⟨?_, ?_⟩⟩
  · exact State.writesS_of_scalarOp hg rfl (divSigned_eq ..)
  · exact State.writesS_of_scalarOp hg rfl (divUnsigned_eq ..)
  · exact State.writesS_of_scalarOp hg rfl (remSigned_eq ..)
  · exact State.writesS_of_scalarOp hg rfl (remUnsigned_eq ..)
  · exact State.writesS_of_scalarOp hg rfl (show divSigned (reg s a) (reg s b) = _ by rw [hx, hy]; decide)
  · exact State.writesS_of_scalarOp hg rfl (show remSigned (reg s a) (reg s b) = _ by rw [hx, hy]; decide)

/-! ### O2: bit counts -/

/-- CLZ by the bits of its source: those from the leading one on. -/
theorem leadingZeros_bits (x : Word) : leadingZeros x ≤ 64 ∧ (∀ j, 64 - leadingZeros x ≤ j → x.getLsbD j = false) ∧
    (leadingZeros x < 64 → x.getLsbD (63 - leadingZeros x) = true) := by
  unfold leadingZeros
  split
  · next hzero => simp [hzero]
  · next hne =>
    have hnat : x.toNat ≠ 0 := fun h => hne (BitVec.eq_of_toNat_eq h)
    have hlog : Nat.log2 x.toNat < 64 := (Nat.log2_lt hnat).mpr x.isLt
    refine ⟨by omega, fun j hj => ?_, fun _ => ?_⟩
    · exact Nat.testBit_lt_two_pow ((Nat.log2_lt hnat).mp (by omega))
    · rw [show 63 - (63 - Nat.log2 x.toNat) = Nat.log2 x.toNat by omega]
      exact Nat.testBit_log2 hnat

theorem sum_toNat_eq_length_filter {α : Type} (p : α → Bool) (l : List α) : (l.map fun x => (p x).toNat).sum = (l.filter p).length := by
  induction l with
  | nil => rfl
  | cons x l ih =>
    rw [List.map_cons, List.sum_cons, ih]
    cases hx : p x with
    | true => simp [hx, Nat.add_comm]
    | false => simp [hx]

theorem onesCount_eq_length (x : Word) : onesCount x = ((List.range 64).filter fun j => x.getLsbD j).length := by
  rw [onesCount, digits_eq_map, ← List.sum_eq_foldl, ← sum_toNat_eq_length_filter]
  simp only [Nat.one_mul, Nat.pow_one, ← Nat.toNat_testBit]
  rfl

theorem bitCounts : BitCounts := by
  intro s d a hg
  obtain ⟨hle, hzeros, hone⟩ := leadingZeros_bits (reg s a)
  exact ⟨⟨_, hle, hzeros, hone, State.writesS_of_scalarOp hg rfl rfl⟩,
    State.writesS_of_scalarOp hg rfl (congrArg (BitVec.ofNat 64) (onesCount_eq_length (reg s a)))⟩

/-- Settles O2: products, divisions and bit counts. -/
theorem integerProducts : Obligations.IntegerProducts := ⟨integerProductForms, divisions, bitCounts⟩

/-! ### O3: immediate forms -/

/-- Settles O3: the immediate forms with the immediate that the prefixes build. -/
theorem scalarImmediates : Obligations.ScalarImmediates := by
  refine ⟨fun s d a i v hg hv hlen => ?_, fun s d a k hg => ?_, fun s d i v hg hv hlen => ?_, fun s d i v hg hv hlen => ?_⟩
  · have himm := State.imm6_of_signedImm hv hlen
    refine ⟨?_, ?_, ?_, ?_⟩
    · exact State.writesS_of_scalarOp hg rfl (congrArg (reg s a + ·) himm)
    · exact State.writesS_of_scalarOp hg rfl (congrArg (reg s a &&& ·) himm)
    · exact State.writesS_of_scalarOp hg rfl (congrArg (reg s a ||| ·) himm)
    · exact State.writesS_of_scalarOp hg rfl (congrArg (reg s a ^^^ ·) himm)
  · refine ⟨?_, ?_, ?_⟩
    iterate 3 exact State.writesS_of_scalarOp hg rfl rfl
  · exact State.writesS_of_scalarOp (srcs := []) hg rfl (State.imm_of_signedImm (by decide) hv hlen)
  · rw [exec, execMovhi, State.imm_of_unsignedImm hv hlen, State.slotDone_of_guard hg, failed_badOperand, List.append_nil]
    rfl

/-! ### O4: comparisons and the selection -/

/-- The comparisons by their codes, in the words of the statement. -/
theorem condHolds_codes (x y : Word) : condHolds 0 x y = (x == y) ∧ condHolds 1 x y = (x != y) ∧ condHolds 2 x y = x.slt y ∧
    condHolds 3 x y = y.sle x ∧ condHolds 4 x y = x.ult y ∧ condHolds 5 x y = y.ule x :=
  ⟨rfl, rfl, rfl, (BitVec.sle_eq_not_slt ..).symm, rfl, (BitVec.ule_eq_not_ult ..).symm⟩

/-- A slot of the comparison form, with its truth value in the words of a statement. -/
theorem State.setsP_of_compareOp {s : State} {i : Instr} {p : BitVec 3} {srcs : List (BitVec 6)} {v w : Bool} (hg : s.iss.guard = true)
    (hexec : exec i s = s.compareOp p srcs v) (hv : v = w) :
    exec i s = .next (slotRan s (consumed s srcs) [.result 1 (.preg p w)]) := by
  rw [hexec, hv, State.compareOp, State.slotDone_of_guard hg, List.append_nil]
  rfl

/-- Settles O4: both comparisons by their codes, and SEL by the register it chooses. -/
theorem compareAndSelect : Obligations.CompareAndSelect := by
  refine ⟨fun s p a b hg => ?_, fun s p a i y hg hy hlen => ?_, fun s n d a b hg => ?_⟩
  · obtain ⟨heq, hne, hlt, hge, hltu, hgeu⟩ := condHolds_codes (reg s a) (reg s b)
    have sets {c : BitVec 3} {v : Bool} := State.setsP_of_compareOp (i := .cmp c p a b) (srcs := [a, b]) (w := v) hg rfl
    exact ⟨sets heq, sets hne, sets hlt, sets hge, sets hltu, sets hgeu⟩
  · obtain ⟨heq, hne, hlt, hge, hltu, hgeu⟩ := condHolds_codes (reg s a) y
    have sets {c : BitVec 3} {v : Bool} (hv : condHolds c (reg s a) y = v) :=
      State.setsP_of_compareOp (i := .cmpi c p a i) (srcs := [a]) hg rfl (State.imm6_of_signedImm hy hlen ▸ hv)
    exact ⟨sets heq, sets hne, sets hlt, sets hge, sets hltu, sets hgeu⟩
  · rw [exec, execSel, State.slotDone_of_guard hg]
    rfl

end Sys2Proof.Machine

/-! # O5, O19 and O20: branches, the plain system slots and the reads of control registers -/

namespace Sys2Proof.Machine

open Sys2Proof.Claims

/-! ### O5: branches and jumps -/

theorem State.targetChecks_eq_illegalIf (s : State) (t : Int) :
    s.targetChecks t = illegalIf s (decide (t < 0 ∨ (s.iss.st.len : Int) ≤ t)) := by
  rw [State.targetChecks, failed_badOperand, Bool.decide_or]

theorem State.pacedOnly_eq_noInstrIf (s : State) : s.pacedOnly = noInstrIf s (timed s) := failed_badInstr s (timed s)

end Sys2Proof.Machine

namespace Sys2Proof.Laws

open Sys2Proof.Machine Sys2Proof.Claims

/-- Settles O5: BR and JAL by the immediate that the prefixes build, and JIND by its register. -/
theorem branches : Obligations.Branches := by
  refine ⟨fun s n p o v hg hv hlen => ?_, fun s d i v hg hv hlen => ?_, fun s n p d a hg => ?_⟩
  · rw [exec, execBr, State.imm_of_signedImm (by decide) hv hlen, State.slotDone_of_guard hg, State.targetChecks_eq_illegalIf,
      State.pacedOnly_eq_noInstrIf]
    rfl
  · rw [exec, execJal, State.imm_of_signedImm (by decide) hv hlen, State.slotDone_of_guard hg, State.targetChecks_eq_illegalIf,
      State.pacedOnly_eq_noInstrIf]
    rfl
  · have hbad (t : Nat) : (decide (s.iss.st.len ≤ t) || t % 4 != 0) = decide (s.iss.st.len ≤ t ∨ t % 4 ≠ 0) := by
      rw [Bool.eq_iff_iff]
      simp
    rw [exec, execJind, State.slotDone_of_guard hg, failed_badOperand, State.pacedOnly_eq_noInstrIf, hbad]
    rfl

end Sys2Proof.Laws

namespace Sys2Proof.Machine

open Sys2Proof.Claims

/-! ### O19: plain system slots -/

theorem nopAndPrefixes : NopAndPrefixes := by
  intro s
  refine ⟨?_, fun a b c => rfl, fun i => rfl, fun n p => ?_⟩
  · cases hg : s.iss.guard with
    | true => rw [exec, execNop, State.slotDone_of_guard hg]; rfl
    | false => simp [exec, execNop, State.slotDone_false _ _ _ _ hg]
  · have hguard : (s.iss.st.preg p != (n == 1#1)) = if n = 1#1 then !pred s p else pred s p := by
      split
      · next hn => rw [hn]; exact Bool.bne_true _
      · next hn => rw [beq_false_of_ne hn]; exact Bool.bne_false _
    rw [exec, execPfxG, hguard]

theorem systemMarks : SystemMarks := by
  intro s hg
  have marks (e : Effect) : Host.Outcome.next (s.slotDone [] [] [e]) = (.next (slotRan s [] [e]) : Out) :=
    congrArg _ (State.slotDone_of_guard hg [] [] [e])
  exact ⟨fun e => marks _, fun i => marks _, marks _, marks _⟩

/-- Settles O19: NOP and the prefixes, and the slots that leave a mark. -/
theorem plainSystemSlots : Obligations.PlainSystemSlots := ⟨nopAndPrefixes, systemMarks⟩

/-! ### O20: the fields of a register -/

/-- Packed fields of at most 64 bits, read from a register. -/
theorem wbits_ofNat_packFields {l : List (Nat × Nat)} (hl : (l.map Prod.fst).sum ≤ 64) (lo n : Nat) :
    wbits (BitVec.ofNat 64 (packFields l)) lo n = bits (packFields l) lo n := by
  rw [wbits, BitVec.toNat_ofNat, Nat.mod_eq_of_lt ((packFields_lt l).trans_le (Nat.pow_le_pow_right (by decide) hl))]

/-- A field of a list of packed fields stands above those before it. -/
theorem bits_packFields {l : List (Nat × Nat)} {k w v : Nat} (h : l[k]? = some (w, v)) :
    bits (packFields l) ((l.take k).map Prod.fst).sum w = v % 2 ^ w := by
  induction l generalizing k with
  | nil => simp at h
  | cons f l ih =>
    cases k with
    | zero =>
      obtain rfl : f = (w, v) := by simpa using h
      exact bits_packFields_head w v l
    | succ k => exact (bits_packFields_tail ..).trans (ih (by simpa using h))

/-- Above the last of them there is nothing. -/
theorem bits_packFields_beyond {l : List (Nat × Nat)} {lo : Nat} (hlo : (l.map Prod.fst).sum ≤ lo) (n : Nat) : bits (packFields l) lo n = 0 := by
  rw [bits, Nat.div_eq_of_lt ((packFields_lt l).trans_le (Nat.pow_le_pow_right (by decide) hlo)), Nat.zero_mod]

theorem getLsbD_eq_of_wbits {v : Word} {i : Nat} {b : Bool} (h : wbits v i 1 = (if b then 1 else 0) % 2 ^ 1) : v.getLsbD i = b := by
  rw [← BitVec.testBit_toNat, Nat.testBit_eq_decide_div_mod_eq, ← Nat.pow_one 2, ← bits, ← wbits, h]
  cases b <;> rfl

theorem State.statusReg_fields (s : State) : let v := BitVec.ofNat 64 s.statusReg
    v.getLsbD 0 = timed s ∧ v.getLsbD 1 = s.iss.tm.moved ∧ v.getLsbD 2 = s.inFabricSection s.iss.tm.id ∧
      wbits v 3 13 = 0 ∧ wbits v 16 16 = s.iss.tm.nres % 2 ^ 16 ∧ wbits v 32 32 = 0 := by
  have field (lo n : Nat) : wbits (BitVec.ofNat 64 s.statusReg) lo n = bits s.statusReg lo n := wbits_ofNat_packFields (by simp) lo n
  refine ⟨getLsbD_eq_of_wbits ((field 0 1).trans ?_), getLsbD_eq_of_wbits ((field 1 1).trans ?_),
    getLsbD_eq_of_wbits ((field 2 1).trans ?_), (field 3 13).trans ?_, (field 16 16).trans ?_, (field 32 32).trans ?_⟩
  · exact bits_packFields (k := 0) rfl
  · exact bits_packFields (k := 1) rfl
  · exact bits_packFields (k := 2) rfl
  · exact (bits_packFields (k := 3) (v := 0) rfl).trans (Nat.zero_mod _)
  · exact bits_packFields (k := 4) rfl
  · exact bits_packFields_beyond (by simp) 32

theorem State.vcn_fields (s : State) : let v := BitVec.ofNat 64 s.vcn
    wbits v 0 4 = s.iss.st.index % 16 ∧ wbits v 4 4 = (s.iss.tm.width - 1) % 16 ∧ wbits v 8 16 = s.iss.tm.index % 2 ^ 16 ∧ wbits v 24 40 = 0 := by
  have field (lo n : Nat) : wbits (BitVec.ofNat 64 s.vcn) lo n = bits s.vcn lo n := wbits_ofNat_packFields (by simp) lo n
  refine ⟨(field 0 4).trans ?_, (field 4 4).trans ?_, (field 8 16).trans ?_, (field 24 40).trans ?_⟩
  · exact bits_packFields (k := 0) rfl
  · exact bits_packFields (k := 1) rfl
  · exact bits_packFields (k := 2) rfl
  · exact bits_packFields_beyond (by simp) 40

theorem Strand.isPending_fin (st : Strand) (n : Fin 64) : st.isPending n = (decide (n ≠ 0) && (st.tokens.get n).st == .pending) := by
  have hzero : ((n : Nat) != 0) = decide (n ≠ 0) := by rw [Bool.eq_iff_iff]; simp
  rw [Strand.isPending, Strand.token, Fin.ofNat_val_eq_self, hzero]

theorem Strand.tokst_getLsbD (st : Strand) (n : Fin 64) :
    (BitVec.ofNat 64 st.tokst).getLsbD n = (decide (n ≠ 0) && (st.tokens.get n).st == .pending) := by
  rw [BitVec.getLsbD_ofNat, Strand.tokst, undigits_testBit, ← st.isPending_fin]
  cases hp : st.isPending n <;> simp [hp]

/-! ### O20: the registers of which there are several -/

theorem State.controlReg_lc (s : State) (k : Fin 4) : s.controlReg (0x010 + k) = (s.iss.st.lc.get k).zeroExtend 64 := by
  unfold State.controlReg
  dsimp only
  iterate 13 rw [if_neg (by omega)]
  rw [if_pos (by omega), Nat.add_sub_cancel_left, Fin.ofNat_val_eq_self]

theorem State.controlReg_arg (s : State) (k : Fin 8) : s.controlReg (0x080 + k) = s.iss.st.arg.get k := by
  unfold State.controlReg
  dsimp only
  iterate 20 rw [if_neg (by omega)]
  rw [if_pos (by omega), Nat.add_sub_cancel_left, Fin.ofNat_val_eq_self]

theorem State.controlReg_qv (s : State) (k : Fin 4) : s.controlReg (0x098 + k) = (s.iss.st.qv.get k).reg := by
  unfold State.controlReg
  dsimp only
  iterate 29 rw [if_neg (by omega)]
  rw [if_pos (by omega), Nat.add_sub_cancel_left, Fin.ofNat_val_eq_self]

theorem State.controlReg_tcfg (s : State) (k : Fin 32) : s.controlReg (0x0A0 + k) = s.iss.st.tcfg.get k := by
  unfold State.controlReg
  dsimp only
  iterate 30 rw [if_neg (by omega)]
  rw [if_pos (by omega), Nat.add_sub_cancel_left, Strand.tileCfg]
  simp [Vector.get]

theorem State.controlReg_acfg (s : State) (k : Fin 16) : s.controlReg (0x0C0 + k) = s.iss.st.acfg.get k := by
  unfold State.controlReg
  dsimp only
  iterate 31 rw [if_neg (by omega)]
  rw [Nat.add_sub_cancel_left, Fin.ofNat_val_eq_self]

/-! ### O20: the slot -/

theorem exec_mfc {s : State} (hg : s.iss.guard = true) (d : BitVec 6) {r : Nat} (hr : r < 0x1000) (hne : r ≠ 0x018) :
    exec (.mfc d (BitVec.ofNat 12 r)) s = writesS s [] 1 d (s.controlReg r) := by
  have hnum : (BitVec.ofNat 12 r).toNat = r := Nat.mod_eq_of_lt hr
  have hother : BitVec.ofNat 12 r ≠ 0x018#12 := fun h => hne (hnum ▸ congrArg BitVec.toNat h)
  rw [exec, execMfc, hnum, if_neg hother, State.slotDone_of_guard hg]
  rfl

/-- Settles O20: MFC gives what `State.controlReg` reads, register by register. -/
theorem controlReads : Obligations.ControlReads := by
  intro s d hg
  have gives {r : Nat} (hr : r < 0x1000) (hne : r ≠ 0x018) := exec_mfc hg d hr hne
  refine ⟨fun r hr hne => ⟨_, gives hr hne⟩, ⟨_, gives (by decide) (by decide), s.statusReg_fields⟩, gives (by decide) (by decide),
    gives (by decide) (by decide), gives (by decide) (by decide), ⟨_, gives (by decide) (by decide), s.vcn_fields⟩,
    gives (by decide) (by decide), gives (by decide) (by decide), gives (by decide) (by decide), fun k => ?_,
    ⟨_, ?_, s.iss.st.tokst_getLsbD⟩, fun k => ?_, ?_, ?_, ?_, ?_, ?_, ?_, ?_, ?_, fun k => ?_, fun k => ?_, fun k => ?_⟩
  · rw [← s.controlReg_lc]
    exact gives (by omega) (by omega)
  · rw [exec, execMfc, State.slotDone_of_guard hg]
    rfl
  · rw [← s.controlReg_arg]
    exact gives (by omega) (by omega)
  iterate 8 exact gives (by decide) (by decide)
  · rw [← s.controlReg_qv]
    exact gives (by omega) (by omega)
  · rw [← s.controlReg_tcfg]
    exact gives (by omega) (by omega)
  · rw [← s.controlReg_acfg]
    exact gives (by omega) (by omega)

end Sys2Proof.Machine

/-! # O12 and O14: vector moves with their poison, conversions, special functions and RNGC -/

namespace Sys2Proof.Machine

open Sys2Proof.Claims

/-! ### The poison that travels -/

/-- A chunk of a result is poisoned by any of its elements that the mask leaves on and that was taken from a poisoned chunk (R289). -/
theorem takenPois_getLsbD (ty : Fmt) (m : Mask) (pois : BitVec 8) (from_ : Nat → Option Nat) {k : Nat} (hk : k < 8) :
    (takenPois ty m pois ((List.range ty.count).map from_)).getLsbD k = true ↔ ∃ i, i < ty.count / 8 ∧
      m.getLsbD (ty.count / 8 * k + i) = true ∧ ∃ j ∈ from_ (ty.count / 8 * k + i), pois.getLsbD (j / (ty.count / 8)) = true := by
  rw [takenPois, BitVec.getLsbD_ofNat, undigits_testBit, decide_eq_true hk, Bool.true_and, List.getD_eq_getElem _ _ (by simpa using hk),
    List.getElem_map, List.getElem_range, decide_eq_true_eq]
  have hsome {i : Nat} (hi : i < ty.count / 8) :
      ((List.range ty.count).map from_).getD (ty.count / 8 * k + i) none = from_ (ty.count / 8 * k + i) := by
    have hlt : ty.count / 8 * k + i < ty.count :=
      calc ty.count / 8 * k + i < ty.count / 8 * (k + 1) := by rw [Nat.mul_succ]; omega
        _ ≤ ty.count / 8 * 8 := Nat.mul_le_mul_left _ hk
        _ ≤ ty.count := Nat.div_mul_le_self ..
    rw [List.getD_eq_getElem _ _ (by simpa using hlt), List.getElem_map, List.getElem_range]
  rw [show ∀ b : Bool, (if b then 1 else 0) % 2 = 1 ↔ b = true by decide, List.any_eq_true]
  simp only [List.mem_range, Bool.and_eq_true]
  refine exists_congr fun i => and_congr_right fun hi => and_congr_right fun _ => ?_
  rw [hsome hi]
  cases from_ (ty.count / 8 * k + i) with
  | none => simp
  | some j => simp

/-- The poison of a row whose elements come from one row each. -/
theorem takenPois_some_getLsbD (ty : Fmt) (m : Mask) (pois : BitVec 8) (from_ : Nat → Nat) {k : Nat} (hk : k < 8) :
    (takenPois ty m pois ((List.range ty.count).map fun e => some (from_ e))).getLsbD k = decide (∃ i, i < ty.count / 8 ∧
      m.getLsbD (ty.count / 8 * k + i) = true ∧ pois.getLsbD (from_ (ty.count / 8 * k + i) / (ty.count / 8)) = true) := by
  rw [Bool.eq_iff_iff, takenPois_getLsbD _ _ _ _ hk, decide_eq_true_eq]
  simp

/-! ### O12: moves -/

theorem Fmt.count_pos (ty : Fmt) : 0 < ty.count := by cases ty <;> decide

theorem State.velems_getD (s : State) {ty : Fmt} (n : BitVec 6) {e : Nat} (he : e < ty.count) :
    (s.velems ty n).getD e 0 = elem ty (s.vget n).data e := by
  rw [State.velems_eq_map, List.getD_eq_getElem _ _ (by simpa using he), List.getElem_map, List.getElem_range]

/-- A slot that raises nothing and whose row result lists `f` over all elements, with poison. -/
theorem writesRow_of_elems {s : State} {i : Instr} {L : Nat} {d : BitVec 6} {pois : BitVec 8} {f : Nat → Nat} {elems : List Nat}
    {checks live : List Raised} (hg : s.iss.guard = true) (hchecks : checks = []) (hlive : live = [])
    (hexec : exec i s = .next (s.slotDone checks live
      [s.rowEffect L d (rowOfElems (s.vtype d) elems) (maskBytes s.iss.st.maskTop (s.vtype d)) pois]))
    (helems : elems = (List.range (s.vtype d).count).map f) : writesRow s i L d (s.vtype d).count pois [] f := by
  refine writesRow_of_slotDone hg le_rfl hchecks hlive ?_ (fun _ => rfl)
  rw [hexec, helems, maskBytes_maskBelow_count]

section
variable {s : State} {d m a b : BitVec 6} (hg : s.iss.guard = true) (hd : rowClaimed s d)
include hg hd

theorem execVbcast_writesRow : writesRow s (.vbcast d b) 2 d (s.vtype d).count (if poisoned s b then BitVec.allOnes 8 else 0) []
    fun _ => (reg s b).toNat :=
  writesRow_of_elems hg (State.vrowCheck_eq_nil hd) rfl rfl (by simp [sreg_eq_reg])

variable (ha : rowClaimed s a) (htype : s.vtype a = s.vtype d) (hsound : rowSound s a)
include ha htype hsound

theorem execVmov_writesRow : writesRow s (.vmov d a) 2 d (s.vtype d).count
    (takenPois (s.vtype d) s.iss.st.maskTop (s.vget a).pois ((List.range (s.vtype d).count).map fun e => some e)) []
    fun e => elem (s.vtype d) (s.vget a).data e := by
  refine ⟨(s.vget a).data, ?_, fun e _ => (Nat.mod_eq_of_lt (elem_lt ..)).symm⟩
  rw [exec, execVmov, State.slotDone_of_guard hg, State.vrowCheck_eq_nil hd, State.vrowCheck_eq_nil ha, State.typeCheck_eq_nil htype,
    State.rowCheck_eq_nil hsound, maskBytes_maskBelow_count]
  rfl

theorem execVperm_writesRow (hb : source s (s.vtype d) b) :
    let from_ (e : Nat) : Nat := elem (s.vtype d) (s.vget b).data e % (s.vtype d).count
    writesRow s (.vperm d a b) 3 d (s.vtype d).count
      (takenPois (s.vtype d) s.iss.st.maskTop (s.vget a).pois ((List.range (s.vtype d).count).map fun e => some (from_ e))) []
      fun e => elem (s.vtype d) (s.vget a).data (from_ e) := by
  refine writesRow_of_elems (checks := s.vrowCheck d ++ s.vrowCheck a ++ s.srcChecks b)
    (live := s.typeCheck (s.vtype d) a ++ s.typeCheck (s.vtype d) b ++ s.rowCheck (s.vrow a) ++ s.rowCheck (s.vrow b))
    (elems := ((s.velems (s.vtype d) b).map (· % (s.vtype d).count)).map fun i => (s.velems (s.vtype d) a).getD i 0) hg ?_ ?_ ?_ ?_
  · rw [State.vrowCheck_eq_nil hd, State.vrowCheck_eq_nil ha, State.srcChecks_eq_nil hb]
    rfl
  · rw [State.typeCheck_eq_nil htype, State.typeCheck_eq_nil (State.vtype_of_source hb), State.rowCheck_eq_nil hsound, State.rowCheck_of_source hb]
    rfl
  · have htaken : ((s.velems (s.vtype d) b).map (· % (s.vtype d).count)).map some =
        (List.range (s.vtype d).count).map fun e => some (elem (s.vtype d) (s.vget b).data e % (s.vtype d).count) := by
      rw [State.velems_eq_map, List.map_map, List.map_map]
      rfl
    rw [← htaken]
    rfl
  · rw [State.velems_eq_map s (s.vtype d) b, List.map_map, List.map_map]
    exact List.map_congr_left fun e _ => s.velems_getD a (Nat.mod_lt _ (Fmt.count_pos _))

theorem execVsel_writesRow (hm : rowClaimed s m) (hpois : (s.vget m).pois = 0) (hmsound : rowSound s m) (hdsound : rowSound s d) :
    let x (e : Nat) : Nat := elem (s.vtype d) (s.vget m).data e
    let fromA (e : Nat) : Option Nat := if x e = 0 then none else some e
    let fromD (e : Nat) : Option Nat := if x e = 0 then some e else none
    writesRow s (.vsel d m a) 2 d (s.vtype d).count
      (takenPois (s.vtype d) s.iss.st.maskTop (s.vget a).pois ((List.range (s.vtype d).count).map fromA) |||
        takenPois (s.vtype d) s.iss.st.maskTop (s.vget d).pois ((List.range (s.vtype d).count).map fromD)) []
      fun e => elem (s.vtype d) (s.vget (if x e = 0 then d else a)).data e := by
  have htaken (f : Nat × Nat → Option Nat) : (s.velems (s.vtype d) m).zipIdx.map f =
      (List.range (s.vtype d).count).map fun e => f (elem (s.vtype d) (s.vget m).data e, e) := by
    rw [State.velems_eq_map, zipIdx_map_range, List.map_map]
    rfl
  have hfromA := htaken fun e => if e.1 = 0 then none else some e.2
  have hfromD := htaken fun e => if e.1 = 0 then some e.2 else none
  dsimp only at hfromA hfromD ⊢
  refine writesRow_of_elems (checks := s.vrowCheck d ++ s.vrowCheck m ++ s.vrowCheck a ++ s.rowPoison m)
    (live := s.typeCheck (s.vtype d) a ++ [d, m, a].flatMap fun v => s.rowCheck (s.vrow v))
    (elems := List.zipWith (fun k (e : Nat × Nat) => if k = 0 then e.1 else e.2) (s.velems (s.vtype d) m)
      ((s.velems (s.vtype d) d).zip (s.velems (s.vtype d) a))) hg ?_ ?_ ?_ ?_
  · rw [State.vrowCheck_eq_nil hd, State.vrowCheck_eq_nil hm, State.vrowCheck_eq_nil ha, State.rowPoison_eq_nil hpois]
    rfl
  · simp [State.typeCheck_eq_nil htype, State.rowCheck_eq_nil hsound, State.rowCheck_eq_nil hmsound, State.rowCheck_eq_nil hdsound]
  · rw [← hfromA, ← hfromD]
    rfl
  · rw [State.velems_eq_map, State.velems_eq_map, State.velems_eq_map, List.zip_map', List.zipWith_map, List.zipWith_self]
    refine List.map_congr_left fun e _ => ?_
    split <;> rfl

end

theorem vectorMoves : VectorMoves := by
  intro s d m a b hg hd
  refine ⟨execVbcast_writesRow hg hd, fun ha htype hsound => ⟨⟨_, execVmov_writesRow hg hd ha htype hsound, fun k hk => ?_⟩,
    fun hb => ⟨_, execVperm_writesRow hg hd ha htype hsound hb, fun k hk => ?_⟩,
    fun hm hpois hmsound hdsound => ⟨_, execVsel_writesRow hg hd ha htype hsound hm hpois hmsound hdsound, fun k hk => ?_⟩⟩⟩
  · exact takenPois_some_getLsbD _ _ _ id hk
  · exact takenPois_some_getLsbD _ _ _ _ hk
  · rw [BitVec.getLsbD_or, Bool.eq_iff_iff, Bool.or_eq_true, takenPois_getLsbD _ _ _ _ hk, takenPois_getLsbD _ _ _ _ hk, decide_eq_true_eq,
      ← exists_or]
    refine exists_congr fun i => ?_
    dsimp only
    split <;> simp

/-! ### O12: VEXTR -/

theorem vectorExtract : VectorExtract := by
  intro s d a b hg ha hsound hb
  dsimp only
  have hchecks : failed [(decide ((s.vtype a).count ≤ (reg s b).toNat), s.badOperand)] ++ s.vrowCheck a ++ s.poisonChecks [b] =
      illegalIf s (decide ((s.vtype a).count ≤ (reg s b).toNat)) := by
    rw [failed_badOperand, State.vrowCheck_eq_nil ha, State.poisonChecks_one hb, List.append_nil, List.append_nil]
  have hexec := State.slotDone_of_guard hg (failed [(decide ((s.vtype a).count ≤ (reg s b).toNat), s.badOperand)] ++ s.vrowCheck a ++
    s.poisonChecks [b]) (s.rowCheck (s.vrow a))
  rw [hchecks, State.rowCheck_eq_nil hsound, List.append_nil] at hexec
  rw [exec, execVextr, sreg_eq_reg, hchecks, State.rowCheck_eq_nil hsound, hexec]
  refine ⟨fun hi => ?_, fun hi => ⟨_, rfl, ?_⟩⟩
  · rw [decide_eq_false (Nat.not_le.mpr hi), Nat.mod_eq_of_lt hi]
    rfl
  · rw [decide_eq_true hi]
    rfl

/-- Settles O12: the moves with their poison, and VEXTR. -/
theorem vectorMovesAndExtract : Obligations.VectorMovesAndExtract := ⟨vectorMoves, vectorExtract⟩

/-! ### O14: conversions and special functions -/

theorem vectorConvert : VectorConvert := by
  intro s d a hg hd
  dsimp only
  intro ha
  refine writesRow_of_slotDone hg (Nat.min_le_left ..) ?_ (State.rowCheck_of_source ha) ?_ (fun _ => rfl)
    (checks := s.vrowCheck d ++ s.vrowCheck a ++ s.rowPoison a)
  · rw [List.append_assoc, State.vrowCheck_eq_nil hd]
    exact State.srcChecks_eq_nil ha
  · have helems (f : Nat → Nat → Nat) (n : Nat) (hn : n ≤ (s.vtype a).count) : List.zipWith f (s.draws n) (s.velems (s.vtype a) a) =
        (List.range n).map fun e => f (drawOf s e) (elem (s.vtype a) (s.vget a).data e) := by
      rw [State.velems_eq_map, State.draws_eq_map]
      refine List.ext_getElem (by simpa using hn) fun e _ _ => by simp
    rw [← helems _ _ (Nat.min_le_right ..)]
    rfl

theorem State.sfnOp_of_float {s : State} {f : SpecialFn} {d a : BitVec 6} (hfloat : (s.vtype d).isFloat = true) :
    s.sfnOp f d a = s.vecOp 12 d [a] [] (s.map1 d a (f.elem (s.vtype d) s.iss.st.satBit)) [] := by
  rw [State.sfnOp, hfloat]
  rfl

/-- The one fault of a special function on a row of integers, its rows being in order. -/
theorem State.sfnOp_of_integer {s : State} {f : SpecialFn} {d a : BitVec 6} (hg : s.iss.guard = true) (hd : rowClaimed s d)
    (ha : source s (s.vtype d) a) (hint : (s.vtype d).isFloat = false) :
    ∃ t, s.sfnOp f d a = .next t ∧ t.iss.raised = s.iss.raised ++ illegalIf s true := by
  refine ⟨_, congrArg Host.Outcome.next (State.slotDone_of_guard hg ..), congrArg (s.iss.raised ++ ·) ?_⟩
  rw [State.vrowCheck_eq_nil hd, failed_badOperand, hint]
  simp [State.srcChecks_eq_nil ha, State.typeCheck_eq_nil (State.vtype_of_source ha), State.rowCheck_of_source ha]

theorem specialFunctions : SpecialFunctions := by
  intro s d a f hg hd ty op ha
  have hexec : exec op s = s.sfnOp f d a := by cases f <;> rfl
  refine ⟨fun hfloat => ?_, fun hint => ?_⟩
  · exact State.map1_writesRow hg hd ha (hexec.trans (State.sfnOp_of_float hfloat)) fun _ => rfl
  · rw [hexec]
    exact State.sfnOp_of_integer hg hd ha hint

/-! ### O14: RNGC -/

/-- The elements of lists of one length, one after the other. -/
theorem getD_flatMap_range {α : Type} (f : Nat → List α) {c : Nat} (hlen : ∀ k, (f k).length = c) (x : α) {n k i : Nat} (hk : k < n)
    (hi : i < c) : ((List.range n).flatMap f).getD (c * k + i) x = (f k).getD i x := by
  induction n with
  | zero => omega
  | succ n ih =>
    have hbefore : ((List.range n).flatMap f).length = c * n := by simp [List.length_flatMap, hlen, Nat.mul_comm]
    rw [List.range_succ, List.flatMap_append, List.flatMap_singleton]
    rcases Nat.lt_succ_iff_lt_or_eq.mp hk with hlt | rfl
    · have hin : c * k + i < ((List.range n).flatMap f).length :=
        calc c * k + i < c * (k + 1) := by rw [Nat.mul_succ]; omega
          _ ≤ c * n := Nat.mul_le_mul_left _ hlt
          _ = _ := hbefore.symm
      rw [List.getD_append _ _ _ _ hin, ih hlt]
    · rw [List.getD_append_right _ _ _ _ (by omega), hbefore, Nat.add_sub_cancel_left]

/-- The words that RNGC lists (R444). -/
def State.rngcWords (s : State) (a b : BitVec 6) : List Nat :=
  (List.range 32).flatMap fun blk => philoxWords (reg s a) (wbits (reg s b) 0 32, wbits (reg s b) 32 32, blk, 0)

theorem random : Random := by
  intro s d a b hg hd ha hb
  refine ⟨rowOfElems .f32 (s.rngcWords a b), ?_, fun blk i hblk hi => ?_⟩
  · rw [exec, execRngc, State.vrowCheck_eq_nil hd, State.poisonChecks_two ha hb, State.slotDone_of_guard hg]
    rfl
  · have helem := elem_rowOfElems (ty := .f32) (s.rngcWords a b) (e := 4 * blk + i) (show 4 * blk + i < 128 by omega)
    rw [State.rngcWords, getD_flatMap_range (c := 4) _ (fun _ => rfl) 0 hblk hi] at helem
    rw [show 128 * blk + 32 * i = 32 * (4 * blk + i) by ring]
    exact helem

/-- Settles O14: VCVT, the special functions and RNGC. -/
theorem conversionsAndFunctions : Obligations.ConversionsAndFunctions := ⟨vectorConvert, specialFunctions, random⟩

end Sys2Proof.Machine

/-! # O35 and O36: the fault that is reported, its record, and taking faults of a team -/

namespace Sys2Proof.Machine

open Sys2Proof.Claims

/-! ### O35: the first fault -/

/-- The order in which faults are reported (R280). -/
def Raised.AtMost (r q : Raised) : Prop :=
  r.point.rank < q.point.rank ∨ r.point.rank = q.point.rank ∧
    (r.cause.rank < q.cause.rank ∨ r.cause.rank = q.cause.rank ∧ r.slot ≤ q.slot)

theorem Raised.before_iff (r q : Raised) : r.before q = true ↔ r.AtMost q := by simp [Raised.before, Raised.AtMost]

theorem Raised.AtMost.refl (r : Raised) : r.AtMost r := .inr ⟨rfl, .inr ⟨rfl, le_rfl⟩⟩

theorem Raised.AtMost.trans {p q r : Raised} (h : p.AtMost q) (k : q.AtMost r) : p.AtMost r := by
  unfold Raised.AtMost at *
  omega

theorem Raised.AtMost.of_not {r q : Raised} (h : ¬ r.AtMost q) : q.AtMost r := by
  unfold Raised.AtMost at *
  omega

theorem firstFault_least (l : List Raised) (hl : l ≠ []) : ∃ r ∈ l, firstFault l = some r ∧ ∀ q ∈ l, r.AtMost q := by
  induction l with
  | nil => exact absurd rfl hl
  | cons x l ih =>
    by_cases hnil : l = []
    · subst hnil
      exact ⟨x, List.mem_singleton_self x, rfl, List.forall_mem_singleton.mpr (.refl x)⟩
    · obtain ⟨r, hr, hfirst, hleast⟩ := ih hnil
      rw [firstFault, hfirst]
      by_cases hx : x.AtMost r
      · exact ⟨x, List.mem_cons_self, congrArg some (if_pos ((x.before_iff r).mpr hx)),
          List.forall_mem_cons.mpr ⟨.refl x, fun q hq => hx.trans (hleast q hq)⟩⟩
      · exact ⟨r, List.mem_cons_of_mem x hr, congrArg some (if_neg (mt (x.before_iff r).mp hx)),
          List.forall_mem_cons.mpr ⟨.of_not hx, hleast⟩⟩

/-! ### O35: classes and codes -/

/-- The causes of R279, in their order. -/
def Cause.all : List Cause := (List.range 60).map Cause.ofNat

theorem Cause.mem_all (c : Cause) : c ∈ Cause.all := by cases c <;> decide

theorem Cause.nodup_codes : (Cause.all.map Cause.code).Nodup := by decide

theorem Cause.code_injective : Function.Injective Cause.code := fun c d h => List.inj_on_of_nodup_map nodup_codes c.mem_all d.mem_all h

theorem Cause.code_bounds : ∀ c ∈ Cause.all, 1 ≤ c.code.1 ∧ c.code.1 ≤ 11 ∧ 1 ≤ c.code.2 ∧ c.code.2 < 256 := by decide

theorem faultCodes : FaultCodes := ⟨fun _ _ h => Cause.code_injective h, fun c => Cause.code_bounds c c.mem_all⟩

/-! ### O35: the fields of a record -/

/-- The fields of a strand's record, lowest first (R286). -/
def State.recordFields (s : State) (t : Team) (strand pc : Nat) (r : Raised) (xpce : Word) : List (Nat × Nat) :=
  [(4, r.cause.code.1), (8, r.cause.code.2), (1, 0), (1, 0), (1, 0), (1, 0), (8, t.ctx), (4, strand), (16, t.index),
   (2, t.strandTower strand), (2, t.strandCore strand), (16, 0), (18, pc), (3, r.slot),
   (1, match s.strand t.id strand with | some x => if x.mode == .timed then 1 else 0 | none => 0),
   (1, if s.inFabricSection t.id then 1 else 0), (1, 0), (40, t.tcyc), (64, s.cyc),
   (64, match s.grid t.grid with | some x => x.launch.hash.toNat | none => 0),
   (64, match s.grid t.grid with | some x => x.lrec.toNat | none => 0),
   (64, xpce.toNat), (64, r.detail.toNat), (8, 0), (8, 0), (8, r.pctx), (2, r.pcause), (38, 0)]

/-- Their widths. -/
def recordWidths : List Nat :=
  [4, 8, 1, 1, 1, 1, 8, 4, 16, 2, 2, 16, 18, 3, 1, 1, 1, 40, 64, 64, 64, 64, 64, 8, 8, 8, 2, 38]

theorem State.recordFields_widths (s : State) (t : Team) (strand pc : Nat) (r : Raised) (xpce : Word) :
    (s.recordFields t strand pc r xpce).map Prod.fst = recordWidths := rfl

/-- The fields fill the 512 bits of a record. -/
theorem State.toNat_strandRecord (s : State) (t : Team) (strand pc : Nat) (r : Raised) (xpce : Word) :
    (s.strandRecord t strand pc r xpce).toNat = packFields (s.recordFields t strand pc r xpce) := by
  have hlt := packFields_lt (s.recordFields t strand pc r xpce)
  rw [s.recordFields_widths, show recordWidths.sum = 512 by decide] at hlt
  exact (BitVec.toNat_ofNat ..).trans (Nat.mod_eq_of_lt hlt)

/-- A field of a strand's record, by its number. -/
theorem State.bits_strandRecord (s : State) (t : Team) (strand pc : Nat) (r : Raised) (xpce : Word) {k w v lo : Nat}
    (hk : (s.recordFields t strand pc r xpce)[k]? = some (w, v)) (hlo : (recordWidths.take k).sum = lo) :
    bits (s.strandRecord t strand pc r xpce).toNat lo w = v % 2 ^ w := by
  rw [s.toNat_strandRecord, ← hlo, ← s.recordFields_widths t strand pc r xpce, ← List.map_take]
  exact bits_packFields hk

/-- Two fields side by side. -/
theorem bits_add (x lo m n : Nat) : bits x lo (m + n) = bits x lo m + 2 ^ m * bits x (lo + m) n := by
  rw [bits, bits, bits, pow_add, Nat.mod_mul, pow_add, Nat.div_div_eq_div_mul]

theorem recordFields : RecordFields := by
  intro s t strand pc r xpce
  obtain ⟨_, hcls, _, hcode⟩ := Cause.code_bounds r.cause r.cause.mem_all
  have field (k lo : Nat) {w v : Nat} := s.bits_strandRecord t strand pc r xpce (k := k) (w := w) (v := v) (lo := lo)
  refine ⟨?_, ?_, ?_, ?_, ?_, ?_, ?_, ?_, ?_, ?_, ?_, ?_, ?_, ?_, ?_, ?_⟩
  · exact (field 0 0 rfl (by decide)).trans (Nat.mod_eq_of_lt (by omega))
  · exact (field 1 4 rfl (by decide)).trans (Nat.mod_eq_of_lt hcode)
  · rw [bits_add _ 12 1 1, field 2 12 (v := 0) rfl (by decide), field 3 (12 + 1) (v := 0) rfl (by decide)]
    rfl
  · exact field 6 16 rfl (by decide)
  · exact field 7 24 rfl (by decide)
  · exact field 8 28 rfl (by decide)
  · exact field 9 44 rfl (by decide)
  · exact field 10 46 rfl (by decide)
  · exact field 12 64 rfl (by decide)
  · exact field 13 82 rfl (by decide)
  · exact field 17 88 rfl (by decide)
  · exact field 18 128 rfl (by decide)
  · exact (field 21 320 rfl (by decide)).trans (Nat.mod_eq_of_lt xpce.isLt)
  · exact (field 22 384 rfl (by decide)).trans (Nat.mod_eq_of_lt r.detail.isLt)
  · exact field 25 464 rfl (by decide)
  · exact field 26 472 rfl (by decide)

/-- Settles O35: the least of the faults found, the codes of all causes, and the record as packed fields. -/
theorem faultsAndRecords : Obligations.FaultsAndRecords := ⟨firstFault_least, faultCodes, recordFields⟩

/-! ### O36: a record is added -/

theorem length_insertRecord (p : PendingRecord) (l : List PendingRecord) : (insertRecord p l).length = l.length + 1 := by
  induction l with
  | nil => rfl
  | cons q l ih =>
    rw [insertRecord]
    split
    · rfl
    · rw [List.length_cons, ih, List.length_cons]

theorem sublist_insertRecord (p : PendingRecord) (l : List PendingRecord) : l.Sublist (insertRecord p l) := by
  induction l with
  | nil => exact List.nil_sublist _
  | cons q l ih =>
    rw [insertRecord]
    split
    · exact List.sublist_cons_self p _
    · exact ih.cons_cons q

/-- Only the contexts and the grids differ. -/
def State.RecordsOnly (s u : State) : Prop := ∃ contexts grids, u = { s with contexts, grids }

theorem State.RecordsOnly.refl (s : State) : s.RecordsOnly s := ⟨_, _, rfl⟩

theorem State.RecordsOnly.trans {s u v : State} (h : s.RecordsOnly u) (k : u.RecordsOnly v) : s.RecordsOnly v := by
  obtain ⟨_, _, rfl⟩ := h
  obtain ⟨c, g, rfl⟩ := k
  exact ⟨c, g, rfl⟩

theorem State.countRecord_grids (s : State) (p : PendingRecord) : ∃ grids, s.countRecord p = { s with grids } := by
  unfold State.countRecord
  split
  · exact ⟨_, rfl⟩
  · dsimp only
    split
    · split
      · exact ⟨_, rfl⟩
      · exact ⟨_, rfl⟩
    · split
      · exact ⟨_, rfl⟩
      · exact ⟨_, rfl⟩

theorem State.countRecord_contexts (s : State) (p : PendingRecord) : (s.countRecord p).contexts = s.contexts := by
  obtain ⟨g, hg⟩ := s.countRecord_grids p
  rw [hg]

theorem State.addRecord_recordsOnly (s : State) (ctx : Nat) (p : PendingRecord) : s.RecordsOnly (s.addRecord ctx p) := by
  unfold State.addRecord
  split
  · exact .refl s
  · next c _ =>
    split
    · exact .refl s
    · obtain ⟨g, hg⟩ := (s.setContext { c with records := insertRecord p c.records }).countRecord_grids p
      exact ⟨_, g, hg⟩

/-- A context up to the records it has still to write: `n` more, unless it is being destroyed (R304). -/
def Context.Logged (x y : Context) (n : Nat) : Prop :=
  ∃ records, y = { x with records } ∧ x.records.Sublist records ∧ records.length = x.records.length + if x.destroying then 0 else n

theorem Context.Logged.refl (x : Context) : x.Logged x 0 := ⟨_, rfl, .refl _, by simp⟩

theorem Context.Logged.trans {x y z : Context} {m n : Nat} (h : x.Logged y m) (k : y.Logged z n) : x.Logged z (m + n) := by
  obtain ⟨_, rfl, hsub, hlen⟩ := h
  obtain ⟨l, rfl, hsub', hlen'⟩ := k
  refine ⟨l, rfl, hsub.trans hsub', ?_⟩
  rw [hlen', hlen]
  split
  · rfl
  · exact Nat.add_assoc ..

theorem State.context_addRecord {s : State} {ctx : Nat} {x : Context} (hx : s.context ctx = some x) (p : PendingRecord) :
    ∃ y, (s.addRecord ctx p).context ctx = some y ∧ x.Logged y 1 := by
  have hnum : x.num = ctx := by simpa using List.find?_some hx
  subst hnum
  rw [State.addRecord, hx]
  dsimp only
  by_cases hd : x.destroying = true
  · rw [if_pos hd]
    exact ⟨x, hx, _, rfl, .refl _, by simp [hd]⟩
  · rw [if_neg hd]
    refine ⟨{ x with records := insertRecord p x.records }, ?_, _, rfl, sublist_insertRecord p _, by simp [hd, length_insertRecord]⟩
    rw [State.context, State.countRecord_contexts]
    exact s.context_setContext { x with records := insertRecord p x.records } (by simp [hx])

/-! ### O36: the records of the faults -/

/-- The record of one of the faults that a team takes: strand, bundle offset, fault and XPC entry. -/
def State.faultRecord (s : State) (t : Team) (e : Nat × Nat × Raised × Word) : PendingRecord :=
  { team := some t.id, grid := some t.grid, strand := e.1, words := s.strandRecord t e.1 e.2.1 e.2.2.1 e.2.2.2, ready := false,
    keep := e.2.2.1.cause.freezes }

/-- All their records are added (R285). -/
def State.recordFaults (s : State) (t : Team) (l : List (Nat × Nat × Raised × Word)) : State :=
  l.foldl (fun s e => s.addRecord t.ctx (s.faultRecord t e)) s

theorem State.recordFaults_recordsOnly (s : State) (t : Team) (l : List (Nat × Nat × Raised × Word)) : s.RecordsOnly (s.recordFaults t l) := by
  induction l generalizing s with
  | nil => exact .refl s
  | cons e l ih => exact (s.addRecord_recordsOnly ..).trans (ih _)

theorem State.context_recordFaults {s : State} {t : Team} {x : Context} (hx : s.context t.ctx = some x) (l : List (Nat × Nat × Raised × Word)) :
    ∃ y, (s.recordFaults t l).context t.ctx = some y ∧ x.Logged y l.length := by
  induction l generalizing s x with
  | nil => exact ⟨x, hx, .refl x⟩
  | cons e l ih =>
    obtain ⟨y, hy, hlogged⟩ := State.context_addRecord hx (s.faultRecord t e)
    obtain ⟨z, hz, hlogged'⟩ := ih hy
    exact ⟨z, hz, by simpa [Nat.add_comm] using hlogged.trans hlogged'⟩

/-! ### O36: the team stops -/

/-- A team that takes faults, some of them of a cause that leaves no way back or none. -/
def Team.faulting (t : Team) (stop : Nat) (hard inSection : Bool) : Team :=
  { t with
    st := match t.st with
      | .stopping a f => .stopping (min a stop) (f || hard)
      | .resident => .stopping stop hard
      | x => x
    faulted := true
    nores := t.nores || inSection }

theorem State.takeFault_of_team {s : State} {t : Team} (ht : s.team t.id = some t) (stop : Nat) (l : List (Nat × Nat × Raised × Word)) :
    let v := (s.recordFaults t l).setTeam (t.faulting stop (l.any fun e => !e.2.2.1.cause.freezes) (s.inFabricSection t.id))
    s.takeFault t.id stop l = if stop ≤ t.tcyc then v.freezeStrands t.id else v := by
  obtain ⟨_, _, hrec⟩ := s.recordFaults_recordsOnly t l
  have hsection : (s.recordFaults t l).inFabricSection t.id = s.inFabricSection t.id := by rw [hrec]; rfl
  rw [State.takeFault, ht, ← hsection]
  rfl

theorem State.strands_freezeStrands (s : State) (team : Nat) : (s.freezeStrands team).strands =
    s.strands.map fun x => if x.team = team ∧ x.st ≠ .retired ∧ x.st ≠ .frozen then { x with st := .frozen, prior := x.st } else x := by
  refine List.map_congr_left fun x _ => ?_
  by_cases hteam : x.team = team
  · by_cases hlive : x.st = .retired ∨ x.st = .frozen
    · obtain hst | hst := hlive <;> simp [hteam, hst]
    · push Not at hlive
      simp [hteam, hlive]
  · simp [hteam]

/-- What taking faults changes: contexts and grids by the records, the team, and the strands where the stop cycle is not to come. -/
theorem State.takeFault_frame {s : State} {t : Team} (ht : s.team t.id = some t) (stop : Nat) (l : List (Nat × Nat × Raised × Word)) :
    let v := (s.recordFaults t l).setTeam (t.faulting stop (l.any fun e => !e.2.2.1.cause.freezes) (s.inFabricSection t.id))
    ∃ strands, s.takeFault t.id stop l = { s with contexts := v.contexts, grids := v.grids, teams := v.teams, strands } ∧
      strands = if stop ≤ t.tcyc then (s.freezeStrands t.id).strands else s.strands := by
  obtain ⟨_, _, hrec⟩ := s.recordFaults_recordsOnly t l
  rw [State.takeFault_of_team ht, hrec]
  split
  · exact ⟨_, rfl, rfl⟩
  · exact ⟨_, rfl, rfl⟩

theorem State.team_recordFaults (s : State) (t : Team) (l : List (Nat × Nat × Raised × Word)) (id : Nat) :
    (s.recordFaults t l).team id = s.team id := by
  obtain ⟨_, _, hrec⟩ := s.recordFaults_recordsOnly t l
  rw [hrec]
  rfl

/-- Settles O36: the records, the team that stops, and its strands. -/
theorem takingFaults : Obligations.TakingFaults := by
  intro s t stop l ht
  dsimp only
  obtain ⟨strands, hu, hstrands⟩ := State.takeFault_frame ht stop l
  rw [hu]
  refine ⟨⟨t.faulting stop (l.any fun e => !e.2.2.1.cause.freezes) (s.inFabricSection t.id), ?_, ?_, ?_, rfl, rfl, rfl, rfl, rfl⟩, fun hstop => ?_,
    fun hstop => ?_, fun x hx => ?_, rfl, rfl, rfl, rfl, rfl, rfl, fun id hid => ?_⟩
  · exact State.team_setTeam _ (t.faulting ..) (by rw [State.team_recordFaults]; exact Option.isSome_iff_exists.mpr ⟨t, ht⟩)
  · intro hst
    rw [Team.faulting, hst]
  · intro a f hst
    rw [Team.faulting, hst]
  · exact hstrands.trans ((if_pos hstop).trans (s.strands_freezeStrands t.id))
  · exact hstrands.trans (if_neg (Nat.not_le.mpr hstop))
  · obtain ⟨y, hy, _, rfl, hsub, hlen⟩ := State.context_recordFaults hx l
    exact ⟨_, hy, hlen, hsub, rfl, rfl⟩
  · exact (State.team_setTeam_ne _ (t.faulting ..) id hid).trans (State.team_recordFaults ..)

end Sys2Proof.Machine

/-! # The host port (O60)

Every request goes through `State.onPair`: its branches are lemmas here, and a request on a window is one on the pair with the context found. -/

namespace Sys2Proof.Machine
open Sys2Proof.Claims

variable {s : State} {r : RdmaRequest} {ctx n : Nat}

theorem exec_rdmaWrite (r : RdmaRequest) (s : State) : exec (.rdmaWrite r) s = execRdmaWrite r s := rfl

theorem exec_rdmaRead (r : RdmaRequest) (s : State) : exec (.rdmaRead r) s = execRdmaRead r s := rfl

theorem exec_atomicFetchAdd (r : RdmaRequest) (s : State) : exec (.atomicFetchAdd r) s = s.rdmaAtomic r 0 := rfl

theorem exec_atomicCmpSwap (r : RdmaRequest) (s : State) : exec (.atomicCmpSwap r) s = s.rdmaAtomic r 2 := rfl

theorem exec_roceInvalidRequest (r : RdmaRequest) (s : State) :
    exec (.roceInvalidRequest r) s = s.onPair r 0 fun s _ => s.nak r.qp 0 := rfl

/-! ### Requests in their order -/

/-- A request in its turn acts on the state in which its pair has gone on (R300). -/
theorem State.onPair_of_onTurn (h : onTurn s r ctx) (f : State → QueuePair → State) :
    s.onPair r n f = .next (f (pairOn s r ctx n) { ctx, psn := r.psn }) := by
  obtain ⟨hboot, hsak, hvlan, hqp⟩ := h
  simp [State.onPair, State.frame, hsak, hboot, hvlan, hqp, pairOn]

@[simp] theorem State.context_pairOn (k : Nat) : (pairOn s r ctx n).context k = s.context k := rfl

/-- The context of a request is its pair's where the R_Key names that context (R300). -/
theorem State.rdmaContext_pairOn {x : Context} (hx : s.context x.num = some x) (hd : x.destroying = false)
    (hk : (r.rkey.extractLsb' 16 8).toNat = x.num) : (pairOn s r x.num n).rdmaContext x.num r = some x := by
  simp [State.rdmaContext, hx, hd, hk]

/-- An R_Key that names another context finds none (R300). -/
theorem State.rdmaContext_of_ne (hk : (r.rkey.extractLsb' 16 8).toNat ≠ ctx) : s.rdmaContext ctx r = none := by
  unfold State.rdmaContext
  cases s.context ctx with
  | none => rfl
  | some x => simp only [hk, decide_false, Bool.false_and, Bool.false_eq_true, if_false]

/-- A request in its turn on a window of its pair's own context. -/
theorem State.rdma_of_onTurn {x : Context} (h : onTurn s r x.num) (hx : s.context x.num = some x) (hd : x.destroying = false)
    (hk : (r.rkey.extractLsb' 16 8).toNat = x.num) (f : State → Context → State) : s.rdma r n f = .next (f (pairOn s r x.num n) x) := by
  simp [State.rdma, State.onPair_of_onTurn h, State.rdmaContext_pairOn hx hd hk]

/-- A request in its turn whose R_Key names another context is a remote access error (R300). -/
theorem State.rdma_of_otherKey (h : onTurn s r ctx) (hk : (r.rkey.extractLsb' 16 8).toNat ≠ ctx) (f : State → Context → State) :
    s.rdma r n f = .next ((pairOn s r ctx n).nak r.qp 1) := by
  simp [State.rdma, State.onPair_of_onTurn h, State.rdmaContext_of_ne hk]

/-- A misaligned atomic is an invalid request (R300). -/
theorem State.rdmaAtomic_of_misaligned (h : onTurn s r ctx) (hva : r.va.toNat % 8 ≠ 0) (op : Nat) :
    s.rdmaAtomic r op = .next ((pairOn s r ctx 8).nak r.qp 0) := by
  rw [State.rdmaAtomic, if_pos hva, State.onPair_of_onTurn h]

theorem State.rdmaAtomic_of_otherKey (h : onTurn s r ctx) (hk : (r.rkey.extractLsb' 16 8).toNat ≠ ctx) (hva : r.va.toNat % 8 = 0) (op : Nat) :
    s.rdmaAtomic r op = .next ((pairOn s r ctx 8).nak r.qp 1) := by
  rw [State.rdmaAtomic, if_neg (not_not.mpr hva), State.rdma_of_otherKey h hk]

/-! ### Requests that are not performed -/

/-- A frame that fails MACsec is dropped and counted (R299). -/
theorem State.onPair_of_badFrame (h : r.frame.sak ≠ s.keep.sak) (f : State → QueuePair → State) :
    s.onPair r n f = .next { s with keep := { s.keep with dropped := s.keep.dropped + 1 } } := by
  simp [State.onPair, State.frame, h]

/-- A valid frame does nothing where the keep does not run, on the management VLAN, on no queue pair, or out of the pair's order. -/
theorem State.onPair_of_outOfTurn (hsak : r.frame.sak = s.keep.sak)
    (h : s.keep.boot ≠ .running ∨ r.frame.vlan = s.flash.mgmtVlan ∨ SMap.get none s.keep.qps r.qp = none ∨
      ∃ q, SMap.get none s.keep.qps r.qp = some q ∧ q.psn ≠ r.psn) (f : State → QueuePair → State) :
    s.onPair r n f = .next s := by
  simp only [State.onPair, State.frame, hsak, if_true]
  obtain hboot | hvlan | hqp | ⟨q, hqp, hpsn⟩ := h
  · simp [hboot]
  · simp [hvlan]
  · simp [hqp]
  · simp [hqp, hpsn.symm]

theorem State.rdma_eq_onPair (s : State) (r : RdmaRequest) (n : Nat) (f : State → Context → State) : ∃ g, s.rdma r n f = s.onPair r n g :=
  ⟨_, rfl⟩

theorem State.rdmaAtomic_eq_onPair (s : State) (r : RdmaRequest) (op : Nat) : ∃ f, s.rdmaAtomic r op = s.onPair r 8 f := by
  unfold State.rdmaAtomic
  split
  · exact ⟨_, rfl⟩
  · exact State.rdma_eq_onPair s r 8 _

/-- Each of the host port's requests is one on its queue pair (R300). -/
theorem exec_eq_onPair (s : State) (r : RdmaRequest) :
    ∀ i ∈ [Instr.rdmaWrite r, .rdmaRead r, .atomicFetchAdd r, .atomicCmpSwap r, .roceInvalidRequest r],
      ∃ n f, exec i s = s.onPair r n f := by
  simp only [List.forall_mem_cons]
  refine ⟨?_, ?_, ⟨8, State.rdmaAtomic_eq_onPair s r 0⟩, ⟨8, State.rdmaAtomic_eq_onPair s r 2⟩, ⟨_, _, exec_roceInvalidRequest r s⟩, by simp⟩
  · rw [exec_rdmaWrite, execRdmaWrite]
    exact ⟨_, State.rdma_eq_onPair s r _ _⟩
  · rw [exec_rdmaRead, execRdmaRead]
    exact ⟨_, State.rdma_eq_onPair s r _ _⟩

/-! ### Answers -/

/-- Bytes of one path MTU are one packet (R300). -/
theorem packetCount_of_le {n : Nat} (h : n ≤ 4096) : packetCount n = 1 := by
  unfold packetCount
  omega

theorem State.rdmaAnswer_of_le (s : State) (qp : Nat) {bs : List Byte} (h : bs.length ≤ 4096) :
    s.rdmaAnswer qp bs = { s with out := s.out ++ [.rdmaReply qp bs] } := by
  simp [State.rdmaAnswer, packetCount_of_le h, List.take_of_length_le h]

/-! ### The obligation -/

/-- Settles O60: the outcome of the access to the window picks the answer, and the four ways not to be in turn are those of `State.onPair`. -/
theorem hostPort : Obligations.HostPort := by
  refine ⟨fun s r x h hx hd hk => ?_, fun s u qp bs hu => ?_, fun s r n h => ?_, fun s r i hi => ?_⟩
  · refine ⟨fun u hu => ?_, fun k hu => ?_, fun g hg => ⟨fun hp => ?_, fun hp => ?_⟩, fun k hg => ?_, fun hva => ?_⟩
    · rw [exec_rdmaWrite, execRdmaWrite, State.rdma_of_onTurn h hx hd hk, rdmaWindow, hu]
    · rw [exec_rdmaWrite, execRdmaWrite, State.rdma_of_onTurn h hx hd hk, rdmaWindow, hu]
    · rw [exec_rdmaRead, execRdmaRead, State.rdma_of_onTurn h hx hd hk, rdmaWindow, hg]
      simp only [hp, Bool.false_eq_true, if_false]
    · rw [exec_rdmaRead, execRdmaRead, State.rdma_of_onTurn h hx hd hk, rdmaWindow, hg]
      simp only [hp, if_true]
    · rw [exec_rdmaRead, execRdmaRead, State.rdma_of_onTurn h hx hd hk, rdmaWindow, hg]
    · refine ⟨fun u old ha => ?_, fun u old ha => ?_, fun u ha => ?_, fun k ha => ?_⟩
      · rw [exec_atomicFetchAdd, State.rdmaAtomic, if_neg (not_not.mpr hva), State.rdma_of_onTurn h hx hd hk, rdmaWindow, ha]
      · rw [exec_atomicCmpSwap, State.rdmaAtomic, if_neg (not_not.mpr hva), State.rdma_of_onTurn h hx hd hk, rdmaWindow, ha]
      · rw [exec_atomicFetchAdd, State.rdmaAtomic, if_neg (not_not.mpr hva), State.rdma_of_onTurn h hx hd hk, rdmaWindow, ha]
      · rw [exec_atomicCmpSwap, State.rdmaAtomic, if_neg (not_not.mpr hva), State.rdma_of_onTurn h hx hd hk, rdmaWindow, ha]
  · subst hu
    exact ⟨State.rdmaAnswer_of_le s qp, rfl⟩
  · exact ⟨fun hva => ⟨State.rdmaAtomic_of_misaligned h hva 0, State.rdmaAtomic_of_misaligned h hva 2⟩,
      fun hk => ⟨(exec_rdmaWrite r s).trans (State.rdma_of_otherKey h hk _), (exec_rdmaRead r s).trans (State.rdma_of_otherKey h hk _),
        fun hva => ⟨State.rdmaAtomic_of_otherKey h hk hva 0, State.rdmaAtomic_of_otherKey h hk hva 2⟩⟩,
      (exec_roceInvalidRequest r s).trans (State.onPair_of_onTurn h _)⟩
  · obtain ⟨n, f, hf⟩ := exec_eq_onPair s r i hi
    rw [hf]
    exact ⟨fun hsak => State.onPair_of_badFrame hsak f, fun hsak h => State.onPair_of_outOfTurn hsak h f⟩

end Sys2Proof.Machine

/-! # The governor (O57)

The towers are an array of four, so an evaluation is seen through `State.tower_setTower`; a thermal trip folds over the placed teams, each of which
leaves the team and the strands of every other. -/

namespace Sys2Proof.Machine

/-! ### The towers and their steps -/

theorem State.tower_setTower_ne (s : State) {i k : Nat} (hk : k < 4) (h : k ≠ i) (tw : Tower) :
    (s.setTower i tw).tower k = s.tower k := by
  have hne : (Fin.ofNat 4 k).val ≠ i := by simpa [Nat.mod_eq_of_lt hk] using h
  simp only [State.tower, State.setTower, Vector.get_eq_getElem]
  exact Vector.getElem_setIfInBounds_ne _ hne.symm

theorem State.tower_mapTowers (s : State) (f : Tower → Tower) (i : Nat) : (s.mapTowers f).tower i = f (s.tower i) := by
  simp [State.tower, State.mapTowers, Vector.get_eq_getElem]

/-- A tower's change of step (R309). -/
theorem State.tower_setStep (s : State) {i : Nat} (hi : i < 4) (n : Nat) :
    ((s.setStep i n).tower i).step = n ∧ ((s.setStep i n).tower i).deferred = false := by
  unfold State.setStep
  dsimp only
  split
  · next hstep =>
    rw [s.tower_setTower hi]
    exact ⟨hstep, rfl⟩
  · have hset := s.tower_setTower hi { s.tower i with step := n, chg := ((s.tower i).chg + 1) % 2 ^ 16, deferred := false }
    exact ⟨congrArg Tower.step hset, congrArg Tower.deferred hset⟩

theorem exec_govstepDeferredRise (i : Nat) (s : State) : exec (.govstepDeferredRise i) s =
    .next (if i < 4 && (s.tower i).deferred && s.cyc % s.fabric.round = 0 then s.setStep i (s.gangStep i) else s) := rfl

/-- The desired step below 92 degrees, in the first band and from the last one on (R309). -/
theorem desiredStep_bands (t : Nat) :
    (t < 5888 → desiredStep t = 0) ∧ (5888 ≤ t → t < 5984 → desiredStep t = 1) ∧ (6560 ≤ t → desiredStep t = 8) := by
  unfold desiredStep
  refine ⟨fun h => if_pos h, fun h h' => ?_, fun h => ?_⟩
  · rw [if_neg (by omega)]
    omega
  · rw [if_neg (by omega)]
    omega

/-! ### Evaluations -/

/-- The step that an evaluation requires (R309, R311, R313). -/
def Tower.required (t : Tower) (coolantLow : Bool) (tmax : Nat) (overPower : Bool) : Nat :=
  let d := if overPower then min 8 (max (desiredStep tmax) (t.step + 1)) else desiredStep tmax
  if coolantLow || (t.tripped && t.step != 8) then 8 else if t.step < d then t.step + 1
  else if !overPower && desiredStep (tmax + 128) < t.step then t.step - 1 else t.step

theorem Tower.required_top {t : Tower} {low : Bool} (h : low = true ∨ (t.tripped = true ∧ t.step ≠ 8)) (tmax : Nat) (power : Bool) :
    t.required low tmax power = 8 := by
  simp [Tower.required, h]

theorem Tower.required_byHeat {t : Tower} (h : ¬(t.tripped = true ∧ t.step ≠ 8)) (tmax : Nat) :
    t.required false tmax false = if t.step < desiredStep tmax then t.step + 1
      else if desiredStep (tmax + 128) < t.step then t.step - 1 else t.step := by
  simp [Tower.required, h]

theorem Tower.required_byPower {t : Tower} (h : ¬(t.tripped = true ∧ t.step ≠ 8)) (tmax : Nat) (hstep : t.step < 8) :
    t.required false tmax true = t.step + 1 := by
  have hd : t.step < min 8 (max (desiredStep tmax) (t.step + 1)) := by omega
  simp only [Tower.required, if_true, if_pos hd]
  simp [h]

/-- An evaluation as the sensors read and of the one mean power (R309, R311). -/
theorem exec_governorEvaluate {s : State} {i tmax : Nat} {power : Bool} (hi : i < 4) (hcyc : s.cyc % 2 ^ 16 = 0)
    (htmax : tmax = s.tmaxOf i) (hpower : s.keep.power ≠ some (s.cyc, !power)) :
    exec (.governorEvaluate i tmax power) s = .next ({ s with keep := { s.keep with power := some (s.cyc, power) } }.setTower i
      { s.tower i with want := (s.tower i).required s.keep.coolantLow tmax power, tmax := tmax % 2 ^ 16 }) := by
  have hagrees : s.keep.power.all (fun p => p.1 != s.cyc || p.2 == power) = true := by
    match hp : s.keep.power with
    | none => rfl
    | some (cyc, above) =>
      by_cases hc : cyc = s.cyc
      · subst hc
        have habove : above ≠ !power := fun h => hpower (by rw [hp, h])
        simpa using habove
      · simp [hc]
  exact if_pos (by simp only [hi, hcyc, htmax, hagrees, decide_true, Bool.and_self])

/-- Any other evaluation does nothing. -/
theorem exec_governorEvaluate_other {s : State} {i tmax : Nat} {power : Bool}
    (h : tmax ≠ s.tmaxOf i ∨ s.cyc % 2 ^ 16 ≠ 0 ∨ s.keep.power = some (s.cyc, !power)) :
    exec (.governorEvaluate i tmax power) s = .next s := by
  refine if_neg ?_
  rw [Bool.and_eq_true, Bool.and_eq_true, Bool.and_eq_true, decide_eq_true_eq, decide_eq_true_eq, decide_eq_true_eq]
  rintro ⟨⟨⟨-, hcyc⟩, htmax⟩, hpower⟩
  obtain h | h | h := h
  · exact h htmax
  · exact h hcyc
  · simp [h] at hpower

/-! ### Sensors -/

theorem le_foldl_max {n : Nat} (l : List Nat) (a : Nat) : n ≤ l.foldl max a ↔ n ≤ a ∨ ∃ x ∈ l, n ≤ x := by
  induction l generalizing a with
  | nil => simp
  | cons x l ih => simp [ih, or_assoc]

/-- Whether a tower's hottest sensor reads so much (R309). -/
theorem State.le_tmaxOf {s : State} {tower n : Nat} (hn : 0 < n) :
    n ≤ s.tmaxOf tower ↔ ∃ k, k < 304 ∧ n ≤ SMap.get 0 s.sensors (tower * 304 + k) := by
  simp [State.tmaxOf, le_foldl_max, hn.ne', Nat.mul_comm]

/-- A reading below 105 degrees (R309, R311). -/
theorem exec_thermalTrip_below {s : State} {sensor temp : Nat} (hsensor : sensor < 1216) (htemp : temp < 6720) :
    let v := s.sense sensor temp
    let t := s.tower (sensor / 304)
    exec (.thermalTrip sensor temp) s = .next (v.setTower (sensor / 304) { t with
      coolSince := if !t.tripped || 6080 ≤ v.tmaxOf (sensor / 304) then none else if t.coolSince.isSome then t.coolSince else some s.cyc }) :=
  (if_neg (by omega)).trans (if_neg (by omega))

/-! ### Thermal trips -/

/-- What others leave of a team and of its strands that have not retired. -/
def State.seenOf (s : State) (id : Nat) : Option Team × List Strand := (s.team id, s.live id)

theorem State.RecordsOnly.seenOf {s u : State} (h : s.RecordsOnly u) (id : Nat) : u.seenOf id = s.seenOf id := by
  obtain ⟨_, _, rfl⟩ := h
  rfl

theorem State.seenOf_setTeam_ne (s : State) {t : Team} {id : Nat} (h : id ≠ t.id) : (s.setTeam t).seenOf id = s.seenOf id :=
  congrArg (·, s.live id) (s.team_setTeam_ne t id h)

/-- A change of elements that a filter drops is not seen in what it keeps. -/
theorem filter_map_of_fixed {α : Type} {p : α → Bool} {f : α → α} (hp : ∀ x, p (f x) = p x) (hf : ∀ x, p x = true → f x = x) (l : List α) :
    (l.map f).filter p = l.filter p := by
  rw [List.filter_map, show p ∘ f = p from funext hp]
  exact (List.map_congr_left fun x hx => hf x (List.mem_filter.mp hx).2).trans (List.map_id _)

theorem State.seenOf_freezeStrands_ne (s : State) {team id : Nat} (h : id ≠ team) : (s.freezeStrands team).seenOf id = s.seenOf id := by
  refine congrArg (s.team id, List.filter _ ·) (filter_map_of_fixed (fun x => ?_) (fun x hx => if_neg ?_) s.strands)
  · split
    · split <;> rfl
    · rfl
  · have hteam : x.team = id := by simpa using hx
    simpa [hteam] using h

theorem State.seenOf_takeFault_ne (s : State) {team id : Nat} (h : id ≠ team) (stop : Nat) (l : List (Nat × Nat × Raised × Word)) :
    (s.takeFault team stop l).seenOf id = s.seenOf id := by
  match ht : s.team team with
  | none => rw [State.takeFault, ht]
  | some t =>
    have hid : t.id = team := by simpa using List.find?_some ht
    subst hid
    have hset (hard inSection : Bool) : ((s.recordFaults t l).setTeam (t.faulting stop hard inSection)).seenOf id = s.seenOf id :=
      (State.seenOf_setTeam_ne _ (t := t.faulting stop hard inSection) h).trans ((s.recordFaults_recordsOnly t l).seenOf id)
    rw [State.takeFault_of_team ht]
    split
    · exact (State.seenOf_freezeStrands_ne _ h).trans (hset ..)
    · exact hset ..

/-- A trip of one team leaves every other (R281, R311). -/
theorem State.seenOf_tripTeam_ne (s : State) (tower detail : Nat) {t : Team} {id : Nat} (h : id ≠ t.id) :
    (s.tripTeam tower detail t).seenOf id = s.seenOf id := by
  unfold State.tripTeam
  dsimp only
  split
  · rfl
  · split
    · exact (State.seenOf_setTeam_ne _ (t := { t with st := .gone }) h).trans ((s.addRecord_recordsOnly ..).seenOf id)
    · exact State.seenOf_takeFault_ne s.chosen h _ _

theorem State.seenOf_foldl_tripTeam_ne (s : State) (tower detail id : Nat) (l : List Team) (h : ∀ t ∈ l, id ≠ t.id) :
    (l.foldl (fun s t => s.tripTeam tower detail t) s).seenOf id = s.seenOf id := by
  induction l generalizing s with
  | nil => rfl
  | cons t l ih =>
    rw [List.forall_mem_cons] at h
    exact (ih _ h.2).trans (s.seenOf_tripTeam_ne tower detail h.1)

/-- A resident team with a live strand on the tower stops within 64 cycles, and is not to resume (R282, R311). -/
theorem State.team_tripTeam {s : State} {t : Team} {tower : Nat} (ht : s.team t.id = some t) (hst : t.st = .resident)
    (hlive : ∃ x ∈ s.live t.id, t.strandTower x.index = tower) (detail : Nat) :
    ∃ y a, (s.tripTeam tower detail t).team t.id = some y ∧ y.st = .stopping a true ∧ t.tcyc < a ∧ a ≤ t.tcyc + 64 := by
  obtain ⟨z, hz, htower⟩ := hlive
  match hon : (s.live t.id).filter fun x => t.strandTower x.index = tower with
  | [] => exact absurd (List.mem_filter.mpr ⟨hz, by simpa using htower⟩) (hon ▸ List.not_mem_nil)
  | x :: on =>
    have hwithin := stopCycle_bounds t.tcyc s.choice
    have hin : (s.chosen.recordFaults t [(x.index, x.pc, Raised.of .thermalTrip .outside detail, 0)]).team t.id = some t :=
      (State.team_recordFaults ..).trans ht
    have htrip : s.tripTeam tower detail t = s.chosen.takeFault t.id (stopCycle (t.tcyc + 1) s.choice)
        [(x.index, x.pc, Raised.of .thermalTrip .outside detail, 0)] := by
      simp only [State.tripTeam, hon, hst]
      rfl
    refine ⟨t.faulting (stopCycle (t.tcyc + 1) s.choice) true (s.chosen.inFabricSection t.id), stopCycle (t.tcyc + 1) s.choice, ?_, ?_,
      hwithin.1, hwithin.2⟩
    · rw [htrip, State.takeFault_of_team (s := s.chosen) ht, if_neg (Nat.not_le.mpr hwithin.1)]
      exact State.team_setTeam _ (t.faulting ..) (Option.isSome_of_eq_some hin)
    · rw [Team.faulting, hst]

/-- After the trips of all placed teams, such a team stops (R311). -/
theorem State.team_foldl_tripTeam {s : State} {l : List Team} {t : Team} {tower : Nat} (hl : (l.map (·.id)).Nodup) (hmem : t ∈ l)
    (ht : s.team t.id = some t) (hst : t.st = .resident) (hlive : ∃ x ∈ s.live t.id, t.strandTower x.index = tower) (detail : Nat) :
    ∃ y a, (l.foldl (fun s t => s.tripTeam tower detail t) s).team t.id = some y ∧ y.st = .stopping a true ∧ t.tcyc < a ∧ a ≤ t.tcyc + 64 := by
  obtain ⟨l, m, rfl⟩ := List.append_of_mem hmem
  rw [List.map_append, List.map_cons, List.nodup_append, List.nodup_cons] at hl
  obtain ⟨-, ⟨hm, -⟩, hdisj⟩ := hl
  have hbefore := s.seenOf_foldl_tripTeam_ne tower detail t.id l fun x hx =>
    (hdisj _ (List.mem_map_of_mem hx) _ List.mem_cons_self).symm
  have hafter := fun u : State => u.seenOf_foldl_tripTeam_ne tower detail t.id m fun x hx h => hm (h ▸ List.mem_map_of_mem hx)
  rw [List.foldl_append, List.foldl_cons]
  obtain ⟨y, a, hy, hstops⟩ := State.team_tripTeam ((congrArg Prod.fst hbefore).trans ht) hst
    (by rw [show State.live _ t.id = s.live t.id from congrArg Prod.snd hbefore]; exact hlive) detail
  exact ⟨y, a, (congrArg Prod.fst (hafter _)).trans hy, hstops⟩

/-! ### Towers coming back -/

/-- A tower in its cool time (R306, R311). -/
theorem exec_towerOnline {s : State} {i c : Nat} (h : (s.tower i).coolSince = some c) :
    exec (.towerOnline i) s = .next (if i < 4 && (s.tower i).tripped && c + 2 ^ 24 ≤ s.cyc then
      s.setTower i { s.tower i with online := !(s.tower i).failed, tripped := false, coolSince := none } else s) :=
  (execTowerOnline.eq_1 i s).trans (by rw [h])

/-- Settles O57: by the step an evaluation requires, the fold over the placed teams at a trip, and the hottest sensor. -/
theorem governor : Obligations.Governor := by
  refine ⟨fun s i tmax power _ h => exec_governorEvaluate_other h, fun s i tmax power hi hcyc htmax hpower => ?_, desiredStep_bands, fun s => ?_,
    fun s => rfl, fun s i hi hdef => ⟨fun hround => ?_, fun hround => ?_⟩, fun s sensor temp hsensor htemp hnodup => ?_,
    fun s sensor temp hsensor htemp hwf htripped => ?_, fun s i c hi htripped hcool => ⟨fun hc => ?_, fun hc => ?_⟩⟩
  · refine ⟨_, exec_governorEvaluate hi hcyc htmax hpower, ?_⟩
    rw [State.tower_setTower _ hi]
    refine ⟨rfl, rfl, fun h => Tower.required_top h _ _, fun hlow h hp => ?_, fun hlow h hp hstep => ?_, fun k hk hki => ?_⟩
    · rw [hlow, hp]
      exact Tower.required_byHeat h _
    · rw [hlow, hp]
      exact Tower.required_byPower h _ hstep
    · exact State.tower_setTower_ne _ hk hki _
  · exact ⟨_, rfl, rfl, fun i => congrArg Tower.want (State.tower_mapTowers _ _ i), rfl, rfl⟩
  · rw [exec_govstepDeferredRise, if_pos (by simp only [hi, hdef, hround, decide_true, Bool.and_self])]
    exact ⟨_, rfl, s.tower_setStep hi _⟩
  · rw [exec_govstepDeferredRise, if_neg (by simp [hround])]
  · have htower : sensor / 304 < 4 := by omega
    refine ⟨_, (if_neg (by omega)).trans (if_pos htemp), ?_⟩
    rw [State.tower_setTower _ htower]
    refine ⟨rfl, rfl, rfl, rfl, fun t hmem ht hst hlive => ?_⟩
    exact State.team_foldl_tripTeam (s := s.sense sensor temp) (hnodup.sublist ((List.filter_sublist).map _)) hmem ht hst hlive _
  · have htower : sensor / 304 < 4 := by omega
    refine ⟨_, exec_thermalTrip_below hsensor htemp, SMap.get_set_same _ _ _ _ _ hwf, fun k hk => SMap.get_set_ne _ _ _ _ _ hk, rfl, ?_⟩
    rw [State.tower_setTower _ htower]
    have hhot := State.le_tmaxOf (s := s.sense sensor temp) (tower := sensor / 304) (n := 6080) (by decide)
    refine ⟨rfl, fun h => ?_, fun h => ?_⟩
    · simp [hhot.mpr h]
    · have hcool : ¬6080 ≤ (s.sense sensor temp).tmaxOf (sensor / 304) := by
        rw [hhot]
        rintro ⟨k, hk, hge⟩
        exact absurd (h k hk) (Nat.not_lt.mpr hge)
      simp only [htripped, hcool, Bool.not_true, Bool.false_or, decide_false, Bool.false_eq_true, if_false]
  · rw [exec_towerOnline hcool, if_pos (by simp only [hi, htripped, hc, decide_true, Bool.and_self])]
  · rw [exec_towerOnline hcool, if_neg (by simp only [Nat.not_le.mpr hc, decide_false, Bool.and_false, Bool.false_eq_true, not_false_eq_true])]

end Sys2Proof.Machine
